-- ==== Sys2Proof/Word.lean ====
section
/-!
DEFINITION. Sys2Proof/Word.lean: the word types of the Tsudra 640 (R5 to R12) and nothing else.
-/
namespace Sys2Proof

/-- A byte; memory is little-endian (R7). -/
abbrev Byte := BitVec 8

/-- The 32-bit slot word, vector lane and Virga word. -/
abbrev Word32 := BitVec 32

/-- The 64-bit scalar word of a Sikan cell. -/
abbrev Word64 := BitVec 64

/-- A 16-byte ring slot, key half or nonce. -/
abbrev Word128 := BitVec 128

end Sys2Proof
end

