-- ==== Sys2Proof/Machine/Bits.lean ====
section
/-!
DEFINITION. Sys2Proof/Machine/Bits.lean: the notation of R11 and R12 (bits, sext, zext, sat), byte order (R7) and
the small list helpers that every later file uses.
-/
namespace Sys2Proof.Machine

/-- `bits(x, hi, lo)` of R12 on a natural number. -/
def bitsOf (x hi lo : Nat) : Nat := x / 2 ^ lo % 2 ^ (hi + 1 - lo)

/-- One bit of a natural number. -/
def bitOf (x i : Nat) : Bool := x / 2 ^ i % 2 == 1

/-- `sext(x, n)` of R12: the low n bits as a two's-complement integer; 0 for n = 0. -/
def sextInt (x n : Nat) : Int :=
  if n = 0 then 0
  else
    let v := x % 2 ^ n
    if v < 2 ^ (n - 1) then (v : Int) else (v : Int) - (2 ^ n : Nat)

/-- `zext(x, n)` of R12. -/
def zextNat (x n : Nat) : Nat := x % 2 ^ n

/-- The low n bits of an integer, as a natural number. -/
def lowBits (x : Int) (n : Nat) : Nat := (x % ((2 ^ n : Nat) : Int)).toNat

/-- The bounds of an integer type of `w` bits (R223). -/
def intMin (signed : Bool) (w : Nat) : Int := if signed then -((2 ^ (w - 1) : Nat) : Int) else 0

/-- The greatest value of an integer type of `w` bits (R223). -/
def intMax (signed : Bool) (w : Nat) : Int :=
  if signed then ((2 ^ (w - 1) : Nat) : Int) - 1 else ((2 ^ w : Nat) : Int) - 1

/-- `sat(x, type)` of R12 and R223. -/
def satInt (signed : Bool) (w : Nat) (x : Int) : Int :=
  if x < intMin signed w then intMin signed w
  else if intMax signed w < x then intMax signed w
  else x

/-- The value of a `w`-bit pattern of an integer type. -/
def intValue (signed : Bool) (w x : Nat) : Int := if signed then sextInt x w else ((x % 2 ^ w : Nat) : Int)

/-- `a` rounded down to a multiple of `n`. -/
def alignDown (a n : Nat) : Nat := a / n * n

/-- Is `a` a multiple of `n`? -/
def aligned (a n : Nat) : Bool := a % n == 0

/-- The little-endian bytes of a number (R7). -/
def toBytes (x : Nat) : Nat → List Byte
  | 0 => []
  | n + 1 => BitVec.ofNat 8 x :: toBytes (x / 256) n

/-- The number that little-endian bytes stand for (R7). -/
def ofBytes : List Byte → Nat
  | [] => 0
  | b :: bs => b.toNat + 256 * ofBytes bs

/-- `n` bytes of zero. -/
def zeroBytes (n : Nat) : List Byte := List.replicate n 0

/-- The bytes padded with zeros, or cut, to exactly `n`. -/
def fitBytes (bs : List Byte) : Nat → List Byte
  | 0 => []
  | n + 1 =>
    match bs with
    | [] => 0 :: fitBytes [] n
    | b :: r => b :: fitBytes r n

/-- The numbers `a`, `a + step`, … (`n` of them). -/
def stride (a step : Nat) : Nat → List Nat
  | 0 => []
  | n + 1 => a :: stride (a + step) step n

/-- Put element `i` of a list, when it has one. -/
def setAt {α : Type} : List α → Nat → α → List α
  | [], _, _ => []
  | _ :: r, 0, v => v :: r
  | x :: r, i + 1, v => x :: setAt r i v

/-- Remove element `i` of a list, when it has one. -/
def removeAt {α : Type} : List α → Nat → List α
  | [], _ => []
  | _ :: r, 0 => r
  | x :: r, i + 1 => x :: removeAt r i

/-- The first element that satisfies `p`, with its position. -/
def findAt {α : Type} (p : α → Bool) : List α → Nat → Option (Nat × α)
  | [], _ => none
  | x :: r, i => if p x then some (i, x) else findAt p r (i + 1)

/-- The least index below `n`, counted from `i`, that satisfies `p`. -/
def firstIndex (p : Nat → Bool) : Nat → Nat → Option Nat
  | _, 0 => none
  | i, n + 1 => if p i then some i else firstIndex p (i + 1) n

/-- Do all of the `n` numbers from `i` on satisfy `p`? -/
def allIndex (p : Nat → Bool) : Nat → Nat → Bool
  | _, 0 => true
  | i, n + 1 => p i && allIndex p (i + 1) n

/-- The sum of `f` over `n` numbers from `i` on. -/
def sumIndex (f : Nat → Nat) : Nat → Nat → Nat
  | _, 0 => 0
  | i, n + 1 => f i + sumIndex f (i + 1) n

/-- Fold over the `n` numbers from `i` on, in ascending order. -/
def foldIndex {σ : Type} (f : σ → Nat → σ) : σ → Nat → Nat → σ
  | s, _, 0 => s
  | s, i, n + 1 => foldIndex f (f s i) (i + 1) n

/-- The number whose bit `i` is `p i`, for `i` below `n`. -/
def maskOf (p : Nat → Bool) : Nat → Nat
  | 0 => 0
  | n + 1 => maskOf p n + (if p n then 2 ^ n else 0)

/-- How many bits of `x` below `n` are 1. -/
def popCount (x : Nat) : Nat → Nat
  | 0 => 0
  | n + 1 => popCount x n + (if bitOf x n then 1 else 0)

/-- How many leading zero bits an `n`-bit value has. -/
def leadingZeros (x : Nat) : Nat → Nat
  | 0 => 0
  | n + 1 => if bitOf x n then 0 else leadingZeros x n + 1

/-- A Bool as the bit 0 or 1. -/
def bit01 (b : Bool) : Nat := if b then 1 else 0

end Sys2Proof.Machine
end

