-- ==== Sys2Proof/Machine/Num.lean ====
section
/-!
DEFINITION. Sys2Proof/Machine/Num.lean: number formats, rounding and conversions (R223 to R236, R240).
An exact finite value is a sign and a magnitude num / den * 2^e, so nothing is rounded before the one rounding that a
rule names.
-/
namespace Sys2Proof.Machine

/-- The floating-point formats of R226. -/
inductive FFmt where
  | f32 | bf16 | e4m3 | e5m2 | e2m1 | e3m5
  deriving DecidableEq, Repr

/-- An integer format of R223: `.i` (signed) or `.n`, of a width in bits. -/
structure IFmt where
  signed : Bool
  width : Nat
  deriving DecidableEq, Repr

/-- Any format of R223 and R226. -/
inductive Fmt where
  | int (i : IFmt)
  | flt (f : FFmt)
  deriving DecidableEq, Repr

/-- Rounding modes of R231. -/
inductive RMode where
  | rne | rtz | rdn | rup | rsr
  deriving DecidableEq, Repr

/-- The accrued flags of FMTCTL (R231), in the order of bits 8 to 12. -/
structure FpFlags where
  nx : Bool
  uf : Bool
  ovf : Bool
  dz : Bool
  nv : Bool
  deriving DecidableEq, Repr

/-- A floating-point datum read exactly: a NaN, an infinity, or (-1)^neg * m * 2^e. -/
inductive FVal where
  | nan
  | inf (neg : Bool)
  | fin (neg : Bool) (m : Nat) (e : Int)
  deriving DecidableEq, Repr

/-- What one floating-point operation gives: the code of the result format, its flags, and whether it called `round`
(R234: in RSR such a call steps the lane's generator). -/
structure FpRes where
  code : Nat
  flags : FpFlags
  rounded : Bool
  deriving DecidableEq, Repr

/-- The controls of FMTCTL that an operation rounds under (R231), with the draw of the lane's generator (R234). -/
structure FpCtl where
  rm : RMode
  sat8 : Bool
  ftz : Bool
  draw : Nat
  deriving DecidableEq, Repr

/-- No flag. -/
def fpNone : FpFlags := ⟨false, false, false, false, false⟩

/-- NV alone (R231). -/
def fpNV : FpFlags := ⟨false, false, false, false, true⟩

/-- DZ alone (R231). -/
def fpDZ : FpFlags := ⟨false, false, false, true, false⟩

/-- The OR of two flag sets (R231). -/
def fpOr (a b : FpFlags) : FpFlags :=
  ⟨a.nx || b.nx, a.uf || b.uf, a.ovf || b.ovf, a.dz || b.dz, a.nv || b.nv⟩

/-- The flags as bits [12:8] of FMTCTL, in bit 0 to 4 (R231). -/
def fpFlagBits (a : FpFlags) : Nat :=
  bit01 a.nx + 2 * bit01 a.uf + 4 * bit01 a.ovf + 8 * bit01 a.dz + 16 * bit01 a.nv

/-- RM of R231; 5 to 7 act as RNE. -/
def rmodeOf (n : Nat) : RMode :=
  match n with
  | 1 => .rtz
  | 2 => .rdn
  | 3 => .rup
  | 4 => .rsr
  | _ => .rne

/-- RNE with no flag control: the rounding of R88, R166 and R237, which FMTCTL does not reach. -/
def plainCtl : FpCtl := ⟨.rne, false, false, 0⟩

/-- Width of a floating-point code (R226). -/
def ffWidth : FFmt → Nat
  | .f32 => 32
  | .bf16 => 16
  | .e4m3 => 8
  | .e5m2 => 8
  | .e2m1 => 4
  | .e3m5 => 8

/-- Exponent field width (R226). -/
def ffExpBits : FFmt → Nat
  | .f32 => 8
  | .bf16 => 8
  | .e4m3 => 4
  | .e5m2 => 5
  | .e2m1 => 2
  | .e3m5 => 3

/-- Mantissa field width (R226). -/
def ffManBits : FFmt → Nat
  | .f32 => 23
  | .bf16 => 7
  | .e4m3 => 3
  | .e5m2 => 2
  | .e2m1 => 1
  | .e3m5 => 5

/-- Bias (R226). -/
def ffBias : FFmt → Nat
  | .f32 => 127
  | .bf16 => 127
  | .e4m3 => 7
  | .e5m2 => 15
  | .e2m1 => 1
  | .e3m5 => 3

/-- Does the format have infinities (R227)? -/
def ffHasInf : FFmt → Bool
  | .f32 => true
  | .bf16 => true
  | .e5m2 => true
  | .e4m3 => false
  | .e2m1 => false
  | .e3m5 => false

/-- The largest finite positive code (R226, R227). -/
def ffMaxCode : FFmt → Nat
  | .f32 => 0x7F7FFFFF
  | .bf16 => 0x7F7F
  | .e5m2 => 0x7B
  | .e4m3 => 0x7E
  | .e2m1 => 0x7
  | .e3m5 => 0xFE

/-- The canonical NaN written (R227); E2M1 has none and R236 gives it +0. -/
def ffNaN : FFmt → Nat
  | .f32 => 0x7FC00000
  | .bf16 => 0x7FC0
  | .e5m2 => 0x7E
  | .e4m3 => 0x7F
  | .e2m1 => 0
  | .e3m5 => 0xFF

/-- The positive infinity code, where the format has one. -/
def ffInf (f : FFmt) : Nat := (2 ^ ffExpBits f - 1) * 2 ^ ffManBits f

/-- The sign bit as a number; E3M5 has none (R227). -/
def ffSign (f : FFmt) (neg : Bool) : Nat :=
  match f with
  | .e3m5 => 0
  | _ => if neg then 2 ^ (ffWidth f - 1) else 0

/-- Is a code a NaN (R227)? -/
def ffIsNaN (f : FFmt) (code : Nat) : Bool :=
  let mag := code % 2 ^ (ffExpBits f + ffManBits f)
  match f with
  | .f32 => decide (ffInf .f32 < mag)
  | .bf16 => decide (ffInf .bf16 < mag)
  | .e5m2 => decide (ffInf .e5m2 < mag)
  | .e4m3 => mag == 0x7F
  | .e2m1 => false
  | .e3m5 => mag == 0xFF

/-- The datum a code stands for (R226 to R228). -/
def ffDecode (f : FFmt) (code : Nat) : FVal :=
  let m := code % 2 ^ ffManBits f
  let e := code / 2 ^ ffManBits f % 2 ^ ffExpBits f
  let neg := match f with
    | .e3m5 => false
    | _ => bitOf code (ffWidth f - 1)
  if ffIsNaN f code then .nan
  else if ffHasInf f && e == 2 ^ ffExpBits f - 1 then .inf neg
  else if e = 0 then .fin neg m (1 - (ffBias f : Int) - (ffManBits f : Int))
  else .fin neg (m + 2 ^ ffManBits f) ((e : Int) - (ffBias f : Int) - (ffManBits f : Int))

/-- A datum read by a scalar or vector operation: FTZ takes an F32 or BF16 subnormal as zero (R232). -/
def ffRead (f : FFmt) (ftz : Bool) (code : Nat) : FVal :=
  match ffDecode f code with
  | .fin neg m e =>
    if ftz && (f == .f32 || f == .bf16) && decide (m < 2 ^ ffManBits f) then .fin neg 0 e else .fin neg m e
  | v => v

/-- Scale num / den by a power of two, keeping both natural. -/
def scaleFrac (num den : Nat) (e : Int) : Nat × Nat :=
  match e with
  | .ofNat k => (num * 2 ^ k, den)
  | .negSucc k => (num, den * 2 ^ (k + 1))

/-- floor(log2(num / den)) for num and den positive. -/
def log2Frac (num den : Nat) : Int :=
  let k : Int := (Nat.log2 num : Int) - (Nat.log2 den : Int)
  let (a, b) := scaleFrac num den (-k)
  if a < b then k - 1 else k

/-- The choice of R233 between lo and hi: does an inexact value with the quotient `q`, remainder `r` and divisor `d`
move to hi? -/
def roundsUp (ctl : FpCtl) (neg : Bool) (q r d : Nat) : Bool :=
  match ctl.rm with
  | .rne => decide (d < 2 * r) || (decide (2 * r = d) && q % 2 == 1)
  | .rtz => false
  | .rdn => neg
  | .rup => !neg
  | .rsr => decide (2 ^ 24 ≤ r * 2 ^ 24 / d + ctl.draw)

/-- The rule of R235 for a rounded magnitude above the largest finite value. -/
def overflowCode (f : FFmt) (ctl : FpCtl) (neg : Bool) : Nat :=
  let away := match ctl.rm with
    | .rne => true
    | .rsr => true
    | .rtz => false
    | .rdn => neg
    | .rup => !neg
  let top := ffSign f neg
  match f with
  | .f32 => if away then top + ffInf .f32 else top + ffMaxCode .f32
  | .bf16 => if away then top + ffInf .bf16 else top + ffMaxCode .bf16
  | .e5m2 => if away && !ctl.sat8 then top + ffInf .e5m2 else top + ffMaxCode .e5m2
  | .e4m3 => if away && !ctl.sat8 then ffNaN .e4m3 else top + ffMaxCode .e4m3
  | .e2m1 => top + ffMaxCode .e2m1
  | .e3m5 => ffMaxCode .e3m5

/-- The code of the magnitude q * 2^x, where q has at most one bit more than the mantissa and x is its quantum. -/
def packMag (f : FFmt) (q : Nat) (x : Int) : Nat :=
  if q < 2 ^ ffManBits f then q
  else ((x + (ffManBits f : Int) + (ffBias f : Int)).toNat) * 2 ^ ffManBits f + (q - 2 ^ ffManBits f)

/-- round(x, fmt, mode) of R233 with R232 and R235, for x = (-1)^neg * num / den * 2^e (den positive). -/
def roundTo (f : FFmt) (ctl : FpCtl) (neg : Bool) (num den : Nat) (e : Int) : FpRes :=
  if num = 0 then ⟨ffSign f neg, fpNone, true⟩
  else
    let mb := ffManBits f
    let lead := log2Frac num den + e
    let x := max lead (1 - (ffBias f : Int)) - (mb : Int)
    let (a, b) := scaleFrac num den (e - x)
    let q := a / b
    let r := a % b
    let inexact := decide (r ≠ 0)
    let q1 := if inexact && roundsUp ctl neg q r b then q + 1 else q
    let (q2, x2) := if q1 = 2 ^ (mb + 1) then (2 ^ mb, x + 1) else (q1, x)
    let mag := packMag f q2 x2
    if ffMaxCode f < mag then ⟨overflowCode f ctl neg, ⟨true, false, true, false, false⟩, true⟩
    else
      let tiny := decide (q2 < 2 ^ mb)
      if ctl.ftz && (f == .f32 || f == .bf16) && tiny && decide (q2 ≠ 0) then
        ⟨ffSign f neg, ⟨true, true, false, false, false⟩, true⟩
      else ⟨ffSign f neg + mag, ⟨inexact, inexact && tiny, false, false, false⟩, true⟩

/-- A result that no `round` made. -/
def exactRes (code : Nat) (fl : FpFlags) : FpRes := ⟨code, fl, false⟩

/-- The canonical NaN with NV (R227, R240). -/
def nanRes (f : FFmt) : FpRes := exactRes (ffNaN f) fpNV

/-- A signed infinity. -/
def infRes (f : FFmt) (neg : Bool) : FpRes := exactRes (ffSign f neg + ffInf f) fpNone

/-- The signed sum of two finite magnitudes at a common exponent: an integer and the exponent. -/
def alignSum (na : Bool) (ma : Nat) (ea : Int) (nb : Bool) (mb : Nat) (eb : Int) : Int × Int :=
  let e := min ea eb
  let a : Int := (ma * 2 ^ (ea - e).toNat : Nat)
  let b : Int := (mb * 2 ^ (eb - e).toNat : Nat)
  ((if na then -a else a) + (if nb then -b else b), e)

/-- round of the exact sum of two finite terms, with the zero signs of R233 and R240. -/
def roundSum (f : FFmt) (ctl : FpCtl) (na : Bool) (ma : Nat) (ea : Int) (nb : Bool) (mb : Nat) (eb : Int) : FpRes :=
  let (t, e) := alignSum na ma ea nb mb eb
  if t = 0 then
    let neg := if ma = 0 ∧ mb = 0 ∧ na = nb then na else decide (ctl.rm = .rdn)
    roundTo f ctl neg 0 1 e
  else roundTo f ctl (decide (t < 0)) t.natAbs 1 e

/-- x + y on data (R240). -/
def addVal (f : FFmt) (ctl : FpCtl) (x y : FVal) : FpRes :=
  match x, y with
  | .nan, _ => nanRes f
  | _, .nan => nanRes f
  | .inf a, .inf b => if a = b then infRes f a else nanRes f
  | .inf a, .fin .. => infRes f a
  | .fin .., .inf b => infRes f b
  | .fin na ma ea, .fin nb mb eb => roundSum f ctl na ma ea nb mb eb

/-- The datum with the other sign. -/
def negVal : FVal → FVal
  | .nan => .nan
  | .inf n => .inf (!n)
  | .fin n m e => .fin (!n) m e

/-- x * y + z on data, rounded once (R240, R300, R323). -/
def fmaVal (f : FFmt) (ctl : FpCtl) (x y z : FVal) : FpRes :=
  match x, y, z with
  | .nan, _, _ => nanRes f
  | _, .nan, _ => nanRes f
  | _, _, .nan => nanRes f
  | .inf a, .inf b, z => fmaInf (a != b) z
  | .inf a, .fin b m _, z => if m = 0 then nanRes f else fmaInf (a != b) z
  | .fin a m _, .inf b, z => if m = 0 then nanRes f else fmaInf (a != b) z
  | .fin _ _ _, .fin _ _ _, .inf c => infRes f c
  | .fin na ma ea, .fin nb mb eb, .fin nc mc ec => roundSum f ctl (na != nb) (ma * mb) (ea + eb) nc mc ec
where
  /-- An infinite product plus z. -/
  fmaInf (neg : Bool) : FVal → FpRes
    | .inf c => if c = neg then infRes f neg else nanRes f
    | _ => infRes f neg

/-- x * y on data (R240). -/
def mulVal (f : FFmt) (ctl : FpCtl) (x y : FVal) : FpRes :=
  match x, y with
  | .nan, _ => nanRes f
  | _, .nan => nanRes f
  | .inf a, .inf b => infRes f (a != b)
  | .inf a, .fin b m _ => if m = 0 then nanRes f else infRes f (a != b)
  | .fin a m _, .inf b => if m = 0 then nanRes f else infRes f (a != b)
  | .fin na ma ea, .fin nb mb eb => roundTo f ctl (na != nb) (ma * mb) 1 (ea + eb)

/-- x / y on data (R240). -/
def divVal (f : FFmt) (ctl : FpCtl) (x y : FVal) : FpRes :=
  match x, y with
  | .nan, _ => nanRes f
  | _, .nan => nanRes f
  | .inf _, .inf _ => nanRes f
  | .inf a, .fin b _ _ => infRes f (a != b)
  | .fin a _ _, .inf b => exactRes (ffSign f (a != b)) fpNone
  | .fin na ma ea, .fin nb mb eb =>
    if mb = 0 then
      if ma = 0 then nanRes f else exactRes (ffSign f (na != nb) + ffInf f) fpDZ
    else roundTo f ctl (na != nb) ma mb (ea - eb)

/-- The integer square root, by a bit-by-bit search of `k` bits. -/
def sqrtBits (n : Nat) : Nat → Nat → Nat
  | 0, acc => acc
  | k + 1, acc =>
    let t := acc + 2 ^ k
    if t * t ≤ n then sqrtBits n k t else sqrtBits n k acc

/-- sqrt on data, correctly rounded (R335): the root is taken with far more bits than any format keeps, and an inexact
root is given half a unit of that last bit, which keeps it on its side of every tie and every draw. -/
def sqrtVal (f : FFmt) (ctl : FpCtl) (x : FVal) : FpRes :=
  match x with
  | .nan => nanRes f
  | .inf n => if n then nanRes f else infRes f false
  | .fin n m e =>
    if m = 0 then roundTo f ctl n 0 1 0
    else if n then nanRes f
    else
      let (m1, e1) := if e % 2 = 0 then (m, e) else (2 * m, e - 1)
      let big := m1 * 2 ^ 160
      let r := sqrtBits big 96 0
      if r * r = big then roundTo f ctl false r 1 (e1 / 2 - 80)
      else roundTo f ctl false (2 * r + 1) 2 (e1 / 2 - 80)

/-- Compare two finite magnitudes m * 2^e. -/
def ltMag (ma : Nat) (ea : Int) (mb : Nat) (eb : Int) : Bool :=
  let e := min ea eb
  decide (ma * 2 ^ (ea - e).toNat < mb * 2 ^ (eb - e).toNat)

/-- x < y for two data that are not NaN; -0 equals +0 (R297). -/
def ltVal : FVal → FVal → Bool
  | .nan, _ => false
  | _, .nan => false
  | .inf a, .inf b => a && !b
  | .inf a, .fin .. => a
  | .fin .., .inf b => !b
  | .fin na ma ea, .fin nb mb eb =>
    if ma = 0 ∧ mb = 0 then false
    else if na then (if nb then ltMag mb eb ma ea else true)
    else if nb then false
    else ltMag ma ea mb eb

/-- Is the datum a NaN? -/
def isNaNVal : FVal → Bool
  | .nan => true
  | _ => false

/-- The sign of a datum. -/
def signVal : FVal → Bool
  | .nan => false
  | .inf n => n
  | .fin n _ _ => n

/-- The total order of minimum and maximum: -0 below +0 (R300). -/
def beforeVal (x y : FVal) : Bool :=
  if ltVal x y then true
  else if ltVal y x then false
  else signVal x && !signVal y

/-- A code after the input flush of R232. -/
def flushCode (f : FFmt) (ftz : Bool) (code : Nat) : Nat :=
  match ffRead f ftz code with
  | .fin neg 0 _ => ffSign f neg
  | _ => code

/-- The smaller (or greater) of two codes, exactly; any NaN gives the canonical NaN and NV (R300, R319). -/
def minMaxCode (f : FFmt) (ftz greater : Bool) (x y : Nat) : FpRes :=
  let a := ffRead f ftz x
  let b := ffRead f ftz y
  if isNaNVal a || isNaNVal b then nanRes f
  else
    let takeX := if greater then !beforeVal a b else !beforeVal b a
    exactRes (flushCode f ftz (if takeX then x else y)) fpNone

/-- The condition codes of a floating-point compare: 0 eq, 1 ne, 2 lt, 3 ge, 4 le, 5 gt, 6 un (R275, R297). -/
def fcmpVal (cond : Nat) (x y : FVal) : Bool × FpFlags :=
  if isNaNVal x || isNaNVal y then (cond == 1 || cond == 6, fpNV)
  else
    let lt := ltVal x y
    let gt := ltVal y x
    ((match cond with
      | 0 => !lt && !gt
      | 1 => lt || gt
      | 2 => lt
      | 3 => !lt
      | 4 => !gt
      | 5 => gt
      | _ => false), fpNone)

/-- Does the target hold every value of the source (first row of R236)? -/
def widensExactly (src dst : FFmt) : Bool :=
  match dst with
  | .f32 => true
  | .bf16 => src != .f32
  | .e5m2 => src == .e2m1 || src == .e5m2
  | .e4m3 => src == .e2m1 || src == .e4m3
  | .e2m1 => src == .e2m1
  | .e3m5 => false

/-- A finite value rounded to an integer and saturated (R236). -/
def roundToInt (i : IFmt) (ctl : FpCtl) (neg : Bool) (m : Nat) (e : Int) : FpRes :=
  let (a, b) := scaleFrac m 1 e
  let q := a / b
  let r := a % b
  let inexact := decide (r ≠ 0)
  let q1 := if inexact && roundsUp ctl neg q r b then q + 1 else q
  let v : Int := if neg then -(q1 : Int) else (q1 : Int)
  let w := satInt i.signed i.width v
  if w = v then ⟨lowBits v i.width, ⟨inexact, false, false, false, false⟩, true⟩
  else ⟨lowBits w i.width, fpNV, true⟩

/-- An infinity into an integer type (R236): in RSR it steps the generator as every float-to-integer conversion does (R234). -/
def infToInt (i : IFmt) (neg : Bool) : FpRes :=
  ⟨lowBits (if neg then intMin i.signed i.width else intMax i.signed i.width) i.width, fpNV, true⟩

/-- An infinity into a floating-point format (R236). -/
def infTo (dst : FFmt) (ctl : FpCtl) (neg : Bool) : FpRes :=
  match dst with
  | .e4m3 => exactRes (if ctl.sat8 then ffSign .e4m3 neg + ffMaxCode .e4m3 else ffNaN .e4m3) fpNone
  | .e2m1 => exactRes (ffSign .e2m1 neg + ffMaxCode .e2m1) fpNone
  | .e3m5 => if neg then exactRes 0 fpNV else exactRes (ffMaxCode .e3m5) fpNone
  | f => infRes f neg

/-- Is the rule of R236 for a conversion between floating-point formats round(x, to, RM)? It then steps a generator in RSR
whatever the datum (R234, log 48). -/
def convRounds (src dst : FFmt) : Bool := dst != .e3m5 && !widensExactly src dst

/-- A datum of a floating-point source into a floating-point target (R236). -/
def floatToFloat (src dst : FFmt) (ctl : FpCtl) (x : FVal) : FpRes :=
  match x with
  | .nan => { nanRes dst with rounded := convRounds src dst }
  | .inf n => { infTo dst ctl n with rounded := convRounds src dst }
  | .fin n m e =>
    match dst with
    | .e3m5 =>
      if m = 0 then exactRes 0 fpNone
      else if n then exactRes 0 fpNV
      else roundTo .e3m5 ctl false m 1 e
    | f =>
      if widensExactly src f then { roundTo f { ctl with rm := .rne } n m 1 e with rounded := false }
      else roundTo f ctl n m 1 e

/-- Conversion between any two formats (R236); an integer to integer conversion wraps. -/
def convertCode (src dst : Fmt) (ctl : FpCtl) (code : Nat) : FpRes :=
  match src, dst with
  | .int i, .int j => exactRes (lowBits (intValue i.signed i.width code) j.width) fpNone
  | .int i, .flt f =>
    let v := intValue i.signed i.width code
    match f with
    | .e3m5 =>
      if v < 0 then ⟨0, fpNV, true⟩ else roundTo .e3m5 ctl false v.natAbs 1 0
    | f => roundTo f ctl (decide (v < 0)) v.natAbs 1 0
  | .flt f, .int j =>
    match ffRead f ctl.ftz code with
    | .nan => ⟨0, fpNV, true⟩
    | .inf n => infToInt j n
    | .fin n m e => roundToInt j ctl n m e
  | .flt f, .flt g => floatToFloat f g ctl (ffRead f ctl.ftz code)

/-- The step of one stochastic-rounding generator (R234). -/
def genStep (g : BitVec 32) : BitVec 32 :=
  let a := g ^^^ (g <<< 13)
  let b := a ^^^ (a >>> 17)
  b ^^^ (b <<< 5)

/-- The 24 random bits of a stepped generator (R234). -/
def genDraw (g : BitVec 32) : Nat := g.toNat / 256

/-- The state of the generator of a lane after seeding (R234). -/
def genSeed (seed team cell lane : Nat) : BitVec 32 :=
  let z := (seed + 0x9E3779B9 * (64 * (16 * team + cell) + lane + 1)) % 2 ^ 32
  BitVec.ofNat 32 (if z = 0 then 0x6D2B79F5 else z)

/-- Integer quotient of R224 on values; `sat` is the .s form. -/
def divInt (signed : Bool) (w : Nat) (sat : Bool) (a b : Int) : Int :=
  if b = 0 then
    if signed then (if a < 0 then intMin true w else intMax true w) else intMax false w
  else
    let q := Int.tdiv a b
    if sat then satInt signed w q else q

/-- Integer remainder of R224. -/
def remInt (a b : Int) : Int := if b = 0 then a else Int.tmod a b

/-- The 14 formats by the code of a descriptor's FMT field (R177). -/
def fmtOfCode (n : Nat) : Option Fmt :=
  match n with
  | 0 => some (.int ⟨true, 8⟩)
  | 1 => some (.int ⟨true, 16⟩)
  | 2 => some (.int ⟨true, 32⟩)
  | 3 => some (.int ⟨true, 64⟩)
  | 4 => some (.int ⟨false, 8⟩)
  | 5 => some (.int ⟨false, 16⟩)
  | 6 => some (.int ⟨false, 32⟩)
  | 7 => some (.int ⟨false, 64⟩)
  | 8 => some (.flt .f32)
  | 9 => some (.flt .bf16)
  | 10 => some (.flt .e4m3)
  | 11 => some (.flt .e5m2)
  | 12 => some (.flt .e2m1)
  | 13 => some (.flt .e3m5)
  | _ => none

/-- The element types of a vector instruction by the type code T (R285). -/
def typeOfCode (n : Nat) : Option Fmt :=
  match n with
  | 0 => some (.flt .f32)
  | 1 => some (.flt .bf16)
  | 2 => some (.int ⟨true, 32⟩)
  | 3 => some (.int ⟨false, 32⟩)
  | 4 => some (.int ⟨true, 16⟩)
  | 5 => some (.int ⟨false, 16⟩)
  | 6 => some (.int ⟨true, 8⟩)
  | 7 => some (.int ⟨false, 8⟩)
  | 8 => some (.flt .e4m3)
  | 9 => some (.flt .e5m2)
  | 10 => some (.flt .e2m1)
  | 11 => some (.flt .e3m5)
  | _ => none

/-- Width in bits of a format. -/
def fmtBits : Fmt → Nat
  | .int i => i.width
  | .flt f => ffWidth f

end Sys2Proof.Machine
end

