-- ==== Sys2Proof/Machine/Tbl.lean ====
section
/-!
DEFINITION. Sys2Proof/Machine/Tbl.lean: the sparse table that holds memory, register files and every numbered
collection of the machine, in one canonical form: keys strictly rising, and no entry equal to what an unlisted key
reads as.
-/
namespace Sys2Proof.Machine

/-- A table from numbers to values; an unlisted key reads as the default its reader gives. -/
abbrev Tbl (α : Type) := List (Nat × α)

/-- The value at a key, `d` when the key is not listed. -/
def tblGet {α : Type} (d : α) : Tbl α → Nat → α
  | [], _ => d
  | (k, v) :: r, i => if k = i then v else tblGet d r i

/-- The table without a key. -/
def tblErase {α : Type} : Tbl α → Nat → Tbl α
  | [], _ => []
  | (k, v) :: r, i => if k = i then tblErase r i else (k, v) :: tblErase r i

/-- Put a new key before the first greater key. -/
def tblInsert {α : Type} : Tbl α → Nat → α → Tbl α
  | [], i, x => [(i, x)]
  | (k, v) :: r, i, x => if i < k then (i, x) :: (k, v) :: r else (k, v) :: tblInsert r i x

/-- Write a value at a key; writing the default removes the entry. -/
def tblSet {α : Type} [DecidableEq α] (d : α) (t : Tbl α) (i : Nat) (x : α) : Tbl α :=
  if x = d then tblErase t i else tblInsert (tblErase t i) i x

/-- Apply a function to the value at a key. -/
def tblModify {α : Type} [DecidableEq α] (d : α) (t : Tbl α) (i : Nat) (f : α → α) : Tbl α :=
  tblSet d t i (f (tblGet d t i))

/-- Keys strictly rising, all above `lo`. -/
def tblRising {α : Type} : Option Nat → Tbl α → Bool
  | _, [] => true
  | none, (k, _) :: r => tblRising (some k) r
  | some lo, (k, _) :: r => decide (lo < k) && tblRising (some k) r

/-- No entry holds the default. -/
def tblNoDefault {α : Type} [DecidableEq α] (d : α) : Tbl α → Bool
  | [] => true
  | (_, v) :: r => (!decide (v = d)) && tblNoDefault d r

/-- The canonical form. -/
def tblWf {α : Type} [DecidableEq α] (d : α) (t : Tbl α) : Bool := tblRising none t && tblNoDefault d t

/-- The keys listed. -/
def tblKeys {α : Type} (t : Tbl α) : List Nat := t.map Prod.fst

/-- Remove every entry whose key or value fails the test. -/
def tblFilter {α : Type} (p : Nat → α → Bool) : Tbl α → Tbl α
  | [] => []
  | (k, v) :: r => if p k v then (k, v) :: tblFilter p r else tblFilter p r

/-- The first listed key whose entry satisfies the test. -/
def tblFind {α : Type} (p : Nat → α → Bool) : Tbl α → Option (Nat × α)
  | [] => none
  | (k, v) :: r => if p k v then some (k, v) else tblFind p r

/-- Write a list of values at consecutive keys. -/
def tblSetList {α : Type} [DecidableEq α] (d : α) (t : Tbl α) (i : Nat) : List α → Tbl α
  | [] => t
  | x :: xs => tblSetList d (tblSet d t i x) (i + 1) xs

/-- Read `n` consecutive keys. -/
def tblGetList {α : Type} (d : α) (t : Tbl α) (i : Nat) : Nat → List α
  | 0 => []
  | n + 1 => tblGet d t i :: tblGetList d t (i + 1) n

/-- Change every listed entry of a table. -/
def tblMapAll {α : Type} [DecidableEq α] (d : α) (f : Nat → α → α) (t : Tbl α) : Tbl α :=
  t.foldl (fun r e => tblSet d r e.1 (f e.1 e.2)) t

end Sys2Proof.Machine
end

