-- ==== Sys2Proof/Machine/CellState.lean ====
section
/-!
DEFINITION. Sys2Proof/Machine/CellState.lean: the plain data of one context slot and the cell resident in it: register
files (R277), system registers (R278), banks (R153), accumulators (R163), core cache (R160), rings (R361), copy engine
(R356), matrix sequencer (R372 to R383), outstanding accesses (R200), broadcast state (R171 to R174).
-/
namespace Sys2Proof.Machine

/-- What a trap brings to the trap registers (R242 to R244). -/
structure TrapInfo where
  cause : BitVec 8
  addr : BitVec 64
  src : BitVec 4
  opid : BitVec 16
  info : BitVec 32
  engine : Bool
  deriving DecidableEq, Repr

/-- An entry of the queue of deferred traps (R246); of a fault of an engine operation its place in issue order (R307). -/
structure Deferred where
  trap : TrapInfo
  order : Option Nat
  deriving DecidableEq, Repr

/-- Cell states of R135. -/
inductive CellRun where
  | run | wait | stopped | halted
  deriving DecidableEq, Repr

/-- Bank modes of R153, by the code of BANKMAP and BANKCFG. -/
inductive BankMode where
  | off | spad | cache | plane
  deriving DecidableEq, Repr

/-- One bank: allocated (R132), its mode, its live extent (R157), and, when its bytes are not architected (R155), the
tag under which the free bytes stand. -/
structure Bank where
  alloc : Bool
  mode : BankMode
  extent : Nat
  stale : Option Nat
  deriving DecidableEq, Repr

/-- A plane region (R132, R164): collision rule by its code and step group. -/
structure Region where
  rule : BitVec 3
  group : BitVec 3
  deriving DecidableEq, Repr

/-- One line of the core cache (R160): tag, sector valid and dirty bits, eviction priority, recency rank, data. -/
structure CacheLine where
  tag : Nat
  valid : BitVec 8
  dirty : BitVec 8
  evp : BitVec 2
  rank : Nat
  data : List Byte
  deriving DecidableEq, Repr

/-- The fault mark of a ring slot (R248, R363): the trap, and for a copy operation of the cell its place in issue order. -/
structure Mark where
  order : Option Nat
  trap : TrapInfo
  deriving DecidableEq, Repr

/-- A ring object (R361 to R364): producer kind, base, slot size, log2 of the slot count, counts and fault marks. -/
structure Ring where
  kind : BitVec 3
  base : BitVec 32
  slotSz : Nat
  log2n : Nat
  rp : BitVec 32
  wp : BitVec 32
  marks : Tbl (Option Mark)
  deriving DecidableEq, Repr

/-- A tensor descriptor as the 512 bits of R177. -/
abbrev Desc := BitVec 512

/-- A descriptor with the descriptors of its SCALE chain (R181), taken together at issue (R182). -/
structure DescChain where
  d : Desc
  scale : Option Desc
  band : Option Desc
  deriving DecidableEq, Repr

/-- The channel that a copy operation carries an element of (R367): its number, whether it is a remote send, and for a
local one the receiving cell and its ring. -/
structure ChanSend where
  num : Nat
  remote : Bool
  rcell : Nat
  ring : Nat
  deriving DecidableEq, Repr

/-- A byte that an engine operation has read ahead of the element that it belongs to (R201, R211): its value, was its word
poisoned, and was its whole aligned 4-byte word read with it? -/
structure EarlyByte where
  value : Byte
  poison : Bool
  whole : Bool
  deriving DecidableEq, Repr

/-- One operation of the copy engine (R356 to R360, R367): sequence number, place in issue order, the group that enqueued it
(R211), descriptor snapshots, handles, coordinates, the tile of a remote stream, class, deadline, mode at issue, completion
ring (0 none), flag. While it runs: the elements or chunks performed, the bytes read ahead by address, the first fault,
whether it stops there, for a remote stream the chunk that it stops at (R90), packets not acknowledged, whether its last packet has been sent; and once every element has
performed, whether it was late, and the bytes of a channel element with the 64-bit words of them that are poisoned. -/
structure CopyOp where
  seq : BitVec 16
  order : Nat
  group : Nat
  src : DescChain
  dst : Option DescChain
  handles : BitVec 64
  srcC : BitVec 64
  dstC : BitVec 64
  tile : Option Nat
  cls : BitVec 4
  deadline : BitVec 64
  user : Bool
  ring : Nat
  flag : Option (BitVec 32 × BitVec 64)
  chan : Option ChanSend
  started : Bool
  performed : Tbl Bool
  early : Tbl (Option EarlyByte)
  fault : Option TrapInfo
  stop : Bool
  limit : Option Nat
  unacked : Nat
  sent : Bool
  finished : Option Bool
  buf : List Byte
  bufBad : List Nat
  deriving DecidableEq, Repr

/-- States of a matrix command (R375). -/
inductive CmdRun where
  | waiting | running | faulted
  deriving DecidableEq, Repr

/-- An operand of an MMA as it was read (R385): its handle and format code, the codes of its 64 rows of K elements one
after another, for E2M1 the code of each element's block scale and of each row's band scale, the rows that held a poisoned
word, and the near address of the first such element (R390). -/
structure Operand where
  handle : BitVec 32
  fmt : Nat
  elems : List Nat
  scales : List Nat
  bands : List Nat
  bad : List Nat
  badAddr : Option (BitVec 64)
  deriving DecidableEq, Repr

/-- A matrix command (R372, R383), with the group of its MCALL (R211); of the micro-operation at its index the bytes read ahead
by near address, and the elements of a STACC already written. -/
structure MatCmd where
  id : BitVec 16
  routine : Nat
  order : Nat
  group : Nat
  mp : Tbl (BitVec 64)
  fmtctl : BitVec 64
  descs : Tbl (Option DescChain)
  pred1 : BitVec 16
  pred2 : BitVec 16
  run : CmdRun
  array : Option Bool
  index : Nat
  c : Tbl (BitVec 64)
  lk : Tbl Nat
  sc : BitVec 32
  statB : Option Operand
  gens : Tbl (BitVec 32)
  early : Tbl (Option EarlyByte)
  stored : Tbl Bool
  fault : Option TrapInfo
  deriving DecidableEq, Repr

/-- What an outstanding access does when it performs (R200): a load, the field of one lane of VLDX at a bit offset under
its pattern (R345), a store, an atomic by its opcode less 0x11 (R346). -/
inductive AccKind where
  | load (signed : Bool)
  | field (off : Nat) (pat : BitVec 64)
  | store (data : BitVec 64)
  | amo (op : Nat) (arg : BitVec 64) (cmp : BitVec 64)
  deriving DecidableEq, Repr

/-- The register that an answer fills (R273). -/
inductive AccDest where
  | none
  | s (n : Nat)
  | v (n : Nat) (lane : Nat)
  deriving DecidableEq, Repr

/-- Where an access performs: a physical address under the cache fields of its leaf (R161), a near address of a team cell
(R158, R205), or a window of a peer, once sent on its PDC (R96, R204). -/
inductive AccPlace where
  | phys (pa : Nat) (clvl wpol evp : BitVec 2)
  | near (addr : BitVec 32)
  | window (peer : Nat) (win : Nat) (offset : Nat) (sent : Bool)
  deriving DecidableEq, Repr

/-- The answer of an access that has performed or was refused: its value, poison (R260), and a fault (R98). -/
structure AccAnswer where
  value : BitVec 64
  poison : Bool
  trap : Option TrapInfo
  deriving DecidableEq, Repr

/-- A committed off-core access that has not performed, or has performed and not yet answered (R200, R273); `drains`: it is
a near access that another core issued before the beat on which its tile stopped; `out`: it had left its own tile when that
tile stopped, and performs during the stop (R170, R250). -/
structure Access where
  id : Nat
  group : Nat
  cls : BitVec 4
  size : Nat
  va : BitVec 64
  kind : AccKind
  place : AccPlace
  dest : AccDest
  drains : Bool
  out : Bool
  answered : Option AccAnswer
  deriving DecidableEq, Repr

/-- A slot published by RPUB that waits for room (R365): the ring as named, the bytes, and were they poisoned? -/
structure Pub where
  ring : Nat
  data : List Byte
  poison : Bool
  deriving DecidableEq, Repr

/-- An entry of the BCAST send buffer (R171); `clash`: its beat has passed in a collision, and its event has not yet found
room in the deferred queue (R173, R246). -/
structure Send where
  beat : BitVec 64
  data : List Byte
  poison : Bool
  clash : Bool
  deriving DecidableEq, Repr

/-- What a latch meets on its beat (R172, R173): the data of one sender of its team, nothing, or a collision. -/
inductive Caught where
  | data (bs : List Byte) (poison : Bool)
  | nothing
  | collision
  deriving DecidableEq, Repr

/-- An armed latch (R172): its beat, destination, what it met once its beat has passed, and once it has completed, was its
range filled? LATSTAT shows a completion to groups of the beat after it (R174). -/
structure Latch where
  beat : BitVec 64
  dest : BitVec 32
  caught : Option Caught
  filled : Option Bool
  deriving DecidableEq, Repr

/-- The engine counts of R258 kind 5 and kind 4. -/
structure Recon where
  copyEnq : BitVec 32
  copyDone : BitVec 32
  latchArmed : BitVec 32
  latchDone : BitVec 32
  deriving DecidableEq, Repr

/-- One context slot: who lives in it and all its state. -/
structure Cell where
  -- residency (R130, R134, R137)
  live : Bool
  ctx : Nat
  team : Nat
  cell : Nat
  stage : Nat
  -- R135
  run : CellRun
  issueStopped : Bool
  waitSince : Nat
  waitWord : Option (BitVec 64 × Bool × BitVec 2 × BitVec 64)
  arrived : Bool
  -- arrivals at barriers (true) and step groups that wait for earlier near stores (R214); a group holds up to three (R270)
  arriving : List (Bool × Nat)
  -- when the cell stopped (R251), and whether it is restored and waits for its team (R151)
  stopBeat : BitVec 64
  stopTime : BitVec 64
  held : Bool
  -- program counter (R265); `branched`: reached by a branch (R267); `watchSkip`: R309
  pc : BitVec 64
  branched : Bool
  watchSkip : Bool
  super : Bool
  -- register files (R277)
  s : Tbl (BitVec 64)
  p : Tbl Bool
  v : Tbl (BitVec 32)
  m : Tbl (BitVec 64)
  a : Tbl (BitVec 32)
  mp : Tbl (BitVec 64)
  lc : Tbl (BitVec 64)
  xp : Tbl (BitVec 64)
  -- poison marks (R260): scalars and vectors by register, the other register files by the number of R271, banks and
  -- accumulators by word
  poisonS : Tbl Bool
  poisonV : Tbl Bool
  poisonR : Tbl Bool
  poisonBank : Tbl Bool
  poisonAcc : Tbl Bool
  -- condition queue, head first (R276)
  cq : List Bool
  -- system registers (R278)
  fmtctl : BitVec 64
  gens : Tbl (BitVec 32)
  stepcnt : BitVec 64
  yreq : Bool
  thresh : BitVec 32
  latFilled : Bool
  latColl : Bool
  latBeat : BitVec 16
  evsel : BitVec 64
  evcnt : Tbl (BitVec 64)
  tvec : BitVec 64
  trappc : BitVec 64
  busy : Bool
  pm : Bool
  defer : Bool
  engine : Bool
  cause : BitVec 8
  trapslot : BitVec 8
  trapaddr : BitVec 64
  trapaux : BitVec 64
  watcha : BitVec 64
  watchc : BitVec 64
  -- copy parameters (R355, R357)
  cdead : BitVec 64
  cflag : BitVec 32
  copySeq : BitVec 16
  copies : List CopyOp
  recon : Recon
  -- channels (R367): send counts and unacknowledged sends
  chSent : Tbl Nat
  chUnacked : Tbl Nat
  -- slots published by RPUB that wait for room in their ring (R362, R365)
  pubs : List Pub
  -- rings (R361)
  rings : Tbl Ring
  -- matrix (R372 to R383)
  -- the microprogram store and table; a key not listed holds Dennov's library (R139)
  mucode : Tbl (Option (BitVec 64))
  routines : Tbl (Option (BitVec 32))
  idNext : BitVec 16
  idNewest : BitVec 16
  cmds : List MatCmd
  fring : List (Nat × TrapInfo)
  -- deferred traps (R246), oldest first
  deferred : List Deferred
  -- off-core accesses (R200), oldest first
  accesses : List Access
  -- fences committed (R207): the group of each and the mask of its classes, while an access that it covers is pending
  fences : List (Nat × BitVec 16)
  -- broadcast bus (R171, R172)
  sends : List Send
  latches : List Latch
  -- banks and planes (R153 to R170)
  banks : Tbl Bank
  bytes : Tbl Byte
  selOdd : Tbl Bool
  writer : Tbl Nat
  regions : Tbl (Option Region)
  heldFlips : List Nat
  -- core cache (R160)
  cache : Tbl (Option CacheLine)
  nacc : Nat
  -- group and operation numbers, in issue order
  groupNo : Nat
  opNo : Nat
  accNo : Nat
  deriving DecidableEq, Repr

/-- A ring left unset (R361). -/
def Ring.unset : Ring := ⟨0, 0, 0, 0, 0, 0, []⟩

/-- A bank that is not allocated (R132, R153). -/
def Bank.none : Bank := ⟨false, .off, 0, Option.none⟩

/-- A slot without a cell: every register zero, as the scrub of R263 leaves it. -/
def Cell.empty : Cell where
  live := false
  ctx := 0
  team := 0
  cell := 0
  stage := 0
  run := .run
  issueStopped := false
  waitSince := 0
  waitWord := Option.none
  arrived := false
  arriving := []
  stopBeat := 0
  stopTime := 0
  held := false
  pc := 0
  branched := false
  watchSkip := false
  super := false
  s := []
  p := []
  v := []
  m := []
  a := []
  mp := []
  lc := []
  xp := []
  poisonS := []
  poisonV := []
  poisonR := []
  poisonBank := []
  poisonAcc := []
  cq := []
  fmtctl := 0
  gens := []
  stepcnt := 0
  yreq := false
  thresh := 0
  latFilled := false
  latColl := false
  latBeat := 0
  evsel := 0
  evcnt := []
  tvec := 0
  trappc := 0
  busy := false
  pm := false
  defer := false
  engine := false
  cause := 0
  trapslot := 0
  trapaddr := 0
  trapaux := 0
  watcha := 0
  watchc := 0
  cdead := 0
  cflag := 0
  copySeq := 0
  copies := []
  recon := ⟨0, 0, 0, 0⟩
  chSent := []
  chUnacked := []
  pubs := []
  rings := []
  mucode := []
  routines := []
  idNext := 1
  idNewest := 0
  cmds := []
  fring := []
  deferred := []
  accesses := []
  fences := []
  sends := []
  latches := []
  banks := []
  bytes := []
  selOdd := []
  writer := []
  regions := []
  heldFlips := []
  cache := []
  nacc := 0
  groupNo := 0
  opNo := 0
  accNo := 0

end Sys2Proof.Machine
end

