-- ==== Sys2Proof/Machine/HostState.lean ====
section
/-!
DEFINITION. Sys2Proof/Machine/HostState.lean: the plain data of the package around the cells: Gafin (R103 to R123),
contexts, launches and teams (R127 to R151), saves and restores (R255 to R258), cores (R140, R197), dies (R144, R148,
R186, R198, R261), CXL and Ethernet ports (R27, R48), the root of trust (R124, R125, R256), start-up (R39).
-/
namespace Sys2Proof.Machine

/-- A queue block (R108 to R110). -/
structure Queue where
  en : Bool
  halted : Bool
  prio : BitVec 3
  log2sz : BitVec 5
  base : BitVec 64
  cbase : BitVec 64
  cons : BitVec 32
  haltCause : BitVec 8
  haltIndex : BitVec 32
  notified : BitVec 32
  tries : Nat
  retryAt : Nat
  deriving DecidableEq, Repr

/-- A fetched and accepted command (R110 to R112); `doomed`: CTXKILL has removed its context before it started (R115). -/
structure Cmd where
  queue : Nat
  index : BitVec 32
  lap : BitVec 16
  bytes : List Byte
  doomed : Bool
  deriving DecidableEq, Repr

/-- A started command that has not completed (R115), with what it still needs. -/
structure Running where
  cmd : Cmd
  since : Nat
  doneTo : Nat
  saved : Nat
  deriving DecidableEq, Repr

/-- A host event record before it is written (R121, R122): bytes 24 to 63 hold `body`. -/
structure HostEvent where
  type : BitVec 16
  sub : BitVec 16
  ctx : Option Nat
  body : List Byte
  deriving DecidableEq, Repr

/-- How the host port answers a configuration request (R40): Configuration Request Retry Status, a value read, a write
done. -/
inductive ConfigAnswer where
  | retry
  | value (v : BitVec 32)
  | written
  deriving DecidableEq, Repr

/-- The Gafin registers and rings (R104 to R123). `rr` holds, by priority, one more than the queue served last (R111);
`msix`, `config` and `reads` are what the host port has sent: vectors signalled, answers to configuration requests, bytes
read through the BARs. -/
structure Gafin where
  drvfeat : BitVec 256
  en : Bool
  even : Bool
  ready : Bool
  featerr : Bool
  featok : Bool
  evbase : BitVec 64
  evlog2 : BitVec 32
  evprod : BitVec 32
  evcons : BitVec 32
  evlost : BitVec 32
  evseq : BitVec 32
  evovf : Bool
  evbuf : List (List Byte)
  sembase : BitVec 64
  semcount : BitVec 32
  cnt : Tbl (BitVec 64)
  cntsrc : Tbl (BitVec 32)
  queues : Tbl Queue
  accepted : List Cmd
  running : List Running
  rr : Tbl Nat
  msixMask : Tbl Bool
  msix : List Nat
  bars : Tbl (BitVec 64)
  config : List ConfigAnswer
  reads : List (List Byte)
  deriving DecidableEq, Repr

/-- A launch that is ACTIVE (R127 to R134): the descriptor of R131 and the copies of its tables as read at LAUNCH. -/
structure Launch where
  desc : List Byte
  rings : List Byte
  channels : List Byte
  teams : Nat
  prio : BitVec 3
  powerClass : Nat
  thresh : BitVec 32
  grace : Nat
  queue : Nat
  index : BitVec 32
  deriving DecidableEq, Repr

/-- A context (R114, R176, R190, R254, R256): `killing` is the removal stage of R262 and when it began. -/
structure Context where
  live : Bool
  prot : Bool
  root : BitVec 52
  tdt : BitVec 52
  key : BitVec 256
  savecnt : BitVec 64
  launch : Option Launch
  killing : Option (Nat × Nat)
  killCmd : Option (Nat × BitVec 32)
  deriving DecidableEq, Repr

/-- Team states of R134; `absent` is no team. -/
inductive TeamRun where
  | absent | queued | placed | swapping | swapped | saving | saved | restoring | done | killed
  deriving DecidableEq, Repr

/-- A wake condition of R148. -/
inductive Wake where
  | word (ctx : Nat) (pa : Nat) (cc : BitVec 2) (value : BitVec 64)
  | rcb (n : Nat)
  deriving DecidableEq, Repr

/-- A team with its state block (R134, R142, R143, R168); `planes` holds, by cell, the plane regions that it held as its image
was written (R137). -/
structure Team where
  run : TeamRun
  seats : List Nat
  halted : Nat
  duty : Nat
  dutyNext : Nat
  barriers : Tbl Nat
  steps : Tbl Nat
  stepBeat : Tbl Nat
  idle : Nat
  hung : Bool
  hangLatched : Bool
  queuedAt : Nat
  started : Bool
  wakes : List Wake
  wakeDie : Nat
  counter : Option (BitVec 64)
  restored : Nat
  planes : Tbl (Option Nat)
  deriving DecidableEq, Repr

/-- Why a save runs (R255): a swap, or CTXPREEMPT. -/
inductive SaveKind where
  | swap | preempt
  deriving DecidableEq, Repr

/-- A save in progress (R149, R255): its team, the base of its images, the counter of R256, the cells not yet written, those
written that still hold their slots, those lost, and until when the cells of a grace window run. -/
structure SaveJob where
  ctx : Nat
  team : Nat
  kind : SaveKind
  base : Nat
  savecnt : BitVec 64
  left : List Nat
  written : List Nat
  lost : List Nat
  grace : Option Nat
  queue : Nat
  index : BitVec 32
  deriving DecidableEq, Repr

/-- What an image holds, kept beside its bytes: the scan map's contents are not architected (R252), so a restore takes
them from the record whose bytes the image repeats (log 20). -/
structure ImageRecord where
  bytes : List Byte
  cell : Cell
  team : Option Team
  deriving DecidableEq, Repr

/-- A restore in progress (R257): the cell, where its image stands, the image's length and header as read at the start; a
swapped team's restore has no command. -/
structure RestoreJob where
  ctx : Nat
  team : Nat
  cell : Nat
  base : Nat
  length : Nat
  header : List Byte
  queue : Nat
  index : BitVec 32
  swap : Bool
  deriving DecidableEq, Repr

/-- A TLB entry (R197): context, page number, log2 of the page size, the leaf, and where the leaf stands. -/
structure TlbEntry where
  ctx : Nat
  page : Nat
  size : Nat
  leaf : BitVec 64
  leafAddr : Nat
  deriving DecidableEq, Repr

/-- A send-buffer entry of a cell that has left its slot (R171, R175): the shell still drives it on its beat. -/
structure ShellSend where
  ctx : Nat
  team : Nat
  cell : Nat
  send : Send
  deriving DecidableEq, Repr

/-- A core (R140, R175, R176, R197, R249, R262, R265, R374); `cycle` is one more than the beat of its latest cycle of the merge
stage. -/
structure Core where
  blk : Nat
  stopped : Bool
  fenced : Bool
  parity : Bool
  tlb : List TlbEntry
  icache : Tbl (List Byte)
  arrayX : Option (Nat × BitVec 16)
  arrayY : Option (Nat × BitVec 16)
  turnB : Bool
  dcache : Tbl (Option Desc)
  shell : List ShellSend
  cycle : Nat
  deriving DecidableEq, Repr

/-- Whose write a line of the write-combining store holds (R188, R207, R208): the context and the cell, where there are any,
the ordering class, and whether it is a write-back of the core cache, which is of every class. -/
structure Owner where
  ctx : Option Nat
  key : Option Nat
  cls : BitVec 4
  back : Bool
  deriving DecidableEq, Repr

/-- A line of the write-combining store (R186): its bytes, when it was first written, and whose writes it holds. -/
structure WcLine where
  data : Tbl (Option Byte)
  since : Nat
  owners : List Owner
  deriving DecidableEq, Repr

/-- A die stack: write-combining store, fault buffer, layout-unit TLB, wait monitor, power manager, row-remap state. -/
structure Die where
  lines : Tbl (Option WcLine)
  faults : List (Nat × Nat × BitVec 8)
  tlb : List TlbEntry
  lastThrottle : Nat
  badChannels : Nat
  deriving DecidableEq, Repr

/-- A CXL port (R27 to R29, R189): `requests` holds the accesses that have arrived at its queue and not performed, oldest
first, by cell and access number; the first 2,048 are outstanding at the expander. `resetCmds` are the commands that wait for
its reset. -/
structure CxlPort where
  up : Bool
  resetting : Bool
  capacity : Nat
  reported : Bool
  requests : List (Nat × Nat)
  resetCmds : List (Nat × BitVec 32)
  deriving DecidableEq, Repr

/-- What the root of trust answers over DOE (R125): the code of the request, the answer's bytes, and the values of the
measurements it carries, by number. -/
structure SpdmAnswer where
  code : BitVec 8
  bytes : List Byte
  values : List (Nat × List Byte)
  deriving DecidableEq, Repr

/-- How PTP stands (R36): no Ethernet port is selected yet, the selected one is followed, or it has lost its light and the
rate is held until the host selects another. -/
inductive PtpMode where
  | free | follow | hold
  deriving DecidableEq, Repr

/-- The package's own state (R35 to R40, R113, R124, R259). -/
structure Package where
  phase : Nat
  failed : Bool
  firmware : List Byte
  thermtrip : Bool
  powerLimit : BitVec 64
  gtime : BitVec 64
  gtimeFrac : Nat
  gtrate : BitVec 32
  gtstepDone : Bool
  ptp : PtpMode
  ptpPort : BitVec 64
  ptpofs : BitVec 64
  ptpseq : BitVec 32
  beat : BitVec 64
  udpPort : BitVec 16
  watchdog : BitVec 64
  spdm : List SpdmAnswer
  spdmState : Nat
  deriving DecidableEq, Repr

end Sys2Proof.Machine
end

