-- ==== Sys2Proof/Wire.lean ====
section
/-!
DEFINITION. Sys2Proof/Wire.lean: what an event of the environment brings with it: the data of one occurrence of an
event row of spec/opcode_table.json, as the machine receives it. An occurrence whose data do not fit its row changes
nothing.
-/
namespace Sys2Proof

/-- The header of a received packet (R42, R44, R62, R63): arrival Ethernet port, UDP destination port, source address,
the identity it names, key epoch, what authentication found, whether it asks for an implemented function (R41), whether
a switch trimmed it, whether a switch marked it as meeting congestion (ECN), and the establishment flags with their starting
PSN (R94). A VLAN tag on what is received decides nothing. On what is looped back inside an IO die `port` holds the peer
index (R92). -/
structure Header where
  port : Nat
  udp : BitVec 16
  src : BitVec 128
  ipv4 : Bool
  ctx : BitVec 12
  mode : BitVec 4
  psn : BitVec 32
  epoch : BitVec 16
  intact : Bool
  known : Bool
  trimmed : Bool
  ecn : Bool
  est : Option (BitVec 32)
  deriving DecidableEq, Repr

/-- What a request asks for: RMA write, tagged send, RMA read, atomic. -/
inductive Verb where
  | write | tagged | read | atomic
  deriving DecidableEq, Repr

/-- A received request: RMA key, offset and payload (R69, R96, R99), or for a tagged send its tag and message offset
(R70). `size` is the length of a read; `op` numbers the atomic: 0 add I32, 1 add I64, 2 add F32, 3 compare-and-swap of
64 bits, others none of R99. -/
structure Packet where
  hd : Header
  verb : Verb
  key : BitVec 64
  off : BitVec 64
  size : Nat
  op : Nat
  arg : BitVec 64
  cmp : BitVec 64
  data : List Byte
  deriving DecidableEq, Repr

/-- A received selective acknowledgement (R53, R59, R61): every PSN before `cum`, when it names one, and each PSN of
`sel`, the responses of reads and atomics, the ECN mark, granted credit and the round-trip sample in ns. -/
structure Ack where
  hd : Header
  cum : Option (BitVec 32)
  sel : List (BitVec 32)
  resp : List (BitVec 32 × BitVec 64)
  ecn : Bool
  credit : BitVec 16
  rtt : Nat
  deriving DecidableEq, Repr

/-- The data of one occurrence. -/
inductive Input where
  | none
  | num (n : Nat)
  | pair (a b : Nat)
  | triple (a b c : Nat)
  | bytes (a : Nat) (bs : List Byte)
  | packet (p : Packet)
  | loop (n : Nat)
  | ack (a : Ack)
  | nack (h : Header) (reason : Nat) (win : Nat) (right : Nat)
  | close (h : Header)
  | closeAck (h : Header)
  | command (queue : Nat) (index : BitVec 32) (bs : List Byte)
  deriving DecidableEq, Repr

end Sys2Proof
end

