-- ==== Sys2Proof/Machine/NetState.lean ====
section
/-!
DEFINITION. Sys2Proof/Machine/NetState.lean: the plain data of the transport (R41 to R68), tensor delivery and windows
(R69 to R102), and the Virga cores (R392 to R418).
-/
namespace Sys2Proof.Machine

/-- What a packet carries, so that a retransmission can read its source again (R56): a chunk of a copy operation for one
destination of its list, or a window access of a cell. -/
inductive Carry where
  | chunk (key : Nat) (order : Nat) (dest : Nat) (chunk : Nat)
  | access (key : Nat) (id : Nat)
  deriving DecidableEq, Repr

/-- An unacknowledged packet (R47, R51, R56, R57): the packet without the payload that a retransmission reads again, its
size in bytes, the Ethernet port on which its latest copy left,
selective acknowledgement, and the receiver-not-ready backoff in µs with the time of the next try. -/
structure Sent where
  carry : Carry
  pkt : Packet
  size : Nat
  port : Option Nat
  acked : Bool
  backoff : Nat
  retryAt : Option Nat
  deriving DecidableEq, Repr

/-- A retransmission request (R410): PSN `base` + i for each i listed, in order. -/
structure Retx where
  base : BitVec 32
  left : List Nat
  deriving DecidableEq, Repr

/-- The answer to a packet (R53, R100): acknowledged, perhaps with a value, or a NACK with its reason. -/
inductive Answer where
  | ack (value : Option (BitVec 64))
  | nack (reason : Nat) (win : Nat) (right : Nat)
  deriving DecidableEq, Repr

/-- The latest event of a code that overflowed its queue, with its time and the context that it concerns, and how many it
stands for (R66, R68). -/
structure Coalesced where
  time : BitVec 64
  ctx : Option (BitVec 12)
  psn : BitVec 32
  port : BitVec 7
  aux : BitVec 64
  count : Nat
  deriving DecidableEq, Repr

/-- What a frame that waits for egress carries: a packet, answers with granted credit (R61) and the ECN mark (R42, R59), or one
side of the close exchange. -/
inductive FrameBody where
  | data (p : Packet)
  | answer (psns : List (BitVec 32 × Answer)) (credit : Nat) (ecn : Bool)
  | closeRequest
  | closeAck
  deriving DecidableEq, Repr

/-- A frame selected for an Ethernet port and not yet on the fibre (R42, R49, R50, R62, R94): the next hop's MAC address, the
802.1Q tag where the peer entry has one, the peer's address, the UDP ports, the key epoch, and the cipher text and tag that go
onto the fibre. `body` is what the cipher text encloses. -/
structure Frame where
  pdc : Nat
  hop : BitVec 48
  vlan : Option (BitVec 12)
  dst : BitVec 128
  ipv4 : Bool
  entropy : BitVec 16
  udp : BitVec 16
  epoch : BitVec 16
  body : FrameBody
  cipher : List Byte
  tag : List Byte
  deriving DecidableEq, Repr

/-- A copy operation of a cell whose packets for one destination have reached a PDC, and whether R47 has held one back
(R356). -/
structure Reached where
  key : Nat
  order : Nat
  dest : Nat
  held : Bool
  deriving DecidableEq, Repr

/-- A packet delivery context: the entry of R45, and the sender's and receiver's own records. `entry` is the peer entry
taken at open or at a re-point (R94, R119); `ackEcn`: a packet of the acknowledgements gathered had an ECN mark (R42, R59);
`feeds`: the RCBs that its packets have reached, against which credit is granted (R58, R61). -/
structure Pdc where
  nextPsn : BitVec 32
  unaPsn : BitVec 32
  peer : BitVec 16
  pset : BitVec 12
  ptr : BitVec 6
  cwnd : BitVec 16
  rtous : BitVec 16
  sdom : BitVec 8
  ctx : BitVec 12
  credit : BitVec 16
  evpend : BitVec 16
  mode : BitVec 4
  state : BitVec 4
  ecncnt : BitVec 16
  ccacks : BitVec 8
  ccus : BitVec 8
  entry : BitVec 512
  sent : Tbl (Option Sent)
  timer : Option Nat
  parking : Bool
  retx : List Retx
  est : Bool
  lastUse : Nat
  closeAt : Nat
  ackCount : Nat
  ackBytes : Nat
  rttMin : Nat
  rttLast : Nat
  ccsigAt : Nat
  events : Tbl (Option Coalesced)
  expected : BitVec 32
  rxOpen : Bool
  kept : Tbl (Option Answer)
  acks : List (BitVec 32 × Answer)
  ackSince : Nat
  ackEcn : Bool
  feeds : List Nat
  outbox : List FrameBody
  reached : List Reached
  deriving DecidableEq, Repr

/-- An Ethernet port (R22 to R24, R48). -/
structure EtherPort where
  up : Bool
  admitted : Bool
  deriving DecidableEq, Repr

/-- A security domain (R62, R63): the current epoch, the next epoch with its switch time once its key is installed, the epochs
before with the time of the switch away from each, and of which peers each of them is no longer accepted. The key of an epoch
is what the root of trust derives from the domain and the epoch number (R62), Config.domainKey. -/
structure Domain where
  epoch : BitVec 16
  next : Option (BitVec 16 × BitVec 64)
  old : List (BitVec 16 × Nat)
  ended : List (BitVec 16 × Nat)
  deriving DecidableEq, Repr

/-- A receive control block (R73): `image` holds the RW fields, the others are maintained by the device; the descriptor
of R74, the consumer, the allocation (arrival bits at c * (NCON + 1) + j, completion counters by tile), whether the pad
values of clipped chunks wait for a consumer that is not resident, and the credit granted against it in 256-byte units, the
produced side that the shell keeps (R58, R61). -/
structure Rcb where
  image : BitVec 512
  state : BitVec 3
  core : BitVec 10
  slot : Bool
  gen : BitVec 10
  nchk : Nat
  pend : Nat
  nclip : Nat
  dups : BitVec 24
  tpend : Nat
  fcause : BitVec 8
  desc : Desc
  team : Nat
  cell : Nat
  closedAt : Option Nat
  bitmap : Tbl Bool
  counters : Tbl Nat
  padLater : Bool
  granted : BitVec 32
  deriving DecidableEq, Repr

/-- A tile completion that waits in a home's production queue (R86), faulted when the slot is that of a placement fault
(R83). -/
structure Production where
  rcb : Nat
  tile : Nat
  trap : Option TrapInfo
  deriving DecidableEq, Repr

/-- A window entry (R95): `image` holds the RW fields. -/
structure Window where
  image : BitVec 256
  state : BitVec 2
  gen : BitVec 32
  admitted : BitVec 32
  violcnt : BitVec 32
  deriving DecidableEq, Repr

/-- The transport and delivery state of the two IO dies. `loop` holds what is looped back inside an IO die (R92), `waiting` the
operations that wait for a free PDC index, in issue order (R44). -/
structure Net where
  pdcs : Tbl Pdc
  peers : Tbl (BitVec 512)
  pathsets : Tbl (List (BitVec 32))
  mcast : Tbl (Option (List (BitVec 64)))
  ports : Tbl EtherPort
  domains : Tbl Domain
  rcbs : Tbl Rcb
  prod : List Production
  windows : Tbl Window
  egress : Tbl (List Frame)
  loop : List Input
  waiting : List Carry
  deriving DecidableEq, Repr

/-- An event record (R66). -/
structure EventRec where
  code : BitVec 8
  coal : Bool
  ovf : Bool
  eport : BitVec 7
  pdc : BitVec 16
  ctx : Option (BitVec 12)
  time : BitVec 64
  psn : BitVec 32
  count : BitVec 32
  aux : BitVec 64
  deriving DecidableEq, Repr

/-- A Virga timer (R407): deadline 0 is disabled; expiries since the last TIMER record was taken. -/
structure VTimer where
  deadline : BitVec 64
  period : BitVec 64
  expiries : Nat
  deriving DecidableEq, Repr

/-- Running, waiting inside an instruction (R406, R410), or stopped (R405). -/
inductive VirgaRun where
  | run | wait | stopped
  deriving DecidableEq, Repr

/-- A Virga core (R392 to R397, R406 to R411): `image` is the firmware image whose IMEM and DMEM it loaded; `imem` and
`dmem` hold what differs from it. -/
structure Virga where
  run : VirgaRun
  g : Tbl (BitVec 64)
  pc : Nat
  vtvec : BitVec 64
  vepc : BitVec 64
  vcause : BitVec 64
  vtval : BitVec 64
  vcyc : BitVec 64
  image : Option (List Byte)
  imem : Tbl (BitVec 32)
  dmem : Tbl Byte
  queue : List EventRec
  ovf : Bool
  ovfw : BitVec 16
  events : Tbl (Option Coalesced)
  losMask : BitVec 128
  clrMask : BitVec 16
  timers : Tbl VTimer
  cursors : Tbl (Option (Nat × BitVec 32))
  deriving DecidableEq, Repr

end Sys2Proof.Machine
end

