-- ==== Sys2Proof/Config.lean ====
section
/-!
DEFINITION. Sys2Proof/Config.lean: what an implementation or Dennov fixes and the manual does not give. Each is an opaque
constant with no body, so no proof can rest on a value of it; a statement holds whatever it is.
-/
namespace Sys2Proof.Config

/-- A free byte: the bytes that a bank holds in no architected arrangement (R155), by the tag under which they were left
and their offset (log 6). -/
opaque staleByte : Nat → Nat → BitVec 8

/-- A free choice between `n` possibilities, by the model's counter (log 7): which free PDC an opening takes (R44), which
entry of a full structure is replaced (R176, R197, R265). -/
opaque choose : Nat → Nat → Nat

/-- A value that the manual does not state, by the place that needs it and the operands or the model's counter (log 13). -/
opaque unstated : Nat → Nat → Nat

/-- The code that a transcendental function gives, by function, format and operand; it counts where it lies within the
bound of R335, and the nearest code counts elsewhere (log 8). -/
opaque transcend : Nat → Nat → Nat → Nat

/-- Dennov's routine library (R139, R380): the 64-bit word at a store index of a context (log 9). -/
opaque libraryWord : Nat → BitVec 64

/-- Dennov's routine library: the routine table entry of a routine number (log 9). -/
opaque libraryRoutine : Nat → BitVec 32

/-- Stepping of the tile revision, IDENT[51:44] (R105). -/
opaque stepping : BitVec 8

/-- Scan-map version of the tile revision, IDENT[43:32] (R105). -/
opaque scanMap : BitVec 12

/-- Package serial number (R104). -/
opaque serial : BitVec 64

/-- Does the root of trust accept this firmware image (R124)? -/
opaque firmwareGood : List (BitVec 8) → Bool

/-- The IMEM word that the firmware image gives a Virga core, by image, core and word index (R394). -/
opaque firmwareImem : List (BitVec 8) → Nat → Nat → BitVec 32

/-- The DMEM byte that the firmware image gives a Virga core, by image, core and offset (R394). -/
opaque firmwareDmem : List (BitVec 8) → Nat → Nat → BitVec 8

/-- The context key that the root of trust derives at CTXNEW (R256), by context and the model's counter. -/
opaque contextKey : Nat → Nat → BitVec 256

/-- The AES-256-GCM keystream byte of R254, by key, nonce and offset. -/
opaque gcmByte : BitVec 256 → List (BitVec 8) → Nat → BitVec 8

/-- The AES-256-GCM tag of R254, by key, nonce, additional data and ciphertext. -/
opaque gcmTag : BitVec 256 → List (BitVec 8) → List (BitVec 8) → List (BitVec 8) → List (BitVec 8)

/-- A byte of a section whose contents the scan map defines (R252): section type, tag, offset. -/
opaque scanByte : Nat → Nat → Nat → BitVec 8

/-- The cell that the scan-map sections of an image hold which this package did not save (R252, log 20). -/
opaque imageCell : List (BitVec 8) → Option Machine.Cell

/-- The team state block that such an image holds. -/
opaque imageTeam : List (BitVec 8) → Option Machine.Team

/-- Length of the FLOPS section at a scan-map version other than 1, whose length R252 gives. -/
opaque flopsLength : Nat

/-- The answer that the root of trust gives an SPDM request (R125), by request code, request bytes and session state. -/
opaque spdmAnswer : Nat → List (BitVec 8) → Nat → List (BitVec 8)

/-- The digests that measurements 1 to 3 hold (R125), by measurement and the firmware image. -/
opaque measurement : Nat → List (BitVec 8) → List (BitVec 8)

/-- Which Virga core takes a record that concerns no PDC and no port, by event code and object (R67, R219; log 11). -/
opaque recordCore : Nat → Nat → Nat

/-- The key of an epoch of a security domain, which the root of trust derives from the domain secret and the epoch number
(R62, R119). -/
opaque domainKey : BitVec 8 → BitVec 16 → BitVec 256

/-- The bytes of what a packet carries before encryption, by PDC: the Ultra Ethernet encoding (R41, R42; log 12). -/
opaque wireBytes : Nat → Machine.FrameBody → List (BitVec 8)

/-- The header bytes that authentication covers, by PDC and entropy value (R62; log 12). -/
opaque wireHead : Nat → BitVec 16 → List (BitVec 8)

/-- The nonce of a packet, by PDC, GTIME and what it carries (R62; log 12). -/
opaque wireNonce : Nat → BitVec 64 → Machine.FrameBody → List (BitVec 8)

/-- Bytes of a frame on the wire for a payload of some bytes (R433; log 12). -/
opaque frameBytes : Nat → Nat

/-- The turn that moves next when nothing is on the agenda, by the model's counter (log 1): a code that step reads. -/
opaque turnCode : Nat → Nat

/-- Does a CXL port's link train, by port and the model's counter (R29)? -/
opaque cxlTrains : Nat → Nat → Bool

/-- The capacity that a CXL expander reports, by port and the model's counter (R28). -/
opaque cxlCapacity : Nat → Nat → Nat

/-- Does an Ethernet port train, by port and the model's counter (R24)? -/
opaque etherTrains : Nat → Nat → Bool

end Sys2Proof.Config
end

