-- ==== Sys2Proof/Syntax.lean ====
section
/-!
DEFINITION. Sys2Proof/Syntax.lean: the one inductive of the instructions and events of spec/opcode_table.json, one
constructor for each row. A Sikan operation carries its guard g and the fields of its format (R283 to R286), a
micro-operation the fields of R384, a Virga instruction the fields of R399; what an event brings with it is data of the
machine (State.input).
-/
namespace Sys2Proof

inductive Instr where
  /-- R295: No operation on the scalar port. -/
  | nop (g : BitVec 4)
  /-- R292: Integer add of two scalars. -/
  | add (g : BitVec 4) (d : BitVec 6) (s : BitVec 6) (t : BitVec 6)
  /-- R292: Integer subtract of two scalars. -/
  | sub (g : BitVec 4) (d : BitVec 6) (s : BitVec 6) (t : BitVec 6)
  /-- R292: Low 64 bits of the product. -/
  | mul (g : BitVec 4) (d : BitVec 6) (s : BitVec 6) (t : BitVec 6)
  /-- R292: High 64 bits of the signed product. -/
  | mulhI64 (g : BitVec 4) (d : BitVec 6) (s : BitVec 6) (t : BitVec 6)
  /-- R292: High 64 bits of the unsigned product. -/
  | mulhN64 (g : BitVec 4) (d : BitVec 6) (s : BitVec 6) (t : BitVec 6)
  /-- R292: Signed quotient under R224. -/
  | divI64 (g : BitVec 4) (d : BitVec 6) (s : BitVec 6) (t : BitVec 6)
  /-- R292: Unsigned quotient under R224. -/
  | divN64 (g : BitVec 4) (d : BitVec 6) (s : BitVec 6) (t : BitVec 6)
  /-- R292: Signed remainder. -/
  | remI64 (g : BitVec 4) (d : BitVec 6) (s : BitVec 6) (t : BitVec 6)
  /-- R292: Unsigned remainder. -/
  | remN64 (g : BitVec 4) (d : BitVec 6) (s : BitVec 6) (t : BitVec 6)
  /-- R292: Bitwise AND. -/
  | and (g : BitVec 4) (d : BitVec 6) (s : BitVec 6) (t : BitVec 6)
  /-- R292: Bitwise OR. -/
  | or (g : BitVec 4) (d : BitVec 6) (s : BitVec 6) (t : BitVec 6)
  /-- R292: Bitwise XOR. -/
  | xor (g : BitVec 4) (d : BitVec 6) (s : BitVec 6) (t : BitVec 6)
  /-- R292: Left shift by a register amount. -/
  | shl (g : BitVec 4) (d : BitVec 6) (s : BitVec 6) (t : BitVec 6)
  /-- R292: Arithmetic right shift by a register amount. -/
  | shrI64 (g : BitVec 4) (d : BitVec 6) (s : BitVec 6) (t : BitVec 6)
  /-- R292: Logical right shift by a register amount. -/
  | shrN64 (g : BitVec 4) (d : BitVec 6) (s : BitVec 6) (t : BitVec 6)
  /-- R292: Signed minimum. -/
  | minI64 (g : BitVec 4) (d : BitVec 6) (s : BitVec 6) (t : BitVec 6)
  /-- R292: Unsigned minimum. -/
  | minN64 (g : BitVec 4) (d : BitVec 6) (s : BitVec 6) (t : BitVec 6)
  /-- R292: Signed maximum. -/
  | maxI64 (g : BitVec 4) (d : BitVec 6) (s : BitVec 6) (t : BitVec 6)
  /-- R292: Unsigned maximum. -/
  | maxN64 (g : BitVec 4) (d : BitVec 6) (s : BitVec 6) (t : BitVec 6)
  /-- R292: Signed saturating add. -/
  | addI64S (g : BitVec 4) (d : BitVec 6) (s : BitVec 6) (t : BitVec 6)
  /-- R292: Unsigned saturating add. -/
  | addN64S (g : BitVec 4) (d : BitVec 6) (s : BitVec 6) (t : BitVec 6)
  /-- R292: Signed saturating subtract. -/
  | subI64S (g : BitVec 4) (d : BitVec 6) (s : BitVec 6) (t : BitVec 6)
  /-- R292: Unsigned saturating subtract. -/
  | subN64S (g : BitVec 4) (d : BitVec 6) (s : BitVec 6) (t : BitVec 6)
  /-- R293: Add a 14-bit immediate. -/
  | addi (g : BitVec 4) (d : BitVec 6) (s : BitVec 6) (imm : BitVec 14)
  /-- R293: AND with an immediate. -/
  | andi (g : BitVec 4) (d : BitVec 6) (s : BitVec 6) (imm : BitVec 14)
  /-- R293: OR with an immediate. -/
  | ori (g : BitVec 4) (d : BitVec 6) (s : BitVec 6) (imm : BitVec 14)
  /-- R293: XOR with an immediate. -/
  | xori (g : BitVec 4) (d : BitVec 6) (s : BitVec 6) (imm : BitVec 14)
  /-- R293: Left shift by an immediate. -/
  | shli (g : BitVec 4) (d : BitVec 6) (s : BitVec 6) (n : BitVec 6)
  /-- R293: Arithmetic right shift by an immediate. -/
  | shriI64 (g : BitVec 4) (d : BitVec 6) (s : BitVec 6) (n : BitVec 6)
  /-- R293: Logical right shift by an immediate. -/
  | shriN64 (g : BitVec 4) (d : BitVec 6) (s : BitVec 6) (n : BitVec 6)
  /-- R294: Load a sign-extended 20-bit immediate. -/
  | li (g : BitVec 4) (d : BitVec 6) (imm : BitVec 20)
  /-- R294: Shift a scalar left by 16 and insert a 16-bit immediate. -/
  | lis (g : BitVec 4) (d : BitVec 6) (imm : BitVec 16)
  /-- R295: Select one of two scalars by a predicate. -/
  | sel (g : BitVec 4) (d : BitVec 6) (s : BitVec 6) (t : BitVec 6) (k : BitVec 4)
  /-- R296: Integer compare writing a predicate pair. -/
  | cmp (g : BitVec 4) (cond : BitVec 3) (pair : BitVec 3) (s : BitVec 6) (t : BitVec 6)
  /-- R296: Integer compare with an immediate, writing a predicate pair. -/
  | cmpi (g : BitVec 4) (cond : BitVec 3) (pair : BitVec 3) (s : BitVec 6) (imm : BitVec 14)
  /-- R296: Integer compare pushing its result onto the condition queue. -/
  | cmpq (g : BitVec 4) (cond : BitVec 3) (s : BitVec 6) (t : BitVec 6)
  /-- R300: F32 add. -/
  | fadd (g : BitVec 4) (d : BitVec 6) (s : BitVec 6) (t : BitVec 6)
  /-- R300: F32 subtract. -/
  | fsub (g : BitVec 4) (d : BitVec 6) (s : BitVec 6) (t : BitVec 6)
  /-- R300: F32 multiply. -/
  | fmul (g : BitVec 4) (d : BitVec 6) (s : BitVec 6) (t : BitVec 6)
  /-- R300: F32 divide. -/
  | fdiv (g : BitVec 4) (d : BitVec 6) (s : BitVec 6) (t : BitVec 6)
  /-- R300: F32 minimum. -/
  | fmin (g : BitVec 4) (d : BitVec 6) (s : BitVec 6) (t : BitVec 6)
  /-- R300: F32 maximum. -/
  | fmax (g : BitVec 4) (d : BitVec 6) (s : BitVec 6) (t : BitVec 6)
  /-- R300: F32 fused multiply-add with one rounding. -/
  | fma (g : BitVec 4) (d : BitVec 6) (s : BitVec 6) (t : BitVec 6) (q : BitVec 6)
  /-- R297: F32 compare writing a predicate pair. -/
  | fcmp (g : BitVec 4) (cond : BitVec 3) (pair : BitVec 3) (s : BitVec 6) (t : BitVec 6)
  /-- R297: F32 compare pushing its result onto the condition queue. -/
  | fcmpq (g : BitVec 4) (cond : BitVec 3) (s : BitVec 6) (t : BitVec 6)
  /-- R301: Scalar conversion between integer and float types. -/
  | fcvt (g : BitVec 4) (d : BitVec 6) (s : BitVec 6) (src : BitVec 3) (dst : BitVec 3)
  /-- R295: Count leading zeros. -/
  | clz (g : BitVec 4) (d : BitVec 6) (s : BitVec 6)
  /-- R295: Count one bits. -/
  | popc (g : BitVec 4) (d : BitVec 6) (s : BitVec 6)
  /-- R299: Predicate AND. -/
  | pand (g : BitVec 4) (d : BitVec 4) (s : BitVec 4) (t : BitVec 4)
  /-- R299: Predicate OR. -/
  | por (g : BitVec 4) (d : BitVec 4) (s : BitVec 4) (t : BitVec 4)
  /-- R299: Predicate XOR. -/
  | pxor (g : BitVec 4) (d : BitVec 4) (s : BitVec 4) (t : BitVec 4)
  /-- R299: Predicate AND NOT. -/
  | pandn (g : BitVec 4) (d : BitVec 4) (s : BitVec 4) (t : BitVec 4)
  /-- R295: Sign-extend from n bits. -/
  | sext (g : BitVec 4) (d : BitVec 6) (s : BitVec 6) (n : BitVec 7)
  /-- R295: Zero-extend from n bits. -/
  | zext (g : BitVec 4) (d : BitVec 6) (s : BitVec 6) (n : BitVec 7)
  /-- R302: Relative branch. -/
  | br (g : BitVec 4) (off : BitVec 26)
  /-- R302: Relative call writing s63. -/
  | call (g : BitVec 4) (off : BitVec 26)
  /-- R302: Pop the condition queue and branch on 1. -/
  | brq (g : BitVec 4) (off : BitVec 26)
  /-- R302: Pop the condition queue and branch on 0. -/
  | brqn (g : BitVec 4) (off : BitVec 26)
  /-- R303: Branch to a register. -/
  | brr (g : BitVec 4) (s : BitVec 6)
  /-- R303: Call through a register. -/
  | callr (g : BitVec 4) (s : BitVec 6)
  /-- R304: Hardware loop branch on an lc register. -/
  | loop (g : BitVec 4) (n : BitVec 2) (off : BitVec 24)
  /-- R304: Set a loop counter. -/
  | lcset (g : BitVec 4) (n : BitVec 2) (s : BitVec 6)
  /-- R305: Arrive at a team barrier and wait for its release. -/
  | barw (g : BitVec 4) (b : BitVec 3)
  /-- R306: When YREQ is set, write a yield record and stop. -/
  | yield (g : BitVec 4)
  /-- R307: Wait for outstanding work and faults, then retire the cell. -/
  | halt (g : BitVec 4)
  /-- R309: Return from a trap to TRAPPC. -/
  | eret (g : BitVec 4)
  /-- R298: Empty the condition queue. -/
  | cqclr (g : BitVec 4)
  /-- R308: Commit the group and take a SYSCALL trap. -/
  | syscall (g : BitVec 4) (code : BitVec 20)
  /-- R310: Read a system register. -/
  | mfsr (g : BitVec 4) (d : BitVec 6) (num : BitVec 12)
  /-- R310: Write a system register field by field. -/
  | mtsr (g : BitVec 4) (s : BitVec 6) (num : BitVec 12)
  /-- R245: Writing TRAPCAUSE.HOST = 1 hands the trap to the host with CTX_FAULT. -/
  | mtsrTrapcauseHost (g : BitVec 4) (s : BitVec 6)
  /-- R234: Writing FMTCTL.SEEDW = 1 reinitialises the stochastic generators from SEED. -/
  | mtsrFmtctlSeedw (g : BitVec 4) (s : BitVec 6)
  /-- R312: Write a tensor descriptor slot and return its handle. -/
  | tdset (g : BitVec 4) (d : BitVec 6) (s : BitVec 6) (t : BitVec 6)
  /-- R313: Read a descriptor by handle. -/
  | tdget (g : BitVec 4) (d : BitVec 6) (s : BitVec 6) (t : BitVec 6)
  /-- R314: Invalidate a descriptor slot. -/
  | tdinv (g : BitVec 4) (d : BitVec 6) (s : BitVec 6)
  /-- R319: Vector add. -/
  | vadd (g : BitVec 4) (d : BitVec 6) (s : BitVec 6) (t : BitVec 6) (ty : BitVec 4) (k : BitVec 4)
  /-- R319: Vector subtract. -/
  | vsub (g : BitVec 4) (d : BitVec 6) (s : BitVec 6) (t : BitVec 6) (ty : BitVec 4) (k : BitVec 4)
  /-- R319: Vector multiply. -/
  | vmul (g : BitVec 4) (d : BitVec 6) (s : BitVec 6) (t : BitVec 6) (ty : BitVec 4) (k : BitVec 4)
  /-- R319: Vector divide. -/
  | vdiv (g : BitVec 4) (d : BitVec 6) (s : BitVec 6) (t : BitVec 6) (ty : BitVec 4) (k : BitVec 4)
  /-- R319: Vector minimum. -/
  | vmin (g : BitVec 4) (d : BitVec 6) (s : BitVec 6) (t : BitVec 6) (ty : BitVec 4) (k : BitVec 4)
  /-- R319: Vector maximum. -/
  | vmax (g : BitVec 4) (d : BitVec 6) (s : BitVec 6) (t : BitVec 6) (ty : BitVec 4) (k : BitVec 4)
  /-- R320: Saturating vector add. -/
  | vaddS (g : BitVec 4) (d : BitVec 6) (s : BitVec 6) (t : BitVec 6) (ty : BitVec 4) (k : BitVec 4)
  /-- R320: Saturating vector subtract. -/
  | vsubS (g : BitVec 4) (d : BitVec 6) (s : BitVec 6) (t : BitVec 6) (ty : BitVec 4) (k : BitVec 4)
  /-- R321: Lane-wise AND. -/
  | vand (g : BitVec 4) (d : BitVec 6) (s : BitVec 6) (t : BitVec 6) (ty : BitVec 4) (k : BitVec 4)
  /-- R321: Lane-wise OR. -/
  | vor (g : BitVec 4) (d : BitVec 6) (s : BitVec 6) (t : BitVec 6) (ty : BitVec 4) (k : BitVec 4)
  /-- R321: Lane-wise XOR. -/
  | vxor (g : BitVec 4) (d : BitVec 6) (s : BitVec 6) (t : BitVec 6) (ty : BitVec 4) (k : BitVec 4)
  /-- R321: Vector left shift. -/
  | vshl (g : BitVec 4) (d : BitVec 6) (s : BitVec 6) (t : BitVec 6) (ty : BitVec 4) (k : BitVec 4)
  /-- R321: Vector right shift. -/
  | vshr (g : BitVec 4) (d : BitVec 6) (s : BitVec 6) (t : BitVec 6) (ty : BitVec 4) (k : BitVec 4)
  /-- R322: Vector absolute value. -/
  | vabs (g : BitVec 4) (d : BitVec 6) (s : BitVec 6) (ty : BitVec 4) (k : BitVec 4)
  /-- R322: Vector negate. -/
  | vneg (g : BitVec 4) (d : BitVec 6) (s : BitVec 6) (ty : BitVec 4) (k : BitVec 4)
  /-- R322: Vector lane copy. -/
  | vmov (g : BitVec 4) (d : BitVec 6) (s : BitVec 6) (ty : BitVec 4) (k : BitVec 4)
  /-- R323: F32 vector fused multiply-add. -/
  | vfmaF32 (g : BitVec 4) (d : BitVec 6) (s : BitVec 6) (t : BitVec 6) (q : BitVec 6) (k : BitVec 2)
  /-- R323: BF16 vector fused multiply-add. -/
  | vfmaBf16 (g : BitVec 4) (d : BitVec 6) (s : BitVec 6) (t : BitVec 6) (q : BitVec 6) (k : BitVec 2)
  /-- R324: Select lanes by a mask. -/
  | vsel (g : BitVec 4) (d : BitVec 6) (s : BitVec 6) (t : BitVec 6) (ty : BitVec 4) (k : BitVec 4)
  /-- R325: Vector compare writing a mask pair. -/
  | vcmp (g : BitVec 4) (cond : BitVec 3) (pair : BitVec 3) (s : BitVec 6) (t : BitVec 6) (ty : BitVec 4) (k : BitVec 4)
  /-- R325: Vector compare pushing the OR of active lanes onto the condition queue. -/
  | vcmpq (g : BitVec 4) (cond : BitVec 3) (s : BitVec 6) (t : BitVec 6) (ty : BitVec 4) (k : BitVec 4)
  /-- R327: Broadcast a scalar to the elements of the active lanes. -/
  | vbcast (g : BitVec 4) (d : BitVec 6) (s : BitVec 6) (ty : BitVec 4) (k : BitVec 4)
  /-- R327: Move one element to a scalar. -/
  | vget (g : BitVec 4) (d : BitVec 6) (s : BitVec 6) (t : BitVec 6) (ty : BitVec 4)
  /-- R327: Write one element from a scalar. -/
  | vset (g : BitVec 4) (d : BitVec 6) (s : BitVec 6) (t : BitVec 6) (ty : BitVec 4) (k : BitVec 4)
  /-- R326: Mask AND. -/
  | mand (g : BitVec 4) (d : BitVec 4) (s : BitVec 4) (t : BitVec 4)
  /-- R326: Mask OR. -/
  | mor (g : BitVec 4) (d : BitVec 4) (s : BitVec 4) (t : BitVec 4)
  /-- R326: Mask XOR. -/
  | mxor (g : BitVec 4) (d : BitVec 4) (s : BitVec 4) (t : BitVec 4)
  /-- R326: Mask AND NOT. -/
  | mandn (g : BitVec 4) (d : BitVec 4) (s : BitVec 4) (t : BitVec 4)
  /-- R329: Vector format conversion. -/
  | vcvt (g : BitVec 4) (d : BitVec 6) (s : BitVec 6) (dst : BitVec 4) (src : BitVec 4) (k : BitVec 4)
  /-- R331: Quantise by block scales and narrow. -/
  | vqnt (g : BitVec 4) (d : BitVec 6) (s : BitVec 6) (t : BitVec 6) (ty : BitVec 4) (k : BitVec 4)
  /-- R332: Dequantise by block scales to F32. -/
  | vdqnt (g : BitVec 4) (d : BitVec 6) (s : BitVec 6) (t : BitVec 6) (ty : BitVec 4) (k : BitVec 4)
  /-- R330: Block absolute maximum. -/
  | vbamax (g : BitVec 4) (d : BitVec 6) (s : BitVec 6) (t : BitVec 6) (ty : BitVec 4) (k : BitVec 4)
  /-- R333: Sum reduction over active elements. -/
  | vrsum (g : BitVec 4) (d : BitVec 6) (s : BitVec 6) (ty : BitVec 4) (k : BitVec 4)
  /-- R333: Maximum reduction over active elements. -/
  | vrmax (g : BitVec 4) (d : BitVec 6) (s : BitVec 6) (ty : BitVec 4) (k : BitVec 4)
  /-- R333: Minimum reduction over active elements. -/
  | vrmin (g : BitVec 4) (d : BitVec 6) (s : BitVec 6) (ty : BitVec 4) (k : BitVec 4)
  /-- R334: Prefix sum over active lanes. -/
  | vscan (g : BitVec 4) (d : BitVec 6) (s : BitVec 6) (ty : BitVec 4) (k : BitVec 4)
  /-- R328: Permute lanes by index. -/
  | vperm (g : BitVec 4) (d : BitVec 6) (s : BitVec 6) (t : BitVec 6) (ty : BitVec 4) (k : BitVec 4)
  /-- R328: Rotate lanes towards higher lanes. -/
  | vrot (g : BitVec 4) (d : BitVec 6) (s : BitVec 6) (t : BitVec 6) (ty : BitVec 4) (k : BitVec 4)
  /-- R335: Vector 2^x. -/
  | vexp2 (g : BitVec 4) (d : BitVec 6) (s : BitVec 6) (ty : BitVec 4) (k : BitVec 4)
  /-- R335: Vector log2. -/
  | vlog2 (g : BitVec 4) (d : BitVec 6) (s : BitVec 6) (ty : BitVec 4) (k : BitVec 4)
  /-- R335: Vector reciprocal. -/
  | vrcp (g : BitVec 4) (d : BitVec 6) (s : BitVec 6) (ty : BitVec 4) (k : BitVec 4)
  /-- R335: Vector reciprocal square root. -/
  | vrsqrt (g : BitVec 4) (d : BitVec 6) (s : BitVec 6) (ty : BitVec 4) (k : BitVec 4)
  /-- R335: Correctly rounded vector square root. -/
  | vsqrt (g : BitVec 4) (d : BitVec 6) (s : BitVec 6) (ty : BitVec 4) (k : BitVec 4)
  /-- R335: Vector tanh. -/
  | vtanh (g : BitVec 4) (d : BitVec 6) (s : BitVec 6) (ty : BitVec 4) (k : BitVec 4)
  /-- R372: Issue a matrix command of a routine with predecessors. -/
  | mcall (g : BitVec 4) (d : BitVec 6) (p : BitVec 6) (q : BitVec 6) (r : BitVec 8)
  /-- R376: Join a matrix command, raising its fault if it has one. -/
  | mwait (g : BitVec 4) (s : BitVec 6)
  /-- R377: Read the state of a matrix command without waiting. -/
  | mstat (g : BitVec 4) (d : BitVec 6) (s : BitVec 6)
  /-- R371: Write a matrix parameter register. -/
  | mpset (g : BitVec 4) (n : BitVec 3) (s : BitVec 6)
  /-- R371: Read a matrix parameter register. -/
  | mpget (g : BitVec 4) (d : BitVec 6) (n : BitVec 3)
  /-- R380: Write a microprogram store word. -/
  | mucw (g : BitVec 4) (i : BitVec 6) (v : BitVec 6)
  /-- R380: Write a routine table entry. -/
  | mucwT (g : BitVec 4) (i : BitVec 6) (v : BitVec 6)
  /-- R379: Copy an accumulator row to a vector. -/
  | mav (g : BitVec 4) (d : BitVec 6) (tile : BitVec 6) (r : BitVec 6)
  /-- R379: Write a vector into an accumulator row. -/
  | mva (g : BitVec 4) (tile : BitVec 6) (s : BitVec 6) (r : BitVec 6)
  /-- R340: Zero-extending global load. -/
  | ldN (g : BitVec 4) (r : BitVec 6) (a : BitVec 6) (cls : BitVec 4) (sz : BitVec 2) (off : BitVec 8)
  /-- R340: Sign-extending global load. -/
  | ldI (g : BitVec 4) (r : BitVec 6) (a : BitVec 6) (cls : BitVec 4) (sz : BitVec 2) (off : BitVec 8)
  /-- R340: Global store. -/
  | st (g : BitVec 4) (r : BitVec 6) (a : BitVec 6) (cls : BitVec 4) (sz : BitVec 2) (off : BitVec 8)
  /-- R340: Zero-extending near load. -/
  | ldnN (g : BitVec 4) (r : BitVec 6) (a : BitVec 6) (cls : BitVec 4) (sz : BitVec 2) (off : BitVec 8)
  /-- R340: Sign-extending near load. -/
  | ldnI (g : BitVec 4) (r : BitVec 6) (a : BitVec 6) (cls : BitVec 4) (sz : BitVec 2) (off : BitVec 8)
  /-- R340: Near store, or plane_store to a plane region. -/
  | stn (g : BitVec 4) (r : BitVec 6) (a : BitVec 6) (cls : BitVec 4) (sz : BitVec 2) (off : BitVec 8)
  /-- R341: Global vector load. -/
  | vld (g : BitVec 4) (v : BitVec 6) (a : BitVec 6) (cls : BitVec 4) (off : BitVec 4) (k : BitVec 4)
  /-- R341: Global vector store. -/
  | vst (g : BitVec 4) (v : BitVec 6) (a : BitVec 6) (cls : BitVec 4) (off : BitVec 4) (k : BitVec 4)
  /-- R341: Near vector load. -/
  | vldn (g : BitVec 4) (v : BitVec 6) (a : BitVec 6) (cls : BitVec 4) (off : BitVec 4) (k : BitVec 4)
  /-- R341: Near vector store. -/
  | vstn (g : BitVec 4) (v : BitVec 6) (a : BitVec 6) (cls : BitVec 4) (off : BitVec 4) (k : BitVec 4)
  /-- R342: Strided global vector load. -/
  | vlds (g : BitVec 4) (v : BitVec 6) (a : BitVec 6) (x : BitVec 6) (cls : BitVec 4) (k : BitVec 4)
  /-- R342: Strided global vector store. -/
  | vsts (g : BitVec 4) (v : BitVec 6) (a : BitVec 6) (x : BitVec 6) (cls : BitVec 4) (k : BitVec 4)
  /-- R342: Global gather. -/
  | vgth (g : BitVec 4) (v : BitVec 6) (a : BitVec 6) (x : BitVec 6) (cls : BitVec 4) (k : BitVec 4)
  /-- R342: Global scatter. -/
  | vsct (g : BitVec 4) (v : BitVec 6) (a : BitVec 6) (x : BitVec 6) (cls : BitVec 4) (k : BitVec 4)
  /-- R342: Near gather. -/
  | vgthn (g : BitVec 4) (v : BitVec 6) (a : BitVec 6) (x : BitVec 6) (cls : BitVec 4) (k : BitVec 4)
  /-- R342: Near scatter. -/
  | vsctn (g : BitVec 4) (v : BitVec 6) (a : BitVec 6) (x : BitVec 6) (cls : BitVec 4) (k : BitVec 4)
  /-- R345: Extract packed bit fields from near memory into lanes. -/
  | vldx (g : BitVec 4) (v : BitVec 6) (a : BitVec 6) (x : BitVec 3) (cls : BitVec 4) (k : BitVec 4)
  /-- R346: Atomic 32-bit integer add. -/
  | aaddI32 (g : BitVec 4) (d : BitVec 6) (a : BitVec 6) (t : BitVec 6) (cls : BitVec 4) (near : Bool)
  /-- R346: Atomic 64-bit integer add. -/
  | aaddI64 (g : BitVec 4) (d : BitVec 6) (a : BitVec 6) (t : BitVec 6) (cls : BitVec 4) (near : Bool)
  /-- R346: Atomic F32 add. -/
  | aaddF32 (g : BitVec 4) (d : BitVec 6) (a : BitVec 6) (t : BitVec 6) (cls : BitVec 4) (near : Bool)
  /-- R346: Atomic signed maximum. -/
  | amaxI32 (g : BitVec 4) (d : BitVec 6) (a : BitVec 6) (t : BitVec 6) (cls : BitVec 4) (near : Bool)
  /-- R346: Atomic F32 maximum. -/
  | amaxF32 (g : BitVec 4) (d : BitVec 6) (a : BitVec 6) (t : BitVec 6) (cls : BitVec 4) (near : Bool)
  /-- R346: Atomic 64-bit compare-and-swap. -/
  | acas (g : BitVec 4) (d : BitVec 6) (a : BitVec 6) (t : BitVec 6) (cls : BitVec 4) (near : Bool)
  /-- R347: Read a maximum and reset it (i32). -/
  | amaxrrI32 (g : BitVec 4) (d : BitVec 6) (a : BitVec 6) (t : BitVec 6) (cls : BitVec 4) (near : Bool)
  /-- R347: Read a maximum and reset it (f32). -/
  | amaxrrF32 (g : BitVec 4) (d : BitVec 6) (a : BitVec 6) (t : BitVec 6) (cls : BitVec 4) (near : Bool)
  /-- R349: Order accesses of the masked classes to a scope, optionally writing back or invalidating the cache. -/
  | fence (g : BitVec 4) (scope : BitVec 2) (wb : Bool) (inv : Bool) (mask : BitVec 16)
  /-- R358: Enqueue a tile copy for the copy engine. -/
  | cpy (g : BitVec 4) (h : BitVec 6) (x : BitVec 6) (y : BitVec 6) (cls : BitVec 4) (ring : BitVec 4)
  /-- R358: Enqueue a tile copy that writes a flag at completion. -/
  | cpyf (g : BitVec 4) (h : BitVec 6) (x : BitVec 6) (y : BitVec 6) (cls : BitVec 4) (ring : BitVec 4)
  /-- R363: Wait for and return the slot at RP of a ring. -/
  | rwait (g : BitVec 4) (d : BitVec 6) (n : BitVec 5)
  /-- R364: Release the slot at RP of a ring. -/
  | rrel (g : BitVec 4) (n : BitVec 5)
  /-- R365: Produce a ring slot from software. -/
  | rpub (g : BitVec 4) (n : BitVec 5) (s : BitVec 6)
  /-- R367: Send one element on a channel. -/
  | chsend (g : BitVec 4) (c : BitVec 6) (x : BitVec 6) (cls : BitVec 4)
  /-- R368: Receive one element on a channel. -/
  | chrecv (g : BitVec 4) (d : BitVec 6) (c : BitVec 6)
  /-- R354: Wait until a word satisfies a comparison. -/
  | waita (g : BitVec 4) (d : BitVec 6) (a : BitVec 6) (v : BitVec 6) (cls : BitVec 4) (glob : Bool) (cc : BitVec 2)
  /-- R351: Change the mode and live extent of a bank or pair. -/
  | bankcfg (g : BitVec 4) (s : BitVec 6)
  /-- R352: Arrive at a step group. -/
  | gstep (g : BitVec 4) (n : BitVec 3)
  /-- R353: Queue 256 bytes for the broadcast bus at beat T. -/
  | bcast (g : BitVec 4) (b : BitVec 6) (a : BitVec 6)
  /-- R353: Arm a latch for beat T. -/
  | latch (g : BitVec 4) (b : BitVec 6) (a : BitVec 6)
  /-- R355: Set the copy deadline CDEAD. -/
  | deadl (g : BitVec 4) (s : BitVec 6)
  /-- R355: Set the flag address CFLAG. -/
  | deadlF (g : BitVec 4) (s : BitVec 6)
  /-- R355: Set an extraction pattern register. -/
  | deadlXp (g : BitVec 4) (s : BitVec 6) (j : BitVec 3)
  /-- R385: Matrix tile multiply-accumulate. -/
  | uopMma (ha : BitVec 2) (hb : BitVec 2) (f1 : BitVec 4) (f2 : BitVec 4) (t : BitVec 6) (tr : BitVec 4) (keepB : Bool)
  /-- R385: Load the stationary operand B. -/
  | uopLdb (hb : BitVec 2) (f2 : BitVec 4)
  /-- R384: Zero an accumulator tile. -/
  | uopZacc (t : BitVec 6) (tr : BitVec 4)
  /-- R386: Store an accumulator tile to SPAD with scaling. -/
  | uopStacc (ha : BitVec 2) (f1 : BitVec 4) (t : BitVec 6) (tr : BitVec 4) (z : Bool)
  /-- R384: Set the scale SC. -/
  | uopScale (f1 : BitVec 4) (imm : BitVec 32)
  /-- R384: Replace a field of a coordinate register. -/
  | uopSetc (f1 : BitVec 4) (f2 : BitVec 4) (j : BitVec 2) (v : BitVec 16)
  /-- R384: Add coordinate registers field by field. -/
  | uopAddc (f1 : BitVec 4) (f2 : BitVec 4) (f3 : BitVec 4)
  /-- R384: Add an immediate to a coordinate field. -/
  | uopAddci (f1 : BitVec 4) (j : BitVec 2) (v : BitVec 16)
  /-- R387: Counted micro-operation branch. -/
  | uopLoop (n : BitVec 2) (f2 : BitVec 4) (r : Bool) (count : BitVec 12) (target : BitVec 12)
  /-- R388: Wait for and take a ring slot into a coordinate register. -/
  | uopWtile (f1 : BitVec 4) (ring : BitVec 5)
  /-- R389: Wait for a near word to satisfy a comparison. -/
  | uopWflag (f1 : BitVec 4) (f2 : BitVec 4) (cc : BitVec 2)
  /-- R389: Write a flag or produce a ring slot after earlier writes perform. -/
  | uopSignal (f1 : BitVec 4) (f2 : BitVec 4) (kind : Bool) (ring : BitVec 5)
  /-- R401: Add. -/
  | virgaAdd (d : BitVec 5) (s : BitVec 5) (t : BitVec 5)
  /-- R401: Subtract. -/
  | virgaSub (d : BitVec 5) (s : BitVec 5) (t : BitVec 5)
  /-- R401: Multiply. -/
  | virgaMul (d : BitVec 5) (s : BitVec 5) (t : BitVec 5)
  /-- R401: Bitwise AND. -/
  | virgaAnd (d : BitVec 5) (s : BitVec 5) (t : BitVec 5)
  /-- R401: Bitwise OR. -/
  | virgaOr (d : BitVec 5) (s : BitVec 5) (t : BitVec 5)
  /-- R401: Bitwise XOR. -/
  | virgaXor (d : BitVec 5) (s : BitVec 5) (t : BitVec 5)
  /-- R401: Left shift. -/
  | virgaShl (d : BitVec 5) (s : BitVec 5) (t : BitVec 5)
  /-- R401: Logical right shift. -/
  | virgaShr (d : BitVec 5) (s : BitVec 5) (t : BitVec 5)
  /-- R401: Arithmetic right shift. -/
  | virgaSra (d : BitVec 5) (s : BitVec 5) (t : BitVec 5)
  /-- R401: Signed set-less-than. -/
  | virgaSlt (d : BitVec 5) (s : BitVec 5) (t : BitVec 5)
  /-- R401: Unsigned set-less-than. -/
  | virgaSltu (d : BitVec 5) (s : BitVec 5) (t : BitVec 5)
  /-- R401: Add a sign-extended immediate. -/
  | virgaAddi (d : BitVec 5) (s : BitVec 5) (i : BitVec 16)
  /-- R401: AND with a zero-extended immediate. -/
  | virgaAndi (d : BitVec 5) (s : BitVec 5) (i : BitVec 16)
  /-- R401: OR with a zero-extended immediate. -/
  | virgaOri (d : BitVec 5) (s : BitVec 5) (i : BitVec 16)
  /-- R401: XOR with a zero-extended immediate. -/
  | virgaXori (d : BitVec 5) (s : BitVec 5) (i : BitVec 16)
  /-- R401: Left shift by an immediate. -/
  | virgaShli (d : BitVec 5) (s : BitVec 5) (i : BitVec 6)
  /-- R401: Logical right shift by an immediate. -/
  | virgaShri (d : BitVec 5) (s : BitVec 5) (i : BitVec 6)
  /-- R401: Arithmetic right shift by an immediate. -/
  | virgaSrai (d : BitVec 5) (s : BitVec 5) (i : BitVec 6)
  /-- R401: Signed set-less-than with an immediate. -/
  | virgaSlti (d : BitVec 5) (s : BitVec 5) (i : BitVec 16)
  /-- R401: Shift gd left by 16 and insert an immediate. -/
  | virgaLis (d : BitVec 5) (i : BitVec 16)
  /-- R402: Load 8 bytes from DMEM. -/
  | virgaLd (d : BitVec 5) (s : BitVec 5) (i : BitVec 16)
  /-- R402: Load 4 bytes zero-extended from DMEM. -/
  | virgaLw (d : BitVec 5) (s : BitVec 5) (i : BitVec 16)
  /-- R402: Store 8 bytes to DMEM. -/
  | virgaSt (d : BitVec 5) (s : BitVec 5) (i : BitVec 16)
  /-- R402: Store 4 bytes to DMEM. -/
  | virgaSw (d : BitVec 5) (s : BitVec 5) (i : BitVec 16)
  /-- R403: Branch if equal. -/
  | virgaBeq (s : BitVec 5) (t : BitVec 5) (o : BitVec 16)
  /-- R403: Branch if not equal. -/
  | virgaBne (s : BitVec 5) (t : BitVec 5) (o : BitVec 16)
  /-- R403: Branch if signed less. -/
  | virgaBlt (s : BitVec 5) (t : BitVec 5) (o : BitVec 16)
  /-- R403: Branch if signed greater or equal. -/
  | virgaBge (s : BitVec 5) (t : BitVec 5) (o : BitVec 16)
  /-- R403: Branch if unsigned less. -/
  | virgaBltu (s : BitVec 5) (t : BitVec 5) (o : BitVec 16)
  /-- R403: Branch if unsigned greater or equal. -/
  | virgaBgeu (s : BitVec 5) (t : BitVec 5) (o : BitVec 16)
  /-- R403: Unconditional jump. -/
  | virgaJ (o : BitVec 26)
  /-- R403: Jump and link into g31. -/
  | virgaJal (o : BitVec 26)
  /-- R403: Jump to a register. -/
  | virgaJr (s : BitVec 5)
  /-- R404: Read a Virga system register. -/
  | virgaMfv (d : BitVec 5) (n : BitVec 12)
  /-- R404: Write a Virga system register. -/
  | virgaMtv (s : BitVec 5) (n : BitVec 12)
  /-- R406: Take the head event record, optionally waiting for one. -/
  | virgaEvtake (d : BitVec 5) (w : Bool)
  /-- R407: Set a timer's deadline and period. -/
  | virgaTmset (p : BitVec 5) (n : BitVec 5) (t : BitVec 5)
  /-- R409: Read a PDC entry. -/
  | virgaPdcrd (d : BitVec 5) (s : BitVec 5)
  /-- R409: Write a field of an owned PDC. -/
  | virgaPdcwr (s : BitVec 5) (t : BitVec 5) (f : BitVec 3)
  /-- R409: Move an owned PDC to FAILED. -/
  | virgaPdcfail (d : BitVec 5) (s : BitVec 5)
  /-- R410: Queue retransmission of a range of PSNs. -/
  | virgaRetx (c : BitVec 5) (s : BitVec 5) (t : BitVec 5)
  /-- R410: Queue retransmission of PSNs by mask. -/
  | virgaRetxm (m : BitVec 5) (s : BitVec 5) (t : BitVec 5)
  /-- R411: List the owned unacknowledged PSNs last sent on a port. -/
  | virgaLosnext (d : BitVec 5) (s : BitVec 5) (r : Bool)
  /-- R412: Read a path set entry with port status. -/
  | virgaPsrd (d : BitVec 5) (s : BitVec 5) (t : BitVec 5)
  /-- R412: Clear EN of a path set entry. -/
  | virgaPsdis (s : BitVec 5) (t : BitVec 5)
  /-- R412: Count usable and total entries of a path set. -/
  | virgaPscnt (d : BitVec 5) (s : BitVec 5)
  /-- R413: Read an RCB. -/
  | virgaRcbrd (d : BitVec 5) (s : BitVec 5)
  /-- R413: Read 64 bits of an RCB bitmap. -/
  | virgaBmrd (d : BitVec 5) (s : BitVec 5) (t : BitVec 5)
  /-- R413: Read a window entry. -/
  | virgaWinrd (d : BitVec 5) (s : BitVec 5)
  /-- R413: Read a peer entry. -/
  | virgaPeerrd (d : BitVec 5) (s : BitVec 5)
  /-- R413: Read the epoch state of a security domain. -/
  | virgaEprd (d : BitVec 5) (s : BitVec 5)
  /-- R414: Post a record to the host event ring. -/
  | virgaHev (s : BitVec 5) (t : BitVec 5)
  /-- R39: Assertion and release of PERST# resets the package and starts the start-up sequence at phase 1. -/
  | perstAssert
  /-- R39: The root of trust verifies the firmware image, and the sequence moves to phase 2 when verification completes. -/
  | startupPhase1
  /-- R39: The IO dies start, the Virga cores load their firmware and the PCIe host port trains. -/
  | startupPhase2
  /-- R39: The base dies train HBM, load the row-remap tables and clear the write-combining store. -/
  | startupPhase3
  /-- R39: The compute dies leave reset, the beat counters start and the banks are scrubbed. -/
  | startupPhase4
  /-- R39: The CXL ports and Ethernet ports train, and GSTAT.READY is set when the phase completes. -/
  | startupPhase5
  /-- R40: A PCIe configuration request to the host port is answered with CRS or completed, depending on the start-up phase. -/
  | configRequest
  /-- R124: The host writes a firmware image into the persistent store over the management sideband. -/
  | sidebandFirmwareWrite
  /-- R38: A die reaches 115 °C, THERMTRIP_N is asserted and issue stops on every core. -/
  | thermtrip
  /-- R145: Each 10 µs interval, while a power or temperature limit is exceeded or has cleared, team duty is lowered or raised by 1/16 and a THROTTLE record is posted. -/
  | throttleStep
  /-- R29: A CXL link goes down, its range returns poison for reads and discards writes, and MEM_UE is reported once. -/
  | cxlLinkDown
  /-- R29: A CXL port reset finishes retraining and enumeration, and its range returns to service. -/
  | cxlResetComplete
  /-- R50: An optical engine detects loss of light on a wavelength, clears the admitted bit, discards egress and posts LOS to every Virga core. -/
  | lossOfLight
  /-- R23: An Ethernet port whose light has returned finishes retraining and posts LOSCLR to its Virga core. -/
  | linkRetrained
  /-- R397: The PTP message engine of IO die 0 completes an exchange and updates PTPOFS and PTPSEQ. -/
  | ptpExchangeComplete
  /-- R42: A received PFC or PAUSE frame is counted and discarded. -/
  | pauseFrameReceived
  /-- R80: An RMA write of kind stream arrives and is tested, placed or reduced, acknowledged, or answered with a NACK at the RCB's home. -/
  | rmaWriteStreamArrival
  /-- R70: A packet of a tagged send arrives and is handled as an RMA write of kind stream. -/
  | taggedSendArrival
  /-- R86: A tile completion waiting in the home production queue is produced once RREL frees a slot. -/
  | productionQueueDrain
  /-- R97: An RMA read of kind window arrives and is checked against the window, then performed or refused. -/
  | remoteReadArrival
  /-- R97: An RMA write of kind window arrives and is admitted and performed, or refused with VIOL. -/
  | remoteWriteArrival
  /-- R99: A remote atomic arrives, is admitted and performed at the serialisation point, or is refused. -/
  | remoteAtomicArrival
  /-- R54: A selective acknowledgement arrives, advancing UNAPSN, restarting the timer, raising CREDIT and possibly posting CCSIG. -/
  | ackReceived
  /-- R55: A NACK arrives at the sender and posts TRIM, NACK or PARKED, or ends a refused PSN. -/
  | nackReceived
  /-- R46: The peer acknowledges the close exchange, and the QUIESCE PDC becomes CLOSED. -/
  | pdcCloseAckReceived
  /-- R53: The 1 µs acknowledgement coalescing bound expires, and the pending acknowledgement is sent. -/
  | ackCoalesceTimeout
  /-- R54: A PDC's retransmission timer expires and RTO is posted. -/
  | rtoExpiry
  /-- R57: The receiver-not-ready backoff of a PSN expires, and the hardware retransmits the packet. -/
  | parkedBackoffExpiry
  /-- R59: CCUS µs pass since the last CCSIG with something acknowledged, so CCSIG is posted and ECNCNT is cleared. -/
  | ccsigTimer
  /-- R49: A new packet that the window and credit limits allow is sent on a path entry chosen under R49. -/
  | packetTransmit
  /-- R410: The hardware sends a queued retransmission PSN, first testing whether it is still unacknowledged. -/
  | retxSend
  /-- R46: An OPEN PDC with nothing in flight for 1 ms enters QUIESCE and starts the close exchange. -/
  | pdcIdleTimeout
  /-- R46: The close exchange finds no answer within 2 × RTOMAX, and the PDC becomes CLOSED. -/
  | pdcCloseTimeout
  /-- R63: GTIME reaches the installed switch time, the sender moves to epoch e+1 and KEYEPOCH is posted. -/
  | keyEpochSwitch
  /-- R63: 2 × RTOMAX after the switch, packets of the old epoch from the peer are no longer accepted. -/
  | keyEpochGraceEnd
  /-- R76: An RCBSET open that waited for 1 ms after the last close opens the RCB. -/
  | rcbReopenDelayEnd
  /-- R102: ADMIT of a CLOSING window reaches zero, GEN increments, the window becomes FREE and REVOKED is posted. -/
  | windowRevokeComplete
  /-- R104: The host writes a BAR 0 register that has no behaviour of its own. -/
  | registerWrite
  /-- R106: Writing GCTL.FEAT = 1 submits DRVFEAT, setting FEATOK or FEATERR. -/
  | gctlFeat
  /-- R105: A write of GCTL.EN enables or disables command processing, with enabling allowed only while FEATOK is set. -/
  | gctlEn
  /-- R120: A write of GCTL.EVEN enables or disables the event ring. -/
  | gctlEven
  /-- R120: The host advances EVCONS, freeing ring space so that buffered event records are written. -/
  | evconsWrite
  /-- R118: A write to SEMPOKE re-evaluates the WAITSEM commands waiting on that semaphore. -/
  | sempoke
  /-- R109: A write of the producer index to QNOTIFY makes commands available for fetch. -/
  | qnotify
  /-- R108: Writing QCFG.EN = 1 enables the queue and sets QCONS and the expected index to 0. -/
  | qcfgEnable
  /-- R108: Writing QCFG.EN = 0 disables the queue, and commands already accepted run to completion. -/
  | qcfgDisable
  /-- R110: Writing RESUME clears HALTED, and the halted command is fetched afresh. -/
  | qcfgResume
  /-- R110: The device fetches the next command of a queue and compares its stamp with the lap. -/
  | commandFetch
  /-- R110: After 1 µs a mismatched slot is fetched again, and after the ninth mismatch the queue halts and QSTAMP is posted. -/
  | stampRefetch
  /-- R103: The host reads or writes HBM through BAR 2. -/
  | bar2Access
  /-- R125: The root of trust answers an SPDM GET_VERSION request over DOE. -/
  | spdmGetVersion
  /-- R125: The root of trust answers an SPDM GET_CAPABILITIES request. -/
  | spdmGetCapabilities
  /-- R125: The root of trust answers an SPDM NEGOTIATE_ALGORITHMS request. -/
  | spdmNegotiateAlgorithms
  /-- R125: The root of trust answers an SPDM GET_DIGESTS request. -/
  | spdmGetDigests
  /-- R125: The root of trust answers an SPDM GET_CERTIFICATE request. -/
  | spdmGetCertificate
  /-- R125: The root of trust answers an SPDM CHALLENGE request. -/
  | spdmChallenge
  /-- R125: The root of trust answers an SPDM GET_MEASUREMENTS request with measurements 1 to 4. -/
  | spdmGetMeasurements
  /-- R133: The LAUNCH command reads the launch descriptor and tables, then creates the teams or refuses the launch. -/
  | launch
  /-- R113: The HCOPY command copies a byte range between physical or virtual addresses. -/
  | hcopy
  /-- R117: The SIGNAL command raises a semaphore to the greater of its value and the given value. -/
  | signal
  /-- R118: The WAITSEM command holds its queue until the semaphore reaches the awaited value. -/
  | waitsem
  /-- R118: At least every 10 µs, a waiting WAITSEM re-reads its semaphore. -/
  | waitsemReevaluate
  /-- R118: A WAITSEM timeout expires, the command completes TIMEOUT and the queue halts with cause 2. -/
  | waitsemTimeout
  /-- R114: The CTXNEW command creates a context with its page-table root and descriptor table, plus a context key if it is protected. -/
  | ctxnew
  /-- R262: The CTXKILL command starts removal of a context in seven stages. -/
  | ctxkill
  /-- R262: A removal stage drains, the next stage begins, and after stage 7 CTXKILL completes. -/
  | ctxkillStageDrained
  /-- R262: A removal stage has not drained after 10 ms, so CTX_REMOVE_STUCK is posted and the tiles are fenced. -/
  | ctxRemoveStuck
  /-- R149: CTXPREEMPT mode 0 sets YREQ in the placed teams and starts the grace window. -/
  | ctxpreemptYield
  /-- R149: CTXPREEMPT mode 1 scans every cell of the placed named teams at once. -/
  | ctxpreemptScan
  /-- R149: The grace window ends, and every cell not yet yielded is scanned. -/
  | graceWindowEnd
  /-- R255: The last image byte performs, IMAGE_SAVED is posted, the slot is freed and the clock restarts. -/
  | saveComplete
  /-- R255: A save exceeds 2 ms, SAVELOST is reported and CTXPREEMPT completes FAULTED. -/
  | saveTimeout
  /-- R427: The IMGRESTORE command checks an image, reserves slots and restores one cell, or refuses the image. -/
  | imgrestore
  /-- R257: A restore finishes streaming, verification, shell application and reconciliation, and the tile clock restarts. -/
  | restoreComplete
  /-- R197: MAPSET operation 0 removes the translations of a range from every TLB of the context. -/
  | mapsetInvalidate
  /-- R190: MAPSET operation 1 replaces the page-table root and invalidates every translation. -/
  | mapsetReplaceRoot
  /-- R74: RCBSET operation 0 opens an RCB, snapshotting its descriptor and pre-marking clipped chunks. -/
  | rcbsetOpen
  /-- R76: RCBSET operation 1 closes an RCB, sets it FREE and increments GEN. -/
  | rcbsetClose
  /-- R93: RCBSET operation 2 sets an RCB MOVED and writes its state to an export area. -/
  | rcbsetExport
  /-- R93: RCBSET operation 3 opens an RCB from an export, with its bitmap and production queue. -/
  | rcbsetImport
  /-- R119: PEERSET operation 0 writes a peer entry. -/
  | peersetEntry
  /-- R91: PEERSET operation 1 writes a multicast list. -/
  | peersetMcastList
  /-- R62: PEERSET operation 2 installs a next-epoch key and its switch time. -/
  | peersetNextKey
  /-- R46: PEERSET operation 3 moves the FAILED PDCs of a peer to CLOSED. -/
  | peersetCloseFailed
  /-- R94: PEERSET operation 4 re-points the PDCs of a peer to a new address and resends their unacknowledged PSNs. -/
  | peersetRepoint
  /-- R64: The PATHSET command writes a path set, applies it at packet boundaries and admits the named ports whose link is up. -/
  | pathset
  /-- R95: The WINSET command writes a FREE window entry, or is refused. -/
  | winset
  /-- R102: The WINREVOKE command sets a window CLOSING, after which new accesses are refused. -/
  | winrevoke
  /-- R113: FEATURE parameter 1 sets the package power limit. -/
  | featurePowerLimit
  /-- R36: FEATURE parameter 2 selects the Ethernet port for PTP. -/
  | featurePtpPort
  /-- R42: FEATURE parameter 3 sets the transport UDP destination port. -/
  | featureUdpPort
  /-- R259: FEATURE parameter 4 sets the hang watchdog period. -/
  | featureWatchdog
  /-- R29: FEATURE parameter 5 resets a CXL port, which retrains and re-enumerates. -/
  | featureCxlReset
  /-- R261: FEATURE parameter 6 reloads a base die's row-remap table from the persistent record. -/
  | featureRemapReload
  /-- R123: The CNTSET command sets a counter's source, optionally clearing it and arming COUNTER_OVF. -/
  | cntset
  /-- R124: The FWLOAD command verifies a firmware image and writes it to the persistent store. -/
  | fwload
  /-- R123: An event counter wraps modulo 2^64 and posts COUNTER_OVF when armed. -/
  | counterWrap
  /-- R259: The watchdog count of a placed team reaches P and CTX_HANG is posted. -/
  | ctxHang
  /-- R138: The launch unit places the head team of the queue on a fitting cluster. -/
  | teamPlace
  /-- R147: The periodic cluster test finds an eligible team and starts swapping it out. -/
  | swapTest
  /-- R147: Every image of a swapping team is written, its slots are freed and its wake conditions are registered. -/
  | swapComplete
  /-- R148: The wait monitor re-tests a WAITA condition, at least every 10 µs. -/
  | waitMonitorPoll
  /-- R168: A step group's step completes on beat C, flipping its regions and incrementing STEPCNT. -/
  | gstepComplete
  /-- R173: On beat T the bus carries a single sender's data to the armed latches, or a collision completes them unfilled. -/
  | broadcastBeat
  /-- R174: A latch completes at beat T + 7 and LATSTAT is updated. -/
  | latchComplete
  /-- R186: A write-combining store line held for 2 µs drains to HBM. -/
  | wcsLineDrainTimeout
  /-- R356: The copy engine starts the pending operation with the earliest deadline when fewer than 4 are in progress. -/
  | copyStart
  /-- R360: A copy operation completes, writes its flag and produces its ring slot, or waits for ring space. -/
  | copyComplete
  /-- R374: A free array takes the oldest ready command of a slot and starts its routine. -/
  | matrixCommandStart
  /-- R273: A group stalled before commit, on a queue, drain or wait, commits when its condition holds. -/
  | stalledGroupCommit
  /-- R246: A pending deferred trap (REMOTE, COLLIDE, LATCH or an engine fault) is taken at the next group boundary. -/
  | deferredTrap
  /-- R260: An uncorrectable memory error poisons the word and reports it. -/
  | eccUncorrectable
  /-- R260: A corrected memory error is counted in class 6 or 7. -/
  | eccCorrected
  /-- R260: A flop parity error stops issue of the tile's cells, and each raises POISON to the host. -/
  | parityError
  /-- R261: An uncorrectable row-remap table error makes its HBM channel return poison and posts REMAP_TABLE_UE. -/
  | remapTableUe
  /-- R407: A Virga timer reaches its deadline, posts a TIMER record and reloads or disables. -/
  | virgaTimerExpiry
  /-- R397: The first positive write to GTSTEP on core 0 steps GTIME forward once. -/
  | gtstepWrite
  /-- R397: A write to GTRATE on core 0 sets the rate correction of GTIME. -/
  | gtrateWrite
  /-- R384: Retire the command clean. -/
  | uopRet
  /-- R384: Micro-operation no-op. -/
  | uopMnop
  /-- R399: Virga no-op. -/
  | virgaNop
  /-- R404: Return from a Virga fault. -/
  | virgaVret
  /-- R273: The value of a committed global, peer-near or window load or atomic returns to the cell, binding or poisoning its register and releasing the scoreboard. -/
  | accessResponseReturn
  /-- R115: The last byte of an HCOPY is written, or it stops at a faulting page, and its completion is written. -/
  | hcopyComplete
  /-- R46: A peer's close exchange message arrives for a PDC identity and is answered. -/
  | pdcCloseRequestReceived
  /-- R256: A root of trust receives a sealed context key and current counter from another package's root of trust over the host-carried SPDM session. -/
  | contextKeyTransfer
  /-- R287: A Sikan group holding an unassigned opcode or a misplaced header issues and raises ILLOP or ILLHDR. -/
  | unassignedOpcode
  /-- R399: A Virga word with an unassigned opcode, or OP 0 with other bits set, issues and raises ILLOP. -/
  | virgaUnassignedOpcode
  deriving DecidableEq, Repr

end Sys2Proof
end

