-- ==== Sys2Proof/Machine/State.lean ====
section
/-!
DEFINITION. Sys2Proof/Machine/State.lean: the state of one package as plain data, the reasons a step can stop, and the
state right after reset.
-/
namespace Sys2Proof.Machine

/-- What moves next (log 1): a cell, a Virga core, a micro-operation, the command processor, an event with its data, time,
a store of the host into its own memory, a core's merge stage, an element of a copy, the loss of a cached entry, the
device runtime that sets a new cell's trap vector (R422), a part of an element, an operand or an element of a result that an
engine reads or writes ahead of the others (R201). -/
inductive Turn where
  | cell (key : Nat)
  | virga (n : Nat)
  | uop (key : Nat) (id : BitVec 16)
  | command
  | event (i : Instr) (x : Input)
  | elapse (beats ns : Nat)
  | hostStore (bus : Nat) (bs : List Byte)
  | merge (core : Nat)
  | element (key : Nat) (order : Nat) (n : Nat)
  | dropTlb (core : Nat) (n : Nat)
  | dropLayoutTlb (die : Nat) (n : Nat)
  | dropDesc (core : Nat) (n : Nat)
  | dropCode (core : Nat) (k : Nat)
  | runtime (key : Nat) (entry : BitVec 64)
  | ahead (key : Nat) (order : Nat) (n : Nat) (part : Nat)
  | near (key : Nat) (id : BitVec 16) (addr : Nat) (word : Bool)
  | stored (key : Nat) (id : BitVec 16) (n : Nat)
  deriving DecidableEq, Repr

/-- Where the instruction that exec runs stands: the cell key, its own slot address, the address of its group and of
the next group, its slot word, its number in the group, the fetch fault of the next bundle (R302), and for a
micro-operation the command it belongs to. -/
structure Iss where
  key : Nat
  addr : BitVec 64
  group : BitVec 64
  next : BitVec 64
  word : BitVec 32
  idx : Nat
  nextFault : Option TrapInfo
  cmd : BitVec 16
  virga : Nat
  deriving DecidableEq, Repr

/-- The package. -/
structure State where
  mem : List Host.Cell
  poison : Tbl Bool
  poisonSeen : Tbl Bool
  cells : Tbl Cell
  cores : Tbl Core
  dies : Tbl Die
  teams : Tbl Team
  ctxs : Tbl Context
  gafin : Gafin
  pkg : Package
  cxl : Tbl CxlPort
  saves : List SaveJob
  restores : List RestoreJob
  images : List ImageRecord
  launchSeq : Nat
  net : Net
  virga : Tbl Virga
  agenda : List Turn
  tick : Nat
  iss : Iss
  input : Input
  deriving DecidableEq, Repr

/-- Why the machine stops. -/
inductive Fault where
  /-- The agenda names a core, a context slot, a die or a Virga core that the package does not have (R18, R19, R392);
  raised by step alone, at a turn that nothing in the machine can ask for. Safe: the model stops where the spec knows no
  agent. -/
  | noAgent (n : Nat)
  deriving DecidableEq, Repr

/-- Why an instruction has no meaning. -/
inductive Refusal where
  /-- An arm of exec without a meaning yet; raised by Dispatch only. Safe: nothing is claimed of it. -/
  | notModelled (mnemonic : String)
  deriving DecidableEq, Repr

/-- Gafin right after reset: every register at its reset value (R104 to R123); what has none is 0 (log 5). -/
def Gafin.reset : Gafin :=
  ⟨0, false, false, false, false, false, 0, 0, 0, 0, 0, 0, false, [], 0, 0, [], [], [], [], [], [], [], [], [], [], []⟩

/-- The package right after PERST# is released: start-up phase 1 is next (R39); the transport's UDP port is 4793 and the
power limit 3,600 W (log 5); no Ethernet port is selected for PTP before the host selects one, so none has exchanges (R36,
DEDUCED, log 40). -/
def Package.reset : Package :=
  ⟨1, false, [], false, 3600, 0, 0, 0, false, .free, 0, 0, 0, 0, 4793, 0, [], 0⟩

/-- The transport right after reset: no PDC, no peer, no path set, every admitted bit clear (R48). -/
def Net.reset : Net := ⟨[], [], [], [], [], [], [], [], [], [], [], []⟩

/-- The state right after reset. -/
def State.reset : State where
  mem := []
  poison := []
  poisonSeen := []
  cells := []
  cores := []
  dies := []
  teams := []
  ctxs := []
  gafin := Gafin.reset
  pkg := Package.reset
  cxl := []
  saves := []
  restores := []
  images := []
  launchSeq := 0
  net := Net.reset
  virga := []
  agenda := []
  tick := 0
  iss := ⟨0, 0, 0, 0, 0, 0, none, 0, 0⟩
  input := .none

end Sys2Proof.Machine
end

