-- ==== Sys2Proof/Machine/Phys.lean ====
section
/-!
DEFINITION. Sys2Proof/Machine/Phys.lean: access to the numbered collections of State, the physical address map (R26,
R28, R30, R31), physical memory through its serialisation points (R186 to R189, R200, R260, R261), event counters (R123),
host event records (R120 to R122) and semaphores (R117).
-/
namespace Sys2Proof.Machine

/-- A core before any cell (R140, R197). -/
def coreEmpty : Core := ⟨0, false, false, false, [], [], none, none, false, [], [], 0⟩

/-- A die stack as after start-up. -/
def dieEmpty : Die := ⟨[], [], [], 0, 0⟩

/-- A CXL port without a link. -/
def cxlEmpty : CxlPort := ⟨false, false, 0, false, [], []⟩

/-- No team. -/
def teamEmpty : Team := ⟨.absent, [], 0, 16, 16, [], [], [], 0, false, false, 0, false, [], 0, none, 0, []⟩

/-- No context. -/
def ctxEmpty : Context := ⟨false, false, 0, 0, 0, 0, none, none, none⟩

/-- A queue block after reset (R108). -/
def queueEmpty : Queue := ⟨false, false, 0, 0, 0, 0, 0, 0, 0, 0, 0, 0⟩

/-- The cell of a context slot; a key is 2 * core + slot. -/
def getCell (s : State) (k : Nat) : Cell := tblGet Cell.empty s.cells k

/-- Put the cell of a context slot. -/
def setCell (s : State) (k : Nat) (c : Cell) : State := { s with cells := tblSet Cell.empty s.cells k c }

/-- Change the cell of a context slot. -/
def modCell (s : State) (k : Nat) (f : Cell → Cell) : State := setCell s k (f (getCell s k))

/-- A core. -/
def getCore (s : State) (n : Nat) : Core := tblGet coreEmpty s.cores n

/-- Change a core. -/
def modCore (s : State) (n : Nat) (f : Core → Core) : State :=
  { s with cores := tblSet coreEmpty s.cores n (f (getCore s n)) }

/-- The key of a table entry of a context in a core's descriptor cache (R176). -/
def dcacheKey (ctx slot : Nat) : Nat := 4096 * ctx + slot

/-- A context leaves a core: its descriptors leave the core's cache (R176). -/
def dropContext (ctx : Nat) (u : Core) : Core := { u with dcache := tblFilter (fun e _ => e / 4096 != ctx) u.dcache }

/-- A die stack. -/
def getDie (s : State) (n : Nat) : Die := tblGet dieEmpty s.dies n

/-- Change a die stack. -/
def modDie (s : State) (n : Nat) (f : Die → Die) : State := { s with dies := tblSet dieEmpty s.dies n (f (getDie s n)) }

/-- The number of a team in the team table: teams are named by context and index (R127). -/
def teamKey (ctx team : Nat) : Nat := ctx * 65536 + team

/-- A team. -/
def getTeam (s : State) (k : Nat) : Team := tblGet teamEmpty s.teams k

/-- Change a team. -/
def modTeam (s : State) (k : Nat) (f : Team → Team) : State :=
  { s with teams := tblSet teamEmpty s.teams k (f (getTeam s k)) }

/-- A context. -/
def getCtx (s : State) (n : Nat) : Context := tblGet ctxEmpty s.ctxs n

/-- Change a context. -/
def modCtx (s : State) (n : Nat) (f : Context → Context) : State :=
  { s with ctxs := tblSet ctxEmpty s.ctxs n (f (getCtx s n)) }

/-- A CXL port. -/
def getCxl (s : State) (n : Nat) : CxlPort := tblGet cxlEmpty s.cxl n

/-- Change a CXL port. -/
def modCxl (s : State) (n : Nat) (f : CxlPort → CxlPort) : State :=
  { s with cxl := tblSet cxlEmpty s.cxl n (f (getCxl s n)) }

/-- A queue block. -/
def getQueue (s : State) (n : Nat) : Queue := tblGet queueEmpty s.gafin.queues n

/-- Change a queue block. -/
def modQueue (s : State) (n : Nat) (f : Queue → Queue) : State :=
  { s with gafin := { s.gafin with queues := tblSet queueEmpty s.gafin.queues n (f (getQueue s n)) } }

/-- Count an event of a source code (R123): every counter whose CNTSRC names the code advances, modulo 2^64; a wrap of
an armed counter is left to the row COUNTER_WRAP, which finds it marked in bit 18 of CNTSRC. -/
def countSource (s : State) (code n : Nat) : State :=
  { s with gafin := { s.gafin with
      cnt := foldIndex (fun t i =>
        if (tblGet 0 s.gafin.cntsrc i).toNat % 65536 = code then
          tblSet 0 t i (tblGet 0 t i + BitVec.ofNat 64 n) else t) s.gafin.cnt 0 64
      cntsrc := foldIndex (fun t i =>
        let w := tblGet 0 s.gafin.cntsrc i
        if w.toNat % 65536 = code ∧ 2 ^ 64 ≤ (tblGet 0 s.gafin.cnt i).toNat + n ∧ w.getLsbD 17 then
          tblSet 0 t i (w ||| 0x40000#32) else t) s.gafin.cntsrc 0 64 } }

/-! ### The physical address map -/

/-- First address above HBM (R26). -/
def hbmTop : Nat := 0x6000000000

/-- First address of the CXL range (R28). -/
def cxlBase : Nat := 0x100000000000

/-- First address above the CXL range (R28). -/
def cxlTop : Nat := 0x200000000000

/-- First address of host memory (R30). -/
def hostBase : Nat := 0x8000000000000

/-- What a physical address is (R30). -/
inductive PhysKind where
  | hbm | cxl (port : Nat) | host | hole
  deriving DecidableEq, Repr

/-- Was a feature bit accepted (R106, R107)? -/
def feature (s : State) (n : Nat) : Bool := s.gafin.featok && s.gafin.drvfeat.getLsbD n

/-- Addresses of one CXL port: 2 TiB (R28). -/
def cxlSpan : Nat := 0x20000000000

/-- The range of R30 that a physical address lies in; beyond an expander's capacity is a hole (R28). -/
def mapKind (s : State) (pa : Nat) : PhysKind :=
  if pa < hbmTop then .hbm
  else if cxlBase ≤ pa ∧ pa < cxlTop then
    let port := (pa - cxlBase) / cxlSpan
    if (pa - cxlBase) % cxlSpan < (getCxl s port).capacity then .cxl port else .hole
  else if hostBase ≤ pa ∧ pa < 2 * hostBase then .host
  else .hole

/-- What a physical address reaches: while the driver has not accepted the CXL tier, that function is off and its range is
as a hole (R106, R107, DEDUCED, log 41). -/
def physKind (s : State) (pa : Nat) : PhysKind :=
  match mapKind s pa with
  | .cxl port => if feature s 2 then .cxl port else .hole
  | kind => kind

/-- Do n bytes from a physical address lie in the ranges of R30: none in a hole, none at 2^52 or above? -/
def mapHolds (s : State) (pa n : Nat) : Bool :=
  let last := pa + n - 1
  match mapKind s pa, mapKind s last with
  | .hbm, .hbm => true
  | .host, .host => true
  | .cxl p, .cxl q => p == q || (q == p + 1 && (getCxl s p).capacity == cxlSpan && decide (n ≤ cxlSpan))
  | _, _ => false

/-- The physical address of a bus address of the host (R30). -/
def hostAddr (bus : Nat) : Nat := hostBase + bus

/-- The stack, and so the base die, of an HBM address (R184). -/
def stackOf (pa : Nat) : Nat := (bitsOf pa 10 8) ^^^ (bitsOf pa 26 24)

/-- The channel of an HBM address in its stack (R184). -/
def channelOf (pa : Nat) : Nat := bitsOf pa 15 11

/-- Does a range return poison for reads and discard writes: a CXL link that is down (R29), or a channel whose row-remap
table is lost (R261)? -/
def physLost (s : State) (pa : Nat) : Bool :=
  match physKind s pa with
  | .hbm => bitOf (getDie s (stackOf pa)).badChannels (channelOf pa)
  | .cxl port => !(getCxl s port).up || (getCxl s port).resetting
  | _ => false

/-! ### Bytes at their serialisation points -/

/-- A byte of memory; what nothing has written reads as 0 (log 4). -/
def memByte (s : State) (pa : Nat) : Byte := tblGet 0 s.mem pa

/-- A pending byte of the write-combining store (R186). -/
def pendingByte (s : State) (pa : Nat) : Option Byte :=
  if pa < hbmTop then
    match tblGet none (getDie s (stackOf pa)).lines (pa / 256) with
    | some l => tblGet none l.data (pa % 256)
    | none => none
  else none

/-- The byte that a read by the coherent path returns (R187, R200). No access reaches a hole (R31): a read the device
makes there on its own account gets a byte that no rule states (log 13). -/
def physByte (s : State) (pa : Nat) : Byte :=
  if physKind s pa = .hole then BitVec.ofNat 8 (Config.unstated 31 pa) else (pendingByte s pa).getD (memByte s pa)

/-- The bytes that a read by the coherent path returns. -/
def physBytes (s : State) (pa : Nat) : Nat → List Byte
  | 0 => []
  | n + 1 => physByte s pa :: physBytes s (pa + 1) n

/-- Does a read of the range return poison (R29, R260, R261)? -/
def physPoisoned (s : State) (pa n : Nat) : Bool :=
  (physLost s pa) || (List.range ((pa % 8 + n + 7) / 8)).any fun i => tblGet false s.poison (pa / 8 + i)

/-- Write bytes into memory itself. -/
def memWrite (s : State) (pa : Nat) : List Byte → State
  | [] => s
  | b :: bs => memWrite { s with mem := tblSet 0 s.mem pa b } (pa + 1) bs

/-- Write a pending byte into a line of the write-combining store (R186). -/
def holdByte (s : State) (pa : Nat) (b : Byte) (owner : Owner) : State :=
  modDie s (stackOf pa) fun d =>
    let l := (tblGet none d.lines (pa / 256)).getD ⟨[], s.pkg.gtime.toNat, []⟩
    let owners := if l.owners.contains owner then l.owners else l.owners ++ [owner]
    let line : WcLine := ⟨tblSet none l.data (pa % 256) (some b), l.since, owners⟩
    { d with lines := tblSet none d.lines (pa / 256) (some line) }

/-- Hold several bytes. -/
def holdBytes (s : State) (pa : Nat) (owner : Owner) : List Byte → State
  | [] => s
  | b :: bs => holdBytes (holdByte s pa b owner) (pa + 1) owner bs

/-- The pending bytes of a line as writes to memory, lowest offset first. -/
def drainInto (mem : List Host.Cell) (base : Nat) : Tbl (Option Byte) → List Host.Cell
  | [] => mem
  | (o, some b) :: r => drainInto (tblSet 0 mem (base + o) b) base r
  | (_, none) :: r => drainInto mem base r

/-- Drain a line of the write-combining store to HBM (R186); a channel whose row-remap table is lost discards it (R261). -/
def drainLine (s : State) (die line : Nat) : State :=
  match tblGet none (getDie s die).lines line with
  | none => s
  | some l =>
    modDie { s with mem := if physLost s (line * 256) then s.mem else drainInto s.mem (line * 256) l.data } die fun d =>
      { d with lines := tblSet none d.lines line none }

/-- Drain every line of a die that satisfies the test. -/
def drainLines (s : State) (die : Nat) (p : WcLine → Bool) : State :=
  (tblKeys (getDie s die).lines).foldl (fun s k =>
    match tblGet none (getDie s die).lines k with
    | some l => if p l then drainLine s die k else s
    | none => s) s

/-- Drain the lines that a range touches (R186): an uncached write follows every earlier pending write to its bytes. -/
def drainRange (s : State) (pa n : Nat) : State :=
  foldIndex (fun s l => drainLine s (stackOf (l * 256)) l) s (pa / 256) ((pa + n + 255) / 256 - pa / 256)

/-- Drain, on every die, the lines that satisfy the test. -/
def drainAll (s : State) (p : WcLine → Bool) : State := foldIndex (fun s d => drainLines s d p) s 0 8

/-- Lines that a die's store holds at most: 64 MiB of 256-byte lines (R186). -/
def wcCapacity : Nat := 262144

/-- The oldest line of a die. -/
def oldestLine (d : Die) : Option Nat :=
  (d.lines.foldl (fun (b : Option (Nat × Nat)) e =>
    match e.2, b with
    | some l, some (t, _) => if l.since < t then some (l.since, e.1) else b
    | some l, none => some (l.since, e.1)
    | none, _ => b) none).map Prod.snd

/-- Drain a line that is full, and the oldest line of a store that is out of space (R186). -/
def settleLine (s : State) (line : Nat) : State :=
  let die := stackOf (line * 256)
  let s1 := match tblGet none (getDie s die).lines line with
    | some l => if l.data.length = 256 then drainLine s die line else s
    | none => s
  if (getDie s1 die).lines.length > wcCapacity then
    match oldestLine (getDie s1 die) with
    | some k => drainLine s1 die k
    | none => s1
  else s1

/-- Settle every line that a write of n bytes has touched (R186). -/
def settleLines (s : State) (pa n : Nat) : State := foldIndex settleLine s (pa / 256) ((pa + n + 255) / 256 - pa / 256)

/-- Clear the poison of words that a write covers whole, and keep it elsewhere (R260). -/
def healWords (s : State) (pa n : Nat) : State :=
  let out := fun (w : Nat) (_ : Bool) => !(decide (pa ≤ 8 * w) && decide (8 * w + 8 ≤ pa + n))
  { s with poison := tblFilter out s.poison, poisonSeen := tblFilter out s.poisonSeen }

/-- Poison the words that a range touches (R260). -/
def poisonWords (s : State) (pa n : Nat) : State :=
  { s with poison := foldIndex (fun t i => tblSet false t (pa / 8 + i) true) s.poison 0 ((pa % 8 + n + 7) / 8) }

/-- Does a word at its serialisation point satisfy a wake condition's comparison (R148, R354)? -/
def cmpWord (cc : BitVec 2) (w v : BitVec 64) : Bool :=
  if cc = 0 then w == v else if cc = 1 then w != v else v.ule w

/-- Return a swapped team to the launch queue: its conditions go, it stands ahead of never-placed teams (R138, R148). -/
def wakeTeam (s : State) (k : Nat) : State :=
  { modTeam s k (fun t => { t with run := .queued, wakes := [], queuedAt := s.launchSeq }) with
    launchSeq := s.launchSeq + 1 }

/-- Is a wake condition of a team met by a write of n bytes into its word's 64-byte line (R148)? -/
def wakeMetAt (s : State) (pa n : Nat) : Wake → Bool
  | .word _ a cc v => decide (pa / 64 ≤ a / 64) && decide (a / 64 * 64 < pa + n) && cmpWord cc (BitVec.ofNat 64 (ofBytes (physBytes s a 8))) v
  | .rcb _ => false

/-- Test the registered conditions of the lines written (R148). -/
def testWakes (s : State) (pa n : Nat) : State :=
  s.teams.foldl (fun s e =>
    if e.2.run = .swapped ∧ e.2.wakes.any (wakeMetAt s pa n) then wakeTeam s e.1 else s) s

/-- A write by the coherent path (R186, R189, R200): `merge` for write levels that the write-combining store holds.
A write into a lost range is discarded (R29, R261), and none reaches a hole (R31). -/
def physWrite (s : State) (pa : Nat) (bs : List Byte) (merge : Bool) (owner : Owner) : State :=
  if physLost s pa || physKind s pa == .hole then s
  else
    let s1 := healWords s pa bs.length
    let s2 :=
      if pa < hbmTop then
        if merge then settleLines (holdBytes s1 pa owner bs) pa bs.length
        else memWrite (drainRange s1 pa bs.length) pa bs
      else memWrite s1 pa bs
    testWakes s2 pa bs.length

/-- The owner of a write that the device makes on its own account. -/
def noOwner : Owner := ⟨none, none, 0, false⟩

/-- The owner of a write of a cell in a class. -/
def cellOwner (s : State) (k : Nat) (cls : BitVec 4) : Owner := ⟨some (getCell s k).ctx, some k, cls, false⟩

/-- The owner of a write-back of a cell's core cache: a store of every class (R208). -/
def backOwner (s : State) (k : Nat) : Owner := ⟨some (getCell s k).ctx, some k, 0, true⟩

/-- A write that the device makes on its own account, in order and not held (R218). -/
def deviceWrite (s : State) (pa : Nat) (bs : List Byte) : State := physWrite s pa bs false noOwner

/-- A number of `n` bytes read by the coherent path. -/
def physNat (s : State) (pa n : Nat) : Nat := ofBytes (physBytes s pa n)

/-! ### The request queues of the CXL ports (R27, R189) -/

/-- Has an access still to perform? -/
def unperformed (a : Access) : Bool := a.answered.isNone

/-- May an access proceed: its tile is not stopped, or it had left the tile before the stop (R170, R250)? A cell that has
yielded or that waits on a running tile is served like any other; one that is held, for its team or on a fenced tile, is
not. -/
def accessRuns (s : State) (k : Nat) (a : Access) : Bool :=
  a.out || (!(getCore s (k / 2)).stopped && !(getCell s k).held)

/-- Requests that a CXL port has outstanding at most (R27). -/
def cxlLimit : Nat := 2048

/-- An access that has arrived at a port and not performed, while it may proceed. -/
def requestOf (s : State) (e : Nat × Nat) : Option Access :=
  (getCell s e.1).accesses.find? fun a => a.id == e.2 && unperformed a && accessRuns s e.1 a

/-- The requests of a port in arrival order. -/
def liveRequests (s : State) (port : Nat) : List (Nat × Nat) := (getCxl s port).requests.filter fun e => (requestOf s e).isSome

/-- Count a request that finds its port's outstanding ones at their limit, and is held at the base die (R123, R189). -/
def countCxl (s : State) (port : Nat) : State :=
  if cxlLimit ≤ (liveRequests s port).length then countSource s (9 * 4096 + port) 1 else s

/-- Count a request of an engine or a cache to an address, where a CXL port serves it. -/
def countAt (s : State) (pa : Nat) : State :=
  match physKind s pa with
  | .cxl port => countCxl s port
  | _ => s

/-! ### Host event ring -/

/-- The bit of EVLOST of an event type (R120). -/
def evlostBit (type : Nat) : Nat :=
  match type with
  | 0x0001 => 0
  | 0x0002 => 1
  | 0x0003 => 2
  | 0x0004 => 3
  | 0x0005 => 4
  | 0x0010 => 5
  | 0x0011 => 6
  | 0x0012 => 7
  | 0x0020 => 8
  | 0x0021 => 9
  | 0x0022 => 10
  | 0x0030 => 11
  | 0x0040 => 12
  | _ => 13

/-- Signal an MSI-X vector unless it is masked (R103, R116). -/
def signalMsix (s : State) (v : Nat) : State :=
  if tblGet false s.gafin.msixMask v then s
  else { s with gafin := { s.gafin with msix := s.gafin.msix ++ [v] } }

/-- Is the event ring full (R120)? -/
def ringFull (g : Gafin) : Bool := (g.evprod - g.evcons).toNat == 2 ^ g.evlog2.toNat

/-- A record as it is written: FLAGS bit 0, OVF, is set in the first one written after a record was dropped (R120, R121). -/
def withOvf (r : List Byte) (ovf : Bool) : List Byte :=
  if ovf then r.take 6 ++ [r.getD 6 0 ||| 1] ++ r.drop 7 else r

/-- Write one 64-byte record to the ring (R120). -/
def writeRecord (s : State) (r : List Byte) : State :=
  let g := s.gafin
  let a := hostAddr (g.evbase.toNat + 64 * (g.evprod.toNat % 2 ^ g.evlog2.toNat))
  let s1 := deviceWrite s a (withOvf r g.evovf)
  signalMsix { s1 with gafin := { s1.gafin with evprod := g.evprod + 1, evovf := false } } 0

/-- The 64 bytes of a record (R121), OVF clear. -/
def recordBytes (s : State) (e : HostEvent) : List Byte :=
  toBytes e.type.toNat 2 ++ toBytes e.sub.toNat 2 ++ toBytes (e.ctx.getD 0) 2
    ++ toBytes (2 * bit01 e.ctx.isSome) 2 ++ toBytes s.pkg.gtime.toNat 8 ++ toBytes s.gafin.evseq.toNat 4
    ++ zeroBytes 4 ++ fitBytes e.body 40

/-- Post an event record (R120): with the ring disabled nothing is written; a full ring sends it to the device buffer
of 256 records; a full buffer drops it and sets its bit of EVLOST, and the next record written has OVF. -/
def postHost (s : State) (e : HostEvent) : State :=
  if !s.gafin.even then s
  else
    let full := ringFull s.gafin
    let g := s.gafin
    if !full && g.evbuf.isEmpty then
      let s1 := writeRecord s (recordBytes s e)
      { s1 with gafin := { s1.gafin with evseq := g.evseq + 1 } }
    else if g.evbuf.length < 256 then
      { s with gafin := { g with evbuf := g.evbuf ++ [recordBytes s e], evseq := g.evseq + 1 } }
    else
      { s with gafin := { g with evlost := g.evlost ||| (1#32 <<< evlostBit e.type.toNat), evseq := g.evseq + 1, evovf := true } }

/-- Write buffered records while the ring has room (R120). -/
def drainRecords (s : State) : Nat → State
  | 0 => s
  | n + 1 =>
    match s.gafin.evbuf with
    | [] => s
    | r :: rest =>
      if ringFull s.gafin then s
      else
        let s1 := writeRecord s r
        drainRecords { s1 with gafin := { s1.gafin with evbuf := rest } } n

/-- The body of CTX_FAULT (R122). -/
def ctxFaultBody (core team cell : Nat) (pc addr aux : BitVec 64) : List Byte :=
  toBytes core 4 ++ toBytes team 2 ++ toBytes cell 1 ++ zeroBytes 1 ++ toBytes pc.toNat 8 ++ toBytes addr.toNat 8
    ++ toBytes aux.toNat 8

/-- MEM_UE (R122). -/
def postMemUe (s : State) (sub pa unit : Nat) : State :=
  postHost s ⟨0x0020, BitVec.ofNat 16 sub, none, toBytes pa 8 ++ toBytes unit 1⟩

/-- POISON_CONSUMED at the first consumption of a poisoned HBM word (R260, R122). -/
def postPoison (s : State) (core pa : Nat) (ctx : Nat) : State :=
  if hbmTop ≤ pa ∨ tblGet false s.poisonSeen (pa / 8) then s
  else
    postHost { s with poisonSeen := tblSet false s.poisonSeen (pa / 8) true }
      ⟨0x0022, 0, some ctx, toBytes core 4 ++ zeroBytes 4 ++ toBytes pa 8⟩

end Sys2Proof.Machine
end

