-- ==== Sys2Proof/Machine/Flags.lean ====
section
/-!
DEFINITION. Sys2Proof/Machine/Flags.lean: FMTCTL (R231), the controls and flags of floating-point operations, the
stochastic-rounding generators (R234) and the condition codes (R275, R296, R297, R325).
-/
namespace Sys2Proof.Machine

/-- FMTCTL as MFSR reads it: SEEDW is write-only, reserved bits read zero (R231). -/
def fmtctlRead (w : BitVec 64) : BitVec 64 := w &&& 0xFFFFFFFF00001F67#64

/-- The seed field of FMTCTL. -/
def fmtctlSeed (w : BitVec 64) : Nat := bitsOf w.toNat 63 32

/-- The rounding controls of FMTCTL (R231) with a draw. -/
def fmtctlCtl (w : BitVec 64) (draw : Nat) : FpCtl :=
  ⟨rmodeOf (bitsOf w.toNat 2 0), w.getLsbD 6, w.getLsbD 5, draw⟩

/-- FMTCTL with flags ORed in (R231). -/
def fmtctlOr (w : BitVec 64) (f : FpFlags) : BitVec 64 := w ||| BitVec.ofNat 64 (256 * fpFlagBits f)

/-- FMTCTL after an MTSR of `v` (R231): SEED, SAT8, FTZ and RM are RW, the flags W1C, SEEDW acts apart. -/
def fmtctlWrite (w v : BitVec 64) : BitVec 64 :=
  (v &&& 0xFFFFFFFF00000067#64) ||| (w &&& 0x1F00#64 &&& ~~~v)

/-- The 64 generators of a cell after seeding (R234). -/
def seedGens (seed team cell : Nat) : Tbl (BitVec 32) :=
  foldIndex (fun t l => tblSet 0 t l (genSeed seed team cell l)) [] 0 64

/-- One operation's rounding on a lane: in RSR its call of `round` steps the lane's generator and draws from it (R234).
`f` is the operation under given controls. -/
def drawOn (gens : Tbl (BitVec 32)) (lane : Nat) (fmt : BitVec 64) (f : FpCtl → FpRes) : FpRes × Tbl (BitVec 32) :=
  let g := genStep (tblGet 0 gens lane)
  let ctl := fmtctlCtl fmt (genDraw g)
  let r := f ctl
  (r, if r.rounded && decide (ctl.rm = .rsr) then tblSet 0 gens lane g else gens)

/-- The integer compares by condition code 0 to 5 (R275, R296). -/
def icmp (cond : Nat) (x y : BitVec 64) : Bool :=
  match cond with
  | 0 => x == y
  | 1 => x != y
  | 2 => x.slt y
  | 3 => !x.slt y
  | 4 => x.ult y
  | 5 => !x.ult y
  | _ => false

/-- A vector compare of two lanes at a type: 0 f32, 2 i32, 3 n32 (R275, R325). -/
def vcmpLane (ty cond : Nat) (ftz : Bool) (x y : BitVec 32) : Bool × FpFlags :=
  if ty = 0 then fcmpVal cond (ffRead .f32 ftz x.toNat) (ffRead .f32 ftz y.toNat)
  else
    let lt := if ty = 2 then x.slt y else x.ult y
    let gt := if ty = 2 then y.slt x else y.ult x
    ((match cond with
      | 0 => x == y
      | 1 => x != y
      | 2 => lt
      | 3 => !lt
      | 4 => !gt
      | 5 => gt
      | _ => false), fpNone)

end Sys2Proof.Machine
end

