-- ==== Sys2Proof/Machine/Operands.lean ====
section
/-!
DEFINITION. Sys2Proof/Machine/Operands.lean: the register operands of a Sikan instruction: reads and writes of the register
files of a cell (R277), with their hard-wired registers and poison marks (R260).
-/
namespace Sys2Proof.Machine

/-! ### Register files (R277) -/

/-- Read a scalar; s0 reads 0. -/
def rdS (c : Cell) (r : BitVec 6) : BitVec 64 := if r = 0 then 0 else tblGet 0 c.s r.toNat

/-- Write a scalar; s0 ignores writes; a write clears the poison mark (R260). -/
def wrS (c : Cell) (r : BitVec 6) (v : BitVec 64) : Cell :=
  if r = 0 then c else { c with s := tblSet 0 c.s r.toNat v, poisonS := tblErase c.poisonS r.toNat }

/-- Read a predicate; p0 reads 1. -/
def rdP (c : Cell) (n : Nat) : Bool := if n = 0 then true else tblGet false c.p n

/-- Write a predicate; p0 ignores writes; a write clears the poison mark, which stands at 64 + n (R260). -/
def wrP (c : Cell) (n : Nat) (b : Bool) : Cell :=
  if n = 0 then c else { c with p := tblSet false c.p n b, poisonR := tblErase c.poisonR (64 + n) }

/-- Read a lane mask; m0 reads all ones. -/
def rdM (c : Cell) (n : Nat) : BitVec 64 := if n = 0 then BitVec.allOnes 64 else tblGet 0 c.m n

/-- Write a lane mask; m0 ignores writes; a write clears the poison mark, which stands at 80 + n (R260). -/
def wrM (c : Cell) (n : Nat) (v : BitVec 64) : Cell :=
  if n = 0 then c else { c with m := tblSet 0 c.m n v, poisonR := tblErase c.poisonR (80 + n) }

/-- Write a matrix parameter (R371); its mark stands at 224 + n. -/
def wrMp (c : Cell) (n : Nat) (v : BitVec 64) : Cell :=
  { c with mp := tblSet 0 c.mp n v, poisonR := tblErase c.poisonR (224 + n) }

/-- Write a loop counter (R304); its mark stands at 232 + n. -/
def wrLc (c : Cell) (n : BitVec 2) (v : BitVec 64) : Cell :=
  { c with lc := tblSet 0 c.lc n.toNat v, poisonR := tblErase c.poisonR (232 + n.toNat) }

/-- Write a bit-field pattern (R355); its mark stands at 236 + n. -/
def wrXp (c : Cell) (n : Nat) (v : BitVec 64) : Cell :=
  { c with xp := tblSet 0 c.xp n v, poisonR := tblErase c.poisonR (236 + n) }

/-- Read a lane of a vector register. -/
def rdV (c : Cell) (r : BitVec 6) (lane : Nat) : BitVec 32 := tblGet 0 c.v (64 * r.toNat + lane)

/-- Write a lane of a vector register. -/
def wrV (c : Cell) (r : BitVec 6) (lane : Nat) (v : BitVec 32) : Cell :=
  { c with v := tblSet 0 c.v (64 * r.toNat + lane) v }

/-- Write every lane of a vector register, lane 0 first; the poison mark goes (R260, R337). -/
def wrVAll (c : Cell) (r : BitVec 6) (vs : List (BitVec 32)) : Cell :=
  { c with v := tblSetList 0 c.v (64 * r.toNat) vs, poisonV := tblErase c.poisonV r.toNat }

/-- Read an accumulator word (R163). -/
def rdA (c : Cell) (tile i j : Nat) : BitVec 32 := tblGet 0 c.a (4096 * tile + 64 * i + j)

/-- Write an accumulator word. -/
def wrA (c : Cell) (tile i j : Nat) (v : BitVec 32) : Cell :=
  { c with a := tblSet 0 c.a (4096 * tile + 64 * i + j) v }

end Sys2Proof.Machine
end

