-- ==== Sys2Proof/Machine/Ops.lean ====
section
/-!
DEFINITION. Sys2Proof/Machine/Ops.lean: the named operations over the system registers of a cell (R278 to R281, R310), taking a
trap and returning from one (R245, R309), handing a cell to the host, counting (R281), barriers and steps (R142, R168),
and the freeing of a team (R135).
-/
namespace Sys2Proof.Machine

/-! ### Numbering (R18, R19) -/

/-- The core of a slot key. -/
def keyCore (k : Nat) : Nat := k / 2

/-- The cluster of a slot key. -/
def keyCluster (k : Nat) : Nat := k / 32

/-- The local core number of a slot key in its cluster. -/
def keyLocal (k : Nat) : Nat := k / 2 % 16

/-- The die stack of a slot key. -/
def keyDie (k : Nat) : Nat := k / 160

/-- Is the cell's context protected (R279)? -/
def ctxProt (s : State) (n : Nat) : Bool := (getCtx s n).prot

/-! ### System registers (R278 to R281, R310) -/

/-- CELLID (R130). -/
def cellId (k : Nat) (c : Cell) : BitVec 64 :=
  BitVec.ofNat 64 (keyCore k * 2 ^ 32 + k % 2 * 2 ^ 31 + c.stage % 16 * 2 ^ 20 + c.cell % 16 * 2 ^ 16 + c.team % 65536)

/-- LATSTAT (R174). -/
def latstat (c : Cell) : BitVec 64 :=
  BitVec.ofNat 64 (c.latBeat.toNat * 2 ^ 32 + 4 * bit01 c.latColl + 2 * bit01 (!c.latches.isEmpty) + bit01 c.latFilled)

/-- CQSTAT (R279). -/
def cqstat (c : Cell) : BitVec 64 :=
  BitVec.ofNat 64 (maskOf (fun i => c.cq.getD i false) 16 * 2 ^ 16 + c.cq.length)

/-- TRAPCAUSE (R243); HOST reads zero. -/
def trapcause (c : Cell) : BitVec 64 :=
  BitVec.ofNat 64 (bit01 c.busy * 2 ^ 62 + bit01 c.pm * 2 ^ 61 + bit01 c.defer * 2 ^ 60 + bit01 c.engine * 2 ^ 59
    + c.cause.toNat)

/-- The value of a system register of a cell by its number (R278); 0 for a number that is none. -/
def sysValue (s : State) (k : Nat) (num : BitVec 12) : BitVec 64 :=
  let c := getCell s k
  match num.toNat with
  | 0x000 => BitVec.ofNat 64 (bit01 (ctxProt s c.ctx) * 4096 + c.ctx % 4096)
  | 0x001 => cellId k c
  | 0x002 => c.stepcnt
  | 0x003 => fmtctlRead c.fmtctl
  | 0x004 => BitVec.ofNat 64 (bit01 c.yreq * 2 ^ 63 + c.thresh.toNat)
  | 0x005 => latstat c
  | 0x006 => s.pkg.beat
  | 0x007 => s.pkg.gtime
  | 0x008 => c.evsel
  | 0x009 => cqstat c
  | 0x020 => c.tvec
  | 0x021 => c.trappc
  | 0x022 => trapcause c
  | 0x023 => BitVec.ofNat 64 c.trapslot.toNat
  | 0x024 => c.trapaddr
  | 0x025 => c.trapaux
  | 0x028 => c.watcha
  | 0x029 => c.watchc
  | n => if 0x010 ≤ n ∧ n ≤ 0x01F then tblGet 0 c.evcnt (n - 0x010) else 0

/-- May the mode read the register (R278)? -/
def sysReadable (super : Bool) (num : BitVec 12) : Bool := super || decide (num.toNat < 0x020)

/-- May the mode write the register (R278, R310)? -/
def sysWritable (super : Bool) (num : BitVec 12) : Bool :=
  match num.toNat with
  | 0x000 => false
  | 0x001 => false
  | 0x003 => true
  | 0x005 => true
  | 0x006 => false
  | 0x007 => false
  | 0x008 => true
  | 0x009 => false
  | _ => super

/-- A system register written field by field (R9, R310). -/
def sysWrite (c : Cell) (num : BitVec 12) (v : BitVec 64) : Cell :=
  match num.toNat with
  | 0x002 => { c with stepcnt := v }
  | 0x003 => { c with fmtctl := fmtctlWrite c.fmtctl v }
  | 0x004 => { c with thresh := v.setWidth 32 }
  | 0x005 => { c with latColl := c.latColl && !v.getLsbD 2 }
  | 0x008 => { c with evsel := v }
  | 0x020 => { c with tvec := v &&& 0x000FFFFFFFFFFFFD#64 }
  | 0x021 => { c with trappc := v &&& 0x000FFFFFFFFFFFFC#64 }
  | 0x022 => { c with busy := v.getLsbD 62, pm := v.getLsbD 61, cause := v.setWidth 8 }
  | 0x023 => { c with trapslot := v.setWidth 8 }
  | 0x024 => { c with trapaddr := v }
  | 0x025 => { c with trapaux := v &&& 0xF000FFFFFFFFFFFF#64 }
  | 0x028 => { c with watcha := v &&& 0x000FFFFFFFFFFFFF#64 }
  | 0x029 => { c with watchc := v &&& 0x1FF#64 }
  | n => if 0x010 ≤ n ∧ n ≤ 0x01F then { c with evcnt := tblSet 0 c.evcnt (n - 0x010) v } else c

/-- Count an event of R281 in every counter that selects it. -/
def countEv (c : Cell) (code n : Nat) : Cell :=
  let bump := fun t k =>
    if bitsOf c.evsel.toNat (4 * k + 3) (4 * k) = code then tblSet 0 t k (tblGet 0 t k + BitVec.ofNat 64 n) else t
  { c with evcnt := foldIndex bump c.evcnt 0 16 }

/-! ### Trap causes (R241) -/

/-- ILLOP. -/
def causeIllop : BitVec 8 := 0x01
/-- ILLDEP. -/
def causeIlldep : BitVec 8 := 0x02
/-- ILLPORT. -/
def causeIllport : BitVec 8 := 0x03
/-- ILLHDR. -/
def causeIllhdr : BitVec 8 := 0x04
/-- PRIV. -/
def causePriv : BitVec 8 := 0x05
/-- HANDLE. -/
def causeHandle : BitVec 8 := 0x08
/-- SHAPE. -/
def causeShape : BitVec 8 := 0x09
/-- FORMAT. -/
def causeFormat : BitVec 8 := 0x0A
/-- ALIGN. -/
def causeAlign : BitVec 8 := 0x10
/-- NEARBOUND. -/
def causeNearbound : BitVec 8 := 0x11
/-- PAGE. -/
def causePage : BitVec 8 := 0x12
/-- PERM. -/
def causePerm : BitVec 8 := 0x13
/-- RAPERM. -/
def causeRaperm : BitVec 8 := 0x14
/-- COLLIDE. -/
def causeCollide : BitVec 8 := 0x15
/-- BANKMODE. -/
def causeBankmode : BitVec 8 := 0x16
/-- RING. -/
def causeRing : BitVec 8 := 0x18
/-- CHAN. -/
def causeChan : BitVec 8 := 0x19
/-- LATCH. -/
def causeLatch : BitVec 8 := 0x1A
/-- MCMD. -/
def causeMcmd : BitVec 8 := 0x21
/-- MUCODE. -/
def causeMucode : BitVec 8 := 0x22
/-- REMOTE. -/
def causeRemote : BitVec 8 := 0x30
/-- POISON. -/
def causePoison : BitVec 8 := 0x31
/-- WATCH. -/
def causeWatch : BitVec 8 := 0x38
/-- SAVELOST. -/
def causeSavelost : BitVec 8 := 0x3E
/-- SYSCALL. -/
def causeSyscall : BitVec 8 := 0x3F

/-- A trap of the cell itself, with its address and INFO. -/
def cellTrap (cause : BitVec 8) (addr : BitVec 64) (info : Nat) : TrapInfo :=
  ⟨cause, addr, 0, 0, BitVec.ofNat 32 info, false⟩

/-- A trap whose INFO is the slot word (R244). -/
def wordTrap (cause : BitVec 8) (word : BitVec 32) : TrapInfo := ⟨cause, 0, 0, 0, word, false⟩

/-- TRAPAUX of a trap (R242). -/
def trapAux (t : TrapInfo) : BitVec 64 :=
  BitVec.ofNat 64 (t.src.toNat * 2 ^ 60 + t.opid.toNat * 2 ^ 32 + t.info.toNat)

/-- The address bits [51:2] (R242). -/
def pcBits (a : BitVec 64) : BitVec 64 := a &&& 0x000FFFFFFFFFFFFC#64

/-! ### Taking a trap and returning from one (R245, R309) -/

/-- Post CTX_FAULT for a cell and stop its issue; it keeps its slot until CTXKILL (R245). -/
def toHost (s : State) (k : Nat) (cause : BitVec 8) (pc addr aux : BitVec 64) : State :=
  let c := getCell s k
  modCell (postHost s ⟨0x0001, BitVec.ofNat 16 cause.toNat, some c.ctx,
      ctxFaultBody (keyCore k) c.team c.cell pc addr aux⟩) k fun c => { c with issueStopped := true }

/-- The cell after a trap has vectored (R242 to R245): `pc` is the address of the group to resume. -/
def vectored (c : Cell) (t : TrapInfo) (pc : BitVec 64) (mask : BitVec 8) (deferred : Bool) : Cell :=
  countEv { c with
    trappc := pcBits pc
    trapslot := mask
    trapaddr := t.addr
    trapaux := trapAux t
    cause := t.cause
    defer := deferred
    engine := t.engine
    pm := c.super
    busy := true
    super := true
    pc := pcBits c.tvec
    branched := false
    watchSkip := false
    run := .run
    waitWord := none } 13 1

/-- Taking a trap (R245). -/
def takeTrap (s : State) (k : Nat) (t : TrapInfo) (pc : BitVec 64) (mask : BitVec 8) (deferred : Bool) : State :=
  let c := getCell s k
  if !c.tvec.getLsbD 0 || c.busy then toHost s k t.cause pc t.addr (trapAux t)
  else setCell s k (vectored c t pc mask deferred)

/-- The cell after ERET (R309): the target group is exempt from the watchpoint when the trap was WATCH (R282). -/
def returned (c : Cell) : Cell :=
  let skip := decide (c.cause = causeWatch)
  { c with super := c.pm, busy := false, pc := pcBits c.trappc, branched := true, watchSkip := skip }

/-- Queue a deferred trap (R246). -/
def deferTrap (c : Cell) (t : TrapInfo) : Cell := { c with deferred := c.deferred ++ [⟨t, none⟩] }

/-- Put the fault of an engine operation, with its place in issue order, at the end of the queue (R248, R307). -/
def deferFault (c : Cell) (t : TrapInfo) (order : Nat) : Cell := { c with deferred := c.deferred ++ [⟨t, some order⟩] }

/-! ### Waiting -/

/-- The cell enters WAIT (R135). -/
def enterWait (now : Nat) (w : Option (BitVec 64 × Bool × BitVec 2 × BitVec 64)) (c : Cell) : Cell :=
  if c.run = .run then { c with run := .wait, waitSince := now, waitWord := w } else { c with waitWord := w }

/-- The cell leaves WAIT. -/
def leaveWait (c : Cell) : Cell :=
  if c.run = .wait then { c with run := .run, waitWord := none, arrived := false } else c

/-- The team of a cell. -/
def teamOf (s : State) (c : Cell) : Team := getTeam s (teamKey c.ctx c.team)

/-- A field of the launch descriptor of a context (R131): `n` bytes at an offset, 0 without an ACTIVE launch. -/
def launchField (s : State) (ctx off n : Nat) : Nat :=
  match (getCtx s ctx).launch with
  | some l => ofBytes ((l.desc.drop off).take n)
  | none => 0

/-- Cells per team (R131). -/
def ncell (s : State) (ctx : Nat) : Nat := launchField s ctx 42 1

/-- The member mask that a 16-bit field names; 0 means every cell (R131). -/
def memberMask (s : State) (ctx off : Nat) : Nat :=
  let m := launchField s ctx off 2
  if m = 0 then 2 ^ ncell s ctx - 1 else m % 2 ^ ncell s ctx

/-- The members of a barrier, less halted cells (R136, R142). -/
def barrierMembers (s : State) (ctx team b : Nat) : Nat :=
  maskOf (fun i => bitOf (memberMask s ctx (144 + 2 * b)) i && !bitOf (getTeam s (teamKey ctx team)).halted i) 16

/-- The members of a step group, less halted cells (R136, R168). -/
def stepMembers (s : State) (ctx team g : Nat) : Nat :=
  maskOf (fun i => bitOf (memberMask s ctx (160 + 2 * g)) i && !bitOf (getTeam s (teamKey ctx team)).halted i) 16

/-- Is a cell index in a mask of STEPMASK or BARMASK, halted or not? -/
def isMember (s : State) (ctx off i : Nat) : Bool := bitOf (memberMask s ctx off) i

/-- Does a cell still wait at a barrier or step group: one group may arrive at several (R270, R142, R352)? -/
def stillAwaits (s : State) (c : Cell) : Bool :=
  let t := teamOf s c
  !c.arriving.isEmpty || t.barriers.any (fun e => bitOf e.2 c.cell) || t.steps.any (fun e => bitOf e.2 c.cell)

/-- The cell after a barrier or step it waited at: it leaves WAIT when it waits at no other. -/
def releasedCell (s : State) (c : Cell) : Cell :=
  if stillAwaits s c then c else { leaveWait c with arrived := false }

/-- Release the waiting members of a barrier or step: those whose arrival is held leave WAIT. -/
def releaseMembers (s : State) (seats : List Nat) (mask : Nat) (f : Cell → Cell) : State :=
  seats.foldl (fun s k =>
    if bitOf mask (getCell s k).cell then modCell s k (fun c => f (releasedCell s c)) else s) s

/-- Complete a barrier whose members have all arrived (R142). -/
def settleBarrier (s : State) (ctx team b : Nat) : State :=
  let tk := teamKey ctx team
  let t := getTeam s tk
  let arr := tblGet 0 t.barriers b
  let mem := barrierMembers s ctx team b
  if arr ≠ 0 ∧ allIndex (fun i => !bitOf mem i || bitOf arr i) 0 16 then
    releaseMembers (modTeam s tk fun t => { t with barriers := tblSet 0 t.barriers b 0 }) t.seats arr id
  else s

/-- A cell arrives at a barrier (R305, R142): it enters WAIT, and the last arrival releases every member. -/
def arriveBarrier (s : State) (k b : Nat) : State :=
  let c := getCell s k
  let tk := teamKey c.ctx c.team
  let s1 := modTeam s tk fun t => { t with barriers := tblSet 0 t.barriers b ((tblGet 0 t.barriers b) ||| 2 ^ c.cell) }
  let s2 := modCell s1 k fun c => { enterWait s.pkg.gtime.toNat none c with arrived := true }
  settleBarrier s2 c.ctx c.team b

/-- A cell arrives at a step group (R352, R168); the step completes on a later beat by GSTEP_COMPLETE. -/
def arriveStep (s : State) (k g : Nat) : State :=
  let c := getCell s k
  let tk := teamKey c.ctx c.team
  let s1 := modTeam s tk fun t => { t with
    steps := tblSet 0 t.steps g ((tblGet 0 t.steps g) ||| 2 ^ c.cell)
    stepBeat := tblSet 0 t.stepBeat g s.pkg.beat.toNat }
  modCell s1 k fun c => { enterWait s.pkg.gtime.toNat none c with arrived := true }

end Sys2Proof.Machine
end

