-- ==== Sys2Proof/Machine/Near.lean ====
section
/-!
DEFINITION. Sys2Proof/Machine/Near.lean: near addresses (R158), banks and their modes (R153 to R157), the checks of R13,
plane regions (R164 to R170), and the bytes of banks.
-/
namespace Sys2Proof.Machine

/-- A bank of a cell by its logical number (R153). -/
def getBank (c : Cell) (b : Nat) : Bank := tblGet Bank.none c.banks b

/-- Change a bank. -/
def modBank (c : Cell) (b : Nat) (f : Bank → Bank) : Cell :=
  { c with banks := tblSet Bank.none c.banks b (f (getBank c b)) }

/-- What a byte that nothing has written since holds: 0, or a free byte where the bank's bytes are not architected
(R155). -/
def bankDefault (c : Cell) (b off : Nat) : Byte :=
  match (getBank c b).stale with
  | some t => Config.staleByte t off
  | none => 0

/-- A byte of a bank. -/
def bankByte (c : Cell) (b off : Nat) : Byte := tblGet (bankDefault c b off) c.bytes (65536 * b + off)

/-- Write a byte of a bank. -/
def setBankByte (c : Cell) (b off : Nat) (v : Byte) : Cell :=
  { c with bytes := tblSet (bankDefault c b off) c.bytes (65536 * b + off) v }

/-- Does the present selector of a word of region j name the odd bank (R164)? -/
def presentOdd (c : Cell) (j w : Nat) : Bool := tblGet false c.selOdd (16384 * j + w)

/-- The bank that holds the present value at an offset: the bank itself, or for a region the plane selected. -/
def presentBank (c : Cell) (b off : Nat) : Nat :=
  if (getBank c b).mode = .plane then 2 * (b / 2) + bit01 (presentOdd c (b / 2) (off / 4)) else b

/-- The byte that a load returns: of a region, the present value (R164). -/
def nearByte (c : Cell) (b off : Nat) : Byte := bankByte c (presentBank c b off) off

/-- Bytes from an offset, running from one bank into the next. -/
def nearBytes (c : Cell) (b off : Nat) : Nat → List Byte
  | 0 => []
  | n + 1 => nearByte c (b + off / 65536) (off % 65536) :: nearBytes c b (off + 1) n

/-- Write bytes from an offset into SPAD banks. -/
def setNearBytes (c : Cell) (b off : Nat) : List Byte → Cell
  | [] => c
  | x :: xs => setNearBytes (setBankByte c (b + off / 65536) (off % 65536) x) b (off + 1) xs

/-- Is a word of the range poisoned (R260)? Words are of 64 bits. -/
def nearPoisoned (c : Cell) (b off n : Nat) : Bool :=
  (List.range ((off % 8 + n + 7) / 8)).any fun i => tblGet false c.poisonBank (8192 * b + off / 8 + i)

/-- Is a present byte of a cell poisoned (R260)? -/
def presentPoisoned (c : Cell) (b off n : Nat) : Bool :=
  (List.range n).any fun i =>
    let b1 := b + (off + i) / 65536
    let o := (off + i) % 65536
    nearPoisoned c (presentBank c b1 o) o 1

/-- Clear the poison of the words that a write covers whole. -/
def healNear (c : Cell) (b off n : Nat) : Cell :=
  let inside := fun w => decide (65536 * b + off ≤ 8 * w) && decide (8 * w + 8 ≤ 65536 * b + off + n)
  { c with poisonBank := tblFilter (fun w _ => !inside w) c.poisonBank }

/-- Poison the words of a range. -/
def poisonNear (c : Cell) (b off n : Nat) : Cell :=
  let mark := fun t i => tblSet false t (8192 * b + off / 8 + i) true
  { c with poisonBank := foldIndex mark c.poisonBank 0 ((off % 8 + n + 7) / 8) }

/-- What an access does at a bank (R154). -/
inductive NearUse where
  | load | store | atomic | engineRead | engineWrite | bcast | latch
  deriving DecidableEq, Repr

/-- Does the bank's mode admit the access (R154)? A store into a region is of 4 or 8 bytes. -/
def admits (m : BankMode) (b size : Nat) : NearUse → Bool
  | .load => m == .spad || (m == .plane && b % 2 == 0)
  | .store => m == .spad || (m == .plane && b % 2 == 0 && (size == 4 || size == 8))
  | .atomic => m == .spad
  | .engineRead => m == .spad || (m == .plane && b % 2 == 0)
  | .engineWrite => m == .spad
  | .bcast => m == .spad || (m == .plane && b % 2 == 0)
  | .latch => m == .spad

/-- The seat of the team's cell on a local core of the cluster (R158). -/
def seatOn (s : State) (k core : Nat) : Option Nat :=
  (teamOf s (getCell s k)).seats.find? fun j => keyLocal j == core

/-- The slot key, bank and offset that a near address names, or none for an address outside the near shape (R158). -/
def nearPlace (s : State) (k : Nat) (a : BitVec 32) : Option (Nat × Nat × Nat) :=
  let n := a.toNat
  let core := bitsOf n 24 21
  let bank := bitsOf n 20 16
  let off := n % 65536
  if 0x4000000 ≤ n then none
  else if bitOf n 25 then
    match seatOn s k core with
    | some j => some (j, bank, off)
    | none => none
  else if core ≠ 0 then none
  else some (k, bank, off)

/-- The address and size of a near fault as a trap (R13, R244). -/
def nearTrap (cause : BitVec 8) (a : BitVec 64) (size : Nat) : TrapInfo := cellTrap cause a size

/-- The checks of R13 in their order: shape, mode, alignment to `al`. -/
def nearCheck (s : State) (k : Nat) (a : BitVec 64) (size al : Nat) (u : NearUse) : Except TrapInfo (Nat × Nat × Nat) :=
  if 2 ^ 32 ≤ a.toNat then .error (nearTrap causeNearbound a size)
  else
    match nearPlace s k (a.setWidth 32) with
    | none => .error (nearTrap causeNearbound a size)
    | some (j, b, off) =>
      if !admits (getBank (getCell s j) b).mode b size u then .error (nearTrap causeBankmode a size)
      else if a.toNat % al ≠ 0 then .error (nearTrap causeAlign a size)
      else .ok (j, b, off)

/-! ### Plane regions (R164 to R167) -/

/-- The step priority of a cell (R131). -/
def stepPrio (s : State) (ctx i : Nat) : Nat := launchField s ctx 176 8 / 16 ^ i % 16

/-- The collision rule and step group of region j of a cell. -/
def getRegion (c : Cell) (j : Nat) : Region := (tblGet none c.regions j).getD ⟨0, 0⟩

/-- The 32-bit word at a word index of a physical bank. -/
def bankWord (c : Cell) (b w : Nat) : Nat :=
  (bankByte c b (4 * w)).toNat + 256 * (bankByte c b (4 * w + 1)).toNat + 65536 * (bankByte c b (4 * w + 2)).toNat
    + 16777216 * (bankByte c b (4 * w + 3)).toNat

/-- Write a 32-bit word of a physical bank. -/
def setBankWord (c : Cell) (b w v : Nat) : Cell := setNearBytes c b (4 * w) (toBytes v 4)

/-- next + v under a SUM rule (R166): 1 I32, 2 F32, 3 two BF16 halves. -/
def planeSum (rule x v : Nat) : Nat :=
  match rule with
  | 1 => (x + v) % 2 ^ 32
  | 2 => (addVal .f32 plainCtl (ffDecode .f32 x) (ffDecode .f32 v)).code
  | _ =>
    (addVal .bf16 plainCtl (ffDecode .bf16 (x % 65536)) (ffDecode .bf16 (v % 65536))).code
      + 65536 * (addVal .bf16 plainCtl (ffDecode .bf16 (x / 65536)) (ffDecode .bf16 (v / 65536))).code

/-- One word of a plane store (R165): the owner's cell after the store of `v` by cell `i` of priority `p` to word `w` of
region `j`, and the writer's index when the store is refused under FAULT. `prio` gives a cell's priority. -/
def planeWord (c : Cell) (j w v i : Nat) (prio : Nat → Nat) : Cell × Option Nat :=
  let next := 2 * j + bit01 (!presentOdd c j w)
  let mark := tblGet 0 c.writer (16384 * j + w)
  let put := fun (v : Nat) (x : Nat) =>
    { setBankWord c next w v with writer := tblSet 0 c.writer (16384 * j + w) (x + 1) }
  if mark = 0 then (put v i, none)
  else
    let x := mark - 1
    match (getRegion c j).rule.toNat with
    | 0 => if i = x ∨ prio x < prio i ∨ (prio i = prio x ∧ i < x) then (put v i, none) else (c, none)
    | 4 => if i = x then (put v i, none) else (c, some x)
    | r => (put (planeSum r (bankWord c next w) v) x, none)

/-- A near store of bytes by cell `k` at a checked place (R164, R167): into SPAD, or by plane_store into a region, whose
refusals become COLLIDE traps of the storing cell, behind those that stand in its queue already: a refusal that finds 16 of
them waits there for its turn (R246). -/
def nearStore (s : State) (k : Nat) (a : BitVec 64) (j b off : Nat) (bs : List Byte) : State :=
  let c := getCell s j
  if (getBank c b).mode = .plane then
    let who := (getCell s k).cell
    let prio := stepPrio s c.ctx
    let (c1, r1) := planeWord c (b / 2) (off / 4) (ofBytes (bs.take 4)) who prio
    let (c2, r2) := if bs.length = 8 then planeWord c1 (b / 2) (off / 4 + 1) (ofBytes (bs.drop 4)) who prio else (c1, none)
    let s1 := setCell s j c2
    let refuse := fun (s : State) (r : Option Nat) =>
      match r with
      | some x => modCell s k fun c => deferTrap c (cellTrap causeCollide a x)
      | none => s
    refuse (refuse s1 r1) r2
  else setCell s j (healNear (setNearBytes c b off bs) b off bs.length)

/-- The flips of a completed step in one region (R168): each written word's selector turns, and every written bit and
writer is cleared. -/
def flipRegion (c : Cell) (j : Nat) : Cell :=
  let mine := tblFilter (fun w _ => w / 16384 == j) c.writer
  let turned := mine.foldl (fun t e => tblSet false t e.1 (!tblGet false t e.1)) c.selOdd
  { c with selOdd := turned, writer := tblFilter (fun w _ => w / 16384 != j) c.writer }

/-- Does the cell hold region j bound to step group g? -/
def boundTo (c : Cell) (g j : Nat) : Bool :=
  (getBank c (2 * j)).mode == .plane && (getRegion c j).group.toNat == g

/-- The flips of step group g in a cell; held by the shell while its tile is stopped (R170). -/
def flipCell (stopped : Bool) (g : Nat) (c : Cell) : Cell :=
  foldIndex (fun c j =>
    if boundTo c g j then (if stopped then { c with heldFlips := c.heldFlips ++ [j] } else flipRegion c j) else c) c 0 8

/-! ### Rings (R361, R362) -/

/-- A ring object of a cell. -/
def getRing (c : Cell) (n : Nat) : Ring := tblGet Ring.unset c.rings n

/-- Put a ring object. -/
def setRing (c : Cell) (n : Nat) (r : Ring) : Cell := { c with rings := tblSet Ring.unset c.rings n r }

/-- Slots of a ring. -/
def ringSlots (r : Ring) : Nat := 2 ^ r.log2n

/-- Slots filled. -/
def ringFill (r : Ring) : Nat := (r.wp - r.rp).toNat

/-- The near address of the slot at a count (R361). -/
def slotAddr (r : Ring) (count : BitVec 32) : BitVec 32 :=
  r.base + BitVec.ofNat 32 (count.toNat % ringSlots r * r.slotSz)

/-- The fault mark of the slot at RP. -/
def headMark (r : Ring) : Option Mark := tblGet none r.marks (r.rp.toNat % ringSlots r)

/-- Is ring n of the cell the downstream alias (R129)? -/
def isAlias (s : State) (c : Cell) (n : Nat) : Bool :=
  let nstage := launchField s c.ctx 43 1
  decide (1 < nstage) && decide (c.stage + 1 < nstage) && n == launchField s c.ctx 45 1 + 1

/-- Produce one slot of bytes into a ring of a cell (R362): the bytes go to slot WP in SPAD banks, then WP advances; a
fault mark may stand on the slot. -/
def produceSlot (c : Cell) (n : Nat) (bs : List Byte) (mark : Option Mark) : Cell :=
  let r := getRing c n
  let a := (slotAddr r r.wp).toNat
  let c1 := healNear (setNearBytes c (bitsOf a 20 16) (a % 65536) bs) (bitsOf a 20 16) (a % 65536) bs.length
  setRing c1 n { r with wp := r.wp + 1, marks := tblSet none r.marks (r.wp.toNat % ringSlots r) mark }

/-- Do all the banks of a run of bytes of the cell's own admit an engine write (R154, R362)? -/
def banksAdmit (c : Cell) (a : BitVec 32) (n : Nat) (u : NearUse) : Bool :=
  let first := bitsOf a.toNat 20 16
  let last := (a.toNat % 0x200000 + n - 1) / 65536
  decide (a.toNat + n ≤ 0x200000) &&
    (List.range (last + 1 - first)).all fun i => admits (getBank c (first + i)).mode (first + i) 16 u

end Sys2Proof.Machine
end

