-- ==== Sys2Proof/Machine/Mmu.lean ====
section
/-!
DEFINITION. Sys2Proof/Machine/Mmu.lean: page tables and translation (R190 to R199, R432), TLBs, the fault buffer, the
checks of R14, the watchpoint (R282), and the core cache (R160 to R162, R203).
-/
namespace Sys2Proof.Machine

/-- Kinds of a global access (R244). -/
inductive Kind where
  | read | write | atomic | fetch
  deriving DecidableEq, Repr

/-- The code of a kind in INFO (R244). -/
def kindCode : Kind → Nat
  | .read => 0
  | .write => 1
  | .atomic => 2
  | .fetch => 3

/-- A leaf found by a walk: its bits, where it stands, log2 of its page size. -/
structure Leaf where
  bits : BitVec 64
  addr : Nat
  size : Nat
  deriving DecidableEq, Repr

/-- Is the aperture bit set (R192)? -/
def leafAp (w : BitVec 64) : Bool := w.getLsbD 11

/-- CLVL of a leaf. -/
def leafClvl (w : BitVec 64) : BitVec 2 := w.extractLsb' 4 2

/-- WPOL of a leaf. -/
def leafWpol (w : BitVec 64) : BitVec 2 := w.extractLsb' 6 2

/-- EVP of a leaf. -/
def leafEvp (w : BitVec 64) : BitVec 2 := w.extractLsb' 9 2

/-- Start of the frame of a leaf without AP. -/
def leafFrame (w : BitVec 64) : Nat := bitsOf w.toNat 51 16 * 65536

/-- Does a frame touch a hole (R31, R195)? -/
def frameBad (s : State) (pa size : Nat) : Bool :=
  physKind s pa == .hole || physKind s (pa + 2 ^ size - 1) == .hole

/-- Is a leaf well formed (R192 to R195)? -/
def leafGood (s : State) (w : BitVec 64) (size : Nat) : Bool :=
  w.getLsbD 0 &&
    (if leafAp w then !w.getLsbD 15 && bitsOf w.toNat 55 52 == 0
     else bitsOf w.toNat 63 52 == 0 && leafClvl w != 3#2 && leafWpol w != 3#2
       && leafFrame w % 2 ^ size == 0 && !frameBad s (leafFrame w) size)

/-- Is a table pointer well formed, and where does it lead (R191, R195)? -/
def tablePointer (s : State) (w : Nat) : Option Nat :=
  let next := bitsOf w 51 12 * 4096
  if bitOf w 0 && bitsOf w 63 52 == 0 && bitsOf w 11 1 == 0 && physKind s next != .hole then some next else none

/-- The walk of a virtual address from a root (R190 to R195), or none for an absent or malformed translation. -/
def walk (s : State) (root va : Nat) : Option Leaf :=
  let entry := fun (t i : Nat) => physNat s (t + 8 * i) 8
  match tablePointer s (entry root (bitsOf va 51 43)) with
  | none => none
  | some t3 =>
    match tablePointer s (entry t3 (bitsOf va 42 34)) with
    | none => none
    | some t2 =>
      let a2 := t2 + 8 * bitsOf va 33 25
      let e2 := physNat s a2 8
      if bitOf e2 15 then
        if feature s 6 && leafGood s (BitVec.ofNat 64 e2) 30 && !bitOf e2 11 then some ⟨BitVec.ofNat 64 e2, a2, 30⟩
        else none
      else
        match tablePointer s e2 with
        | none => none
        | some t1 =>
          let a1 := t1 + 8 * bitsOf va 24 16
          let e1 := BitVec.ofNat 64 (physNat s a1 8)
          let size := if e1.getLsbD 15 then 21 else 16
          if leafGood s e1 size then some ⟨e1, a1, size⟩ else none

/-- Whose TLB translates: that of the core of a slot (R281 counts its misses for the slot), a layout unit's, or none (R183, R197). -/
inductive TlbUnit where
  | core (key : Nat)
  | layout (die : Nat)
  | direct
  deriving DecidableEq, Repr

/-- The entries of a TLB. -/
def tlbOf (s : State) : TlbUnit → List TlbEntry
  | .core k => (getCore s (keyCore k)).tlb
  | .layout d => (getDie s d).tlb
  | .direct => []

/-- Put the entries of a TLB. -/
def setTlb (s : State) (u : TlbUnit) (l : List TlbEntry) : State :=
  match u with
  | .core k => modCore s (keyCore k) fun c => { c with tlb := l }
  | .layout d => modDie s d fun d => { d with tlb := l }
  | .direct => s

/-- Entries that a TLB holds at most (R183, R197). -/
def tlbCapacity : TlbUnit → Nat
  | .core _ => 2048
  | .layout _ => 4096
  | .direct => 0

/-- The entry of a TLB that covers an address. -/
def tlbFind (l : List TlbEntry) (ctx va : Nat) : Option TlbEntry :=
  l.find? fun e => e.ctx == ctx && va / 2 ^ e.size == e.page

/-- Fill a TLB; when it is full a free choice says which entry goes (log 7). -/
def tlbFill (s : State) (u : TlbUnit) (e : TlbEntry) : State :=
  let l := tlbOf s u
  if l.contains e then s
  else
  if l.length < tlbCapacity u then setTlb s u (e :: l)
  else setTlb { s with tick := s.tick + 1 } u (e :: removeAt l (Config.choose s.tick l.length % l.length))

/-- Set A, and D for a write, in a leaf at its serialisation point (R196). -/
def touchLeaf (s : State) (addr : Nat) (write : Bool) : State :=
  let w := BitVec.ofNat 64 (physNat s addr 8)
  let v := w ||| 0x2000#64 ||| (if write then 0x4000#64 else 0)
  if v = w then s else deviceWrite s addr (toBytes v.toNat 8)

/-- What a translation found: the leaf or the cause of its fault, and what it did to A, D, TLB and fault buffer. -/
structure Xlat where
  res : Except (BitVec 8) Leaf
  eff : State → State

/-- The die whose fault buffer holds a unit's faults (R198). -/
def unitDie : TlbUnit → Nat
  | .core k => keyDie k
  | .layout d => d
  | .direct => 0

/-- Record a walk's fault (R198): one entry per context, page and cause, at most 4,096. -/
def noteFault (s : State) (die ctx va : Nat) (cause : BitVec 8) : State :=
  modDie s die fun d =>
    let key := (ctx, va / 65536, cause)
    if d.faults.contains key ∨ 4096 ≤ d.faults.length then d else { d with faults := d.faults ++ [key] }

/-- Remove the fault-buffer entries of a page whose walk succeeded (R198). -/
def clearFault (s : State) (die ctx va : Nat) : State :=
  let hit := (getDie s die).faults.any fun f => f.1 == ctx && f.2.1 == va / 65536
  if hit then
    modDie s die fun d => { d with faults := d.faults.filter fun f => !(f.1 == ctx && f.2.1 == va / 65536) }
  else s

/-- The rights of R14 and R195 on a leaf: `user` requires U, `window` says that an aperture page is admitted (R432). -/
def rights (w : BitVec 64) (k : Kind) (user window : Bool) : Option (BitVec 8) :=
  if leafAp w && (!window || k == .fetch) then some causePerm
  else if (k == .write || k == .atomic) && !w.getLsbD 1 then some causePerm
  else if k == .fetch && !w.getLsbD 2 then some causePerm
  else if user && !w.getLsbD 3 then some causePerm
  else if k == .atomic && leafAp w && !w.getLsbD 12 then some causeRaperm
  else none

/-- Does a fault of a unit join the PAGE fault of its page that stands in the die's buffer, and start no walk (R198)? A
replayed access walks, and what comes while the fault is handled joins it: which one an access is, is a free choice (log
7). A fault of rights needs the leaf, and so the walk. -/
def joinsFault (s : State) (u : TlbUnit) (ctx va : Nat) : Bool :=
  (getDie s (unitDie u)).faults.contains (ctx, va / 65536, causePage)
    && Config.choose s.tick (2 * (va / 65536) + 2) % 2 == 1

/-- Translate and check rights (R14, R190 to R199): a TLB entry is used while it stands, a fault joins one of its key, and
otherwise the tables are walked; a walk that faults is recorded (R198). -/
def lookup (s : State) (u : TlbUnit) (ctx va : Nat) (k : Kind) (user window : Bool) : Xlat :=
  let wr := k == .write || k == .atomic
  match tlbFind (tlbOf s u) ctx va with
  | some e =>
    match rights e.leaf k user window with
    | some c => ⟨.error c, id⟩
    | none => ⟨.ok ⟨e.leaf, e.leafAddr, e.size⟩, fun s => if wr then touchLeaf s e.leafAddr true else s⟩
  | none =>
    if joinsFault s u ctx va then ⟨.error causePage, id⟩ else
    match walk s (getCtx s ctx).root.toNat va with
    | none => ⟨.error causePage, fun s => noteFault s (unitDie u) ctx va causePage⟩
    | some l =>
      match rights l.bits k user window with
      | some c => ⟨.error c, fun s => noteFault s (unitDie u) ctx va c⟩
      | none =>
        ⟨.ok l, fun s =>
          clearFault (tlbFill (touchLeaf s l.addr wr) u ⟨ctx, va / 2 ^ l.size, l.size, l.bits, l.addr⟩) (unitDie u) ctx va⟩

/-- Count the TLB misses of a translation (R281): the first level is modelled as the 64 entries filled last (log 2). -/
def countMisses (s : State) (u : TlbUnit) (ctx va : Nat) : State :=
  match u with
  | .core k =>
    let l := tlbOf s u
    let first := (tlbFind (l.take 64) ctx va).isNone
    let second := (tlbFind l ctx va).isNone
    if first then modCell s k fun c => let c1 := countEv c 10 1; if second then countEv c1 11 1 else c1 else s
  | _ => s

/-- Translate, check rights and count (R14, R190 to R199, R281). -/
def translate (s : State) (u : TlbUnit) (ctx va : Nat) (k : Kind) (user window : Bool) : Xlat :=
  let x := lookup s u ctx va k user window
  ⟨x.res, fun s => x.eff (countMisses s u ctx va)⟩

/-- The physical address of a virtual address under a leaf (R192, R194). -/
def leafPa (l : Leaf) (va : Nat) : Nat := leafFrame l.bits + va % 2 ^ l.size

/-- The window, peer and offset that an aperture leaf gives an address (R193, R96). -/
def leafWindow (w : BitVec 64) (va : Nat) : Nat × Nat × Nat :=
  (bitsOf w.toNat 63 56, bitsOf w.toNat 51 36, bitsOf w.toNat 35 16 * 65536 + va % 65536)

/-- INFO of PAGE, PERM, RAPERM and WATCH (R244). -/
def kindInfo (k : Kind) (cls : Nat) : Nat := kindCode k + 256 * cls

/-- Does an access match the watchpoint (R282)? Near accesses, engine operations and placements are never checked. -/
def watched (c : Cell) (va size : Nat) (k : Kind) : Bool :=
  let ctl := c.watchc.toNat
  let gran := min (bitsOf ctl 8 4) 16
  let on := match k with
    | .read => bitOf ctl 0
    | .write => bitOf ctl 1
    | .atomic => bitOf ctl 2
    | .fetch => bitOf ctl 3
  !c.watchSkip && on && (List.range size).any fun i => (va + i) / 2 ^ gran == c.watcha.toNat / 2 ^ gran

/-- The checks of a cell's global access: the bits above the space (R340), then in the order of R14 alignment, translation
and rights, and then the watchpoint (R282, log 10). `window` says that it may become a window access (R96, R432). -/
def checkGlobal (window : Bool) (s : State) (k : Nat) (va : BitVec 64) (size : Nat) (cls : BitVec 4) (kind : Kind) :
    Except TrapInfo Leaf × (State → State) :=
  let c := getCell s k
  let info := kindInfo kind cls.toNat
  if 2 ^ 52 ≤ va.toNat then (.error (cellTrap causePage va info), id)
  else if va.toNat % size ≠ 0 then (.error (cellTrap causeAlign va size), id)
  else
    let x := translate s (.core k) c.ctx va.toNat kind (!c.super) window
    match x.res with
    | .error e => (.error (cellTrap e va info), x.eff)
    | .ok l => if watched c va.toNat size kind then (.error (cellTrap causeWatch va info), x.eff) else (.ok l, x.eff)

/-- The checks of a cell's own load, store or atomic (R14, R340). -/
def globalCheck (s : State) (k : Nat) (va : BitVec 64) (size : Nat) (cls : BitVec 4) (kind : Kind) :
    Except TrapInfo Leaf × (State → State) := checkGlobal true s k va size cls kind

/-! ### Core cache (R160 to R162) -/

/-- The banks in mode CACHE: the ways of the cache. -/
def cacheWays (c : Cell) : List Nat := (List.range 32).filter fun b => (getBank c b).mode == .cache

/-- The line of a way and set. -/
def getLine (c : Cell) (way set : Nat) : Option CacheLine := tblGet none c.cache (512 * way + set)

/-- Put the line of a way and set. -/
def setLine (c : Cell) (way set : Nat) (l : Option CacheLine) : Cell :=
  { c with cache := tblSet none c.cache (512 * way + set) l }

/-- The set of a physical address: bits [15:7] (R160). -/
def cacheSet (pa : Nat) : Nat := bitsOf pa 15 7

/-- The tag: bits [51:16]. -/
def cacheTag (pa : Nat) : Nat := pa / 65536

/-- The way that holds the line of an address. -/
def cacheHit (c : Cell) (pa : Nat) : Option (Nat × CacheLine) :=
  (cacheWays c).findSome? fun w =>
    match getLine c w (cacheSet pa) with
    | some l => if l.tag = cacheTag pa then some (w, l) else none
    | none => none

/-- The address of a sector of a line. -/
def sectorAddr (l : CacheLine) (set sector : Nat) : Nat := l.tag * 65536 + set * 128 + 16 * sector

/-- Does a range of a line in a way hold a poisoned word (R260)? The way's bank holds sector i of set n at 128n + 16i. -/
def cachePoisoned (c : Cell) (way pa n : Nat) : Bool := nearPoisoned c way (128 * cacheSet pa + pa % 128) n

/-- Clear the poison of the words of a line that a write covers whole. -/
def healCache (way pa n : Nat) (c : Cell) : Cell := healNear c way (128 * cacheSet pa + pa % 128) n

/-- Write back one sector, as a store of every class (R162, R208); a poisoned word poisons what it is written to (R260). -/
def writeBackSector (s : State) (k way set : Nat) (l : CacheLine) (i : Nat) : State :=
  let a := sectorAddr l set i
  let s1 := physWrite (countAt s a) a ((l.data.drop (16 * i)).take 16) true (backOwner s k)
  (List.range 2).foldl (fun s1 w =>
    if cachePoisoned (getCell s k) way (a + 8 * w) 8 && !physLost s1 a then poisonWords s1 (a + 8 * w) 8 else s1) s1

/-- Write back the dirty sectors of a line. -/
def writeBackLine (s : State) (k way set : Nat) (l : CacheLine) : State :=
  foldIndex (fun s i => if l.dirty.getLsbD i then writeBackSector s k way set l i else s) s 0 8

/-- Write back every dirty sector of a way, and keep or drop its lines. -/
def cleanWay (s : State) (k way : Nat) (keep : Bool) : State :=
  foldIndex (fun s set =>
    match getLine (getCell s k) way set with
    | none => s
    | some l =>
      modCell (writeBackLine s k way set l) k fun c =>
        setLine c way set (if keep then some { l with dirty := 0 } else none)) s 0 512

/-- Write back the whole cache, and drop every sector when `inv` (FENCE .w and .i, R162). -/
def cleanCache (s : State) (k : Nat) (inv : Bool) : State :=
  (cacheWays (getCell s k)).foldl (fun s w => cleanWay s k w (!inv)) s

/-- The way that a miss takes: an empty one, else the lowest eviction priority, least recently used first (R160). -/
def victimWay (c : Cell) (set : Nat) : Option Nat :=
  (cacheWays c).foldl (fun (b : Option Nat) w =>
    match b with
    | none => some w
    | some v =>
      match getLine c v set, getLine c w set with
      | none, _ => some v
      | some _, none => some w
      | some x, some y =>
        if y.evp.toNat < x.evp.toNat ∨ (y.evp = x.evp ∧ y.rank < x.rank) then some w else some v) none

/-- The next recency rank of a set. -/
def nextRank (c : Cell) (set : Nat) : Nat :=
  (cacheWays c).foldl (fun m w => match getLine c w set with
    | some l => max m (l.rank + 1)
    | none => m) 0

/-- Take a way for the line of an address, writing back what it evicts. -/
def takeWay (s : State) (k pa : Nat) (evp : BitVec 2) : State × Option Nat :=
  let set := cacheSet pa
  match cacheHit (getCell s k) pa with
  | some (w, _) => (s, some w)
  | none =>
    match victimWay (getCell s k) set with
    | none => (s, none)
    | some w =>
      let s1 := match getLine (getCell s k) w set with
        | some l => writeBackLine s k w set l
        | none => s
      (modCell s1 k fun c =>
        setLine c w set (some ⟨cacheTag pa, 0, 0, evp, nextRank c set, zeroBytes 128⟩), some w)

/-- Replace part of a list of bytes. -/
def patch (xs : List Byte) (off : Nat) (ys : List Byte) : List Byte := xs.take off ++ ys ++ xs.drop (off + ys.length)

/-- Fill the sector of an address, when it is not valid, from memory (R160); counted by R281 code 12. -/
def fillSector (s : State) (k way pa : Nat) : State :=
  let set := cacheSet pa
  let i := pa % 128 / 16
  match getLine (getCell s k) way set with
  | none => s
  | some l =>
    let c1 := fun (c : Cell) (l : CacheLine) => setLine c way set (some { l with rank := nextRank c set })
    if l.valid.getLsbD i then modCell s k fun c => c1 c l
    else
      let bs := physBytes s (pa / 16 * 16) 16
      modCell s k fun c =>
        countEv (healCache way (pa / 16 * 16) 16 <| c1 c { l with valid := l.valid ||| (1#8 <<< i), data := patch l.data (16 * i) bs }) 12 1

/-- A load through the core cache (R161): its bytes, and did the cache's bank hold a poisoned word of them (R260)? -/
def cacheLoad (s : State) (k pa n : Nat) (evp : BitVec 2) : State × List Byte × Bool :=
  match takeWay s k pa evp with
  | (s1, none) => (s1, physBytes s1 pa n, false)
  | (s1, some w) =>
    let s2 := fillSector s1 k w pa
    match getLine (getCell s2 k) w (cacheSet pa) with
    | some l => (s2, (l.data.drop (pa % 128)).take n, cachePoisoned (getCell s2 k) w pa n)
    | none => (s2, physBytes s2 pa n, false)

/-- Put bytes into a valid sector of a line, marking it dirty when asked. -/
def putSector (s : State) (k way pa : Nat) (bs : List Byte) (dirty : Bool) : State :=
  let set := cacheSet pa
  let i := pa % 128 / 16
  match getLine (getCell s k) way set with
  | none => s
  | some l =>
    let d := if dirty then l.dirty ||| (1#8 <<< i) else l.dirty
    modCell s k fun c =>
      healCache way pa bs.length (setLine c way set (some { l with data := patch l.data (pa % 128) bs, dirty := d }))

/-- Invalidate the sector of an address, after writing it back when it is dirty (R161, R348). -/
def dropSector (s : State) (k pa : Nat) (writeBack : Bool) : State :=
  match cacheHit (getCell s k) pa with
  | none => s
  | some (w, l) =>
    let i := pa % 128 / 16
    let s1 := if writeBack && l.dirty.getLsbD i then writeBackSector s k w (cacheSet pa) l i else s
    modCell s1 k fun c =>
      setLine c w (cacheSet pa) (some { l with valid := l.valid &&& ~~~(1#8 <<< i), dirty := l.dirty &&& ~~~(1#8 <<< i) })

/-- A store to a page of cache level 01 (R161, R203). -/
def cacheStore (s : State) (k pa : Nat) (bs : List Byte) (wpol evp : BitVec 2) (cls : BitVec 4) : State :=
  if wpol = 0 then
    match takeWay s k pa evp with
    | (s1, none) => physWrite s1 pa bs false (cellOwner s k cls)
    | (s1, some w) => putSector (fillSector s1 k w pa) k w pa bs true
  else if wpol = 1 then physWrite (dropSector s k pa false) pa bs true (cellOwner s k cls)
  else
    let s1 := match cacheHit (getCell s k) pa with
      | some (w, l) => if l.valid.getLsbD (pa % 128 / 16) then putSector s k w pa bs false else s
      | none => s
    physWrite s1 pa bs true (cellOwner s k cls)

end Sys2Proof.Machine
end

