-- ==== Sys2Proof/Machine/Gafin.lean ====
section
/-!
DEFINITION. Sys2Proof/Machine/Gafin.lean: completions of commands (R114 to R118), semaphores, and the ends of cells, teams
and launches (R135, R136, R218, R263).
-/
namespace Sys2Proof.Machine

/-! ### Commands and completions -/

/-- A payload field of a command: n bytes at an offset (R112, R113). -/
def cmdNat (bs : List Byte) (off n : Nat) : Nat := ofBytes ((bs.drop off).take n)

/-- STATUS codes of a completion (R116). -/
def stDone : Nat := 0
/-- REFUSED. -/
def stRefused : Nat := 1
/-- MALFORMED. -/
def stMalformed : Nat := 2
/-- TIMEOUT. -/
def stTimeout : Nat := 3
/-- FAULTED. -/
def stFaulted : Nat := 4
/-- CANCELLED. -/
def stCancelled : Nat := 5

/-- The 16 bytes of a completion slot (R116). -/
def completionBytes (index : BitVec 32) (lap : BitVec 16) (status code detail : Nat) : List Byte :=
  toBytes index.toNat 4 ++ toBytes lap.toNat 2 ++ toBytes status 1 ++ toBytes code 1 ++ toBytes detail 8

/-- Write a completion into its slot and signal the queue's vector (R116). -/
def writeCompletion (s : State) (c : Cmd) (status code detail : Nat) : State :=
  let q := getQueue s c.queue
  let slot := c.index.toNat % 2 ^ q.log2sz.toNat
  let s1 := deviceWrite s (hostAddr (q.cbase.toNat + 16 * slot)) (completionBytes c.index c.lap status code detail)
  signalMsix s1 (1 + c.queue)

/-- The address of a semaphore (R117). -/
def semAddr (s : State) (n : Nat) : Nat := s.gafin.sembase.toNat + 8 * n

/-- The value of a semaphore. -/
def semValue (s : State) (n : Nat) : Nat := physNat s (semAddr s n) 8

/-- Signal a semaphore: the greater of its value and `v` (R117). -/
def raiseSem (s : State) (n v : Nat) : State :=
  if semValue s n < v then deviceWrite s (semAddr s n) (toBytes v 8) else s

/-- Is a started command this one? -/
def sameCmd (c : Cmd) (r : Running) : Bool := r.cmd.queue == c.queue && r.cmd.index == c.index

/-- End a command without looking at waiters: it leaves the processor, is counted, its slot is written, and its header
signal is made when it is DONE (R115 to R117, R123). -/
def endCmd (s : State) (c : Cmd) (status code detail : Nat) : State :=
  let s1 := { s with gafin := { s.gafin with running := s.gafin.running.filter fun r => !sameCmd c r } }
  let s2 := writeCompletion (countSource s1 (4096 + c.queue) 1) c status code detail
  if status = stDone ∧ bitOf (cmdNat c.bytes 1 1) 1 then raiseSem s2 (cmdNat c.bytes 6 2) (cmdNat c.bytes 8 8) else s2

/-- Is a started command a WAITSEM whose semaphore has reached its value (R118)? -/
def waitMet (s : State) (r : Running) : Bool :=
  cmdNat r.cmd.bytes 0 1 == 4 && decide (cmdNat r.cmd.bytes 24 8 ≤ semValue s (cmdNat r.cmd.bytes 16 2))

/-- Complete the WAITSEM commands that are met, the signals of each included. -/
def settleWaits (s : State) : Nat → State
  | 0 => s
  | n + 1 =>
    match s.gafin.running.find? (waitMet s) with
    | some r => settleWaits (endCmd s r.cmd stDone 0 0) n
    | none => s

/-- End a command, and every WAITSEM that its signal meets. -/
def finishCmd (s : State) (c : Cmd) (status code detail : Nat) : State :=
  let s1 := endCmd s c status code detail
  settleWaits s1 s1.gafin.running.length

/-- Signal a semaphore and complete the waiters it meets (R117, R118). -/
def signalSem (s : State) (n v : Nat) : State :=
  let s1 := raiseSem s n v
  settleWaits s1 s1.gafin.running.length

/-- The started command of a queue and index. -/
def runningCmd (s : State) (queue : Nat) (index : BitVec 32) : Option Cmd :=
  (s.gafin.running.find? fun r => r.cmd.queue == queue && r.cmd.index == index).map fun r => r.cmd

/-- End the started command of a queue and index, when it still runs. -/
def finishAt (s : State) (queue : Nat) (index : BitVec 32) (status code detail : Nat) : State :=
  match runningCmd s queue index with
  | some c => finishCmd s c status code detail
  | none => s

/-! ### The end of cells, teams and launches -/

/-- Drain the lines that hold a cell's writes (R188, R207). -/
def drainOwned (s : State) (k : Nat) : State := drainAll s fun l => l.owners.any fun o => o.key == some k

/-- The other slot of a core. -/
def otherSlot (k : Nat) : Nat := 4 * (k / 2) + 1 - k

/-- The requests that a slot's cell had at the CXL ports are gone with it. -/
def dropRequests (s : State) (k : Nat) : State :=
  (tblKeys s.cxl).foldl (fun s p => modCxl s p fun x => { x with requests := x.requests.filter fun e => e.1 != k }) s

/-- Free a slot by a scrub (R263): nothing of the cell is left, nor of its context in the core's descriptor cache where the other
slot does not hold that context (R176). -/
def freeSlot (s : State) (k : Nat) : State :=
  let ctx := (getCell s k).ctx
  let mate := getCell s (otherSlot k)
  let s1 := dropRequests (setCell s k Cell.empty) k
  if mate.live && mate.ctx == ctx then s1 else modCore s1 (keyCore k) (dropContext ctx)

/-- Is every team of a launch DONE? -/
def launchDone (s : State) (ctx : Nat) (l : Launch) : Bool :=
  allIndex (fun i => (getTeam s (teamKey ctx i)).run == .done) 0 l.teams

/-- Complete a launch when every team is DONE (R134). -/
def settleLaunch (s : State) (ctx : Nat) : State :=
  match (getCtx s ctx).launch with
  | none => s
  | some l =>
    if launchDone s ctx l then
      finishAt (modCtx s ctx fun c => { c with launch := none }) l.queue l.index stDone 0 0
    else s

/-- End a team whose cells have all halted (R135, R218, R263): dirty sectors and pending writes of its cells perform, its
slots are scrubbed and freed on one beat. -/
def finishTeam (s : State) (ctx team : Nat) : State :=
  let tk := teamKey ctx team
  let seats := (getTeam s tk).seats
  let s1 := seats.foldl (fun s k => drainOwned (cleanCache s k true) k) s
  let s2 := seats.foldl freeSlot s1
  settleLaunch (modTeam s2 tk fun _ => { teamEmpty with run := .done }) ctx

/-- Does a cell hold a command that has not retired (R373)? -/
def cmdsLive (c : Cell) : Bool := c.cmds.any fun m => m.run != .faulted

/-- Has nothing of a cell still to perform? -/
def cellDrained (c : Cell) : Bool := c.accesses.isEmpty && c.copies.isEmpty && c.pubs.isEmpty && !cmdsLive c

/-- Have all cells of a team halted, with nothing of theirs outstanding (R135)? -/
def teamHalted (s : State) (ctx team : Nat) : Bool :=
  let t := getTeam s (teamKey ctx team)
  t.run == .placed && allIndex (fun i => bitOf t.halted i) 0 (ncell s ctx)
    && t.seats.all fun k => cellDrained (getCell s k)

/-- End a team once its last cell has halted and drained. -/
def settleTeam (s : State) (ctx team : Nat) : State :=
  if teamHalted s ctx team then finishTeam s ctx team else s

/-- A cell becomes HALTED (R135, R136): it leaves every barrier and step group, and the last one ends its team. -/
def haltCell (s : State) (k : Nat) : State :=
  let c := getCell s k
  let tk := teamKey c.ctx c.team
  let s1 := modCell s k fun c => { c with run := .halted, fring := [] }
  let s2 := modTeam s1 tk fun t => { t with halted := t.halted ||| 2 ^ c.cell, idle := 0, hung := false }
  settleTeam (foldIndex (fun s b => settleBarrier s c.ctx c.team b) s2 0 8) c.ctx c.team

end Sys2Proof.Machine
end

