-- ==== Sys2Proof/Machine/NetOps.lean ====
section
/-!
DEFINITION. Sys2Proof/Machine/NetOps.lean: access to the collections of the transport, the words that software reads
(R45, R73, R95, R119), the Virga event queues with their coalescing (R66 to R68), and paths (R48, R49).
-/
namespace Sys2Proof.Machine

/-- A PDC index that was never opened. -/
def pdcEmpty : Pdc :=
  ⟨0, 0, 0, 0, 0, 0, 0, 0, 0, 0, 0, 0, 0, 0, 0, 0, 0, [], none, false, [], false, 0, 0, 0, 0, 0, 0, 0, [], 0, false, [], [],
    0, false, [], [], []⟩

/-- An RCB after reset. -/
def rcbEmpty : Rcb := ⟨0, 0, 0, false, 0, 0, 0, 0, 0, 0, 0, 0, 0, 0, none, [], [], false, 0⟩

/-- A window after reset. -/
def windowEmpty : Window := ⟨0, 0, 0, 0, 0⟩

/-- A port before it trains. -/
def portEmpty : EtherPort := ⟨false, false⟩

/-- A security domain before any key is installed. -/
def domainEmpty : Domain := ⟨0, none, [], []⟩

/-- A Virga core before start-up phase 2 (R394). -/
def virgaEmpty : Virga :=
  ⟨.stopped, [], 0, 0, 0, 0, 0, 0, none, [], [], [], false, 0, [], 0, 0, [], []⟩

/-- A PDC. -/
def getPdc (s : State) (n : Nat) : Pdc := tblGet pdcEmpty s.net.pdcs n

/-- Change a PDC. -/
def modPdc (s : State) (n : Nat) (f : Pdc → Pdc) : State :=
  { s with net := { s.net with pdcs := tblSet pdcEmpty s.net.pdcs n (f (getPdc s n)) } }

/-- An RCB. -/
def getRcb (s : State) (n : Nat) : Rcb := tblGet rcbEmpty s.net.rcbs n

/-- Change an RCB. -/
def modRcb (s : State) (n : Nat) (f : Rcb → Rcb) : State :=
  { s with net := { s.net with rcbs := tblSet rcbEmpty s.net.rcbs n (f (getRcb s n)) } }

/-- A window. -/
def getWindow (s : State) (n : Nat) : Window := tblGet windowEmpty s.net.windows n

/-- Change a window. -/
def modWindow (s : State) (n : Nat) (f : Window → Window) : State :=
  { s with net := { s.net with windows := tblSet windowEmpty s.net.windows n (f (getWindow s n)) } }

/-- An Ethernet port. -/
def getPort (s : State) (n : Nat) : EtherPort := tblGet portEmpty s.net.ports n

/-- Change an Ethernet port. -/
def modPort (s : State) (n : Nat) (f : EtherPort → EtherPort) : State :=
  { s with net := { s.net with ports := tblSet portEmpty s.net.ports n (f (getPort s n)) } }

/-- A security domain. -/
def getDomain (s : State) (n : Nat) : Domain := tblGet domainEmpty s.net.domains n

/-- Change a security domain. -/
def modDomain (s : State) (n : Nat) (f : Domain → Domain) : State :=
  { s with net := { s.net with domains := tblSet domainEmpty s.net.domains n (f (getDomain s n)) } }

/-- A Virga core. -/
def getVirga (s : State) (n : Nat) : Virga := tblGet virgaEmpty s.virga n

/-- Change a Virga core. -/
def modVirga (s : State) (n : Nat) (f : Virga → Virga) : State :=
  { s with virga := tblSet virgaEmpty s.virga n (f (getVirga s n)) }

/-- A peer entry (R119). -/
def getPeer (s : State) (n : Nat) : BitVec 512 := tblGet 0 s.net.peers n

/-- A path set (R48). -/
def getPathset (s : State) (n : Nat) : List (BitVec 32) := tblGet [] s.net.pathsets n

/-! ### Fields of a peer entry (R119) -/

/-- VALID. -/
def peerValid (e : BitVec 512) : Bool := e.getLsbD 320
/-- RCCC. -/
def peerRccc (e : BitVec 512) : Bool := e.getLsbD 322
/-- IPV4. -/
def peerIpv4 (e : BitVec 512) : Bool := e.getLsbD 321
/-- ADDR. -/
def peerAddr (e : BitVec 512) : BitVec 128 := e.extractLsb' 384 128
/-- RTOMAX. -/
def peerRtomax (e : BitVec 512) : BitVec 16 := e.extractLsb' 304 16
/-- RTOUS. -/
def peerRtous (e : BitVec 512) : BitVec 16 := e.extractLsb' 288 16
/-- CWND. -/
def peerCwnd (e : BitVec 512) : BitVec 16 := e.extractLsb' 272 16
/-- SDOM. -/
def peerSdom (e : BitVec 512) : BitVec 8 := e.extractLsb' 264 8
/-- NEXTHOP. -/
def peerNexthop (e : BitVec 512) : BitVec 48 := e.extractLsb' 336 48
/-- The VLAN tag of the frames to the peer: VLAN, where VLANEN is 1. -/
def peerVlan (e : BitVec 512) : Option (BitVec 12) := if e.getLsbD 323 then some (e.extractLsb' 324 12) else none
/-- PSET. -/
def peerPset (e : BitVec 512) : BitVec 12 := e.extractLsb' 252 12
/-- LOOP. -/
def peerLoop (e : BitVec 512) : Bool := e.getLsbD 251
/-- PSN0. -/
def peerPsn0 (e : BitVec 512) : BitVec 32 := e.extractLsb' 216 32

/-- Does a received source address match the entry (R41, R119)? -/
def peerMatches (e : BitVec 512) (src : BitVec 128) (v4 : Bool) : Bool :=
  peerValid e && peerIpv4 e == v4 &&
    (if v4 then (peerAddr e).setWidth 32 == src.setWidth 32 else peerAddr e == src)

/-! ### Words that software reads -/

/-- Bytes in flight (R45, R47): every packet sent and not acknowledged. -/
def inflBytes (p : Pdc) : Nat :=
  p.sent.foldl (fun n e => match e.2 with
    | some x => if x.acked then n else n + x.size
    | none => n) 0

/-- Bytes in flight that credit must cover (R47, R58): a parked packet consumes no credit. -/
def creditBytes (p : Pdc) : Nat :=
  p.sent.foldl (fun n e => match e.2 with
    | some x => if x.acked || x.backoff != 0 then n else n + x.size
    | none => n) 0

/-- INFL, in 256-byte units; a part of a unit counts as one (DESIGN CHOICE, log 12). -/
def inflUnits (p : Pdc) : Nat := (inflBytes p + 255) / 256

/-- The 32-byte entry of R45. -/
def pdcWord (p : Pdc) : BitVec 256 :=
  p.nextPsn ++ p.unaPsn ++ p.peer ++ p.pset ++ p.ptr ++ 0#6 ++ p.cwnd ++ p.rtous ++ p.sdom ++ p.ctx ++ 0#4 ++ p.credit
    ++ BitVec.ofNat 16 (inflUnits p) ++ p.evpend ++ p.mode ++ p.state ++ 0#8 ++ p.ecncnt ++ p.ccacks ++ p.ccus

/-- Bits of the RW fields of R73. -/
def rcbRwMask : BitVec 512 :=
  BitVec.ofNat 512 ((2 ^ 512 - 2 ^ 232) + (2 ^ 229 - 2 ^ 201) + (2 ^ 190 - 2 ^ 185) + (2 ^ 175 - 2 ^ 158))

/-- The 64-byte entry of R73. -/
def rcbWord (b : Rcb) : BitVec 512 :=
  (b.image &&& rcbRwMask) ||| BitVec.ofNat 512 (b.state.toNat * 2 ^ 229 + b.core.toNat * 2 ^ 191 + bit01 b.slot * 2 ^ 190
    + b.gen.toNat * 2 ^ 175 + b.nchk * 2 ^ 128 + b.pend * 2 ^ 104 + b.nclip * 2 ^ 80 + b.dups.toNat * 2 ^ 56
    + b.tpend * 2 ^ 32 + b.fcause.toNat * 2 ^ 24)

/-- Bits of the RW fields of R95. -/
def windowRwMask : BitVec 256 :=
  BitVec.ofNat 256 ((2 ^ 256 - 2 ^ 188) + (2 ^ 186 - 2 ^ 183) + (2 ^ 144 - 2 ^ 128) + (2 ^ 64 - 2 ^ 56))

/-- The 32-byte entry of R95. -/
def windowWord (w : Window) : BitVec 256 :=
  (w.image &&& windowRwMask) ||| BitVec.ofNat 256 (w.state.toNat * 2 ^ 186 + w.gen.toNat * 2 ^ 144
    + w.admitted.toNat * 2 ^ 96 + w.violcnt.toNat * 2 ^ 64)

/-- The 32-byte record of R66. -/
def recordWord (r : EventRec) : BitVec 256 :=
  r.aux ++ r.count ++ r.psn ++ r.time ++ 0#3 ++ BitVec.ofBool r.ctx.isSome ++ r.ctx.getD 0 ++ r.pdc ++ 0#9 ++ r.eport ++ 0#6
    ++ BitVec.ofBool r.ovf ++ BitVec.ofBool r.coal ++ r.code

/-! ### Virga event queues (R66 to R68) -/

/-- Records that a queue holds (R66). -/
def virgaQueueSize : Nat := 1024

/-- The owner of a PDC (R44). -/
def pdcOwner (n : Nat) : Nat := n % 8

/-- The IO die of a PDC (R44). -/
def pdcDie (n : Nat) : Nat := n % 8 / 4

/-- A record about a PDC, uncoalesced. -/
def pdcRecord (s : State) (n code : Nat) (psn : BitVec 32) (count port : Nat) (aux : BitVec 64) : EventRec :=
  ⟨BitVec.ofNat 8 code, false, false, BitVec.ofNat 7 port, BitVec.ofNat 16 n, some (getPdc s n).ctx, s.pkg.gtime, psn,
    BitVec.ofNat 32 count, aux⟩

/-- A record about no PDC. -/
def plainRecord (s : State) (code : Nat) (ctx : Option (BitVec 12)) (port : Nat) (aux : BitVec 64) : EventRec :=
  ⟨BitVec.ofNat 8 code, false, false, BitVec.ofNat 7 port, 0, ctx, s.pkg.gtime, 0, 0, aux⟩

/-- One more event of a code that has overflowed its queue: the latest stands, the count grows (R68). -/
def coalesce (t : Tbl (Option Coalesced)) (r : EventRec) : Tbl (Option Coalesced) :=
  let n := match tblGet none t r.code.toNat with
    | some c => c.count
    | none => 0
  tblSet none t r.code.toNat (some ⟨r.time, r.ctx, r.psn, r.eport, r.aux, n + 1⟩)

/-- The round-trip sample of R67, in 16 ns units, saturated to its field. -/
def rttUnits (ns : Nat) : Nat := min (ns / 16) 65535

/-- AUX of CCSIG (R67). A sample above its field is saturated, and the bytes acknowledged count modulo 2^32 (DESIGN CHOICE, log
47). -/
def ccsigAux (p : Pdc) : BitVec 64 :=
  BitVec.ofNat 64 (p.ackBytes % 2 ^ 32 + rttUnits p.rttMin * 2 ^ 32 + rttUnits p.rttLast * 2 ^ 48)

/-- The state that a posted CCSIG clears (R59). -/
def ccsigClear (now : Nat) (p : Pdc) : Pdc :=
  { p with ecncnt := 0, ackCount := 0, ackBytes := 0, rttMin := 0, ccsigAt := now }

/-- Put a record at the tail of a queue; an LOS record resets the core's cursor of its port (R411). -/
def pushRecord (s : State) (core : Nat) (r : EventRec) : State :=
  modVirga s core fun v => { v with
    queue := v.queue ++ [r]
    cursors := if r.code = 5 then tblErase v.cursors r.eport.toNat else v.cursors }

/-- Has the queue room? -/
def queueRoom (s : State) (core : Nat) : Bool := decide ((getVirga s core).queue.length < virgaQueueSize)

/-- Post a record that concerns a PDC to its owner (R67, R68). A CCSIG that is posted clears its counts; one that is
coalesced does so when it is posted. -/
def postPdc (s : State) (n code : Nat) (psn : BitVec 32) (count port : Nat) (aux : BitVec 64) : State :=
  let core := pdcOwner n
  let r := pdcRecord s n code psn count port aux
  if queueRoom s core then
    let s1 := pushRecord s core r
    if code = 4 then modPdc s1 n (ccsigClear s.pkg.gtime.toNat) else s1
  else
    modVirga (modPdc s n fun p =>
      { p with evpend := p.evpend ||| (1#16 <<< code), events := coalesce p.events r }) core fun v => { v with ovf := true }

/-- Post a record that concerns no PDC (R67, R68): an LOS or LOSCLR that overflows sets its port's bit. -/
def postCore (s : State) (core : Nat) (r : EventRec) : State :=
  if queueRoom s core then pushRecord s core r
  else
    modVirga s core fun v =>
      let code := r.code.toNat
      { v with
        ovf := true
        ovfw := v.ovfw ||| (1#16 <<< code)
        events := coalesce v.events r
        losMask := if code = 5 then v.losMask ||| (1#128 <<< r.eport.toNat) else v.losMask
        clrMask := if code = 6 then v.clrMask ||| (1#16 <<< (r.eport.toNat % 16)) else v.clrMask }

/-- The lowest bit set below `n`. -/
def lowestBit (x n : Nat) : Option Nat := firstIndex (fun i => bitOf x i) 0 n

/-- The coalesced record of a bit of EVPEND (R68). -/
def pdcCoalesced (s : State) (n code : Nat) : EventRec :=
  let p := getPdc s n
  let base : EventRec := match tblGet none p.events code with
    | some c => { pdcRecord s n code c.psn c.count c.port.toNat c.aux with time := c.time, ctx := c.ctx }
    | none => pdcRecord s n code 0 0 0 0
  let r : EventRec :=
    if code = 1 then
      pdcRecord s n 1 p.unaPsn (p.nextPsn - p.unaPsn).toNat 0 (BitVec.ofNat 64 (bit01 p.parking))
    else if code = 4 then pdcRecord s n 4 0 p.ecncnt.toNat 0 (ccsigAux p)
    else base
  { r with coal := true }

/-- Clear a bit of EVPEND as its record posts. -/
def clearPend (now code : Nat) (p : Pdc) : Pdc :=
  let q := { p with evpend := p.evpend &&& ~~~(1#16 <<< code), events := tblErase p.events code }
  if code = 4 then ccsigClear now q else q

/-- Does a TIMER record of the timer stand in the queue (R407)? -/
def timerQueued (v : Virga) (n : Nat) : Bool := v.queue.any fun r => r.code == 13#8 && r.aux == BitVec.ofNat 64 n

/-- Post one coalesced record of the overflow word, port masks in ascending order (R68); a TIMER for each timer that has
expired and has no record. A coalesced RCBDONE, REVOKED or KEYEPOCH carries the time, context and AUX of the latest one, and
COUNT 0 as R67 gives it (DESIGN CHOICE, log 47: R68 names the PDC codes and LOS only). -/
def postOverflow (s : State) (core code : Nat) : State :=
  let v := getVirga s core
  let clear := fun (v : Virga) => { v with ovfw := v.ovfw &&& ~~~(1#16 <<< code), events := tblErase v.events code }
  let put := fun (s : State) (r : EventRec) => pushRecord s core { r with coal := true }
  if code = 5 then
    match lowestBit v.losMask.toNat 128 with
    | some p =>
      let s1 := put s (plainRecord s 5 none p 0)
      modVirga s1 core fun v =>
        let v1 := { v with losMask := v.losMask &&& ~~~(1#128 <<< p) }
        if v1.losMask = 0 then clear v1 else v1
    | none => modVirga s core clear
  else if code = 6 then
    match lowestBit v.clrMask.toNat 16 with
    | some k =>
      let s1 := put s (plainRecord s 6 none (16 * core + k) 0)
      modVirga s1 core fun v =>
        let v1 := { v with clrMask := v.clrMask &&& ~~~(1#16 <<< k) }
        if v1.clrMask = 0 then clear v1 else v1
    | none => modVirga s core clear
  else if code = 13 then
    match firstIndex (fun i => decide (0 < (tblGet ⟨0, 0, 0⟩ v.timers i).expiries) && !timerQueued v i) 0 16 with
    | some i => put s (plainRecord s 13 none 0 (BitVec.ofNat 64 i))
    | none => modVirga s core clear
  else
    match tblGet none v.events code with
    | some c => put (modVirga s core clear) { plainRecord s code c.ctx 0 c.aux with time := c.time }
    | none => modVirga s core clear

/-- The lowest PDC of a core with a bit of EVPEND set. -/
def pendingPdc (s : State) (core : Nat) : Option (Nat × Pdc) :=
  tblFind (fun k p => pdcOwner k == core && p.evpend != 0) s.net.pdcs

/-- Post coalesced records while the queue has room: PDC by PDC in index order, then from the overflow word (R68). -/
def drainEvents (s : State) (core : Nat) : Nat → State
  | 0 => s
  | n + 1 =>
    if !queueRoom s core then s
    else
      match pendingPdc s core with
      | some (k, p) =>
        match lowestBit p.evpend.toNat 16 with
        | some code =>
          let s1 := pushRecord s core (pdcCoalesced s k code)
          drainEvents (modPdc s1 k (clearPend s.pkg.gtime.toNat code)) core n
        | none => s
      | none =>
        match lowestBit (getVirga s core).ovfw.toNat 16 with
        | some code => drainEvents (postOverflow s core code) core n
        | none => s

/-! ### Paths (R48, R49) -/

/-- Is an entry of a path set usable (R49)? -/
def entryUsable (s : State) (e : BitVec 32) : Bool :=
  let p := getPort s (e.extractLsb' 24 7).toNat
  e.getLsbD 31 && p.admitted && p.up

/-- The first usable entry at or after `ptr`, in cyclic order. -/
def usableFrom (s : State) (l : List (BitVec 32)) (ptr : Nat) : Option Nat :=
  (firstIndex (fun i => entryUsable s (l.getD ((ptr + i) % l.length) 0)) 0 l.length).map fun i => (ptr + i) % l.length

/-- Is the PDC of a peer that is this package (R92)? -/
def pdcLoop (p : Pdc) : Bool := peerLoop p.entry

/-- Can the PDC send: has its path set a usable entry, or is it a loopback? -/
def pathReady (s : State) (p : Pdc) : Bool :=
  pdcLoop p || (usableFrom s (getPathset s p.pset.toNat) p.ptr.toNat).isSome

/-- The port and entropy of the next transmission, and the pointer after it (R49): a ROD PDC stays at its pin. -/
def takePath (s : State) (p : Pdc) : Option (Option (Nat × BitVec 16) × BitVec 6) :=
  if pdcLoop p then some (none, p.ptr)
  else
    let l := getPathset s p.pset.toNat
    match usableFrom s l p.ptr.toNat with
    | none => none
    | some i =>
      let e := l.getD i 0
      let next := if p.mode = 1 then i else (i + 1) % l.length
      some (some ((e.extractLsb' 24 7).toNat, e.setWidth 16), BitVec.ofNat 6 next)

/-- The epoch under which a packet of a domain is encrypted now (R62, R63). -/
def sendEpoch (s : State) (dom : BitVec 8) : BitVec 16 := (getDomain s dom.toNat).epoch

/-- Put a frame on the egress of a port (R42, R50). -/
def pushFrame (s : State) (port : Nat) (f : Frame) : State :=
  { s with net := { s.net with egress := tblSet [] s.net.egress port (tblGet [] s.net.egress port ++ [f]) } }

/-- States of a PDC (R46). -/
def pdcOpen : BitVec 4 := 1
/-- NOPATH. -/
def pdcNopath : BitVec 4 := 2
/-- QUIESCE. -/
def pdcQuiesce : BitVec 4 := 3
/-- FAILED. -/
def pdcFailed : BitVec 4 := 4

/-! ### Sending (R42, R49, R53, R92) -/

/-- The header of what a PDC sends. -/
def headerOf (s : State) (p : Pdc) (psn : BitVec 32) (port : Nat) : Header :=
  ⟨port, s.pkg.udpPort, peerAddr p.entry, peerIpv4 p.entry, p.ctx, p.mode, psn, sendEpoch s p.sdom, true, true, false, false,
    if p.est then some p.unaPsn else none⟩

/-- The frame of what PDC n sends under an entropy value (R42, R62, R119): encrypted under the key of its domain's epoch. -/
def sealFrame (s : State) (n : Nat) (ent : BitVec 16) (b : FrameBody) : Frame :=
  let p := getPdc s n
  let key := Config.domainKey p.sdom (sendEpoch s p.sdom)
  let nonce := Config.wireNonce n s.pkg.gtime b
  let clear := Config.wireBytes n b
  let cipher := clear.zipIdx.map fun x => x.1 ^^^ Config.gcmByte key nonce x.2
  { pdc := n
    hop := peerNexthop p.entry
    vlan := peerVlan p.entry
    dst := peerAddr p.entry
    ipv4 := peerIpv4 p.entry
    entropy := ent
    udp := s.pkg.udpPort
    epoch := sendEpoch s p.sdom
    body := b
    cipher := cipher
    tag := Config.gcmTag key nonce (Config.wireHead n ent) cipher }

/-- What a looped-back answer brings to the sender: one acknowledgement, and each NACK apart. -/
def loopAnswers (h : Header) (l : List (BitVec 32 × Answer)) (credit : Nat) (ecn : Bool) (rtt : Nat) : List Input :=
  let acked := l.filterMap fun e => match e.2 with
    | .ack _ => some e.1
    | .nack .. => none
  let values := l.filterMap fun e => match e.2 with
    | .ack (some v) => some (e.1, v)
    | _ => none
  let nacks := l.filterMap fun e => match e.2 with
    | .nack r w x => some (Input.nack { h with psn := e.1 } r w x)
    | _ => none
  (if acked.isEmpty && credit == 0 then [] else [.ack ⟨h, none, acked, values, ecn, BitVec.ofNat 16 credit, rtt⟩]) ++ nacks

/-- What a looped-back frame brings (R92); its round-trip sample is a time that no rule states (R433, log 13). -/
def loopInputs (h : Header) (rtt : Nat) : FrameBody → List Input
  | .data p => [.packet { p with hd := { h with psn := p.hd.psn, est := p.hd.est } }]
  | .answer l credit ecn => loopAnswers h l credit ecn rtt
  | .closeRequest => [.close h]
  | .closeAck => [.closeAck h]

/-- Send a frame of a PDC on its next path entry (R49, R53); without a usable one it waits. -/
def sendBody (s : State) (n : Nat) (b : FrameBody) : State :=
  let p := getPdc s n
  match takePath s p with
  | none => modPdc s n fun p => { p with outbox := p.outbox ++ [b] }
  | some (none, _) =>
    let l := loopInputs (headerOf s p 0 p.peer.toNat) (Config.unstated 433 s.tick) b
    { s with net := { s.net with loop := s.net.loop ++ l }, tick := s.tick + 1 }
  | some (some (port, ent), ptr) =>
    pushFrame (modPdc s n fun p => { p with ptr := ptr }) port (sealFrame s n ent b)

/-- Send what waited for a usable entry. -/
def flushOutbox (s : State) (n : Nat) : State :=
  let l := (getPdc s n).outbox
  l.foldl (fun s b => sendBody s n b) (modPdc s n fun p => { p with outbox := [] })

/-- OPEN and NOPATH follow the usability of the path set (R46, R49), and what waited for a usable entry is sent. -/
def settlePdc (s : State) (n : Nat) : State :=
  let p := getPdc s n
  if p.state = pdcOpen ∧ !pathReady s p then modPdc s n fun p => { p with state := pdcNopath }
  else if p.state = pdcNopath ∧ pathReady s p then flushOutbox (modPdc s n fun p => { p with state := pdcOpen }) n
  else if p.state = pdcQuiesce ∧ pathReady s p then flushOutbox s n
  else s

/-- Settle every PDC after paths have changed. -/
def settlePaths (s : State) : State := (tblKeys s.net.pdcs).foldl settlePdc s

/-! ### Ends of packets -/

/-- The cause that an operation on a PDC that failed takes (R46, R244). -/
def remoteTrap (aux : Nat) : TrapInfo := ⟨0x30, 0, 0, 0, BitVec.ofNat 32 aux, false⟩

/-- A fault as it is recorded against the operation (R242, R248): SRC 1 and the sequence number, or SRC 4 and the channel. -/
def copyTrap (o : CopyOp) (t : TrapInfo) : TrapInfo :=
  match o.chan with
  | some ch => { t with engine := true, src := 4, opid := BitVec.ofNat 16 ch.num }
  | none => { t with engine := true, src := 1, opid := o.seq }

/-- Record a fault: the first stands. -/
def noteCopyFault (t : TrapInfo) (o : CopyOp) : CopyOp :=
  match o.fault with
  | some _ => o
  | none => { o with fault := some (copyTrap o t) }

/-- One packet of a copy operation has ended: acknowledged, or with a fault of which the first stands (R46, R90). -/
def endChunk (order : Nat) (f : Option TrapInfo) (o : CopyOp) : CopyOp :=
  if o.order = order then
    let o1 := { o with unacked := o.unacked - 1 }
    match f with
    | some t => noteCopyFault t o1
    | none => o1
  else o

/-- One window access has been answered (R98). -/
def endAccess (id : Nat) (v : Option (BitVec 64)) (f : Option TrapInfo) (a : Access) : Access :=
  if a.id = id then { a with answered := some ⟨v.getD 0, false, f.map fun t => { t with addr := a.va }⟩ } else a

/-- A packet has ended: its operation or access learns so. -/
def endCarry (s : State) (c : Carry) (v : Option (BitVec 64)) (f : Option TrapInfo) : State :=
  match c with
  | .chunk key order _ _ => modCell s key fun c => { c with copies := c.copies.map (endChunk order f) }
  | .access key id => modCell s key fun c => { c with accesses := c.accesses.map (endAccess id v f) }

/-- Discard what a PDC has queued for egress. -/
def dropFrames (s : State) (n : Nat) : State :=
  let drop := fun t port => tblSet [] t port ((tblGet [] t port).filter fun (f : Frame) => f.pdc != n)
  { s with net := { s.net with egress := (tblKeys s.net.egress).foldl drop s.net.egress } }

/-- A PDC moves to FAILED (R46): every outstanding operation completes faulted with REMOTE, and the retransmit queue is
discarded (R410). -/
def failPdc (s : State) (n : Nat) : State :=
  let p := getPdc s n
  let s1 := p.sent.foldl (fun s e => match e.2 with
    | some x => if x.acked then s else endCarry s x.carry none (some (remoteTrap n))
    | none => s) s
  modPdc (dropFrames s1 n) n fun p =>
    { p with state := pdcFailed, sent := [], retx := [], timer := none, parking := false, outbox := [], acks := [] }

/-- A PDC becomes CLOSED (R46); events that await posting stay (R68). -/
def closePdc (s : State) (n : Nat) : State :=
  modPdc s n fun p =>
    { p with state := 0, sent := [], retx := [], timer := none, parking := false, outbox := [], acks := [],
             kept := [], rxOpen := false, ackEcn := false, feeds := [], reached := [] }

end Sys2Proof.Machine
end

