-- ==== Sys2Proof/Machine/Access.lean ====
section
/-!
DEFINITION. Sys2Proof/Machine/Access.lean: committed off-core accesses (R200 to R210): the order in which they may
perform, what each does at its serialisation point, and the return of its answer to the cell (R98, R260, R273).
-/
namespace Sys2Proof.Machine

/-! ### Values -/

/-- A loaded value as a register (R340). -/
def loadValue (signed : Bool) (size x : Nat) : BitVec 64 :=
  if signed then BitVec.ofInt 64 (sextInt x (8 * size)) else BitVec.ofNat 64 (x % 2 ^ (8 * size))

/-- Width of a field of VLDX (R344). -/
def patWidth (pat : BitVec 64) : Nat := if bitsOf pat.toNat 4 0 = 0 then 32 else bitsOf pat.toNat 4 0

/-- The lane value of a field at bit offset `o` of its bytes (R345). -/
def fieldValue (o : Nat) (pat : BitVec 64) (raw : Nat) : BitVec 64 :=
  let w := patWidth pat
  let f := bitsOf raw (o + w - 1) o
  let f1 : Int := if pat.getLsbD 7 then sextInt f w else (f : Int)
  BitVec.ofNat 64 (lowBits (f1 * (2 ^ bitsOf pat.toNat 12 8 : Nat)) 32)

/-- Size of an atomic by its opcode less 0x11 (R346): AADD.i64 and ACAS have 8 bytes. -/
def amoSize (op : Nat) : Nat := if op = 1 ∨ op = 5 then 8 else 4

/-- The new word of an atomic (R346). -/
def amoNew (op old : Nat) (arg cmp : BitVec 64) : Nat :=
  let y := arg.toNat % 2 ^ (8 * amoSize op)
  match op with
  | 0 => (old + y) % 2 ^ 32
  | 1 => (old + y) % 2 ^ 64
  | 2 => planeSum 2 old y
  | 3 => if sextInt old 32 < sextInt y 32 then y else old
  | 4 => (minMaxCode .f32 false true old y).code
  | 5 => if old = cmp.toNat then arg.toNat else old
  | _ => y

/-- The old word as a register (R346). -/
def amoOld (op old : Nat) : BitVec 64 := loadValue (op == 0 || op == 3 || op == 6) (amoSize op) old

/-- The answer's value of an access that reads `x`. -/
def answerValue (k : AccKind) (size x : Nat) : BitVec 64 :=
  match k with
  | .load signed => loadValue signed size x
  | .field o pat => fieldValue o pat x
  | .store _ => 0
  | .amo op _ _ => amoOld op x

/-- Does an access write? -/
def accWrites : AccKind → Bool
  | .load _ => false
  | .field _ _ => false
  | _ => true

/-! ### Order (R204 to R206) -/

/-- Are two accesses in one queue: one class to locations on the package, one peer core, or one class to one peer? -/
def sameQueue (a b : Access) : Bool :=
  match a.place, b.place with
  | .phys .., .phys .. => a.cls == b.cls
  | .near x, .near y => bitsOf x.toNat 24 21 == bitsOf y.toNat 24 21
  | .window p _ _ _, .window q _ _ _ => p == q && a.cls == b.cls
  | _, _ => false

/-- Do the ranges [x, x + n) and [y, y + m) meet? -/
def rangesMeet (x n y m : Nat) : Bool := decide (x < y + m) && decide (y < x + n)

/-- Do two accesses touch one location? -/
def sameLocation (a b : Access) : Bool :=
  match a.place, b.place with
  | .phys x _ _ _, .phys y _ _ _ => rangesMeet x a.size y b.size
  | .near x, .near y => rangesMeet x.toNat a.size y.toNat b.size
  | .window p v x _, .window q w y _ => p == q && v == w && rangesMeet x a.size y b.size
  | _, _ => false

/-- Is it a window access? -/
def accWindow (a : Access) : Bool :=
  match a.place with
  | .window .. => true
  | _ => false

/-- Does a fence, with its group and its mask, stand after an access and in the access's class (R207)? -/
def fenceCovers (f : Nat × BitVec 16) (b : Access) : Bool := decide (b.group < f.1) && f.2.getLsbD b.cls.toNat

/-- Does a fence between two accesses of its classes order them (R207)? -/
def fenceBetween (c : Cell) (b a : Access) : Bool :=
  c.fences.any fun f => fenceCovers f b && decide (f.1 < a.group) && f.2.getLsbD a.cls.toNat

/-- Within one group, does access `b` come before access `a` where their order counts: loads before writes, then by slot and
lane (R206)? -/
def groupOrder (b a : Access) : Bool :=
  if accWrites b.kind = accWrites a.kind then decide (b.id < a.id) else accWrites a.kind

/-- Must access `b` perform before access `a` of the same cell? Across groups by the queue, or by a fence between them (R204,
R205, R207); within a group loads read the values from before it, two writes of one location perform in the order of their
copy ports, which is slot order, and of their lanes, and window accesses of one queue are sent in that order (R206, R343). -/
def precedes (c : Cell) (b a : Access) : Bool :=
  if b.group < a.group then sameQueue a b || fenceBetween c b a
  else if b.group = a.group then
    ((sameLocation a b && accWrites a.kind) || (accWindow a && sameQueue a b)) && groupOrder b a
  else false

/-- May an access of a cell perform now? -/
def mayPerform (c : Cell) (a : Access) : Bool :=
  c.accesses.all fun b => !(unperformed b && b.id != a.id && precedes c b a)

/-- Is an access that a fence of a group before `group` covers still to perform? What every such fence comes before waits for
it (R207). -/
def fencePending (c : Cell) (group : Nat) : Bool :=
  c.fences.any fun f => decide (f.1 < group) && c.accesses.any fun b => unperformed b && fenceCovers f b

/-- Must an access of a class to the cell's own banks, which performs as its group commits, wait for what a fence covers
(R207)? -/
def fenceStalls (c : Cell) (cls : BitVec 4) : Bool :=
  c.fences.any fun f => f.2.getLsbD cls.toNat && c.accesses.any fun b => unperformed b && fenceCovers f b

/-- Is it a near access? -/
def accNear (a : Access) : Bool :=
  match a.place with
  | .near _ => true
  | _ => false

/-- Must an engine operation that a group enqueued still wait (R206, R207, R211): for a near store of the cell, for a store or
atomic of its own class, or for what a fence before its group covers? A matrix command has no class. -/
def forkWaits (c : Cell) (group : Nat) (cls : Option (BitVec 4)) : Bool :=
  fencePending c group || c.accesses.any fun b =>
    unperformed b && accWrites b.kind && decide (b.group ≤ group) && (accNear b || cls == some b.cls)

/-- The fences that still order something: one that covers no pending access orders nothing more. -/
def pruneFences (c : Cell) : Cell :=
  { c with fences := c.fences.filter fun f => c.accesses.any fun b => unperformed b && fenceCovers f b }

/-- Has the cell an access of a class to the package that has not performed (R204)? A later read of the class waits. -/
def classPending (c : Cell) (cls : BitVec 4) : Bool :=
  c.accesses.any fun a => unperformed a && a.cls == cls && match a.place with
    | .phys .. => true
    | _ => false

/-! ### Issue -/

/-- Where an access to a checked global address performs (R96, R161). -/
def globalPlace (l : Leaf) (va : Nat) : AccPlace :=
  if leafAp l.bits then
    let (w, p, o) := leafWindow l.bits va
    .window p w o false
  else .phys (leafPa l va) (leafClvl l.bits) (leafWpol l.bits) (leafEvp l.bits)

/-- Put a committed access at the tail of the cell's accesses. -/
def addAccess (c : Cell) (cls : BitVec 4) (size : Nat) (va : BitVec 64) (kind : AccKind) (place : AccPlace)
    (dest : AccDest) : Cell :=
  { c with
    accesses := c.accesses ++ [⟨c.accNo, c.groupNo, cls, size, va, kind, place, dest, false, false, none⟩]
    accNo := c.accNo + 1 }

/-! ### Performing -/

/-- Does the leaf's level send the access through the core cache (R160, R161)? -/
def throughCache (c : Cell) (clvl : BitVec 2) : Bool := clvl == 1 && !(cacheWays c).isEmpty

/-- Does the cache hold the sector of an address? -/
def sectorValid (c : Cell) (pa : Nat) : Bool :=
  match cacheHit c pa with
  | some (_, l) => l.valid.getLsbD (pa % 128 / 16)
  | none => false

/-- May the core cache take the sector: it holds it already, or it can be filled without poison (R260)? -/
def sectorClean (s : State) (k pa : Nat) : Bool :=
  sectorValid (getCell s k) pa || !physPoisoned s (pa / 16 * 16) 16

/-- A load of at most 16 bytes inside one sector: its bytes, and were they poisoned? -/
def physLoad (s : State) (k pa n : Nat) (clvl evp : BitVec 2) : State × List Byte × Bool :=
  if throughCache (getCell s k) clvl && sectorClean s k pa then
    cacheLoad s k pa n evp
  else
    let bad := physPoisoned s pa n
    let s1 := if bad then postPoison s (keyCore k) pa (getCell s k).ctx else s
    (s1, physBytes s pa n, bad)

/-- A store of at most 16 bytes inside one sector (R161). -/
def physStore (s : State) (k pa : Nat) (bs : List Byte) (clvl wpol evp : BitVec 2) (cls : BitVec 4) : State :=
  if throughCache (getCell s k) clvl && (wpol != 0 || sectorClean s k pa) then cacheStore s k pa bs wpol evp cls
  else physWrite s pa bs (clvl == 2) (cellOwner s k cls)

/-- An access at a physical address. -/
def performPhys (s : State) (k : Nat) (a : Access) (pa : Nat) (clvl wpol evp : BitVec 2) : State × AccAnswer :=
  match a.kind with
  | .store d => (physStore s k pa (toBytes d.toNat a.size) clvl wpol evp a.cls, ⟨0, false, none⟩)
  | .amo op arg cmp =>
    let s1 := if clvl = 1 then dropSector s k pa true else s
    let old := physNat s1 pa a.size
    if physPoisoned s1 pa a.size then
      (postPoison s1 (keyCore k) pa (getCell s k).ctx, ⟨amoOld op old, true, none⟩)
    else
      let new := amoNew op old arg cmp
      (physWrite s1 pa (toBytes new a.size) false (cellOwner s k a.cls), ⟨amoOld op old, false, none⟩)
  | kind =>
    let (s1, bs, bad) := physLoad s k pa a.size clvl evp
    (s1, ⟨answerValue kind a.size (ofBytes bs), bad, none⟩)

/-- The use of a bank by an access. -/
def accUse (k : AccKind) : NearUse :=
  match k with
  | .store _ => .store
  | .amo .. => .atomic
  | _ => .load

/-- A near atomic at its place (R209, R348): a poisoned word stays poisoned. -/
def nearAmo (s : State) (j b off size op : Nat) (arg cmp : BitVec 64) : State × AccAnswer :=
  let c := getCell s j
  let old := ofBytes (nearBytes c b off size)
  if presentPoisoned c b off size then (s, ⟨amoOld op old, true, none⟩)
  else (setCell s j (setNearBytes c b off (toBytes (amoNew op old arg cmp) size)), ⟨amoOld op old, false, none⟩)

/-- The bytes of near addresses one by one, each with its own place (R345): the number they make, poison, and the first
fault. -/
def nearGather (s : State) (k : Nat) (a : BitVec 64) (size : Nat) : Nat → Except TrapInfo (Nat × Bool)
  | 0 => .ok (0, false)
  | n + 1 =>
    match nearCheck s k a 1 1 .load with
    | .error t => .error { t with info := BitVec.ofNat 32 size }
    | .ok (j, b, off) =>
      match nearGather s k (a + 1) size n with
      | .error t => .error t
      | .ok (x, bad) =>
        let c := getCell s j
        .ok ((nearByte c b off).toNat + 256 * x, bad || presentPoisoned c b off 1)

/-- An access at a near address; the bank's mode is checked on the beat at which it performs (R156), and a refusal is a
deferred trap of the cell. -/
def performNear (s : State) (k : Nat) (a : Access) (addr : BitVec 32) : State × AccAnswer :=
  match a.kind with
  | .field o pat =>
    match nearGather s k (addr.setWidth 64) a.size a.size with
    | .error t => (s, ⟨0, false, some t⟩)
    | .ok (x, bad) => (s, ⟨fieldValue o pat x, bad, none⟩)
  | kind =>
    match nearCheck s k (addr.setWidth 64) a.size a.size (accUse kind) with
    | .error t => (s, ⟨0, false, some t⟩)
    | .ok (j, b, off) =>
      match kind with
      | .store d => (nearStore s k a.va j b off (toBytes d.toNat a.size), ⟨0, false, none⟩)
      | .amo op arg cmp => nearAmo s j b off a.size op arg cmp
      | kind =>
        let c := getCell s j
        (s, ⟨answerValue kind a.size (ofBytes (nearBytes c b off a.size)), presentPoisoned c b off a.size, none⟩)

/-- An access performs; a window access performs at its target and is answered by the transport. -/
def performAccess (s : State) (k : Nat) (a : Access) : State × Option AccAnswer :=
  match a.place with
  | .phys pa clvl wpol evp =>
    let (s1, r) := performPhys s k a pa clvl wpol evp
    (s1, some r)
  | .near addr =>
    let (s1, r) := performNear s k a addr
    (s1, some r)
  | .window .. => (s, none)

/-! ### Arrivals that wait for near stores (R214) -/

/-- Has a near store of a group up to `upto` still to perform? -/
def nearStoresPending (c : Cell) (upto : Nat) : Bool :=
  c.accesses.any fun a => unperformed a && decide (a.group ≤ upto) && accWrites a.kind && accNear a

/-- May a committed arrival count: have the near stores before it performed, for a barrier those of earlier groups, for a
step those of its own group too (R305, R352), and what a fence before it covers (R207)? -/
def mayArrive (c : Cell) (x : Bool × Nat) : Bool :=
  !nearStoresPending c (if x.1 then c.groupNo - 1 else c.groupNo) && !fencePending c c.groupNo

/-- The arrivals of committed BARWs and GSTEPs count once they may. -/
def settleArrival (s : State) (k : Nat) : State :=
  let c := getCell s k
  if c.arriving.isEmpty then s
  else
    let s1 := modCell s k fun c => { c with arriving := c.arriving.filter fun x => !mayArrive c x }
    (c.arriving.filter (mayArrive c)).foldl (fun s x => if x.1 then arriveBarrier s k x.2 else arriveStep s k x.2) s1

/-- A committed arrival: the cell waits. -/
def beginArrival (s : State) (k : Nat) (bar : Bool) (n : Nat) : State :=
  settleArrival (modCell s k fun c =>
    { enterWait s.pkg.gtime.toNat none c with arrived := true, arriving := c.arriving ++ [(bar, n)] }) k

/-! ### Answers -/

/-- Write the register that an answer fills, and its poison mark (R260). -/
def bindValue (c : Cell) (d : AccDest) (v : BitVec 64) (bad : Bool) : Cell :=
  match d with
  | .none => c
  | .s n =>
    let c1 := wrS c (BitVec.ofNat 6 n) v
    if bad ∧ n ≠ 0 then { c1 with poisonS := tblSet false c1.poisonS n true } else c1
  | .v n lane =>
    let c1 := wrV c (BitVec.ofNat 6 n) lane (v.setWidth 32)
    if bad then { c1 with poisonV := tblSet false c1.poisonV n true } else c1

/-- An answer reaches its cell: the register is written and released, a refusal becomes a deferred trap (R98). -/
def bindAnswer (c : Cell) (a : Access) (r : AccAnswer) : Cell :=
  let c1 := bindValue { c with accesses := c.accesses.filter fun b => b.id != a.id } a.dest r.value r.poison
  match r.trap with
  | some t => deferTrap c1 t
  | none => c1

/-- Put the answer of an access; fences that waited for it alone are spent. -/
def putAnswer (r : AccAnswer) (id : Nat) (c : Cell) : Cell :=
  pruneFences { c with accesses := c.accesses.map fun a => if a.id = id then { a with answered := some r } else a }

/-- Does the cell's tile run: not stopped (R250), the cell itself neither stopped at a YIELD (R149) nor waiting for the rest
of its team to be restored (R151) or cut off on a fenced tile (R262)? -/
def tileRuns (s : State) (k : Nat) : Bool :=
  let u := getCore s (keyCore k)
  let c := getCell s k
  !u.stopped && c.run != .stopped && !c.held

/-- Does a near access wait at its source: the tile it names does not run, and the access was not on its way before the stop
(R250)? -/
def nearHeld (s : State) (k : Nat) (a : Access) : Bool :=
  match a.place with
  | .near addr =>
    match nearPlace s k addr with
    | some (j, _, _) => !a.drains && !tileRuns s j
    | none => false
  | _ => false

/-- Has the queue of deferred traps room for an event of an engine or shell (R246)? -/
def deferRoom (c : Cell) : Bool := decide (c.deferred.length < 16)

/-- Has a step put an event into the queue of deferred traps past its 16 entries (R246)? -/
def deferFull (s s1 : State) (k : Nat) : Bool :=
  let n := (getCell s1 k).deferred.length
  decide (16 < n) && decide ((getCell s k).deferred.length < n)

/-- An access performs; a store to a region whose refusal would be a 17th deferred event waits until an entry is taken
(R167, R246). -/
def performNow (s : State) (k : Nat) (a : Access) : State :=
  match performAccess s k a with
  | (s1, some r) => if deferFull s s1 k then s else settleArrival (modCell s1 k (putAnswer r a.id)) k
  | (s1, none) => s1

/-! ### The request queues of the CXL ports (R27, R29, R189) -/

/-- The CXL port whose queue an access goes through; a valid sector of the core cache serves a load, and a store of write
policy 00, without it. -/
def cxlPortOf (s : State) (k : Nat) (a : Access) : Option Nat :=
  match a.place with
  | .phys pa clvl wpol _ =>
    let c := getCell s k
    let inCache := throughCache c clvl && sectorValid c pa && match a.kind with
      | .store _ => wpol == 0
      | .amo .. => false
      | _ => true
    match physKind s pa with
    | .cxl port => if inCache then none else some port
    | _ => none
  | _ => none

/-- May a request perform: it is among those outstanding, and no earlier one touches its location (R27, R189)? -/
def requestServed (s : State) (port k : Nat) (a : Access) : Bool :=
  let l := liveRequests s port
  match l.findIdx? fun e => e == (k, a.id) with
  | some i => decide (i < cxlLimit) && (l.take i).all fun e => !((requestOf s e).any (sameLocation a))
  | none => false

/-- May an access arrive at its port: everything that must perform before it has performed, or stands there already? -/
def mayRequest (s : State) (port k : Nat) (a : Access) : Bool :=
  let c := getCell s k
  let l := liveRequests s port
  !l.contains (k, a.id) && c.accesses.all fun b =>
    !(unperformed b && b.id != a.id && precedes c b a) || l.contains (k, b.id)

/-- An access arrives at its port. -/
def putRequest (s : State) (port k : Nat) (a : Access) : State :=
  let l := liveRequests s port
  modCxl (countCxl s port) port fun x => { x with requests := l ++ [(k, a.id)] }

/-- One more stage of an access that goes through a CXL port. -/
def advanceCxl (s : State) (port k : Nat) (a : Access) : State :=
  if requestServed s port k a && mayPerform (getCell s k) a then performNow s k a
  else if mayRequest s port k a then putRequest s port k a
  else s

/-- The accesses of a cell that have been issued to a port and not performed. -/
def issuedTo (s : State) (port k : Nat) : List Access :=
  (getCell s k).accesses.filter fun a => unperformed a && accessRuns s k a && cxlPortOf s k a == some port

/-- Requests issued before a port's reset completes keep the treatment of a link that is down (R29): they perform while it is
down still. -/
def loseRequests (s : State) (port : Nat) : State :=
  (tblKeys s.cells).foldl (fun s k => (issuedTo s port k).foldl (fun s a => performNow s k a) s) s

/-- One more stage of an access: it performs where it may, and a later turn returns its answer to the cell (R204, R273);
while the tile is stopped the shell keeps the answer (R250). -/
def advanceAccess (s : State) (k id : Nat) : State :=
  let c := getCell s k
  match c.accesses.find? fun a => a.id == id with
  | none => s
  | some a =>
    match a.answered with
    | some r =>
      if tileRuns s k && (r.trap.isNone || deferRoom c) then
        let s1 := modCell s k fun c => bindAnswer c a r
        settleTeam s1 (getCell s1 k).ctx (getCell s1 k).team
      else s
    | none =>
      if !accessRuns s k a || nearHeld s k a then s
      else
        match cxlPortOf s k a with
        | some port => advanceCxl s port k a
        | none => if mayPerform c a then performNow s k a else s

end Sys2Proof.Machine
end

