-- ==== Sys2Proof/WellFormed.lean ====
section
/-!
DEFINITION. Sys2Proof/WellFormed.lean: the field values that each encoding admits (R275, R278, R283, R293, R295,
R301, R318, R325, R329, R354, R358, R385, R387, R389, R396, R399, R409); every other value raises ILLOP or MUCODE.
-/
namespace Sys2Proof

/-- Condition codes of CMP, CMPI and CMPQ: 6 and 7 raise ILLOP (R275). -/
def condInt (c : BitVec 3) : Bool := decide (c.toNat ≤ 5)

/-- Condition codes of FCMP and FCMPQ: 7 raises ILLOP (R297). -/
def condFp (c : BitVec 3) : Bool := decide (c.toNat ≤ 6)

/-- Types of FCVT: codes 6 and 7 and from equal to to raise ILLOP (R301). -/
def convScalar (a b : BitVec 3) : Bool := decide (a.toNat ≤ 5) && decide (b.toNat ≤ 5) && a != b

/-- The n of SEXT and ZEXT lies in 1 to 64 (R295). -/
def extWidth (n : BitVec 7) : Bool := decide (1 ≤ n.toNat) && decide (n.toNat ≤ 64)

/-- A system register number of R278. -/
def sysRegExists (n : BitVec 12) : Bool :=
  let k := n.toNat
  decide (k ≤ 0x009) || (decide (0x010 ≤ k) && decide (k ≤ 0x01F)) || (decide (0x020 ≤ k) && decide (k ≤ 0x025))
    || k == 0x028 || k == 0x029

/-- Type codes from lo to hi (R318). -/
def typeIn (lo hi : Nat) (t : BitVec 4) : Bool := decide (lo ≤ t.toNat) && decide (t.toNat ≤ hi)

/-- Types of VABS and VNEG: 0, 1, 2, 4 and 6 (R318). -/
def typeSigned (t : BitVec 4) : Bool := t == 0#4 || t == 1#4 || t == 2#4 || t == 4#4 || t == 6#4

/-- Types of VCMP, VCMPQ and VSCAN: 0, 2 and 3 (R318). -/
def typeCompare (t : BitVec 4) : Bool := t == 0#4 || t == 2#4 || t == 3#4

/-- A vector compare: code 7, and code 6 on an integer type, raise ILLOP (R275). -/
def condVector (c : BitVec 3) (t : BitVec 4) : Bool := c != 7#3 && (c != 6#3 || t == 0#4)

/-- Types of VCVT (R329): distinct codes 0 to 11; E3M5 converts only to f32 and bf16, and only floats convert to it. -/
def convVector (a b : BitVec 4) : Bool :=
  typeIn 0 11 a && typeIn 0 11 b && a != b
    && (a != 11#4 || b == 0#4 || b == 1#4)
    && (b != 11#4 || !typeIn 2 7 a)

/-- The even register of the pair of CPYF (R358). -/
def evenReg (r : BitVec 6) : Bool := r.toNat % 2 == 0

/-- The first register of a multi-register Virga result (R395). -/
def regMultiple (r : BitVec 5) (n : Nat) : Bool := r.toNat % n == 0

/-- The fields of PDCWR (R409). -/
def pdcField (f : BitVec 3) : Bool := decide (f.toNat ≤ 4)

/-- A Virga system register number of R396. -/
def virgaRegExists (n : BitVec 12) : Bool :=
  let k := n.toNat
  decide (k ≤ 0x008) || k == 0x00C || k == 0x00D || (decide (0x010 ≤ k) && decide (k ≤ 0x013))

/-- The operand values an instruction admits; an event carries data and no encoding. -/
def Instr.wf (i : Instr) : Bool :=
  match i with
  | .nop _ => true
  | .add _ _ _ _ => true
  | .sub _ _ _ _ => true
  | .mul _ _ _ _ => true
  | .mulhI64 _ _ _ _ => true
  | .mulhN64 _ _ _ _ => true
  | .divI64 _ _ _ _ => true
  | .divN64 _ _ _ _ => true
  | .remI64 _ _ _ _ => true
  | .remN64 _ _ _ _ => true
  | .and _ _ _ _ => true
  | .or _ _ _ _ => true
  | .xor _ _ _ _ => true
  | .shl _ _ _ _ => true
  | .shrI64 _ _ _ _ => true
  | .shrN64 _ _ _ _ => true
  | .minI64 _ _ _ _ => true
  | .minN64 _ _ _ _ => true
  | .maxI64 _ _ _ _ => true
  | .maxN64 _ _ _ _ => true
  | .addI64S _ _ _ _ => true
  | .addN64S _ _ _ _ => true
  | .subI64S _ _ _ _ => true
  | .subN64S _ _ _ _ => true
  | .addi _ _ _ _ => true
  | .andi _ _ _ _ => true
  | .ori _ _ _ _ => true
  | .xori _ _ _ _ => true
  | .shli _ _ _ _ => true
  | .shriI64 _ _ _ _ => true
  | .shriN64 _ _ _ _ => true
  | .li _ _ _ => true
  | .lis _ _ _ => true
  | .sel _ _ _ _ _ => true
  | .cmp _ cond _ _ _ => condInt cond
  | .cmpi _ cond _ _ _ => condInt cond
  | .cmpq _ cond _ _ => condInt cond
  | .fadd _ _ _ _ => true
  | .fsub _ _ _ _ => true
  | .fmul _ _ _ _ => true
  | .fdiv _ _ _ _ => true
  | .fmin _ _ _ _ => true
  | .fmax _ _ _ _ => true
  | .fma _ _ _ _ _ => true
  | .fcmp _ cond _ _ _ => condFp cond
  | .fcmpq _ cond _ _ => condFp cond
  | .fcvt _ _ _ src dst => convScalar src dst
  | .clz _ _ _ => true
  | .popc _ _ _ => true
  | .pand _ _ _ _ => true
  | .por _ _ _ _ => true
  | .pxor _ _ _ _ => true
  | .pandn _ _ _ _ => true
  | .sext _ _ _ n => extWidth n
  | .zext _ _ _ n => extWidth n
  | .br _ _ => true
  | .call _ _ => true
  | .brq _ _ => true
  | .brqn _ _ => true
  | .brr _ _ => true
  | .callr _ _ => true
  | .loop _ _ _ => true
  | .lcset _ _ _ => true
  | .barw _ _ => true
  | .yield _ => true
  | .halt _ => true
  | .eret _ => true
  | .cqclr _ => true
  | .syscall _ _ => true
  | .mfsr _ _ num => sysRegExists num
  | .mtsr _ _ num => sysRegExists num && num != 0x003#12 && num != 0x022#12
  | .mtsrTrapcauseHost _ _ => true
  | .mtsrFmtctlSeedw _ _ => true
  | .tdset _ _ _ _ => true
  | .tdget _ _ _ _ => true
  | .tdinv _ _ _ => true
  | .vadd _ _ _ _ ty _ => typeIn 0 7 ty
  | .vsub _ _ _ _ ty _ => typeIn 0 7 ty
  | .vmul _ _ _ _ ty _ => typeIn 0 7 ty
  | .vdiv _ _ _ _ ty _ => typeIn 0 3 ty
  | .vmin _ _ _ _ ty _ => typeIn 0 7 ty
  | .vmax _ _ _ _ ty _ => typeIn 0 7 ty
  | .vaddS _ _ _ _ ty _ => typeIn 2 7 ty
  | .vsubS _ _ _ _ ty _ => typeIn 2 7 ty
  | .vand _ _ _ _ ty _ => typeIn 0 11 ty
  | .vor _ _ _ _ ty _ => typeIn 0 11 ty
  | .vxor _ _ _ _ ty _ => typeIn 0 11 ty
  | .vshl _ _ _ _ ty _ => typeIn 2 7 ty
  | .vshr _ _ _ _ ty _ => typeIn 2 7 ty
  | .vabs _ _ _ ty _ => typeSigned ty
  | .vneg _ _ _ ty _ => typeSigned ty
  | .vmov _ _ _ ty _ => typeIn 0 11 ty
  | .vfmaF32 _ _ _ _ _ _ => true
  | .vfmaBf16 _ _ _ _ _ _ => true
  | .vsel _ _ _ _ ty _ => typeIn 0 11 ty
  | .vcmp _ cond _ _ _ ty _ => typeCompare ty && condVector cond ty
  | .vcmpq _ cond _ _ ty _ => typeCompare ty && condVector cond ty
  | .vbcast _ _ _ ty _ => typeIn 0 11 ty
  | .vget _ _ _ _ ty => typeIn 0 11 ty
  | .vset _ _ _ _ ty _ => typeIn 0 11 ty
  | .mand _ _ _ _ => true
  | .mor _ _ _ _ => true
  | .mxor _ _ _ _ => true
  | .mandn _ _ _ _ => true
  | .vcvt _ _ _ dst src _ => convVector src dst
  | .vqnt _ _ _ _ ty _ => typeIn 8 10 ty
  | .vdqnt _ _ _ _ ty _ => typeIn 8 10 ty
  | .vbamax _ _ _ _ ty _ => typeIn 0 1 ty
  | .vrsum _ _ _ ty _ => typeIn 0 3 ty
  | .vrmax _ _ _ ty _ => typeIn 0 7 ty
  | .vrmin _ _ _ ty _ => typeIn 0 7 ty
  | .vscan _ _ _ ty _ => typeCompare ty
  | .vperm _ _ _ _ ty _ => typeIn 0 11 ty
  | .vrot _ _ _ _ ty _ => typeIn 0 11 ty
  | .vexp2 _ _ _ ty _ => typeIn 0 1 ty
  | .vlog2 _ _ _ ty _ => typeIn 0 1 ty
  | .vrcp _ _ _ ty _ => typeIn 0 1 ty
  | .vrsqrt _ _ _ ty _ => typeIn 0 1 ty
  | .vsqrt _ _ _ ty _ => typeIn 0 1 ty
  | .vtanh _ _ _ ty _ => typeIn 0 1 ty
  | .mcall _ _ _ _ _ => true
  | .mwait _ _ => true
  | .mstat _ _ _ => true
  | .mpset _ _ _ => true
  | .mpget _ _ _ => true
  | .mucw _ _ _ => true
  | .mucwT _ _ _ => true
  | .mav _ _ _ _ => true
  | .mva _ _ _ _ => true
  | .ldN _ _ _ _ _ _ => true
  | .ldI _ _ _ _ _ _ => true
  | .st _ _ _ _ _ _ => true
  | .ldnN _ _ _ _ _ _ => true
  | .ldnI _ _ _ _ _ _ => true
  | .stn _ _ _ _ _ _ => true
  | .vld _ _ _ _ _ _ => true
  | .vst _ _ _ _ _ _ => true
  | .vldn _ _ _ _ _ _ => true
  | .vstn _ _ _ _ _ _ => true
  | .vlds _ _ _ _ _ _ => true
  | .vsts _ _ _ _ _ _ => true
  | .vgth _ _ _ _ _ _ => true
  | .vsct _ _ _ _ _ _ => true
  | .vgthn _ _ _ _ _ _ => true
  | .vsctn _ _ _ _ _ _ => true
  | .vldx _ _ _ _ _ _ => true
  | .aaddI32 _ _ _ _ _ _ => true
  | .aaddI64 _ _ _ _ _ _ => true
  | .aaddF32 _ _ _ _ _ _ => true
  | .amaxI32 _ _ _ _ _ _ => true
  | .amaxF32 _ _ _ _ _ _ => true
  | .acas _ _ _ _ _ _ => true
  | .amaxrrI32 _ _ _ _ _ _ => true
  | .amaxrrF32 _ _ _ _ _ _ => true
  | .fence _ _ _ _ _ => true
  | .cpy _ _ _ _ _ _ => true
  | .cpyf _ _ _ y _ _ => evenReg y
  | .rwait _ _ _ => true
  | .rrel _ _ => true
  | .rpub _ _ _ => true
  | .chsend _ _ _ _ => true
  | .chrecv _ _ _ => true
  | .waita _ _ _ _ _ _ cc => cc != 3#2
  | .bankcfg _ _ => true
  | .gstep _ _ => true
  | .bcast _ _ _ => true
  | .latch _ _ _ => true
  | .deadl _ _ => true
  | .deadlF _ _ => true
  | .deadlXp _ _ _ => true
  | .uopMma _ hb _ f2 _ _ keepB => (!keepB || (hb == 0#2 && f2 == 0#4))
  | .uopLdb _ _ => true
  | .uopZacc _ _ => true
  | .uopStacc _ _ _ _ _ => true
  | .uopScale _ _ => true
  | .uopSetc _ _ _ _ => true
  | .uopAddc _ _ _ => true
  | .uopAddci _ _ _ => true
  | .uopLoop _ f2 r _ _ => (r || f2 == 0#4)
  | .uopWtile _ _ => true
  | .uopWflag _ _ cc => cc != 3#2
  | .uopSignal _ _ kind ring => (kind || ring == 0#5)
  | .virgaAdd _ _ _ => true
  | .virgaSub _ _ _ => true
  | .virgaMul _ _ _ => true
  | .virgaAnd _ _ _ => true
  | .virgaOr _ _ _ => true
  | .virgaXor _ _ _ => true
  | .virgaShl _ _ _ => true
  | .virgaShr _ _ _ => true
  | .virgaSra _ _ _ => true
  | .virgaSlt _ _ _ => true
  | .virgaSltu _ _ _ => true
  | .virgaAddi _ _ _ => true
  | .virgaAndi _ _ _ => true
  | .virgaOri _ _ _ => true
  | .virgaXori _ _ _ => true
  | .virgaShli _ _ _ => true
  | .virgaShri _ _ _ => true
  | .virgaSrai _ _ _ => true
  | .virgaSlti _ _ _ => true
  | .virgaLis _ _ => true
  | .virgaLd _ _ _ => true
  | .virgaLw _ _ _ => true
  | .virgaSt _ _ _ => true
  | .virgaSw _ _ _ => true
  | .virgaBeq _ _ _ => true
  | .virgaBne _ _ _ => true
  | .virgaBlt _ _ _ => true
  | .virgaBge _ _ _ => true
  | .virgaBltu _ _ _ => true
  | .virgaBgeu _ _ _ => true
  | .virgaJ _ => true
  | .virgaJal _ => true
  | .virgaJr _ => true
  | .virgaMfv _ n => virgaRegExists n
  | .virgaMtv _ n => virgaRegExists n
  | .virgaEvtake d _ => regMultiple d 4
  | .virgaTmset _ _ _ => true
  | .virgaPdcrd d _ => regMultiple d 4
  | .virgaPdcwr _ _ f => pdcField f
  | .virgaPdcfail _ _ => true
  | .virgaRetx _ _ _ => true
  | .virgaRetxm _ _ _ => true
  | .virgaLosnext d _ _ => regMultiple d 2
  | .virgaPsrd _ _ _ => true
  | .virgaPsdis _ _ => true
  | .virgaPscnt _ _ => true
  | .virgaRcbrd d _ => regMultiple d 8
  | .virgaBmrd _ _ _ => true
  | .virgaWinrd d _ => regMultiple d 4
  | .virgaPeerrd d _ => regMultiple d 8
  | .virgaEprd _ _ => true
  | .virgaHev _ _ => true
  | .perstAssert => true
  | .startupPhase1 => true
  | .startupPhase2 => true
  | .startupPhase3 => true
  | .startupPhase4 => true
  | .startupPhase5 => true
  | .configRequest => true
  | .sidebandFirmwareWrite => true
  | .thermtrip => true
  | .throttleStep => true
  | .cxlLinkDown => true
  | .cxlResetComplete => true
  | .lossOfLight => true
  | .linkRetrained => true
  | .ptpExchangeComplete => true
  | .pauseFrameReceived => true
  | .rmaWriteStreamArrival => true
  | .taggedSendArrival => true
  | .productionQueueDrain => true
  | .remoteReadArrival => true
  | .remoteWriteArrival => true
  | .remoteAtomicArrival => true
  | .ackReceived => true
  | .nackReceived => true
  | .pdcCloseAckReceived => true
  | .ackCoalesceTimeout => true
  | .rtoExpiry => true
  | .parkedBackoffExpiry => true
  | .ccsigTimer => true
  | .packetTransmit => true
  | .retxSend => true
  | .pdcIdleTimeout => true
  | .pdcCloseTimeout => true
  | .keyEpochSwitch => true
  | .keyEpochGraceEnd => true
  | .rcbReopenDelayEnd => true
  | .windowRevokeComplete => true
  | .registerWrite => true
  | .gctlFeat => true
  | .gctlEn => true
  | .gctlEven => true
  | .evconsWrite => true
  | .sempoke => true
  | .qnotify => true
  | .qcfgEnable => true
  | .qcfgDisable => true
  | .qcfgResume => true
  | .commandFetch => true
  | .stampRefetch => true
  | .bar2Access => true
  | .spdmGetVersion => true
  | .spdmGetCapabilities => true
  | .spdmNegotiateAlgorithms => true
  | .spdmGetDigests => true
  | .spdmGetCertificate => true
  | .spdmChallenge => true
  | .spdmGetMeasurements => true
  | .launch => true
  | .hcopy => true
  | .signal => true
  | .waitsem => true
  | .waitsemReevaluate => true
  | .waitsemTimeout => true
  | .ctxnew => true
  | .ctxkill => true
  | .ctxkillStageDrained => true
  | .ctxRemoveStuck => true
  | .ctxpreemptYield => true
  | .ctxpreemptScan => true
  | .graceWindowEnd => true
  | .saveComplete => true
  | .saveTimeout => true
  | .imgrestore => true
  | .restoreComplete => true
  | .mapsetInvalidate => true
  | .mapsetReplaceRoot => true
  | .rcbsetOpen => true
  | .rcbsetClose => true
  | .rcbsetExport => true
  | .rcbsetImport => true
  | .peersetEntry => true
  | .peersetMcastList => true
  | .peersetNextKey => true
  | .peersetCloseFailed => true
  | .peersetRepoint => true
  | .pathset => true
  | .winset => true
  | .winrevoke => true
  | .featurePowerLimit => true
  | .featurePtpPort => true
  | .featureUdpPort => true
  | .featureWatchdog => true
  | .featureCxlReset => true
  | .featureRemapReload => true
  | .cntset => true
  | .fwload => true
  | .counterWrap => true
  | .ctxHang => true
  | .teamPlace => true
  | .swapTest => true
  | .swapComplete => true
  | .waitMonitorPoll => true
  | .gstepComplete => true
  | .broadcastBeat => true
  | .latchComplete => true
  | .wcsLineDrainTimeout => true
  | .copyStart => true
  | .copyComplete => true
  | .matrixCommandStart => true
  | .stalledGroupCommit => true
  | .deferredTrap => true
  | .eccUncorrectable => true
  | .eccCorrected => true
  | .parityError => true
  | .remapTableUe => true
  | .virgaTimerExpiry => true
  | .gtstepWrite => true
  | .gtrateWrite => true
  | .uopRet => true
  | .uopMnop => true
  | .virgaNop => true
  | .virgaVret => true
  | .accessResponseReturn => true
  | .hcopyComplete => true
  | .pdcCloseRequestReceived => true
  | .contextKeyTransfer => true
  | .unassignedOpcode => true
  | .virgaUnassignedOpcode => true

end Sys2Proof
end

