-- ==== Sys2Proof/Decode.lean ====
section
/-!
DEFINITION. Sys2Proof/Decode.lean: the decoders of Sikan slots (R264 to R287), Virga words (R398, R399) and
micro-operations (R382, R384), total and rejecting by name, and after each the encoder written from the same tables.
-/
namespace Sys2Proof

/-- Why a word is not an instruction. -/
inductive Reject where
  /-- a code that its class does not assign (R287, R399) -/
  | unassignedOpcode
  /-- a non-zero bit in a field that the format gives as zero (R268, R384, R399) -/
  | reservedField
  /-- an operand value that the instruction does not admit (Instr.wf) -/
  | operand
  /-- class 0 holds headers and no operation (R267) -/
  | header
  deriving DecidableEq, Repr

/-- The fields of a slot (R264) with its lent byte L (R266). -/
structure Slot where
  stop : Bool
  cls : BitVec 3
  g : BitVec 4
  op : BitVec 6
  a : BitVec 6
  b : BitVec 6
  c : BitVec 6
  l : BitVec 8
  deriving DecidableEq, Repr

/-- The fields of a slot word (R264). -/
def slotOf (w : BitVec 32) (l : BitVec 8) : Slot :=
  ⟨w.getLsbD 31, w.extractLsb' 28 3, w.extractLsb' 24 4, w.extractLsb' 18 6, w.extractLsb' 12 6, w.extractLsb' 6 6,
    w.extractLsb' 0 6, l⟩

/-- The word of a slot (R264). -/
def slotWord (x : Slot) : BitVec 32 := BitVec.ofBool x.stop ++ x.cls ++ x.g ++ x.op ++ x.a ++ x.b ++ x.c


/-- Fields of format Z (R283, R284, R286). -/
def takeZ (mk : BitVec 4 → Instr) (x : Slot) : Except Reject Instr :=
  if x.l = 0 ∧ x.a = 0 ∧ x.b = 0 ∧ x.c = 0 then .ok (mk x.g) else .error .reservedField

/-- Fields of format RRR (R283, R284, R286). -/
def takeRrr (mk : BitVec 4 → BitVec 6 → BitVec 6 → BitVec 6 → Instr) (x : Slot) : Except Reject Instr :=
  if x.l = 0 then .ok (mk x.g x.a x.b x.c) else .error .reservedField

/-- Fields of format RRI (R283, R284, R286). -/
def takeRri (mk : BitVec 4 → BitVec 6 → BitVec 6 → BitVec 14 → Instr) (x : Slot) : Except Reject Instr :=
  .ok (mk x.g x.a x.b (x.l ++ x.c))

/-- Fields of format RSH (R283, R284, R286). -/
def takeRsh (mk : BitVec 4 → BitVec 6 → BitVec 6 → BitVec 6 → Instr) (x : Slot) : Except Reject Instr :=
  if x.l = 0 then .ok (mk x.g x.a x.b x.c) else .error .reservedField

/-- Fields of format RI (R283, R284, R286). -/
def takeRi (mk : BitVec 4 → BitVec 6 → BitVec 20 → Instr) (x : Slot) : Except Reject Instr :=
  .ok (mk x.g x.a (x.l ++ x.b ++ x.c))

/-- Fields of format RIS (R283, R284, R286). -/
def takeRis (mk : BitVec 4 → BitVec 6 → BitVec 16 → Instr) (x : Slot) : Except Reject Instr :=
  if x.l.extractLsb' 4 4 = 0 then .ok (mk x.g x.a (x.l.extractLsb' 0 4 ++ x.b ++ x.c)) else .error .reservedField

/-- Fields of format RRP (R283, R284, R286). -/
def takeRrp (mk : BitVec 4 → BitVec 6 → BitVec 6 → BitVec 6 → BitVec 4 → Instr) (x : Slot) : Except Reject Instr :=
  if x.l.extractLsb' 4 4 = 0 then .ok (mk x.g x.a x.b x.c (x.l.extractLsb' 0 4)) else .error .reservedField

/-- Fields of format CP (R283, R284, R286). -/
def takeCp (mk : BitVec 4 → BitVec 3 → BitVec 3 → BitVec 6 → BitVec 6 → Instr) (x : Slot) : Except Reject Instr :=
  if x.l = 0 then .ok (mk x.g (x.a.extractLsb' 3 3) (x.a.extractLsb' 0 3) x.b x.c) else .error .reservedField

/-- Fields of format CPI (R283, R284, R286). -/
def takeCpi (mk : BitVec 4 → BitVec 3 → BitVec 3 → BitVec 6 → BitVec 14 → Instr) (x : Slot) : Except Reject Instr :=
  .ok (mk x.g (x.a.extractLsb' 3 3) (x.a.extractLsb' 0 3) x.b (x.l ++ x.c))

/-- Fields of format CQ (R283, R284, R286). -/
def takeCq (mk : BitVec 4 → BitVec 3 → BitVec 6 → BitVec 6 → Instr) (x : Slot) : Except Reject Instr :=
  if x.l = 0 ∧ x.a.extractLsb' 0 3 = 0 then .ok (mk x.g (x.a.extractLsb' 3 3) x.b x.c) else .error .reservedField

/-- Fields of format RRRR (R283, R284, R286). -/
def takeRrrr (mk : BitVec 4 → BitVec 6 → BitVec 6 → BitVec 6 → BitVec 6 → Instr) (x : Slot) : Except Reject Instr :=
  if x.l.extractLsb' 6 2 = 0 then .ok (mk x.g x.a x.b x.c (x.l.extractLsb' 0 6)) else .error .reservedField

/-- Fields of format CV (R283, R284, R286). -/
def takeCv (mk : BitVec 4 → BitVec 6 → BitVec 6 → BitVec 3 → BitVec 3 → Instr) (x : Slot) : Except Reject Instr :=
  if x.l = 0 then .ok (mk x.g x.a x.b (x.c.extractLsb' 3 3) (x.c.extractLsb' 0 3)) else .error .reservedField

/-- Fields of format RR (R283, R284, R286). -/
def takeRr (mk : BitVec 4 → BitVec 6 → BitVec 6 → Instr) (x : Slot) : Except Reject Instr :=
  if x.l = 0 ∧ x.c = 0 then .ok (mk x.g x.a x.b) else .error .reservedField

/-- Fields of format PL (R283, R284, R286). -/
def takePl (mk : BitVec 4 → BitVec 4 → BitVec 4 → BitVec 4 → Instr) (x : Slot) : Except Reject Instr :=
  if x.l = 0 ∧ x.a.extractLsb' 4 2 = 0 ∧ x.b.extractLsb' 4 2 = 0 ∧ x.c.extractLsb' 4 2 = 0 then .ok (mk x.g (x.a.extractLsb' 0 4) (x.b.extractLsb' 0 4) (x.c.extractLsb' 0 4)) else .error .reservedField

/-- Fields of format RXT (R283, R284, R286). -/
def takeRxt (mk : BitVec 4 → BitVec 6 → BitVec 6 → BitVec 7 → Instr) (x : Slot) : Except Reject Instr :=
  if x.l.extractLsb' 1 7 = 0 then .ok (mk x.g x.a x.b (x.l.extractLsb' 0 1 ++ x.c)) else .error .reservedField

/-- Fields of format J (R283, R284, R286). -/
def takeJ (mk : BitVec 4 → BitVec 26 → Instr) (x : Slot) : Except Reject Instr :=
  .ok (mk x.g (x.l ++ x.a ++ x.b ++ x.c))

/-- Fields of format JR (R283, R284, R286). -/
def takeJr (mk : BitVec 4 → BitVec 6 → Instr) (x : Slot) : Except Reject Instr :=
  if x.l = 0 ∧ x.a = 0 ∧ x.c = 0 then .ok (mk x.g x.b) else .error .reservedField

/-- Fields of format JL (R283, R284, R286). -/
def takeJl (mk : BitVec 4 → BitVec 2 → BitVec 24 → Instr) (x : Slot) : Except Reject Instr :=
  .ok (mk x.g (x.a.extractLsb' 4 2) (x.l ++ x.a.extractLsb' 0 4 ++ x.b ++ x.c))

/-- Fields of format LC (R283, R284, R286). -/
def takeLc (mk : BitVec 4 → BitVec 2 → BitVec 6 → Instr) (x : Slot) : Except Reject Instr :=
  if x.l = 0 ∧ x.a.extractLsb' 2 4 = 0 ∧ x.c = 0 then .ok (mk x.g (x.a.extractLsb' 0 2) x.b) else .error .reservedField

/-- Fields of format BA (R283, R284, R286). -/
def takeBa (mk : BitVec 4 → BitVec 3 → Instr) (x : Slot) : Except Reject Instr :=
  if x.l = 0 ∧ x.a.extractLsb' 3 3 = 0 ∧ x.b = 0 ∧ x.c = 0 then .ok (mk x.g (x.a.extractLsb' 0 3)) else .error .reservedField

/-- Fields of format SY (R283, R284, R286). -/
def takeSy (mk : BitVec 4 → BitVec 20 → Instr) (x : Slot) : Except Reject Instr :=
  if x.a = 0 then .ok (mk x.g (x.l ++ x.b ++ x.c)) else .error .reservedField

/-- Fields of format SR (R283, R284, R286). -/
def takeSr (mk : BitVec 4 → BitVec 6 → BitVec 12 → Instr) (x : Slot) : Except Reject Instr :=
  if x.l = 0 then .ok (mk x.g x.a (x.b ++ x.c)) else .error .reservedField

/-- Fields of format V3 (R283, R284, R286). -/
def takeV3 (mk : BitVec 4 → BitVec 6 → BitVec 6 → BitVec 6 → BitVec 4 → BitVec 4 → Instr) (x : Slot) : Except Reject Instr :=
  .ok (mk x.g x.a x.b x.c (x.l.extractLsb' 4 4) (x.l.extractLsb' 0 4))

/-- Fields of format V2 (R283, R284, R286). -/
def takeV2 (mk : BitVec 4 → BitVec 6 → BitVec 6 → BitVec 4 → BitVec 4 → Instr) (x : Slot) : Except Reject Instr :=
  if x.c = 0 then .ok (mk x.g x.a x.b (x.l.extractLsb' 4 4) (x.l.extractLsb' 0 4)) else .error .reservedField

/-- Fields of format V4 (R283, R284, R286). -/
def takeV4 (mk : BitVec 4 → BitVec 6 → BitVec 6 → BitVec 6 → BitVec 6 → BitVec 2 → Instr) (x : Slot) : Except Reject Instr :=
  .ok (mk x.g x.a x.b x.c (x.l.extractLsb' 0 6) (x.l.extractLsb' 6 2))

/-- Fields of format VC (R283, R284, R286). -/
def takeVc (mk : BitVec 4 → BitVec 3 → BitVec 3 → BitVec 6 → BitVec 6 → BitVec 4 → BitVec 4 → Instr) (x : Slot) : Except Reject Instr :=
  .ok (mk x.g (x.a.extractLsb' 3 3) (x.a.extractLsb' 0 3) x.b x.c (x.l.extractLsb' 4 4) (x.l.extractLsb' 0 4))

/-- Fields of format VCQ (R283, R284, R286). -/
def takeVcq (mk : BitVec 4 → BitVec 3 → BitVec 6 → BitVec 6 → BitVec 4 → BitVec 4 → Instr) (x : Slot) : Except Reject Instr :=
  if x.a.extractLsb' 0 3 = 0 then .ok (mk x.g (x.a.extractLsb' 3 3) x.b x.c (x.l.extractLsb' 4 4) (x.l.extractLsb' 0 4)) else .error .reservedField

/-- Fields of format VXG (R283, R284, R286). -/
def takeVxg (mk : BitVec 4 → BitVec 6 → BitVec 6 → BitVec 6 → BitVec 4 → Instr) (x : Slot) : Except Reject Instr :=
  if x.l.extractLsb' 0 4 = 0 then .ok (mk x.g x.a x.b x.c (x.l.extractLsb' 4 4)) else .error .reservedField

/-- Fields of format VCV (R283, R284, R286). -/
def takeVcv (mk : BitVec 4 → BitVec 6 → BitVec 6 → BitVec 4 → BitVec 4 → BitVec 4 → Instr) (x : Slot) : Except Reject Instr :=
  if x.c.extractLsb' 4 2 = 0 then .ok (mk x.g x.a x.b (x.c.extractLsb' 0 4) (x.l.extractLsb' 4 4) (x.l.extractLsb' 0 4)) else .error .reservedField

/-- Fields of format MC (R283, R284, R286). -/
def takeMc (mk : BitVec 4 → BitVec 6 → BitVec 6 → BitVec 6 → BitVec 8 → Instr) (x : Slot) : Except Reject Instr :=
  .ok (mk x.g x.a x.b x.c x.l)

/-- Fields of format MPS (R283, R284, R286). -/
def takeMps (mk : BitVec 4 → BitVec 3 → BitVec 6 → Instr) (x : Slot) : Except Reject Instr :=
  if x.l = 0 ∧ x.a.extractLsb' 3 3 = 0 ∧ x.c = 0 then .ok (mk x.g (x.a.extractLsb' 0 3) x.b) else .error .reservedField

/-- Fields of format MPG (R283, R284, R286). -/
def takeMpg (mk : BitVec 4 → BitVec 6 → BitVec 3 → Instr) (x : Slot) : Except Reject Instr :=
  if x.l = 0 ∧ x.b.extractLsb' 3 3 = 0 ∧ x.c = 0 then .ok (mk x.g x.a (x.b.extractLsb' 0 3)) else .error .reservedField

/-- Fields of format MU (R283, R284, R286). -/
def takeMu (mk : BitVec 4 → BitVec 6 → BitVec 6 → Instr) (x : Slot) : Except Reject Instr :=
  if x.l = 0 ∧ x.a = 0 then .ok (mk x.g x.b x.c) else .error .reservedField

/-- Fields of format MUT (R283, R284, R286). -/
def takeMut (mk : BitVec 4 → BitVec 6 → BitVec 6 → Instr) (x : Slot) : Except Reject Instr :=
  if x.l = 0 ∧ x.a = 1 then .ok (mk x.g x.b x.c) else .error .reservedField

/-- Fields of format MS (R283, R284, R286). -/
def takeMs (mk : BitVec 4 → BitVec 6 → BitVec 6 → BitVec 4 → BitVec 2 → BitVec 8 → Instr) (x : Slot) : Except Reject Instr :=
  .ok (mk x.g x.a x.b (x.c.extractLsb' 2 4) (x.c.extractLsb' 0 2) x.l)

/-- Fields of format MV (R283, R284, R286). -/
def takeMv (mk : BitVec 4 → BitVec 6 → BitVec 6 → BitVec 4 → BitVec 4 → BitVec 4 → Instr) (x : Slot) : Except Reject Instr :=
  if x.c.extractLsb' 0 2 = 0 then .ok (mk x.g x.a x.b (x.c.extractLsb' 2 4) (x.l.extractLsb' 4 4) (x.l.extractLsb' 0 4)) else .error .reservedField

/-- Fields of format MX (R283, R284, R286). -/
def takeMx (mk : BitVec 4 → BitVec 6 → BitVec 6 → BitVec 6 → BitVec 4 → BitVec 4 → Instr) (x : Slot) : Except Reject Instr :=
  .ok (mk x.g x.a x.b x.c (x.l.extractLsb' 4 4) (x.l.extractLsb' 0 4))

/-- Fields of format MXX (R283, R284, R286). -/
def takeMxx (mk : BitVec 4 → BitVec 6 → BitVec 6 → BitVec 3 → BitVec 4 → BitVec 4 → Instr) (x : Slot) : Except Reject Instr :=
  if x.c.extractLsb' 3 3 = 0 then .ok (mk x.g x.a x.b (x.c.extractLsb' 0 3) (x.l.extractLsb' 4 4) (x.l.extractLsb' 0 4)) else .error .reservedField

/-- Fields of format MA (R283, R284, R286). -/
def takeMa (mk : BitVec 4 → BitVec 6 → BitVec 6 → BitVec 6 → BitVec 4 → Bool → Instr) (x : Slot) : Except Reject Instr :=
  if x.l.extractLsb' 0 3 = 0 then .ok (mk x.g x.a x.b x.c (x.l.extractLsb' 4 4) (x.l.getLsbD 3)) else .error .reservedField

/-- Fields of format FN (R283, R284, R286). -/
def takeFn (mk : BitVec 4 → BitVec 2 → Bool → Bool → BitVec 16 → Instr) (x : Slot) : Except Reject Instr :=
  if x.a.extractLsb' 4 2 = 0 ∧ x.c.extractLsb' 2 4 = 0 then .ok (mk x.g (x.a.extractLsb' 0 2) (x.a.getLsbD 2) (x.a.getLsbD 3) (x.l ++ x.b ++ x.c.extractLsb' 0 2)) else .error .reservedField

/-- Fields of format RGW (R283, R284, R286). -/
def takeRgw (mk : BitVec 4 → BitVec 6 → BitVec 5 → Instr) (x : Slot) : Except Reject Instr :=
  if x.l = 0 ∧ x.b.extractLsb' 5 1 = 0 ∧ x.c = 0 then .ok (mk x.g x.a (x.b.extractLsb' 0 5)) else .error .reservedField

/-- Fields of format RGR (R283, R284, R286). -/
def takeRgr (mk : BitVec 4 → BitVec 5 → Instr) (x : Slot) : Except Reject Instr :=
  if x.l = 0 ∧ x.a = 0 ∧ x.b.extractLsb' 5 1 = 0 ∧ x.c = 0 then .ok (mk x.g (x.b.extractLsb' 0 5)) else .error .reservedField

/-- Fields of format RGP (R283, R284, R286). -/
def takeRgp (mk : BitVec 4 → BitVec 5 → BitVec 6 → Instr) (x : Slot) : Except Reject Instr :=
  if x.l = 0 ∧ x.a = 0 ∧ x.b.extractLsb' 5 1 = 0 then .ok (mk x.g (x.b.extractLsb' 0 5) x.c) else .error .reservedField

/-- Fields of format ACS (R283, R284, R286). -/
def takeAcs (mk : BitVec 4 → BitVec 6 → BitVec 6 → BitVec 4 → Instr) (x : Slot) : Except Reject Instr :=
  if x.l.extractLsb' 0 4 = 0 ∧ x.c = 0 then .ok (mk x.g x.a x.b (x.l.extractLsb' 4 4)) else .error .reservedField

/-- Fields of format AW (R283, R284, R286). -/
def takeAw (mk : BitVec 4 → BitVec 6 → BitVec 6 → BitVec 6 → BitVec 4 → Bool → BitVec 2 → Instr) (x : Slot) : Except Reject Instr :=
  if x.l.extractLsb' 3 1 = 0 then .ok (mk x.g x.a x.b x.c (x.l.extractLsb' 4 4) (x.l.getLsbD 2) (x.l.extractLsb' 0 2)) else .error .reservedField

/-- Fields of format AB (R283, R284, R286). -/
def takeAb (mk : BitVec 4 → BitVec 6 → Instr) (x : Slot) : Except Reject Instr :=
  if x.l = 0 ∧ x.b = 0 ∧ x.c = 0 then .ok (mk x.g x.a) else .error .reservedField

/-- Fields of format GS (R283, R284, R286). -/
def takeGs (mk : BitVec 4 → BitVec 3 → Instr) (x : Slot) : Except Reject Instr :=
  if x.l = 0 ∧ x.a.extractLsb' 3 3 = 0 ∧ x.b = 0 ∧ x.c = 0 then .ok (mk x.g (x.a.extractLsb' 0 3)) else .error .reservedField

/-- Fields of format AD (R283, R284, R286). -/
def takeAd (mk : BitVec 4 → BitVec 6 → Instr) (x : Slot) : Except Reject Instr :=
  if x.l = 0 ∧ x.b = 0 ∧ x.c = 0 then .ok (mk x.g x.a) else .error .reservedField

/-- Fields of format ADF (R283, R284, R286). -/
def takeAdf (mk : BitVec 4 → BitVec 6 → Instr) (x : Slot) : Except Reject Instr :=
  if x.l = 1 ∧ x.b = 0 ∧ x.c = 0 then .ok (mk x.g x.a) else .error .reservedField

/-- Fields of format ADX (R283, R284, R286). -/
def takeAdx (mk : BitVec 4 → BitVec 6 → BitVec 3 → Instr) (x : Slot) : Except Reject Instr :=
  if x.l.extractLsb' 3 5 = 1 ∧ x.b = 0 ∧ x.c = 0 then .ok (mk x.g x.a (x.l.extractLsb' 0 3)) else .error .reservedField

/-- MTSR: the two registers whose writes the table lists apart are their own constructors (R310, R245, R234). -/
def takeMtsr (x : Slot) : Except Reject Instr :=
  if x.l = 0 then
    let num := x.b ++ x.c
    .ok (if num = 0x022#12 then .mtsrTrapcauseHost x.g x.a else if num = 0x003#12 then .mtsrFmtctlSeedw x.g x.a
      else .mtsr x.g x.a num)
  else .error .reservedField

/-- MUCW: A selects the micro-operation store or the routine table (R370). -/
def takeMucwAny (x : Slot) : Except Reject Instr :=
  if x.a = 0 then takeMu .mucw x else takeMut .mucwT x

/-- DEADL: the parameter in L (R355). -/
def takeDeadl (x : Slot) : Except Reject Instr :=
  if x.l = 0 then takeAd .deadl x else if x.l = 1 then takeAdf .deadlF x else takeAdx .deadlXp x

/-- The opcodes of class 1, S (R287). -/
def decodeClassS (x : Slot) : Except Reject Instr :=
  match x.op.toNat with
  | 0x00 => takeZ .nop x
  | 0x01 => takeRrr .add x
  | 0x02 => takeRrr .sub x
  | 0x03 => takeRrr .mul x
  | 0x04 => takeRrr .mulhI64 x
  | 0x05 => takeRrr .mulhN64 x
  | 0x06 => takeRrr .divI64 x
  | 0x07 => takeRrr .divN64 x
  | 0x08 => takeRrr .remI64 x
  | 0x09 => takeRrr .remN64 x
  | 0x0A => takeRrr .and x
  | 0x0B => takeRrr .or x
  | 0x0C => takeRrr .xor x
  | 0x0D => takeRrr .shl x
  | 0x0E => takeRrr .shrI64 x
  | 0x0F => takeRrr .shrN64 x
  | 0x10 => takeRrr .minI64 x
  | 0x11 => takeRrr .minN64 x
  | 0x12 => takeRrr .maxI64 x
  | 0x13 => takeRrr .maxN64 x
  | 0x14 => takeRrr .addI64S x
  | 0x15 => takeRrr .addN64S x
  | 0x16 => takeRrr .subI64S x
  | 0x17 => takeRrr .subN64S x
  | 0x18 => takeRri .addi x
  | 0x19 => takeRri .andi x
  | 0x1A => takeRri .ori x
  | 0x1B => takeRri .xori x
  | 0x1C => takeRsh .shli x
  | 0x1D => takeRsh .shriI64 x
  | 0x1E => takeRsh .shriN64 x
  | 0x1F => takeRi .li x
  | 0x20 => takeRis .lis x
  | 0x21 => takeRrp .sel x
  | 0x22 => takeCp .cmp x
  | 0x23 => takeCpi .cmpi x
  | 0x24 => takeCq .cmpq x
  | 0x25 => takeRrr .fadd x
  | 0x26 => takeRrr .fsub x
  | 0x27 => takeRrr .fmul x
  | 0x28 => takeRrr .fdiv x
  | 0x29 => takeRrr .fmin x
  | 0x2A => takeRrr .fmax x
  | 0x2B => takeRrrr .fma x
  | 0x2C => takeCp .fcmp x
  | 0x2D => takeCq .fcmpq x
  | 0x2E => takeCv .fcvt x
  | 0x2F => takeRr .clz x
  | 0x30 => takeRr .popc x
  | 0x31 => takePl .pand x
  | 0x32 => takePl .por x
  | 0x33 => takePl .pxor x
  | 0x34 => takePl .pandn x
  | 0x35 => takeRxt .sext x
  | 0x36 => takeRxt .zext x
  | _ => .error .unassignedOpcode

/-- The opcodes of class 2, K (R287). -/
def decodeClassK (x : Slot) : Except Reject Instr :=
  match x.op.toNat with
  | 0x00 => takeJ .br x
  | 0x01 => takeJ .call x
  | 0x02 => takeJ .brq x
  | 0x03 => takeJ .brqn x
  | 0x04 => takeJr .brr x
  | 0x05 => takeJr .callr x
  | 0x06 => takeJl .loop x
  | 0x07 => takeLc .lcset x
  | 0x08 => takeBa .barw x
  | 0x09 => takeZ .yield x
  | 0x0A => takeZ .halt x
  | 0x0B => takeZ .eret x
  | 0x0C => takeZ .cqclr x
  | 0x0D => takeSy .syscall x
  | 0x0E => takeSr .mfsr x
  | 0x0F => takeMtsr x
  | 0x10 => takeRrr .tdset x
  | 0x11 => takeRrr .tdget x
  | 0x12 => takeRr .tdinv x
  | _ => .error .unassignedOpcode

/-- The opcodes of class 3, V (R287). -/
def decodeClassV (x : Slot) : Except Reject Instr :=
  match x.op.toNat with
  | 0x00 => takeV3 .vadd x
  | 0x01 => takeV3 .vsub x
  | 0x02 => takeV3 .vmul x
  | 0x03 => takeV3 .vdiv x
  | 0x04 => takeV3 .vmin x
  | 0x05 => takeV3 .vmax x
  | 0x06 => takeV3 .vaddS x
  | 0x07 => takeV3 .vsubS x
  | 0x08 => takeV3 .vand x
  | 0x09 => takeV3 .vor x
  | 0x0A => takeV3 .vxor x
  | 0x0B => takeV3 .vshl x
  | 0x0C => takeV3 .vshr x
  | 0x0D => takeV2 .vabs x
  | 0x0E => takeV2 .vneg x
  | 0x0F => takeV2 .vmov x
  | 0x10 => takeV4 .vfmaF32 x
  | 0x11 => takeV4 .vfmaBf16 x
  | 0x12 => takeV3 .vsel x
  | 0x13 => takeVc .vcmp x
  | 0x14 => takeVcq .vcmpq x
  | 0x15 => takeV2 .vbcast x
  | 0x16 => takeVxg .vget x
  | 0x17 => takeV3 .vset x
  | 0x18 => takePl .mand x
  | 0x19 => takePl .mor x
  | 0x1A => takePl .mxor x
  | 0x1B => takePl .mandn x
  | _ => .error .unassignedOpcode

/-- The opcodes of class 4, W (R287). -/
def decodeClassW (x : Slot) : Except Reject Instr :=
  match x.op.toNat with
  | 0x00 => takeVcv .vcvt x
  | 0x01 => takeV3 .vqnt x
  | 0x02 => takeV3 .vdqnt x
  | 0x03 => takeV3 .vbamax x
  | 0x04 => takeV2 .vrsum x
  | 0x05 => takeV2 .vrmax x
  | 0x06 => takeV2 .vrmin x
  | 0x07 => takeV2 .vscan x
  | 0x08 => takeV3 .vperm x
  | 0x09 => takeV3 .vrot x
  | 0x0A => takeV2 .vexp2 x
  | 0x0B => takeV2 .vlog2 x
  | 0x0C => takeV2 .vrcp x
  | 0x0D => takeV2 .vrsqrt x
  | 0x0E => takeV2 .vsqrt x
  | 0x0F => takeV2 .vtanh x
  | _ => .error .unassignedOpcode

/-- The opcodes of class 5, M (R287). -/
def decodeClassM (x : Slot) : Except Reject Instr :=
  match x.op.toNat with
  | 0x00 => takeMc .mcall x
  | 0x01 => takeJr .mwait x
  | 0x02 => takeRr .mstat x
  | 0x03 => takeMps .mpset x
  | 0x04 => takeMpg .mpget x
  | 0x05 => takeMucwAny x
  | 0x06 => takeRrr .mav x
  | 0x07 => takeRrr .mva x
  | _ => .error .unassignedOpcode

/-- The opcodes of class 6, C (R287). -/
def decodeClassC (x : Slot) : Except Reject Instr :=
  match x.op.toNat with
  | 0x00 => takeMs .ldN x
  | 0x01 => takeMs .ldI x
  | 0x02 => takeMs .st x
  | 0x03 => takeMs .ldnN x
  | 0x04 => takeMs .ldnI x
  | 0x05 => takeMs .stn x
  | 0x06 => takeMv .vld x
  | 0x07 => takeMv .vst x
  | 0x08 => takeMv .vldn x
  | 0x09 => takeMv .vstn x
  | 0x0A => takeMx .vlds x
  | 0x0B => takeMx .vsts x
  | 0x0C => takeMx .vgth x
  | 0x0D => takeMx .vsct x
  | 0x0E => takeMx .vgthn x
  | 0x0F => takeMx .vsctn x
  | 0x10 => takeMxx .vldx x
  | 0x11 => takeMa .aaddI32 x
  | 0x12 => takeMa .aaddI64 x
  | 0x13 => takeMa .aaddF32 x
  | 0x14 => takeMa .amaxI32 x
  | 0x15 => takeMa .amaxF32 x
  | 0x16 => takeMa .acas x
  | 0x17 => takeMa .amaxrrI32 x
  | 0x18 => takeMa .amaxrrF32 x
  | 0x19 => takeFn .fence x
  | _ => .error .unassignedOpcode

/-- The opcodes of class 7, A (R287). -/
def decodeClassA (x : Slot) : Except Reject Instr :=
  match x.op.toNat with
  | 0x00 => takeMx .cpy x
  | 0x01 => takeMx .cpyf x
  | 0x02 => takeRgw .rwait x
  | 0x03 => takeRgr .rrel x
  | 0x04 => takeRgp .rpub x
  | 0x05 => takeAcs .chsend x
  | 0x06 => takeRr .chrecv x
  | 0x07 => takeAw .waita x
  | 0x08 => takeAb .bankcfg x
  | 0x09 => takeGs .gstep x
  | 0x0A => takeRr .bcast x
  | 0x0B => takeRr .latch x
  | 0x0C => takeDeadl x
  | _ => .error .unassignedOpcode

/-- The fields of a slot as an instruction, before the operand checks of Instr.wf. -/
def decodeRaw (x : Slot) : Except Reject Instr :=
  match x.cls.toNat with
  | 1 => decodeClassS x
  | 2 => decodeClassK x
  | 3 => decodeClassV x
  | 4 => decodeClassW x
  | 5 => decodeClassM x
  | 6 => decodeClassC x
  | 7 => decodeClassA x
  | _ => .error .header

/-- The instruction of a slot (R264, R287), total and rejecting by name. -/
def decodeSlot (x : Slot) : Except Reject Instr :=
  match decodeRaw x with
  | .ok i => if i.wf then .ok i else .error .operand
  | .error e => .error e

/-- The instruction of a 32-bit slot word with its lent byte (R264, R266). -/
def decodeSikan (w : BitVec 32) (l : BitVec 8) : Except Reject Instr := decodeSlot (slotOf w l)

/-- The slot of a Sikan operation, with its stop bit set (R287, R291, R316, R338, R339, R370). -/
def encodeSlot (i : Instr) : Option Slot :=
  match i with
  | .nop g => some ⟨true, 1, g, 0x00, 0, 0, 0, 0⟩
  | .add g d s t => some ⟨true, 1, g, 0x01, d, s, t, 0⟩
  | .sub g d s t => some ⟨true, 1, g, 0x02, d, s, t, 0⟩
  | .mul g d s t => some ⟨true, 1, g, 0x03, d, s, t, 0⟩
  | .mulhI64 g d s t => some ⟨true, 1, g, 0x04, d, s, t, 0⟩
  | .mulhN64 g d s t => some ⟨true, 1, g, 0x05, d, s, t, 0⟩
  | .divI64 g d s t => some ⟨true, 1, g, 0x06, d, s, t, 0⟩
  | .divN64 g d s t => some ⟨true, 1, g, 0x07, d, s, t, 0⟩
  | .remI64 g d s t => some ⟨true, 1, g, 0x08, d, s, t, 0⟩
  | .remN64 g d s t => some ⟨true, 1, g, 0x09, d, s, t, 0⟩
  | .and g d s t => some ⟨true, 1, g, 0x0A, d, s, t, 0⟩
  | .or g d s t => some ⟨true, 1, g, 0x0B, d, s, t, 0⟩
  | .xor g d s t => some ⟨true, 1, g, 0x0C, d, s, t, 0⟩
  | .shl g d s t => some ⟨true, 1, g, 0x0D, d, s, t, 0⟩
  | .shrI64 g d s t => some ⟨true, 1, g, 0x0E, d, s, t, 0⟩
  | .shrN64 g d s t => some ⟨true, 1, g, 0x0F, d, s, t, 0⟩
  | .minI64 g d s t => some ⟨true, 1, g, 0x10, d, s, t, 0⟩
  | .minN64 g d s t => some ⟨true, 1, g, 0x11, d, s, t, 0⟩
  | .maxI64 g d s t => some ⟨true, 1, g, 0x12, d, s, t, 0⟩
  | .maxN64 g d s t => some ⟨true, 1, g, 0x13, d, s, t, 0⟩
  | .addI64S g d s t => some ⟨true, 1, g, 0x14, d, s, t, 0⟩
  | .addN64S g d s t => some ⟨true, 1, g, 0x15, d, s, t, 0⟩
  | .subI64S g d s t => some ⟨true, 1, g, 0x16, d, s, t, 0⟩
  | .subN64S g d s t => some ⟨true, 1, g, 0x17, d, s, t, 0⟩
  | .addi g d s imm => some ⟨true, 1, g, 0x18, d, s, (imm.extractLsb' 0 6), (imm.extractLsb' 6 8)⟩
  | .andi g d s imm => some ⟨true, 1, g, 0x19, d, s, (imm.extractLsb' 0 6), (imm.extractLsb' 6 8)⟩
  | .ori g d s imm => some ⟨true, 1, g, 0x1A, d, s, (imm.extractLsb' 0 6), (imm.extractLsb' 6 8)⟩
  | .xori g d s imm => some ⟨true, 1, g, 0x1B, d, s, (imm.extractLsb' 0 6), (imm.extractLsb' 6 8)⟩
  | .shli g d s n => some ⟨true, 1, g, 0x1C, d, s, n, 0⟩
  | .shriI64 g d s n => some ⟨true, 1, g, 0x1D, d, s, n, 0⟩
  | .shriN64 g d s n => some ⟨true, 1, g, 0x1E, d, s, n, 0⟩
  | .li g d imm => some ⟨true, 1, g, 0x1F, d, (imm.extractLsb' 6 6), (imm.extractLsb' 0 6), (imm.extractLsb' 12 8)⟩
  | .lis g d imm => some ⟨true, 1, g, 0x20, d, (imm.extractLsb' 6 6), (imm.extractLsb' 0 6), (0#4 ++ imm.extractLsb' 12 4)⟩
  | .sel g d s t k => some ⟨true, 1, g, 0x21, d, s, t, (0#4 ++ k)⟩
  | .cmp g cond pair s t => some ⟨true, 1, g, 0x22, (cond ++ pair), s, t, 0⟩
  | .cmpi g cond pair s imm => some ⟨true, 1, g, 0x23, (cond ++ pair), s, (imm.extractLsb' 0 6), (imm.extractLsb' 6 8)⟩
  | .cmpq g cond s t => some ⟨true, 1, g, 0x24, (cond ++ 0#3), s, t, 0⟩
  | .fadd g d s t => some ⟨true, 1, g, 0x25, d, s, t, 0⟩
  | .fsub g d s t => some ⟨true, 1, g, 0x26, d, s, t, 0⟩
  | .fmul g d s t => some ⟨true, 1, g, 0x27, d, s, t, 0⟩
  | .fdiv g d s t => some ⟨true, 1, g, 0x28, d, s, t, 0⟩
  | .fmin g d s t => some ⟨true, 1, g, 0x29, d, s, t, 0⟩
  | .fmax g d s t => some ⟨true, 1, g, 0x2A, d, s, t, 0⟩
  | .fma g d s t q => some ⟨true, 1, g, 0x2B, d, s, t, (0#2 ++ q)⟩
  | .fcmp g cond pair s t => some ⟨true, 1, g, 0x2C, (cond ++ pair), s, t, 0⟩
  | .fcmpq g cond s t => some ⟨true, 1, g, 0x2D, (cond ++ 0#3), s, t, 0⟩
  | .fcvt g d s src dst => some ⟨true, 1, g, 0x2E, d, s, (src ++ dst), 0⟩
  | .clz g d s => some ⟨true, 1, g, 0x2F, d, s, 0, 0⟩
  | .popc g d s => some ⟨true, 1, g, 0x30, d, s, 0, 0⟩
  | .pand g d s t => some ⟨true, 1, g, 0x31, (0#2 ++ d), (0#2 ++ s), (0#2 ++ t), 0⟩
  | .por g d s t => some ⟨true, 1, g, 0x32, (0#2 ++ d), (0#2 ++ s), (0#2 ++ t), 0⟩
  | .pxor g d s t => some ⟨true, 1, g, 0x33, (0#2 ++ d), (0#2 ++ s), (0#2 ++ t), 0⟩
  | .pandn g d s t => some ⟨true, 1, g, 0x34, (0#2 ++ d), (0#2 ++ s), (0#2 ++ t), 0⟩
  | .sext g d s n => some ⟨true, 1, g, 0x35, d, s, (n.extractLsb' 0 6), (0#7 ++ n.extractLsb' 6 1)⟩
  | .zext g d s n => some ⟨true, 1, g, 0x36, d, s, (n.extractLsb' 0 6), (0#7 ++ n.extractLsb' 6 1)⟩
  | .br g off => some ⟨true, 2, g, 0x00, (off.extractLsb' 12 6), (off.extractLsb' 6 6), (off.extractLsb' 0 6), (off.extractLsb' 18 8)⟩
  | .call g off => some ⟨true, 2, g, 0x01, (off.extractLsb' 12 6), (off.extractLsb' 6 6), (off.extractLsb' 0 6), (off.extractLsb' 18 8)⟩
  | .brq g off => some ⟨true, 2, g, 0x02, (off.extractLsb' 12 6), (off.extractLsb' 6 6), (off.extractLsb' 0 6), (off.extractLsb' 18 8)⟩
  | .brqn g off => some ⟨true, 2, g, 0x03, (off.extractLsb' 12 6), (off.extractLsb' 6 6), (off.extractLsb' 0 6), (off.extractLsb' 18 8)⟩
  | .brr g s => some ⟨true, 2, g, 0x04, 0, s, 0, 0⟩
  | .callr g s => some ⟨true, 2, g, 0x05, 0, s, 0, 0⟩
  | .loop g n off => some ⟨true, 2, g, 0x06, (n ++ off.extractLsb' 12 4), (off.extractLsb' 6 6), (off.extractLsb' 0 6), (off.extractLsb' 16 8)⟩
  | .lcset g n s => some ⟨true, 2, g, 0x07, (0#4 ++ n), s, 0, 0⟩
  | .barw g b => some ⟨true, 2, g, 0x08, (0#3 ++ b), 0, 0, 0⟩
  | .yield g => some ⟨true, 2, g, 0x09, 0, 0, 0, 0⟩
  | .halt g => some ⟨true, 2, g, 0x0A, 0, 0, 0, 0⟩
  | .eret g => some ⟨true, 2, g, 0x0B, 0, 0, 0, 0⟩
  | .cqclr g => some ⟨true, 2, g, 0x0C, 0, 0, 0, 0⟩
  | .syscall g code => some ⟨true, 2, g, 0x0D, 0, (code.extractLsb' 6 6), (code.extractLsb' 0 6), (code.extractLsb' 12 8)⟩
  | .mfsr g d num => some ⟨true, 2, g, 0x0E, d, (num.extractLsb' 6 6), (num.extractLsb' 0 6), 0⟩
  | .mtsr g s num => some ⟨true, 2, g, 0x0F, s, (num.extractLsb' 6 6), (num.extractLsb' 0 6), 0⟩
  | .mtsrTrapcauseHost g s => some ⟨true, 2, g, 0x0F, s, 0, 0x22#6, 0⟩
  | .mtsrFmtctlSeedw g s => some ⟨true, 2, g, 0x0F, s, 0, 0x03#6, 0⟩
  | .tdset g d s t => some ⟨true, 2, g, 0x10, d, s, t, 0⟩
  | .tdget g d s t => some ⟨true, 2, g, 0x11, d, s, t, 0⟩
  | .tdinv g d s => some ⟨true, 2, g, 0x12, d, s, 0, 0⟩
  | .vadd g d s t ty k => some ⟨true, 3, g, 0x00, d, s, t, (ty ++ k)⟩
  | .vsub g d s t ty k => some ⟨true, 3, g, 0x01, d, s, t, (ty ++ k)⟩
  | .vmul g d s t ty k => some ⟨true, 3, g, 0x02, d, s, t, (ty ++ k)⟩
  | .vdiv g d s t ty k => some ⟨true, 3, g, 0x03, d, s, t, (ty ++ k)⟩
  | .vmin g d s t ty k => some ⟨true, 3, g, 0x04, d, s, t, (ty ++ k)⟩
  | .vmax g d s t ty k => some ⟨true, 3, g, 0x05, d, s, t, (ty ++ k)⟩
  | .vaddS g d s t ty k => some ⟨true, 3, g, 0x06, d, s, t, (ty ++ k)⟩
  | .vsubS g d s t ty k => some ⟨true, 3, g, 0x07, d, s, t, (ty ++ k)⟩
  | .vand g d s t ty k => some ⟨true, 3, g, 0x08, d, s, t, (ty ++ k)⟩
  | .vor g d s t ty k => some ⟨true, 3, g, 0x09, d, s, t, (ty ++ k)⟩
  | .vxor g d s t ty k => some ⟨true, 3, g, 0x0A, d, s, t, (ty ++ k)⟩
  | .vshl g d s t ty k => some ⟨true, 3, g, 0x0B, d, s, t, (ty ++ k)⟩
  | .vshr g d s t ty k => some ⟨true, 3, g, 0x0C, d, s, t, (ty ++ k)⟩
  | .vabs g d s ty k => some ⟨true, 3, g, 0x0D, d, s, 0, (ty ++ k)⟩
  | .vneg g d s ty k => some ⟨true, 3, g, 0x0E, d, s, 0, (ty ++ k)⟩
  | .vmov g d s ty k => some ⟨true, 3, g, 0x0F, d, s, 0, (ty ++ k)⟩
  | .vfmaF32 g d s t q k => some ⟨true, 3, g, 0x10, d, s, t, (k ++ q)⟩
  | .vfmaBf16 g d s t q k => some ⟨true, 3, g, 0x11, d, s, t, (k ++ q)⟩
  | .vsel g d s t ty k => some ⟨true, 3, g, 0x12, d, s, t, (ty ++ k)⟩
  | .vcmp g cond pair s t ty k => some ⟨true, 3, g, 0x13, (cond ++ pair), s, t, (ty ++ k)⟩
  | .vcmpq g cond s t ty k => some ⟨true, 3, g, 0x14, (cond ++ 0#3), s, t, (ty ++ k)⟩
  | .vbcast g d s ty k => some ⟨true, 3, g, 0x15, d, s, 0, (ty ++ k)⟩
  | .vget g d s t ty => some ⟨true, 3, g, 0x16, d, s, t, (ty ++ 0#4)⟩
  | .vset g d s t ty k => some ⟨true, 3, g, 0x17, d, s, t, (ty ++ k)⟩
  | .mand g d s t => some ⟨true, 3, g, 0x18, (0#2 ++ d), (0#2 ++ s), (0#2 ++ t), 0⟩
  | .mor g d s t => some ⟨true, 3, g, 0x19, (0#2 ++ d), (0#2 ++ s), (0#2 ++ t), 0⟩
  | .mxor g d s t => some ⟨true, 3, g, 0x1A, (0#2 ++ d), (0#2 ++ s), (0#2 ++ t), 0⟩
  | .mandn g d s t => some ⟨true, 3, g, 0x1B, (0#2 ++ d), (0#2 ++ s), (0#2 ++ t), 0⟩
  | .vcvt g d s dst src k => some ⟨true, 4, g, 0x00, d, s, (0#2 ++ dst), (src ++ k)⟩
  | .vqnt g d s t ty k => some ⟨true, 4, g, 0x01, d, s, t, (ty ++ k)⟩
  | .vdqnt g d s t ty k => some ⟨true, 4, g, 0x02, d, s, t, (ty ++ k)⟩
  | .vbamax g d s t ty k => some ⟨true, 4, g, 0x03, d, s, t, (ty ++ k)⟩
  | .vrsum g d s ty k => some ⟨true, 4, g, 0x04, d, s, 0, (ty ++ k)⟩
  | .vrmax g d s ty k => some ⟨true, 4, g, 0x05, d, s, 0, (ty ++ k)⟩
  | .vrmin g d s ty k => some ⟨true, 4, g, 0x06, d, s, 0, (ty ++ k)⟩
  | .vscan g d s ty k => some ⟨true, 4, g, 0x07, d, s, 0, (ty ++ k)⟩
  | .vperm g d s t ty k => some ⟨true, 4, g, 0x08, d, s, t, (ty ++ k)⟩
  | .vrot g d s t ty k => some ⟨true, 4, g, 0x09, d, s, t, (ty ++ k)⟩
  | .vexp2 g d s ty k => some ⟨true, 4, g, 0x0A, d, s, 0, (ty ++ k)⟩
  | .vlog2 g d s ty k => some ⟨true, 4, g, 0x0B, d, s, 0, (ty ++ k)⟩
  | .vrcp g d s ty k => some ⟨true, 4, g, 0x0C, d, s, 0, (ty ++ k)⟩
  | .vrsqrt g d s ty k => some ⟨true, 4, g, 0x0D, d, s, 0, (ty ++ k)⟩
  | .vsqrt g d s ty k => some ⟨true, 4, g, 0x0E, d, s, 0, (ty ++ k)⟩
  | .vtanh g d s ty k => some ⟨true, 4, g, 0x0F, d, s, 0, (ty ++ k)⟩
  | .mcall g d p q r => some ⟨true, 5, g, 0x00, d, p, q, r⟩
  | .mwait g s => some ⟨true, 5, g, 0x01, 0, s, 0, 0⟩
  | .mstat g d s => some ⟨true, 5, g, 0x02, d, s, 0, 0⟩
  | .mpset g n s => some ⟨true, 5, g, 0x03, (0#3 ++ n), s, 0, 0⟩
  | .mpget g d n => some ⟨true, 5, g, 0x04, d, (0#3 ++ n), 0, 0⟩
  | .mucw g i v => some ⟨true, 5, g, 0x05, 0, i, v, 0⟩
  | .mucwT g i v => some ⟨true, 5, g, 0x05, 1, i, v, 0⟩
  | .mav g d tile r => some ⟨true, 5, g, 0x06, d, tile, r, 0⟩
  | .mva g tile s r => some ⟨true, 5, g, 0x07, tile, s, r, 0⟩
  | .ldN g r a cls sz off => some ⟨true, 6, g, 0x00, r, a, (cls ++ sz), off⟩
  | .ldI g r a cls sz off => some ⟨true, 6, g, 0x01, r, a, (cls ++ sz), off⟩
  | .st g r a cls sz off => some ⟨true, 6, g, 0x02, r, a, (cls ++ sz), off⟩
  | .ldnN g r a cls sz off => some ⟨true, 6, g, 0x03, r, a, (cls ++ sz), off⟩
  | .ldnI g r a cls sz off => some ⟨true, 6, g, 0x04, r, a, (cls ++ sz), off⟩
  | .stn g r a cls sz off => some ⟨true, 6, g, 0x05, r, a, (cls ++ sz), off⟩
  | .vld g v a cls off k => some ⟨true, 6, g, 0x06, v, a, (cls ++ 0#2), (off ++ k)⟩
  | .vst g v a cls off k => some ⟨true, 6, g, 0x07, v, a, (cls ++ 0#2), (off ++ k)⟩
  | .vldn g v a cls off k => some ⟨true, 6, g, 0x08, v, a, (cls ++ 0#2), (off ++ k)⟩
  | .vstn g v a cls off k => some ⟨true, 6, g, 0x09, v, a, (cls ++ 0#2), (off ++ k)⟩
  | .vlds g v a x cls k => some ⟨true, 6, g, 0x0A, v, a, x, (cls ++ k)⟩
  | .vsts g v a x cls k => some ⟨true, 6, g, 0x0B, v, a, x, (cls ++ k)⟩
  | .vgth g v a x cls k => some ⟨true, 6, g, 0x0C, v, a, x, (cls ++ k)⟩
  | .vsct g v a x cls k => some ⟨true, 6, g, 0x0D, v, a, x, (cls ++ k)⟩
  | .vgthn g v a x cls k => some ⟨true, 6, g, 0x0E, v, a, x, (cls ++ k)⟩
  | .vsctn g v a x cls k => some ⟨true, 6, g, 0x0F, v, a, x, (cls ++ k)⟩
  | .vldx g v a x cls k => some ⟨true, 6, g, 0x10, v, a, (0#3 ++ x), (cls ++ k)⟩
  | .aaddI32 g d a t cls near => some ⟨true, 6, g, 0x11, d, a, t, (cls ++ (BitVec.ofBool near) ++ 0#3)⟩
  | .aaddI64 g d a t cls near => some ⟨true, 6, g, 0x12, d, a, t, (cls ++ (BitVec.ofBool near) ++ 0#3)⟩
  | .aaddF32 g d a t cls near => some ⟨true, 6, g, 0x13, d, a, t, (cls ++ (BitVec.ofBool near) ++ 0#3)⟩
  | .amaxI32 g d a t cls near => some ⟨true, 6, g, 0x14, d, a, t, (cls ++ (BitVec.ofBool near) ++ 0#3)⟩
  | .amaxF32 g d a t cls near => some ⟨true, 6, g, 0x15, d, a, t, (cls ++ (BitVec.ofBool near) ++ 0#3)⟩
  | .acas g d a t cls near => some ⟨true, 6, g, 0x16, d, a, t, (cls ++ (BitVec.ofBool near) ++ 0#3)⟩
  | .amaxrrI32 g d a t cls near => some ⟨true, 6, g, 0x17, d, a, t, (cls ++ (BitVec.ofBool near) ++ 0#3)⟩
  | .amaxrrF32 g d a t cls near => some ⟨true, 6, g, 0x18, d, a, t, (cls ++ (BitVec.ofBool near) ++ 0#3)⟩
  | .fence g scope wb inv mask => some ⟨true, 6, g, 0x19, (0#2 ++ (BitVec.ofBool inv) ++ (BitVec.ofBool wb) ++ scope), (mask.extractLsb' 2 6), (0#4 ++ mask.extractLsb' 0 2), (mask.extractLsb' 8 8)⟩
  | .cpy g h x y cls ring => some ⟨true, 7, g, 0x00, h, x, y, (cls ++ ring)⟩
  | .cpyf g h x y cls ring => some ⟨true, 7, g, 0x01, h, x, y, (cls ++ ring)⟩
  | .rwait g d n => some ⟨true, 7, g, 0x02, d, (0#1 ++ n), 0, 0⟩
  | .rrel g n => some ⟨true, 7, g, 0x03, 0, (0#1 ++ n), 0, 0⟩
  | .rpub g n s => some ⟨true, 7, g, 0x04, 0, (0#1 ++ n), s, 0⟩
  | .chsend g c x cls => some ⟨true, 7, g, 0x05, c, x, 0, (cls ++ 0#4)⟩
  | .chrecv g d c => some ⟨true, 7, g, 0x06, d, c, 0, 0⟩
  | .waita g d a v cls glob cc => some ⟨true, 7, g, 0x07, d, a, v, (cls ++ 0#1 ++ (BitVec.ofBool glob) ++ cc)⟩
  | .bankcfg g s => some ⟨true, 7, g, 0x08, s, 0, 0, 0⟩
  | .gstep g n => some ⟨true, 7, g, 0x09, (0#3 ++ n), 0, 0, 0⟩
  | .bcast g b a => some ⟨true, 7, g, 0x0A, b, a, 0, 0⟩
  | .latch g b a => some ⟨true, 7, g, 0x0B, b, a, 0, 0⟩
  | .deadl g s => some ⟨true, 7, g, 0x0C, s, 0, 0, 0⟩
  | .deadlF g s => some ⟨true, 7, g, 0x0C, s, 0, 0, 1⟩
  | .deadlXp g s j => some ⟨true, 7, g, 0x0C, s, 0, 0, (0#4 ++ 1#1 ++ j)⟩
  | .uopMma _ _ _ _ _ _ _ => none
  | .uopLdb _ _ => none
  | .uopZacc _ _ => none
  | .uopStacc _ _ _ _ _ => none
  | .uopScale _ _ => none
  | .uopSetc _ _ _ _ => none
  | .uopAddc _ _ _ => none
  | .uopAddci _ _ _ => none
  | .uopLoop _ _ _ _ _ => none
  | .uopWtile _ _ => none
  | .uopWflag _ _ _ => none
  | .uopSignal _ _ _ _ => none
  | .virgaAdd _ _ _ => none
  | .virgaSub _ _ _ => none
  | .virgaMul _ _ _ => none
  | .virgaAnd _ _ _ => none
  | .virgaOr _ _ _ => none
  | .virgaXor _ _ _ => none
  | .virgaShl _ _ _ => none
  | .virgaShr _ _ _ => none
  | .virgaSra _ _ _ => none
  | .virgaSlt _ _ _ => none
  | .virgaSltu _ _ _ => none
  | .virgaAddi _ _ _ => none
  | .virgaAndi _ _ _ => none
  | .virgaOri _ _ _ => none
  | .virgaXori _ _ _ => none
  | .virgaShli _ _ _ => none
  | .virgaShri _ _ _ => none
  | .virgaSrai _ _ _ => none
  | .virgaSlti _ _ _ => none
  | .virgaLis _ _ => none
  | .virgaLd _ _ _ => none
  | .virgaLw _ _ _ => none
  | .virgaSt _ _ _ => none
  | .virgaSw _ _ _ => none
  | .virgaBeq _ _ _ => none
  | .virgaBne _ _ _ => none
  | .virgaBlt _ _ _ => none
  | .virgaBge _ _ _ => none
  | .virgaBltu _ _ _ => none
  | .virgaBgeu _ _ _ => none
  | .virgaJ _ => none
  | .virgaJal _ => none
  | .virgaJr _ => none
  | .virgaMfv _ _ => none
  | .virgaMtv _ _ => none
  | .virgaEvtake _ _ => none
  | .virgaTmset _ _ _ => none
  | .virgaPdcrd _ _ => none
  | .virgaPdcwr _ _ _ => none
  | .virgaPdcfail _ _ => none
  | .virgaRetx _ _ _ => none
  | .virgaRetxm _ _ _ => none
  | .virgaLosnext _ _ _ => none
  | .virgaPsrd _ _ _ => none
  | .virgaPsdis _ _ => none
  | .virgaPscnt _ _ => none
  | .virgaRcbrd _ _ => none
  | .virgaBmrd _ _ _ => none
  | .virgaWinrd _ _ => none
  | .virgaPeerrd _ _ => none
  | .virgaEprd _ _ => none
  | .virgaHev _ _ => none
  | .perstAssert => none
  | .startupPhase1 => none
  | .startupPhase2 => none
  | .startupPhase3 => none
  | .startupPhase4 => none
  | .startupPhase5 => none
  | .configRequest => none
  | .sidebandFirmwareWrite => none
  | .thermtrip => none
  | .throttleStep => none
  | .cxlLinkDown => none
  | .cxlResetComplete => none
  | .lossOfLight => none
  | .linkRetrained => none
  | .ptpExchangeComplete => none
  | .pauseFrameReceived => none
  | .rmaWriteStreamArrival => none
  | .taggedSendArrival => none
  | .productionQueueDrain => none
  | .remoteReadArrival => none
  | .remoteWriteArrival => none
  | .remoteAtomicArrival => none
  | .ackReceived => none
  | .nackReceived => none
  | .pdcCloseAckReceived => none
  | .ackCoalesceTimeout => none
  | .rtoExpiry => none
  | .parkedBackoffExpiry => none
  | .ccsigTimer => none
  | .packetTransmit => none
  | .retxSend => none
  | .pdcIdleTimeout => none
  | .pdcCloseTimeout => none
  | .keyEpochSwitch => none
  | .keyEpochGraceEnd => none
  | .rcbReopenDelayEnd => none
  | .windowRevokeComplete => none
  | .registerWrite => none
  | .gctlFeat => none
  | .gctlEn => none
  | .gctlEven => none
  | .evconsWrite => none
  | .sempoke => none
  | .qnotify => none
  | .qcfgEnable => none
  | .qcfgDisable => none
  | .qcfgResume => none
  | .commandFetch => none
  | .stampRefetch => none
  | .bar2Access => none
  | .spdmGetVersion => none
  | .spdmGetCapabilities => none
  | .spdmNegotiateAlgorithms => none
  | .spdmGetDigests => none
  | .spdmGetCertificate => none
  | .spdmChallenge => none
  | .spdmGetMeasurements => none
  | .launch => none
  | .hcopy => none
  | .signal => none
  | .waitsem => none
  | .waitsemReevaluate => none
  | .waitsemTimeout => none
  | .ctxnew => none
  | .ctxkill => none
  | .ctxkillStageDrained => none
  | .ctxRemoveStuck => none
  | .ctxpreemptYield => none
  | .ctxpreemptScan => none
  | .graceWindowEnd => none
  | .saveComplete => none
  | .saveTimeout => none
  | .imgrestore => none
  | .restoreComplete => none
  | .mapsetInvalidate => none
  | .mapsetReplaceRoot => none
  | .rcbsetOpen => none
  | .rcbsetClose => none
  | .rcbsetExport => none
  | .rcbsetImport => none
  | .peersetEntry => none
  | .peersetMcastList => none
  | .peersetNextKey => none
  | .peersetCloseFailed => none
  | .peersetRepoint => none
  | .pathset => none
  | .winset => none
  | .winrevoke => none
  | .featurePowerLimit => none
  | .featurePtpPort => none
  | .featureUdpPort => none
  | .featureWatchdog => none
  | .featureCxlReset => none
  | .featureRemapReload => none
  | .cntset => none
  | .fwload => none
  | .counterWrap => none
  | .ctxHang => none
  | .teamPlace => none
  | .swapTest => none
  | .swapComplete => none
  | .waitMonitorPoll => none
  | .gstepComplete => none
  | .broadcastBeat => none
  | .latchComplete => none
  | .wcsLineDrainTimeout => none
  | .copyStart => none
  | .copyComplete => none
  | .matrixCommandStart => none
  | .stalledGroupCommit => none
  | .deferredTrap => none
  | .eccUncorrectable => none
  | .eccCorrected => none
  | .parityError => none
  | .remapTableUe => none
  | .virgaTimerExpiry => none
  | .gtstepWrite => none
  | .gtrateWrite => none
  | .uopRet => none
  | .uopMnop => none
  | .virgaNop => none
  | .virgaVret => none
  | .accessResponseReturn => none
  | .hcopyComplete => none
  | .pdcCloseRequestReceived => none
  | .contextKeyTransfer => none
  | .unassignedOpcode => none
  | .virgaUnassignedOpcode => none

/-- The fields of a Virga word (R398). -/
structure VirgaFields where
  op : BitVec 6
  d : BitVec 5
  s : BitVec 5
  t : BitVec 5
  f : BitVec 11
  deriving DecidableEq, Repr

/-- The fields of a Virga word (R398). -/
def virgaFieldsOf (w : BitVec 32) : VirgaFields :=
  ⟨w.extractLsb' 26 6, w.extractLsb' 21 5, w.extractLsb' 16 5, w.extractLsb' 11 5, w.extractLsb' 0 11⟩

/-- The word of Virga fields (R398). -/
def virgaWord (x : VirgaFields) : BitVec 32 := x.op ++ x.d ++ x.s ++ x.t ++ x.f


/-- The fields of a Virga word as an instruction, before the operand checks of Instr.wf (R399). -/
def decodeVirgaRaw (x : VirgaFields) : Except Reject Instr :=
  match x.op.toNat with
  | 0x00 => if x.d = 0 ∧ x.s = 0 ∧ x.t = 0 ∧ x.f = 0 then .ok (.virgaNop) else .error .reservedField
  | 0x01 => if x.f = 0 then .ok (.virgaAdd x.d x.s x.t) else .error .reservedField
  | 0x02 => if x.f = 0 then .ok (.virgaSub x.d x.s x.t) else .error .reservedField
  | 0x03 => if x.f = 0 then .ok (.virgaMul x.d x.s x.t) else .error .reservedField
  | 0x04 => if x.f = 0 then .ok (.virgaAnd x.d x.s x.t) else .error .reservedField
  | 0x05 => if x.f = 0 then .ok (.virgaOr x.d x.s x.t) else .error .reservedField
  | 0x06 => if x.f = 0 then .ok (.virgaXor x.d x.s x.t) else .error .reservedField
  | 0x07 => if x.f = 0 then .ok (.virgaShl x.d x.s x.t) else .error .reservedField
  | 0x08 => if x.f = 0 then .ok (.virgaShr x.d x.s x.t) else .error .reservedField
  | 0x09 => if x.f = 0 then .ok (.virgaSra x.d x.s x.t) else .error .reservedField
  | 0x0A => if x.f = 0 then .ok (.virgaSlt x.d x.s x.t) else .error .reservedField
  | 0x0B => if x.f = 0 then .ok (.virgaSltu x.d x.s x.t) else .error .reservedField
  | 0x0C => .ok (.virgaAddi x.d x.s (x.t ++ x.f))
  | 0x0D => .ok (.virgaAndi x.d x.s (x.t ++ x.f))
  | 0x0E => .ok (.virgaOri x.d x.s (x.t ++ x.f))
  | 0x0F => .ok (.virgaXori x.d x.s (x.t ++ x.f))
  | 0x10 => if x.t = 0 ∧ x.f.extractLsb' 6 5 = 0 then .ok (.virgaShli x.d x.s (x.f.extractLsb' 0 6)) else .error .reservedField
  | 0x11 => if x.t = 0 ∧ x.f.extractLsb' 6 5 = 0 then .ok (.virgaShri x.d x.s (x.f.extractLsb' 0 6)) else .error .reservedField
  | 0x12 => if x.t = 0 ∧ x.f.extractLsb' 6 5 = 0 then .ok (.virgaSrai x.d x.s (x.f.extractLsb' 0 6)) else .error .reservedField
  | 0x13 => .ok (.virgaSlti x.d x.s (x.t ++ x.f))
  | 0x14 => if x.s = 0 then .ok (.virgaLis x.d (x.t ++ x.f)) else .error .reservedField
  | 0x15 => .ok (.virgaLd x.d x.s (x.t ++ x.f))
  | 0x16 => .ok (.virgaLw x.d x.s (x.t ++ x.f))
  | 0x17 => .ok (.virgaSt x.d x.s (x.t ++ x.f))
  | 0x18 => .ok (.virgaSw x.d x.s (x.t ++ x.f))
  | 0x19 => .ok (.virgaBeq x.d x.s (x.t ++ x.f))
  | 0x1A => .ok (.virgaBne x.d x.s (x.t ++ x.f))
  | 0x1B => .ok (.virgaBlt x.d x.s (x.t ++ x.f))
  | 0x1C => .ok (.virgaBge x.d x.s (x.t ++ x.f))
  | 0x1D => .ok (.virgaBltu x.d x.s (x.t ++ x.f))
  | 0x1E => .ok (.virgaBgeu x.d x.s (x.t ++ x.f))
  | 0x1F => .ok (.virgaJ (x.d ++ x.s ++ x.t ++ x.f))
  | 0x20 => .ok (.virgaJal (x.d ++ x.s ++ x.t ++ x.f))
  | 0x21 => if x.d = 0 ∧ x.t = 0 ∧ x.f = 0 then .ok (.virgaJr x.s) else .error .reservedField
  | 0x22 => if x.s = 0 ∧ x.t.extractLsb' 1 4 = 0 then .ok (.virgaMfv x.d (x.t.extractLsb' 0 1 ++ x.f)) else .error .reservedField
  | 0x23 => if x.d = 0 ∧ x.t.extractLsb' 1 4 = 0 then .ok (.virgaMtv x.s (x.t.extractLsb' 0 1 ++ x.f)) else .error .reservedField
  | 0x24 => if x.d = 0 ∧ x.s = 0 ∧ x.t = 0 ∧ x.f = 0 then .ok (.virgaVret) else .error .reservedField
  | 0x25 => if x.s = 0 ∧ x.t = 0 ∧ x.f.extractLsb' 1 10 = 0 then .ok (.virgaEvtake x.d (x.f.getLsbD 0)) else .error .reservedField
  | 0x26 => if x.f = 0 then .ok (.virgaTmset x.d x.s x.t) else .error .reservedField
  | 0x27 => if x.t = 0 ∧ x.f = 0 then .ok (.virgaPdcrd x.d x.s) else .error .reservedField
  | 0x28 => if x.d = 0 ∧ x.f.extractLsb' 3 8 = 0 then .ok (.virgaPdcwr x.s x.t (x.f.extractLsb' 0 3)) else .error .reservedField
  | 0x29 => if x.t = 0 ∧ x.f = 0 then .ok (.virgaPdcfail x.d x.s) else .error .reservedField
  | 0x2A => if x.f = 0 then .ok (.virgaRetx x.d x.s x.t) else .error .reservedField
  | 0x2B => if x.f = 0 then .ok (.virgaRetxm x.d x.s x.t) else .error .reservedField
  | 0x2C => if x.t = 0 ∧ x.f.extractLsb' 1 10 = 0 then .ok (.virgaLosnext x.d x.s (x.f.getLsbD 0)) else .error .reservedField
  | 0x2D => if x.f = 0 then .ok (.virgaPsrd x.d x.s x.t) else .error .reservedField
  | 0x2E => if x.d = 0 ∧ x.f = 0 then .ok (.virgaPsdis x.s x.t) else .error .reservedField
  | 0x2F => if x.t = 0 ∧ x.f = 0 then .ok (.virgaPscnt x.d x.s) else .error .reservedField
  | 0x30 => if x.t = 0 ∧ x.f = 0 then .ok (.virgaRcbrd x.d x.s) else .error .reservedField
  | 0x31 => if x.f = 0 then .ok (.virgaBmrd x.d x.s x.t) else .error .reservedField
  | 0x32 => if x.t = 0 ∧ x.f = 0 then .ok (.virgaWinrd x.d x.s) else .error .reservedField
  | 0x33 => if x.t = 0 ∧ x.f = 0 then .ok (.virgaPeerrd x.d x.s) else .error .reservedField
  | 0x34 => if x.t = 0 ∧ x.f = 0 then .ok (.virgaEprd x.d x.s) else .error .reservedField
  | 0x35 => if x.d = 0 ∧ x.f = 0 then .ok (.virgaHev x.s x.t) else .error .reservedField
  | _ => .error .unassignedOpcode

/-- The instruction of a 32-bit Virga word (R398, R399). -/
def decodeVirga (w : BitVec 32) : Except Reject Instr :=
  match decodeVirgaRaw (virgaFieldsOf w) with
  | .ok i => if i.wf then .ok i else .error .operand
  | .error e => .error e

/-- The fields of a Virga instruction (R398, R399). -/
def encodeVirgaFields (i : Instr) : Option VirgaFields :=
  match i with
  | .nop _ => none
  | .add _ _ _ _ => none
  | .sub _ _ _ _ => none
  | .mul _ _ _ _ => none
  | .mulhI64 _ _ _ _ => none
  | .mulhN64 _ _ _ _ => none
  | .divI64 _ _ _ _ => none
  | .divN64 _ _ _ _ => none
  | .remI64 _ _ _ _ => none
  | .remN64 _ _ _ _ => none
  | .and _ _ _ _ => none
  | .or _ _ _ _ => none
  | .xor _ _ _ _ => none
  | .shl _ _ _ _ => none
  | .shrI64 _ _ _ _ => none
  | .shrN64 _ _ _ _ => none
  | .minI64 _ _ _ _ => none
  | .minN64 _ _ _ _ => none
  | .maxI64 _ _ _ _ => none
  | .maxN64 _ _ _ _ => none
  | .addI64S _ _ _ _ => none
  | .addN64S _ _ _ _ => none
  | .subI64S _ _ _ _ => none
  | .subN64S _ _ _ _ => none
  | .addi _ _ _ _ => none
  | .andi _ _ _ _ => none
  | .ori _ _ _ _ => none
  | .xori _ _ _ _ => none
  | .shli _ _ _ _ => none
  | .shriI64 _ _ _ _ => none
  | .shriN64 _ _ _ _ => none
  | .li _ _ _ => none
  | .lis _ _ _ => none
  | .sel _ _ _ _ _ => none
  | .cmp _ _ _ _ _ => none
  | .cmpi _ _ _ _ _ => none
  | .cmpq _ _ _ _ => none
  | .fadd _ _ _ _ => none
  | .fsub _ _ _ _ => none
  | .fmul _ _ _ _ => none
  | .fdiv _ _ _ _ => none
  | .fmin _ _ _ _ => none
  | .fmax _ _ _ _ => none
  | .fma _ _ _ _ _ => none
  | .fcmp _ _ _ _ _ => none
  | .fcmpq _ _ _ _ => none
  | .fcvt _ _ _ _ _ => none
  | .clz _ _ _ => none
  | .popc _ _ _ => none
  | .pand _ _ _ _ => none
  | .por _ _ _ _ => none
  | .pxor _ _ _ _ => none
  | .pandn _ _ _ _ => none
  | .sext _ _ _ _ => none
  | .zext _ _ _ _ => none
  | .br _ _ => none
  | .call _ _ => none
  | .brq _ _ => none
  | .brqn _ _ => none
  | .brr _ _ => none
  | .callr _ _ => none
  | .loop _ _ _ => none
  | .lcset _ _ _ => none
  | .barw _ _ => none
  | .yield _ => none
  | .halt _ => none
  | .eret _ => none
  | .cqclr _ => none
  | .syscall _ _ => none
  | .mfsr _ _ _ => none
  | .mtsr _ _ _ => none
  | .mtsrTrapcauseHost _ _ => none
  | .mtsrFmtctlSeedw _ _ => none
  | .tdset _ _ _ _ => none
  | .tdget _ _ _ _ => none
  | .tdinv _ _ _ => none
  | .vadd _ _ _ _ _ _ => none
  | .vsub _ _ _ _ _ _ => none
  | .vmul _ _ _ _ _ _ => none
  | .vdiv _ _ _ _ _ _ => none
  | .vmin _ _ _ _ _ _ => none
  | .vmax _ _ _ _ _ _ => none
  | .vaddS _ _ _ _ _ _ => none
  | .vsubS _ _ _ _ _ _ => none
  | .vand _ _ _ _ _ _ => none
  | .vor _ _ _ _ _ _ => none
  | .vxor _ _ _ _ _ _ => none
  | .vshl _ _ _ _ _ _ => none
  | .vshr _ _ _ _ _ _ => none
  | .vabs _ _ _ _ _ => none
  | .vneg _ _ _ _ _ => none
  | .vmov _ _ _ _ _ => none
  | .vfmaF32 _ _ _ _ _ _ => none
  | .vfmaBf16 _ _ _ _ _ _ => none
  | .vsel _ _ _ _ _ _ => none
  | .vcmp _ _ _ _ _ _ _ => none
  | .vcmpq _ _ _ _ _ _ => none
  | .vbcast _ _ _ _ _ => none
  | .vget _ _ _ _ _ => none
  | .vset _ _ _ _ _ _ => none
  | .mand _ _ _ _ => none
  | .mor _ _ _ _ => none
  | .mxor _ _ _ _ => none
  | .mandn _ _ _ _ => none
  | .vcvt _ _ _ _ _ _ => none
  | .vqnt _ _ _ _ _ _ => none
  | .vdqnt _ _ _ _ _ _ => none
  | .vbamax _ _ _ _ _ _ => none
  | .vrsum _ _ _ _ _ => none
  | .vrmax _ _ _ _ _ => none
  | .vrmin _ _ _ _ _ => none
  | .vscan _ _ _ _ _ => none
  | .vperm _ _ _ _ _ _ => none
  | .vrot _ _ _ _ _ _ => none
  | .vexp2 _ _ _ _ _ => none
  | .vlog2 _ _ _ _ _ => none
  | .vrcp _ _ _ _ _ => none
  | .vrsqrt _ _ _ _ _ => none
  | .vsqrt _ _ _ _ _ => none
  | .vtanh _ _ _ _ _ => none
  | .mcall _ _ _ _ _ => none
  | .mwait _ _ => none
  | .mstat _ _ _ => none
  | .mpset _ _ _ => none
  | .mpget _ _ _ => none
  | .mucw _ _ _ => none
  | .mucwT _ _ _ => none
  | .mav _ _ _ _ => none
  | .mva _ _ _ _ => none
  | .ldN _ _ _ _ _ _ => none
  | .ldI _ _ _ _ _ _ => none
  | .st _ _ _ _ _ _ => none
  | .ldnN _ _ _ _ _ _ => none
  | .ldnI _ _ _ _ _ _ => none
  | .stn _ _ _ _ _ _ => none
  | .vld _ _ _ _ _ _ => none
  | .vst _ _ _ _ _ _ => none
  | .vldn _ _ _ _ _ _ => none
  | .vstn _ _ _ _ _ _ => none
  | .vlds _ _ _ _ _ _ => none
  | .vsts _ _ _ _ _ _ => none
  | .vgth _ _ _ _ _ _ => none
  | .vsct _ _ _ _ _ _ => none
  | .vgthn _ _ _ _ _ _ => none
  | .vsctn _ _ _ _ _ _ => none
  | .vldx _ _ _ _ _ _ => none
  | .aaddI32 _ _ _ _ _ _ => none
  | .aaddI64 _ _ _ _ _ _ => none
  | .aaddF32 _ _ _ _ _ _ => none
  | .amaxI32 _ _ _ _ _ _ => none
  | .amaxF32 _ _ _ _ _ _ => none
  | .acas _ _ _ _ _ _ => none
  | .amaxrrI32 _ _ _ _ _ _ => none
  | .amaxrrF32 _ _ _ _ _ _ => none
  | .fence _ _ _ _ _ => none
  | .cpy _ _ _ _ _ _ => none
  | .cpyf _ _ _ _ _ _ => none
  | .rwait _ _ _ => none
  | .rrel _ _ => none
  | .rpub _ _ _ => none
  | .chsend _ _ _ _ => none
  | .chrecv _ _ _ => none
  | .waita _ _ _ _ _ _ _ => none
  | .bankcfg _ _ => none
  | .gstep _ _ => none
  | .bcast _ _ _ => none
  | .latch _ _ _ => none
  | .deadl _ _ => none
  | .deadlF _ _ => none
  | .deadlXp _ _ _ => none
  | .uopMma _ _ _ _ _ _ _ => none
  | .uopLdb _ _ => none
  | .uopZacc _ _ => none
  | .uopStacc _ _ _ _ _ => none
  | .uopScale _ _ => none
  | .uopSetc _ _ _ _ => none
  | .uopAddc _ _ _ => none
  | .uopAddci _ _ _ => none
  | .uopLoop _ _ _ _ _ => none
  | .uopWtile _ _ => none
  | .uopWflag _ _ _ => none
  | .uopSignal _ _ _ _ => none
  | .virgaAdd d s t => some ⟨0x01, d, s, t, 0⟩
  | .virgaSub d s t => some ⟨0x02, d, s, t, 0⟩
  | .virgaMul d s t => some ⟨0x03, d, s, t, 0⟩
  | .virgaAnd d s t => some ⟨0x04, d, s, t, 0⟩
  | .virgaOr d s t => some ⟨0x05, d, s, t, 0⟩
  | .virgaXor d s t => some ⟨0x06, d, s, t, 0⟩
  | .virgaShl d s t => some ⟨0x07, d, s, t, 0⟩
  | .virgaShr d s t => some ⟨0x08, d, s, t, 0⟩
  | .virgaSra d s t => some ⟨0x09, d, s, t, 0⟩
  | .virgaSlt d s t => some ⟨0x0A, d, s, t, 0⟩
  | .virgaSltu d s t => some ⟨0x0B, d, s, t, 0⟩
  | .virgaAddi d s i => some ⟨0x0C, d, s, (i.extractLsb' 11 5), (i.extractLsb' 0 11)⟩
  | .virgaAndi d s i => some ⟨0x0D, d, s, (i.extractLsb' 11 5), (i.extractLsb' 0 11)⟩
  | .virgaOri d s i => some ⟨0x0E, d, s, (i.extractLsb' 11 5), (i.extractLsb' 0 11)⟩
  | .virgaXori d s i => some ⟨0x0F, d, s, (i.extractLsb' 11 5), (i.extractLsb' 0 11)⟩
  | .virgaShli d s i => some ⟨0x10, d, s, 0, (0#5 ++ i)⟩
  | .virgaShri d s i => some ⟨0x11, d, s, 0, (0#5 ++ i)⟩
  | .virgaSrai d s i => some ⟨0x12, d, s, 0, (0#5 ++ i)⟩
  | .virgaSlti d s i => some ⟨0x13, d, s, (i.extractLsb' 11 5), (i.extractLsb' 0 11)⟩
  | .virgaLis d i => some ⟨0x14, d, 0, (i.extractLsb' 11 5), (i.extractLsb' 0 11)⟩
  | .virgaLd d s i => some ⟨0x15, d, s, (i.extractLsb' 11 5), (i.extractLsb' 0 11)⟩
  | .virgaLw d s i => some ⟨0x16, d, s, (i.extractLsb' 11 5), (i.extractLsb' 0 11)⟩
  | .virgaSt d s i => some ⟨0x17, d, s, (i.extractLsb' 11 5), (i.extractLsb' 0 11)⟩
  | .virgaSw d s i => some ⟨0x18, d, s, (i.extractLsb' 11 5), (i.extractLsb' 0 11)⟩
  | .virgaBeq s t o => some ⟨0x19, s, t, (o.extractLsb' 11 5), (o.extractLsb' 0 11)⟩
  | .virgaBne s t o => some ⟨0x1A, s, t, (o.extractLsb' 11 5), (o.extractLsb' 0 11)⟩
  | .virgaBlt s t o => some ⟨0x1B, s, t, (o.extractLsb' 11 5), (o.extractLsb' 0 11)⟩
  | .virgaBge s t o => some ⟨0x1C, s, t, (o.extractLsb' 11 5), (o.extractLsb' 0 11)⟩
  | .virgaBltu s t o => some ⟨0x1D, s, t, (o.extractLsb' 11 5), (o.extractLsb' 0 11)⟩
  | .virgaBgeu s t o => some ⟨0x1E, s, t, (o.extractLsb' 11 5), (o.extractLsb' 0 11)⟩
  | .virgaJ o => some ⟨0x1F, (o.extractLsb' 21 5), (o.extractLsb' 16 5), (o.extractLsb' 11 5), (o.extractLsb' 0 11)⟩
  | .virgaJal o => some ⟨0x20, (o.extractLsb' 21 5), (o.extractLsb' 16 5), (o.extractLsb' 11 5), (o.extractLsb' 0 11)⟩
  | .virgaJr s => some ⟨0x21, 0, s, 0, 0⟩
  | .virgaMfv d n => some ⟨0x22, d, 0, (0#4 ++ n.extractLsb' 11 1), (n.extractLsb' 0 11)⟩
  | .virgaMtv s n => some ⟨0x23, 0, s, (0#4 ++ n.extractLsb' 11 1), (n.extractLsb' 0 11)⟩
  | .virgaEvtake d w => some ⟨0x25, d, 0, 0, (0#10 ++ BitVec.ofBool w)⟩
  | .virgaTmset p n t => some ⟨0x26, p, n, t, 0⟩
  | .virgaPdcrd d s => some ⟨0x27, d, s, 0, 0⟩
  | .virgaPdcwr s t f => some ⟨0x28, 0, s, t, (0#8 ++ f)⟩
  | .virgaPdcfail d s => some ⟨0x29, d, s, 0, 0⟩
  | .virgaRetx c s t => some ⟨0x2A, c, s, t, 0⟩
  | .virgaRetxm m s t => some ⟨0x2B, m, s, t, 0⟩
  | .virgaLosnext d s r => some ⟨0x2C, d, s, 0, (0#10 ++ BitVec.ofBool r)⟩
  | .virgaPsrd d s t => some ⟨0x2D, d, s, t, 0⟩
  | .virgaPsdis s t => some ⟨0x2E, 0, s, t, 0⟩
  | .virgaPscnt d s => some ⟨0x2F, d, s, 0, 0⟩
  | .virgaRcbrd d s => some ⟨0x30, d, s, 0, 0⟩
  | .virgaBmrd d s t => some ⟨0x31, d, s, t, 0⟩
  | .virgaWinrd d s => some ⟨0x32, d, s, 0, 0⟩
  | .virgaPeerrd d s => some ⟨0x33, d, s, 0, 0⟩
  | .virgaEprd d s => some ⟨0x34, d, s, 0, 0⟩
  | .virgaHev s t => some ⟨0x35, 0, s, t, 0⟩
  | .perstAssert => none
  | .startupPhase1 => none
  | .startupPhase2 => none
  | .startupPhase3 => none
  | .startupPhase4 => none
  | .startupPhase5 => none
  | .configRequest => none
  | .sidebandFirmwareWrite => none
  | .thermtrip => none
  | .throttleStep => none
  | .cxlLinkDown => none
  | .cxlResetComplete => none
  | .lossOfLight => none
  | .linkRetrained => none
  | .ptpExchangeComplete => none
  | .pauseFrameReceived => none
  | .rmaWriteStreamArrival => none
  | .taggedSendArrival => none
  | .productionQueueDrain => none
  | .remoteReadArrival => none
  | .remoteWriteArrival => none
  | .remoteAtomicArrival => none
  | .ackReceived => none
  | .nackReceived => none
  | .pdcCloseAckReceived => none
  | .ackCoalesceTimeout => none
  | .rtoExpiry => none
  | .parkedBackoffExpiry => none
  | .ccsigTimer => none
  | .packetTransmit => none
  | .retxSend => none
  | .pdcIdleTimeout => none
  | .pdcCloseTimeout => none
  | .keyEpochSwitch => none
  | .keyEpochGraceEnd => none
  | .rcbReopenDelayEnd => none
  | .windowRevokeComplete => none
  | .registerWrite => none
  | .gctlFeat => none
  | .gctlEn => none
  | .gctlEven => none
  | .evconsWrite => none
  | .sempoke => none
  | .qnotify => none
  | .qcfgEnable => none
  | .qcfgDisable => none
  | .qcfgResume => none
  | .commandFetch => none
  | .stampRefetch => none
  | .bar2Access => none
  | .spdmGetVersion => none
  | .spdmGetCapabilities => none
  | .spdmNegotiateAlgorithms => none
  | .spdmGetDigests => none
  | .spdmGetCertificate => none
  | .spdmChallenge => none
  | .spdmGetMeasurements => none
  | .launch => none
  | .hcopy => none
  | .signal => none
  | .waitsem => none
  | .waitsemReevaluate => none
  | .waitsemTimeout => none
  | .ctxnew => none
  | .ctxkill => none
  | .ctxkillStageDrained => none
  | .ctxRemoveStuck => none
  | .ctxpreemptYield => none
  | .ctxpreemptScan => none
  | .graceWindowEnd => none
  | .saveComplete => none
  | .saveTimeout => none
  | .imgrestore => none
  | .restoreComplete => none
  | .mapsetInvalidate => none
  | .mapsetReplaceRoot => none
  | .rcbsetOpen => none
  | .rcbsetClose => none
  | .rcbsetExport => none
  | .rcbsetImport => none
  | .peersetEntry => none
  | .peersetMcastList => none
  | .peersetNextKey => none
  | .peersetCloseFailed => none
  | .peersetRepoint => none
  | .pathset => none
  | .winset => none
  | .winrevoke => none
  | .featurePowerLimit => none
  | .featurePtpPort => none
  | .featureUdpPort => none
  | .featureWatchdog => none
  | .featureCxlReset => none
  | .featureRemapReload => none
  | .cntset => none
  | .fwload => none
  | .counterWrap => none
  | .ctxHang => none
  | .teamPlace => none
  | .swapTest => none
  | .swapComplete => none
  | .waitMonitorPoll => none
  | .gstepComplete => none
  | .broadcastBeat => none
  | .latchComplete => none
  | .wcsLineDrainTimeout => none
  | .copyStart => none
  | .copyComplete => none
  | .matrixCommandStart => none
  | .stalledGroupCommit => none
  | .deferredTrap => none
  | .eccUncorrectable => none
  | .eccCorrected => none
  | .parityError => none
  | .remapTableUe => none
  | .virgaTimerExpiry => none
  | .gtstepWrite => none
  | .gtrateWrite => none
  | .uopRet => none
  | .uopMnop => none
  | .virgaNop => some ⟨0x00, 0, 0, 0, 0⟩
  | .virgaVret => some ⟨0x24, 0, 0, 0, 0⟩
  | .accessResponseReturn => none
  | .hcopyComplete => none
  | .pdcCloseRequestReceived => none
  | .contextKeyTransfer => none
  | .unassignedOpcode => none
  | .virgaUnassignedOpcode => none

/-- The 32-bit word of a Virga instruction. -/
def encodeVirga (i : Instr) : Option (BitVec 32) := (encodeVirgaFields i).map virgaWord

/-- The fields of a micro-operation (R382). -/
structure UopFields where
  op : BitVec 6
  ha : BitVec 2
  hb : BitVec 2
  f1 : BitVec 4
  f2 : BitVec 4
  f3 : BitVec 4
  t : BitVec 6
  tr : BitVec 4
  imm : BitVec 32
  deriving DecidableEq, Repr

/-- The fields of a micro-operation word (R382). -/
def uopFieldsOf (w : BitVec 64) : UopFields :=
  ⟨w.extractLsb' 58 6, w.extractLsb' 56 2, w.extractLsb' 54 2, w.extractLsb' 50 4, w.extractLsb' 46 4,
    w.extractLsb' 42 4, w.extractLsb' 36 6, w.extractLsb' 32 4, w.extractLsb' 0 32⟩

/-- The word of micro-operation fields (R382). -/
def uopWord (x : UopFields) : BitVec 64 := x.op ++ x.ha ++ x.hb ++ x.f1 ++ x.f2 ++ x.f3 ++ x.t ++ x.tr ++ x.imm

/-- The fields of a micro-operation as an instruction, before the operand checks of Instr.wf (R384). -/
def decodeUopRaw (x : UopFields) : Except Reject Instr :=
  let noH := x.ha = 0 ∧ x.hb = 0
  let noT := x.t = 0 ∧ x.tr = 0
  let bad : Except Reject Instr := .error .reservedField
  match x.op.toNat with
  | 0x00 => if noH ∧ x.f1 = 0 ∧ x.f2 = 0 ∧ x.f3 = 0 ∧ noT ∧ x.imm = 0 then .ok .uopRet else bad
  | 0x01 => if x.f3 = 0 ∧ x.imm.extractLsb' 1 31 = 0 then .ok (.uopMma x.ha x.hb x.f1 x.f2 x.t x.tr (x.imm.getLsbD 0)) else bad
  | 0x02 => if x.ha = 0 ∧ x.f1 = 0 ∧ x.f3 = 0 ∧ noT ∧ x.imm = 0 then .ok (.uopLdb x.hb x.f2) else bad
  | 0x03 => if noH ∧ x.f1 = 0 ∧ x.f2 = 0 ∧ x.f3 = 0 ∧ x.imm = 0 then .ok (.uopZacc x.t x.tr) else bad
  | 0x04 => if x.hb = 0 ∧ x.f2 = 0 ∧ x.f3 = 0 ∧ x.imm.extractLsb' 1 31 = 0 then .ok (.uopStacc x.ha x.f1 x.t x.tr (x.imm.getLsbD 0)) else bad
  | 0x05 => if noH ∧ x.f2 = 0 ∧ x.f3 = 0 ∧ noT then .ok (.uopScale x.f1 x.imm) else bad
  | 0x06 => if noH ∧ x.f3 = 0 ∧ noT ∧ x.imm.extractLsb' 18 14 = 0 then
      .ok (.uopSetc x.f1 x.f2 (x.imm.extractLsb' 16 2) (x.imm.extractLsb' 0 16)) else bad
  | 0x07 => if noH ∧ noT ∧ x.imm = 0 then .ok (.uopAddc x.f1 x.f2 x.f3) else bad
  | 0x08 => if noH ∧ x.f2 = 0 ∧ x.f3 = 0 ∧ noT ∧ x.imm.extractLsb' 18 14 = 0 then
      .ok (.uopAddci x.f1 (x.imm.extractLsb' 16 2) (x.imm.extractLsb' 0 16)) else bad
  | 0x09 => if noH ∧ x.f3 = 0 ∧ noT ∧ x.f1.extractLsb' 2 2 = 0 ∧ x.imm.extractLsb' 28 3 = 0 ∧ x.imm.extractLsb' 12 4 = 0 then
      .ok (.uopLoop (x.f1.extractLsb' 0 2) x.f2 (x.imm.getLsbD 31) (x.imm.extractLsb' 16 12) (x.imm.extractLsb' 0 12)) else bad
  | 0x0A => if noH ∧ x.f2 = 0 ∧ x.f3 = 0 ∧ noT ∧ x.imm.extractLsb' 5 27 = 0 then .ok (.uopWtile x.f1 (x.imm.extractLsb' 0 5)) else bad
  | 0x0B => if noH ∧ x.f3 = 0 ∧ noT ∧ x.imm.extractLsb' 2 30 = 0 then .ok (.uopWflag x.f1 x.f2 (x.imm.extractLsb' 0 2)) else bad
  | 0x0C => if noH ∧ x.f3 = 0 ∧ noT ∧ x.imm.extractLsb' 6 26 = 0 then
      .ok (.uopSignal x.f1 x.f2 (x.imm.getLsbD 5) (x.imm.extractLsb' 0 5)) else bad
  | 0x0D => if noH ∧ x.f1 = 0 ∧ x.f2 = 0 ∧ x.f3 = 0 ∧ noT ∧ x.imm = 0 then .ok .uopMnop else bad
  | _ => .error .unassignedOpcode

/-- The micro-operation of a 64-bit word (R382, R384); a rejection is the MUCODE fault of R384. -/
def decodeUop (w : BitVec 64) : Except Reject Instr :=
  match decodeUopRaw (uopFieldsOf w) with
  | .ok i => if i.wf then .ok i else .error .operand
  | .error e => .error e


/-- The fields of a micro-operation (R382, R384). -/
def encodeUopFields (i : Instr) : Option UopFields :=
  match i with
  | .nop _ => none
  | .add _ _ _ _ => none
  | .sub _ _ _ _ => none
  | .mul _ _ _ _ => none
  | .mulhI64 _ _ _ _ => none
  | .mulhN64 _ _ _ _ => none
  | .divI64 _ _ _ _ => none
  | .divN64 _ _ _ _ => none
  | .remI64 _ _ _ _ => none
  | .remN64 _ _ _ _ => none
  | .and _ _ _ _ => none
  | .or _ _ _ _ => none
  | .xor _ _ _ _ => none
  | .shl _ _ _ _ => none
  | .shrI64 _ _ _ _ => none
  | .shrN64 _ _ _ _ => none
  | .minI64 _ _ _ _ => none
  | .minN64 _ _ _ _ => none
  | .maxI64 _ _ _ _ => none
  | .maxN64 _ _ _ _ => none
  | .addI64S _ _ _ _ => none
  | .addN64S _ _ _ _ => none
  | .subI64S _ _ _ _ => none
  | .subN64S _ _ _ _ => none
  | .addi _ _ _ _ => none
  | .andi _ _ _ _ => none
  | .ori _ _ _ _ => none
  | .xori _ _ _ _ => none
  | .shli _ _ _ _ => none
  | .shriI64 _ _ _ _ => none
  | .shriN64 _ _ _ _ => none
  | .li _ _ _ => none
  | .lis _ _ _ => none
  | .sel _ _ _ _ _ => none
  | .cmp _ _ _ _ _ => none
  | .cmpi _ _ _ _ _ => none
  | .cmpq _ _ _ _ => none
  | .fadd _ _ _ _ => none
  | .fsub _ _ _ _ => none
  | .fmul _ _ _ _ => none
  | .fdiv _ _ _ _ => none
  | .fmin _ _ _ _ => none
  | .fmax _ _ _ _ => none
  | .fma _ _ _ _ _ => none
  | .fcmp _ _ _ _ _ => none
  | .fcmpq _ _ _ _ => none
  | .fcvt _ _ _ _ _ => none
  | .clz _ _ _ => none
  | .popc _ _ _ => none
  | .pand _ _ _ _ => none
  | .por _ _ _ _ => none
  | .pxor _ _ _ _ => none
  | .pandn _ _ _ _ => none
  | .sext _ _ _ _ => none
  | .zext _ _ _ _ => none
  | .br _ _ => none
  | .call _ _ => none
  | .brq _ _ => none
  | .brqn _ _ => none
  | .brr _ _ => none
  | .callr _ _ => none
  | .loop _ _ _ => none
  | .lcset _ _ _ => none
  | .barw _ _ => none
  | .yield _ => none
  | .halt _ => none
  | .eret _ => none
  | .cqclr _ => none
  | .syscall _ _ => none
  | .mfsr _ _ _ => none
  | .mtsr _ _ _ => none
  | .mtsrTrapcauseHost _ _ => none
  | .mtsrFmtctlSeedw _ _ => none
  | .tdset _ _ _ _ => none
  | .tdget _ _ _ _ => none
  | .tdinv _ _ _ => none
  | .vadd _ _ _ _ _ _ => none
  | .vsub _ _ _ _ _ _ => none
  | .vmul _ _ _ _ _ _ => none
  | .vdiv _ _ _ _ _ _ => none
  | .vmin _ _ _ _ _ _ => none
  | .vmax _ _ _ _ _ _ => none
  | .vaddS _ _ _ _ _ _ => none
  | .vsubS _ _ _ _ _ _ => none
  | .vand _ _ _ _ _ _ => none
  | .vor _ _ _ _ _ _ => none
  | .vxor _ _ _ _ _ _ => none
  | .vshl _ _ _ _ _ _ => none
  | .vshr _ _ _ _ _ _ => none
  | .vabs _ _ _ _ _ => none
  | .vneg _ _ _ _ _ => none
  | .vmov _ _ _ _ _ => none
  | .vfmaF32 _ _ _ _ _ _ => none
  | .vfmaBf16 _ _ _ _ _ _ => none
  | .vsel _ _ _ _ _ _ => none
  | .vcmp _ _ _ _ _ _ _ => none
  | .vcmpq _ _ _ _ _ _ => none
  | .vbcast _ _ _ _ _ => none
  | .vget _ _ _ _ _ => none
  | .vset _ _ _ _ _ _ => none
  | .mand _ _ _ _ => none
  | .mor _ _ _ _ => none
  | .mxor _ _ _ _ => none
  | .mandn _ _ _ _ => none
  | .vcvt _ _ _ _ _ _ => none
  | .vqnt _ _ _ _ _ _ => none
  | .vdqnt _ _ _ _ _ _ => none
  | .vbamax _ _ _ _ _ _ => none
  | .vrsum _ _ _ _ _ => none
  | .vrmax _ _ _ _ _ => none
  | .vrmin _ _ _ _ _ => none
  | .vscan _ _ _ _ _ => none
  | .vperm _ _ _ _ _ _ => none
  | .vrot _ _ _ _ _ _ => none
  | .vexp2 _ _ _ _ _ => none
  | .vlog2 _ _ _ _ _ => none
  | .vrcp _ _ _ _ _ => none
  | .vrsqrt _ _ _ _ _ => none
  | .vsqrt _ _ _ _ _ => none
  | .vtanh _ _ _ _ _ => none
  | .mcall _ _ _ _ _ => none
  | .mwait _ _ => none
  | .mstat _ _ _ => none
  | .mpset _ _ _ => none
  | .mpget _ _ _ => none
  | .mucw _ _ _ => none
  | .mucwT _ _ _ => none
  | .mav _ _ _ _ => none
  | .mva _ _ _ _ => none
  | .ldN _ _ _ _ _ _ => none
  | .ldI _ _ _ _ _ _ => none
  | .st _ _ _ _ _ _ => none
  | .ldnN _ _ _ _ _ _ => none
  | .ldnI _ _ _ _ _ _ => none
  | .stn _ _ _ _ _ _ => none
  | .vld _ _ _ _ _ _ => none
  | .vst _ _ _ _ _ _ => none
  | .vldn _ _ _ _ _ _ => none
  | .vstn _ _ _ _ _ _ => none
  | .vlds _ _ _ _ _ _ => none
  | .vsts _ _ _ _ _ _ => none
  | .vgth _ _ _ _ _ _ => none
  | .vsct _ _ _ _ _ _ => none
  | .vgthn _ _ _ _ _ _ => none
  | .vsctn _ _ _ _ _ _ => none
  | .vldx _ _ _ _ _ _ => none
  | .aaddI32 _ _ _ _ _ _ => none
  | .aaddI64 _ _ _ _ _ _ => none
  | .aaddF32 _ _ _ _ _ _ => none
  | .amaxI32 _ _ _ _ _ _ => none
  | .amaxF32 _ _ _ _ _ _ => none
  | .acas _ _ _ _ _ _ => none
  | .amaxrrI32 _ _ _ _ _ _ => none
  | .amaxrrF32 _ _ _ _ _ _ => none
  | .fence _ _ _ _ _ => none
  | .cpy _ _ _ _ _ _ => none
  | .cpyf _ _ _ _ _ _ => none
  | .rwait _ _ _ => none
  | .rrel _ _ => none
  | .rpub _ _ _ => none
  | .chsend _ _ _ _ => none
  | .chrecv _ _ _ => none
  | .waita _ _ _ _ _ _ _ => none
  | .bankcfg _ _ => none
  | .gstep _ _ => none
  | .bcast _ _ _ => none
  | .latch _ _ _ => none
  | .deadl _ _ => none
  | .deadlF _ _ => none
  | .deadlXp _ _ _ => none
  | .uopMma ha hb f1 f2 t tr keepB => some ⟨0x01, ha, hb, f1, f2, 0, t, tr, 0#31 ++ BitVec.ofBool keepB⟩
  | .uopLdb hb f2 => some ⟨0x02, 0, hb, 0, f2, 0, 0, 0, 0⟩
  | .uopZacc t tr => some ⟨0x03, 0, 0, 0, 0, 0, t, tr, 0⟩
  | .uopStacc ha f1 t tr z => some ⟨0x04, ha, 0, f1, 0, 0, t, tr, 0#31 ++ BitVec.ofBool z⟩
  | .uopScale f1 imm => some ⟨0x05, 0, 0, f1, 0, 0, 0, 0, imm⟩
  | .uopSetc f1 f2 j v => some ⟨0x06, 0, 0, f1, f2, 0, 0, 0, 0#14 ++ j ++ v⟩
  | .uopAddc f1 f2 f3 => some ⟨0x07, 0, 0, f1, f2, f3, 0, 0, 0⟩
  | .uopAddci f1 j v => some ⟨0x08, 0, 0, f1, 0, 0, 0, 0, 0#14 ++ j ++ v⟩
  | .uopLoop n f2 r count target => some ⟨0x09, 0, 0, 0#2 ++ n, f2, 0, 0, 0, BitVec.ofBool r ++ 0#3 ++ count ++ 0#4 ++ target⟩
  | .uopWtile f1 ring => some ⟨0x0A, 0, 0, f1, 0, 0, 0, 0, 0#27 ++ ring⟩
  | .uopWflag f1 f2 cc => some ⟨0x0B, 0, 0, f1, f2, 0, 0, 0, 0#30 ++ cc⟩
  | .uopSignal f1 f2 kind ring => some ⟨0x0C, 0, 0, f1, f2, 0, 0, 0, 0#26 ++ BitVec.ofBool kind ++ ring⟩
  | .virgaAdd _ _ _ => none
  | .virgaSub _ _ _ => none
  | .virgaMul _ _ _ => none
  | .virgaAnd _ _ _ => none
  | .virgaOr _ _ _ => none
  | .virgaXor _ _ _ => none
  | .virgaShl _ _ _ => none
  | .virgaShr _ _ _ => none
  | .virgaSra _ _ _ => none
  | .virgaSlt _ _ _ => none
  | .virgaSltu _ _ _ => none
  | .virgaAddi _ _ _ => none
  | .virgaAndi _ _ _ => none
  | .virgaOri _ _ _ => none
  | .virgaXori _ _ _ => none
  | .virgaShli _ _ _ => none
  | .virgaShri _ _ _ => none
  | .virgaSrai _ _ _ => none
  | .virgaSlti _ _ _ => none
  | .virgaLis _ _ => none
  | .virgaLd _ _ _ => none
  | .virgaLw _ _ _ => none
  | .virgaSt _ _ _ => none
  | .virgaSw _ _ _ => none
  | .virgaBeq _ _ _ => none
  | .virgaBne _ _ _ => none
  | .virgaBlt _ _ _ => none
  | .virgaBge _ _ _ => none
  | .virgaBltu _ _ _ => none
  | .virgaBgeu _ _ _ => none
  | .virgaJ _ => none
  | .virgaJal _ => none
  | .virgaJr _ => none
  | .virgaMfv _ _ => none
  | .virgaMtv _ _ => none
  | .virgaEvtake _ _ => none
  | .virgaTmset _ _ _ => none
  | .virgaPdcrd _ _ => none
  | .virgaPdcwr _ _ _ => none
  | .virgaPdcfail _ _ => none
  | .virgaRetx _ _ _ => none
  | .virgaRetxm _ _ _ => none
  | .virgaLosnext _ _ _ => none
  | .virgaPsrd _ _ _ => none
  | .virgaPsdis _ _ => none
  | .virgaPscnt _ _ => none
  | .virgaRcbrd _ _ => none
  | .virgaBmrd _ _ _ => none
  | .virgaWinrd _ _ => none
  | .virgaPeerrd _ _ => none
  | .virgaEprd _ _ => none
  | .virgaHev _ _ => none
  | .perstAssert => none
  | .startupPhase1 => none
  | .startupPhase2 => none
  | .startupPhase3 => none
  | .startupPhase4 => none
  | .startupPhase5 => none
  | .configRequest => none
  | .sidebandFirmwareWrite => none
  | .thermtrip => none
  | .throttleStep => none
  | .cxlLinkDown => none
  | .cxlResetComplete => none
  | .lossOfLight => none
  | .linkRetrained => none
  | .ptpExchangeComplete => none
  | .pauseFrameReceived => none
  | .rmaWriteStreamArrival => none
  | .taggedSendArrival => none
  | .productionQueueDrain => none
  | .remoteReadArrival => none
  | .remoteWriteArrival => none
  | .remoteAtomicArrival => none
  | .ackReceived => none
  | .nackReceived => none
  | .pdcCloseAckReceived => none
  | .ackCoalesceTimeout => none
  | .rtoExpiry => none
  | .parkedBackoffExpiry => none
  | .ccsigTimer => none
  | .packetTransmit => none
  | .retxSend => none
  | .pdcIdleTimeout => none
  | .pdcCloseTimeout => none
  | .keyEpochSwitch => none
  | .keyEpochGraceEnd => none
  | .rcbReopenDelayEnd => none
  | .windowRevokeComplete => none
  | .registerWrite => none
  | .gctlFeat => none
  | .gctlEn => none
  | .gctlEven => none
  | .evconsWrite => none
  | .sempoke => none
  | .qnotify => none
  | .qcfgEnable => none
  | .qcfgDisable => none
  | .qcfgResume => none
  | .commandFetch => none
  | .stampRefetch => none
  | .bar2Access => none
  | .spdmGetVersion => none
  | .spdmGetCapabilities => none
  | .spdmNegotiateAlgorithms => none
  | .spdmGetDigests => none
  | .spdmGetCertificate => none
  | .spdmChallenge => none
  | .spdmGetMeasurements => none
  | .launch => none
  | .hcopy => none
  | .signal => none
  | .waitsem => none
  | .waitsemReevaluate => none
  | .waitsemTimeout => none
  | .ctxnew => none
  | .ctxkill => none
  | .ctxkillStageDrained => none
  | .ctxRemoveStuck => none
  | .ctxpreemptYield => none
  | .ctxpreemptScan => none
  | .graceWindowEnd => none
  | .saveComplete => none
  | .saveTimeout => none
  | .imgrestore => none
  | .restoreComplete => none
  | .mapsetInvalidate => none
  | .mapsetReplaceRoot => none
  | .rcbsetOpen => none
  | .rcbsetClose => none
  | .rcbsetExport => none
  | .rcbsetImport => none
  | .peersetEntry => none
  | .peersetMcastList => none
  | .peersetNextKey => none
  | .peersetCloseFailed => none
  | .peersetRepoint => none
  | .pathset => none
  | .winset => none
  | .winrevoke => none
  | .featurePowerLimit => none
  | .featurePtpPort => none
  | .featureUdpPort => none
  | .featureWatchdog => none
  | .featureCxlReset => none
  | .featureRemapReload => none
  | .cntset => none
  | .fwload => none
  | .counterWrap => none
  | .ctxHang => none
  | .teamPlace => none
  | .swapTest => none
  | .swapComplete => none
  | .waitMonitorPoll => none
  | .gstepComplete => none
  | .broadcastBeat => none
  | .latchComplete => none
  | .wcsLineDrainTimeout => none
  | .copyStart => none
  | .copyComplete => none
  | .matrixCommandStart => none
  | .stalledGroupCommit => none
  | .deferredTrap => none
  | .eccUncorrectable => none
  | .eccCorrected => none
  | .parityError => none
  | .remapTableUe => none
  | .virgaTimerExpiry => none
  | .gtstepWrite => none
  | .gtrateWrite => none
  | .uopRet => some ⟨0x00, 0, 0, 0, 0, 0, 0, 0, 0⟩
  | .uopMnop => some ⟨0x0D, 0, 0, 0, 0, 0, 0, 0, 0⟩
  | .virgaNop => none
  | .virgaVret => none
  | .accessResponseReturn => none
  | .hcopyComplete => none
  | .pdcCloseRequestReceived => none
  | .contextKeyTransfer => none
  | .unassignedOpcode => none
  | .virgaUnassignedOpcode => none

/-- The 64-bit word of a micro-operation. -/
def encodeUop (i : Instr) : Option (BitVec 64) := (encodeUopFields i).map uopWord

/-- The instruction that the decoder reads from the bits of an opcode-table row: a 32-bit Virga word, a 64-bit
micro-operation word, or otherwise a 32-bit Sikan slot word with the lent byte in bits 39 to 32. -/
def decodeTableWord (nbits w : Nat) : Option Instr :=
  if nbits ≤ 32 then (decodeVirga (BitVec.ofNat 32 w)).toOption
  else if nbits ≤ 40 then (decodeSikan (BitVec.ofNat 32 w) (BitVec.ofNat 8 (w / 2 ^ 32))).toOption
  else (decodeUop (BitVec.ofNat 64 w)).toOption

/-- The bits of an instruction, after their number: a 32-bit Virga word, a Sikan slot word with its lent byte above it, a 64-bit
micro-operation (R264, R266, R382, R398); an event has none. -/
def encode (i : Instr) : Option (Nat × Nat) :=
  match encodeVirga i, encodeSlot i, encodeUop i with
  | some w, _, _ => some (32, w.toNat)
  | none, some x, _ => some (40, (slotWord x).toNat + 2 ^ 32 * x.l.toNat)
  | none, none, some w => some (64, w.toNat)
  | none, none, none => none

end Sys2Proof
end

