-- ==== Sys2Proof/Machine/Desc.lean ====
section
/-!
DEFINITION. Sys2Proof/Machine/Desc.lean: tensor descriptors (R176 to R182, R431), element addresses with wrap and clipping
(R178, R179, R185), order patterns (R77, R180), and the element accesses of engines (R183, R260).
-/
namespace Sys2Proof.Machine

/-! ### Fields (R177) -/

/-- FMT. -/
def dFmt (d : Desc) : Nat := (d.extractLsb' 448 4).toNat
/-- SPACE. -/
def dSpace (d : Desc) : Nat := (d.extractLsb' 458 2).toNat
/-- Rank. -/
def dRank (d : Desc) : Nat := (d.extractLsb' 456 2).toNat + 1
/-- SCALE. -/
def dScale (d : Desc) : BitVec 32 := d.extractLsb' 416 32
/-- EXT of a dimension. -/
def dExt (d : Desc) (i : Nat) : Nat := (d.extractLsb' (64 + 16 * i) 16).toNat
/-- TILE of a dimension. -/
def dTile (d : Desc) (i : Nat) : Nat := (d.extractLsb' (320 + 16 * i) 16).toNat
/-- STRIDE of dimension 1, 2 or 3; dimension 0 is contiguous. -/
def dStride (d : Desc) (i : Nat) : Int := if i = 0 then 0 else (d.extractLsb' (64 + 64 * i) 64).toInt
/-- CIRC of a dimension. -/
def dCirc (d : Desc) (i : Nat) : Bool := d.getLsbD (460 + i)
/-- BASE. -/
def dBase (d : Desc) : BitVec 64 := d.setWidth 64
/-- VALID. -/
def dValid (d : Desc) : Bool := d.getLsbD 511
/-- GEN. -/
def dGen (d : Desc) : Nat := (d.extractLsb' 480 20).toNat

/-- Bits of an element by format code. -/
def codeBits (fmt : Nat) : Nat :=
  match fmtOfCode fmt with
  | some f => fmtBits f
  | none => 0

/-- Bits of an element of a descriptor. -/
def dBits (d : Desc) : Nat := codeBits (dFmt d)

/-- Elements of a tile. -/
def dTileElems (d : Desc) : Nat := dTile d 0 * dTile d 1 * dTile d 2 * dTile d 3

/-- Bytes of a tile, an E2M1 element counted as half a byte. -/
def dTileBytes (d : Desc) : Nat := dTileElems d * dBits d / 8

/-- The pad value of an element (R179). -/
def dPad (d : Desc) : Nat :=
  let pad := d.extractLsb' 384 32
  if dFmt d = 3 then (pad.signExtend 64).toNat else pad.toNat % 2 ^ dBits d

/-! ### Fields of BASE in SPACE 2 (R180) -/

/-- ORDER. -/
def rsOrder (d : Desc) : Nat := bitsOf (dBase d).toNat 63 56
/-- DMODE. -/
def rsMode (d : Desc) : Nat := bitsOf (dBase d).toNat 55 54
/-- CHSZ. -/
def rsChsz (d : Desc) : Nat := bitsOf (dBase d).toNat 53 52
/-- CONTRIB. -/
def rsContrib (d : Desc) : Nat := bitsOf (dBase d).toNat 51 48
/-- STREAM. -/
def rsStream (d : Desc) : Nat := bitsOf (dBase d).toNat 47 24
/-- TSEND. -/
def rsTsend (d : Desc) : Bool := (dBase d).getLsbD 23
/-- MCAST. -/
def rsMcast (d : Desc) : Bool := (dBase d).getLsbD 16
/-- PEER. -/
def rsPeer (d : Desc) : Nat := (dBase d).toNat % 65536

/-- Bytes of a chunk by CHSZ. -/
def chunkBytes (chsz : Nat) : Nat := 1024 * 2 ^ chsz

/-! ### What TDSET refuses (R178) -/

/-- Are the reserved fields of the map zero? -/
def dReservedZero (d : Desc) : Bool :=
  (d.extractLsb' 500 11) == 0#11 && (d.extractLsb' 464 16) == 0#16 && (d.extractLsb' 452 4) == 0#4

/-- The extents of dimension i obey the rank. -/
def dDimGood (d : Desc) (i : Nat) : Bool :=
  if i < dRank d then dExt d i != 0 && dTile d i != 0
  else dExt d i == 1 && dTile d i == 1 && dStride d i == 0

/-- Does SPACE 2 obey its checks? -/
def dStreamGood (d : Desc) : Bool :=
  bitsOf (dBase d).toNat 22 17 == 0 && dStride d 1 == 0 && dStride d 2 == 0 && dStride d 3 == 0 && rsChsz d != 3 &&
    dTileBytes d % chunkBytes (rsChsz d) == 0 && dTileElems d * dBits d % 8 == 0

/-- Does a descriptor image pass R178? -/
def dGood (d : Desc) : Bool :=
  decide (dFmt d < 14) && dSpace d != 3 && dReservedZero d && allIndex (dDimGood d) 0 4
    && allIndex (fun i => decide ((dStride d i).natAbs < 2 ^ 47)) 1 3
    && allIndex (fun i => !dCirc d i || (decide (i < dRank d) && dSpace d != 2)) 0 4
    && decide (dTileElems d * dBits d ≤ 8 * 262144)
    && (dFmt d != 12 || (dExt d 0 % 2 == 0 && dTile d 0 % 2 == 0))
    && (dScale d == 0 || dFmt d == 12 || dFmt d == 13)
    && (dSpace d != 0 || bitsOf (dBase d).toNat 63 32 == 0)
    && (dSpace d != 1 || bitsOf (dBase d).toNat 63 52 == 0)
    && (dSpace d != 2 || dStreamGood d)

/-! ### The table (R176, R182, R431) -/

/-- The virtual address of a table entry. -/
def tdAddr (s : State) (ctx slot : Nat) : Nat := (getCtx s ctx).tdt.toNat + 64 * slot

/-- The entry as it stands in the table, with the walk that reaches it; the device's own right. `kind` is what INFO
tells. -/
def tdEntry (s : State) (k slot : Nat) (kind : Kind) : Except TrapInfo (Desc × Leaf) × (State → State) :=
  let c := getCell s k
  let va := tdAddr s c.ctx slot
  let x := translate s (.core k) c.ctx va kind false false
  match x.res with
  | .error e => (.error (cellTrap e (BitVec.ofNat 64 va) (kindInfo kind 0)), x.eff)
  | .ok l =>
    let pa := leafPa l va
    if physPoisoned s pa 64 then (.error (cellTrap causePoison (BitVec.ofNat 64 va) 0), x.eff)
    else (.ok (BitVec.ofNat 512 (ofBytes (physBytes s pa 64)), l), x.eff)

/-- Fill the descriptor cache of a core: 256 entries for each context (R176), of which a free choice goes when they are all
taken (log 7). -/
def dcacheFill (s : State) (k ctx slot : Nat) (d : Desc) : State :=
  modCore { s with tick := s.tick + 1 } (keyCore k) fun u =>
    let mine := (tblKeys u.dcache).filter fun e => e / 4096 == ctx
    let t := if mine.length < 256 then u.dcache
      else match mine[Config.choose s.tick 256 % 256]? with
        | some e => tblErase u.dcache e
        | none => u.dcache
    { u with dcache := tblSet none t (dcacheKey ctx slot) (some d) }

/-- Does a handle name a valid entry (R182)? -/
def handleGood (h : BitVec 32) (d : Desc) : Bool := h.toNat / 4096 != 0 && h.toNat / 4096 == dGen d && dValid d

/-- tdt of R12: a cached entry is used without a new check, otherwise the table is read (R431). -/
def tdt (s : State) (k : Nat) (h : BitVec 32) : Except TrapInfo Desc × (State → State) :=
  let slot := h.toNat % 4096
  let bad : TrapInfo := cellTrap causeHandle 0 h.toNat
  if h.toNat / 4096 = 0 then (.error bad, id)
  else
    match tblGet none (getCore s (keyCore k)).dcache (dcacheKey (getCell s k).ctx slot) with
    | some d => (if handleGood h d then .ok d else .error bad, id)
    | none =>
      match tdEntry s k slot .read with
      | (.error t, w) => (.error t, w)
      | (.ok (d, _), w) => (if handleGood h d then .ok d else .error bad, fun s => dcacheFill (w s) k (getCell s k).ctx slot d)

/-- A handle with the descriptors of its SCALE chain (R181, R182). -/
def tdtChain (s : State) (k : Nat) (h : BitVec 32) : Except TrapInfo DescChain × (State → State) :=
  match tdt s k h with
  | (.error t, w) => (.error t, w)
  | (.ok d, w) =>
    if dScale d = 0 then (.ok ⟨d, none, none⟩, w)
    else
      match tdt s k (dScale d) with
      | (.error t, w2) => (.error t, fun s => w2 (w s))
      | (.ok e, w2) =>
        if dScale e = 0 then (.ok ⟨d, some e, none⟩, fun s => w2 (w s))
        else
          match tdt s k (dScale e) with
          | (.error t, w3) => (.error t, fun s => w3 (w2 (w s)))
          | (.ok f, w3) => (.ok ⟨d, some e, some f⟩, fun s => w3 (w2 (w s)))

/-! ### Coordinates (R77, R178, R185, R359) -/

/-- Element coordinates, dimension 0 first. -/
structure Coord where
  x0 : Int
  x1 : Int
  x2 : Int
  x3 : Int
  deriving DecidableEq, Repr

/-- A coordinate by its dimension. -/
def coordAt (x : Coord) : Nat → Int
  | 0 => x.x0
  | 1 => x.x1
  | 2 => x.x2
  | _ => x.x3

/-- Four signed 16-bit coordinates packed in 64 bits. -/
def coordOf (w : BitVec 64) : Coord :=
  ⟨(w.extractLsb' 0 16).toInt, (w.extractLsb' 16 16).toInt, (w.extractLsb' 32 16).toInt, (w.extractLsb' 48 16).toInt⟩

/-- The exact sum of coordinates (R185). -/
def coordAdd (a b : Coord) : Coord := ⟨a.x0 + b.x0, a.x1 + b.x1, a.x2 + b.x2, a.x3 + b.x3⟩

/-- The offsets of element e of a tile, dimension 0 fastest. -/
def tileOffset (t0 t1 t2 : Nat) (e : Nat) : Coord :=
  ⟨(e % t0 : Nat), (e / t0 % t1 : Nat), (e / (t0 * t1) % t2 : Nat), (e / (t0 * t1 * t2) : Nat)⟩

/-- The offsets of element e of a descriptor's tile. -/
def dOffset (d : Desc) (e : Nat) : Coord := tileOffset (dTile d 0) (dTile d 1) (dTile d 2) e

/-- One coordinate after circular wrap. -/
def wrapDim (d : Desc) (i : Nat) (x : Int) : Int := if dCirc d i then x % (dExt d i : Int) else x

/-- Coordinates after circular wrap. -/
def wrapCoord (d : Desc) (x : Coord) : Coord :=
  ⟨wrapDim d 0 x.x0, wrapDim d 1 x.x1, wrapDim d 2 x.x2, wrapDim d 3 x.x3⟩

/-- Does a wrapped coordinate lie inside every extent? -/
def coordInside (d : Desc) (x : Coord) : Bool :=
  allIndex (fun i => decide (0 ≤ coordAt x i) && decide (coordAt x i < (dExt d i : Int))) 0 4

/-- The byte address of an inside element, and for E2M1 whether it is the upper half of its byte (R178). -/
def elemAddr (d : Desc) (x : Coord) : Int × Bool :=
  let strides := x.x1 * dStride d 1 + x.x2 * dStride d 2 + x.x3 * dStride d 3
  let base : Int := (dBase d).toNat
  if dFmt d = 12 then (base + x.x0 / 2 + strides, x.x0 % 2 == 1)
  else (base + x.x0 * (dBits d / 8 : Nat) + strides, false)

/-- The dimension number of a loop level of an order pattern. -/
def orderDim (order k : Nat) : Nat := bitsOf order (2 * k + 1) (2 * k)

/-- Is an order pattern a permutation of 0 to 3 (R75)? -/
def orderGood (order : Nat) : Bool :=
  allIndex (fun d => (List.range 4).any fun k => orderDim order k == d) 0 4

/-- The tile coordinates of tile index t under an order pattern (R77). -/
def tileCoord (order : Nat) (tcount : Nat → Nat) (t : Nat) : Coord :=
  let c0 := tcount (orderDim order 0)
  let c1 := tcount (orderDim order 1)
  let c2 := tcount (orderDim order 2)
  let at_ := fun (k : Nat) =>
    match k with
    | 0 => t % c0
    | 1 => t / c0 % c1
    | 2 => t / (c0 * c1) % c2
    | _ => t / (c0 * c1 * c2) % tcount (orderDim order 3)
  let dim := fun (d : Nat) =>
    match firstIndex (fun k => orderDim order k == d) 0 4 with
    | some k => at_ k
    | none => 0
  ⟨(dim 0 : Nat), (dim 1 : Nat), (dim 2 : Nat), (dim 3 : Nat)⟩

/-- The tile index of tile coordinates under an order pattern: the inverse of `tileCoord`. -/
def tileIndex (order : Nat) (tcount : Nat → Nat) (tc : Coord) : Nat :=
  let part := fun (k : Nat) => (coordAt tc (orderDim order k)).toNat
  let cnt := fun (k : Nat) => tcount (orderDim order k)
  part 0 + cnt 0 * (part 1 + cnt 1 * (part 2 + cnt 2 * part 3))

/-! ### Element accesses of engines (R154, R183, R260) -/

/-- Who accesses: the cell whose banks and context are meant, its mode at issue, the ordering class, the unit that
translates, and the bytes of its source that it has read ahead, by address. -/
structure Agent where
  key : Nat
  ctx : Nat
  user : Bool
  cls : BitVec 4
  unit : TlbUnit
  early : Tbl (Option EarlyByte)
  deriving Repr

/-- The owner of an agent's writes: an operation of a cell writes for the cell, what a placement or a window writes belongs
to the context alone (R188, R207). -/
def agentOwner (ag : Agent) : Owner :=
  ⟨some ag.ctx, match ag.unit with
    | .direct => none
    | _ => some ag.key, ag.cls, false⟩

/-- A trap recorded against an engine operation. -/
def engTrap (cause : BitVec 8) (addr : Int) (info : Nat) : TrapInfo :=
  ⟨cause, BitVec.ofInt 64 addr, 0, 0, BitVec.ofNat 32 info, true⟩

/-- The places of n bytes of the near address space, each bank admitting the access (R154, R178). -/
def nearRun (s : State) (k : Nat) (addr : Int) (size : Nat) (u : NearUse) : Nat → Except TrapInfo (List (Nat × Nat × Nat))
  | 0 => .ok []
  | n + 1 =>
    if addr < 0 ∨ 2 ^ 32 ≤ addr then .error (engTrap causeNearbound addr size)
    else
      match nearPlace s k (BitVec.ofInt 32 addr) with
      | none => .error (engTrap causeNearbound addr size)
      | some (j, b, off) =>
        if !admits (getBank (getCell s j) b).mode b size u then .error (engTrap causeBankmode addr size)
        else
          match nearRun s k (addr + 1) size u n with
          | .error t => .error t
          | .ok l => .ok ((j, b, off) :: l)

/-- Translate n bytes from a virtual address, page by page, in the agent's context. -/
def virtRun (s : State) (ag : Agent) (k : Kind) (va : Int) : Nat → State × Except TrapInfo (List (Nat × BitVec 64))
  | 0 => (s, .ok [])
  | n + 1 =>
    if va < 0 ∨ 2 ^ 52 ≤ va then (s, .error (engTrap causePage va (kindInfo k ag.cls.toNat)))
    else
      let x := translate s ag.unit ag.ctx va.toNat k ag.user false
      let s1 := x.eff s
      match x.res with
      | .error c => (s1, .error (engTrap c va (kindInfo k ag.cls.toNat)))
      | .ok l =>
        match virtRun s1 ag k (va + 1) n with
        | (s2, .error t) => (s2, .error t)
        | (s2, .ok r) => (s2, .ok ((leafPa l va.toNat, l.bits) :: r))

/-- The bytes of an access of n bytes from an address, with poison, where those read ahead take the place of those that stand
there now: of an element of 4 bytes and more only whole words, which are read at once (R201). -/
def withEarly (ag : Agent) (n : Nat) (addr : Int) : List (Byte × Bool) → List (Byte × Bool)
  | [] => []
  | p :: r =>
    (match tblGet none ag.early addr.toNat with
      | some e => if n < 4 || e.whole then (e.value, e.poison) else p
      | none => p) :: withEarly ag n (addr + 1) r

/-- Read n bytes for an engine: the bytes, each with whether its word is poisoned. A read of poisoned HBM is reported
(R260). -/
def engBytes (s : State) (ag : Agent) (space : Nat) (addr : Int) (n : Nat) :
    State × Except TrapInfo (List (Byte × Bool)) :=
  if space = 0 then
    match nearRun s ag.key addr n .engineRead n with
    | .error t => (s, .error t)
    | .ok l => (s, .ok (withEarly ag n addr (l.map fun p =>
        (nearByte (getCell s p.1) p.2.1 p.2.2, presentPoisoned (getCell s p.1) p.2.1 p.2.2 1))))
  else
    match virtRun s ag .read addr n with
    | (s1, .error t) => (s1, .error t)
    | (s1, .ok l) =>
      let s2 := match l with
        | (pa, _) :: _ =>
          let s3 := countAt s1 pa
          if l.any fun p => physPoisoned s1 p.1 1 then postPoison s3 (keyCore ag.key) pa ag.ctx else s3
        | [] => s1
      (s2, .ok (withEarly ag n addr (l.map fun p => (physByte s1 p.1, physPoisoned s1 p.1 1))))

/-- Read n bytes for an engine: the bytes, and whether a word of them is poisoned. -/
def engRead (s : State) (ag : Agent) (space : Nat) (addr : Int) (n : Nat) : State × Except TrapInfo (List Byte × Bool) :=
  match engBytes s ag space addr n with
  | (s1, .error t) => (s1, .error t)
  | (s1, .ok l) => (s1, .ok (l.map Prod.fst, l.any Prod.snd))

/-- Write one near byte of an engine. -/
def engPutNear (s : State) (p : Nat × Nat × Nat) (b : Byte) : State := modCell s p.1 fun c => setBankByte c p.2.1 p.2.2 b

/-- Write bytes for an engine; a poisoned source poisons the words written (R260). The layout unit writes past the core
cache, so levels 01 and 10 merge in the write-combining store (R186). -/
def engWrite (s : State) (ag : Agent) (space : Nat) (addr : Int) (bs : List Byte) (poison : Bool) :
    State × Except TrapInfo Unit :=
  if space = 0 then
    match nearRun s ag.key addr bs.length .engineWrite bs.length with
    | .error t => (s, .error t)
    | .ok l =>
      let s1 := (l.zip bs).foldl (fun s e => engPutNear s e.1 e.2) s
      let mark := fun (s : State) (p : Nat × Nat × Nat) =>
        modCell s p.1 fun c => if poison then poisonNear c p.2.1 p.2.2 1 else c
      let heal := fun (s : State) =>
        match l with
        | (j, b, off) :: _ => if poison then s else modCell s j fun c => healNear c b off bs.length
        | [] => s
      (heal (l.foldl mark s1), .ok ())
  else
    match virtRun s ag .write addr bs.length with
    | (s1, .error t) => (s1, .error t)
    | (s1, .ok l) =>
      let one := fun (s : State) (e : (Nat × BitVec 64) × Byte) =>
        physWrite s e.1.1 [e.2] (leafClvl e.1.2 != 0) (agentOwner ag)
      let whole := l.all fun p => leafClvl p.2 == leafClvl (l.headD (0, 0)).2
      let run := (l.zip (l.drop 1)).all fun e => e.2.1 == e.1.1 + 1
      let s2 := match l with
        | (pa, w) :: _ =>
          let s4 := countAt s1 pa
          if whole && run then physWrite s4 pa bs (leafClvl w != 0) (agentOwner ag) else (l.zip bs).foldl one s4
        | [] => s1
      let s3 := if poison then l.foldl (fun s p => if physLost s p.1 then s else poisonWords s p.1 1) s2 else s2
      (s3, .ok ())

/-- Read an element at exact coordinates: a clipped one is the pad value and touches nothing (R185). -/
def readElem (s : State) (ag : Agent) (d : Desc) (x : Coord) : State × Except TrapInfo (Nat × Bool) :=
  let y := wrapCoord d x
  if !coordInside d y then (s, .ok (dPad d, false))
  else
    let (a, upper) := elemAddr d y
    match engRead s ag (dSpace d) a (max 1 (dBits d / 8)) with
    | (s1, .error t) => (s1, .error t)
    | (s1, .ok (bs, bad)) =>
      let v := ofBytes bs
      (s1, .ok (if dFmt d = 12 then (if upper then v / 16 else v % 16) else v, bad))

/-- Write an element at exact coordinates: a clipped one is dropped (R185). -/
def writeElem (s : State) (ag : Agent) (d : Desc) (x : Coord) (v : Nat) (poison : Bool) :
    State × Except TrapInfo Unit :=
  let y := wrapCoord d x
  if !coordInside d y then (s, .ok ())
  else
    let (a, upper) := elemAddr d y
    if dFmt d = 12 then
      let old := fun (s : State) =>
        if dSpace d = 0 then
          match nearRun s ag.key a 1 .engineWrite 1 with
          | .ok [(j, b, off)] => (bankByte (getCell s j) b off).toNat
          | _ => 0
        else
          match (virtRun s ag .write a 1).2 with
          | .ok [(pa, _)] => (physByte s pa).toNat
          | _ => 0
      let o := old s
      let byte := if upper then v % 16 * 16 + o % 16 else o / 16 * 16 + v % 16
      engWrite s ag (dSpace d) a [BitVec.ofNat 8 byte] poison
    else engWrite s ag (dSpace d) a (toBytes v (dBits d / 8)) poison

end Sys2Proof.Machine
end

