-- ==== Sys2Proof/Machine/Regs.lean ====
section
/-!
DEFINITION. Sys2Proof/Machine/Regs.lean: which registers an operation of a group reads and writes, for the dependence
check of R271, the scoreboard of R273 and the poison of R260. A register has a number: s 0 to 63, p 64 to 79, m 80 to 95,
v 96 to 159, a 160 to 223, mp 224 to 231, lc 232 to 235, xp 236 to 243, system register n at 256 + n; 5000 and 5001 are
the parameters of DEADL (R355) and 5100 + n the release of ring n (R364), which two operations of a group may not share.
-/
namespace Sys2Proof.Machine

/-- A scalar; s0 makes no dependence. -/
def rS (r : BitVec 6) : List Nat := if r = 0 then [] else [r.toNat]
/-- A predicate; p0 makes no dependence. -/
def rP (r : BitVec 4) : List Nat := if r = 0 then [] else [64 + r.toNat]
/-- A lane mask; m0 makes no dependence. -/
def rM (r : BitVec 4) : List Nat := if r = 0 then [] else [80 + r.toNat]
/-- A vector register. -/
def rV (r : BitVec 6) : List Nat := [96 + r.toNat]
/-- An accumulator tile. -/
def rA (r : BitVec 6) : List Nat := [160 + r.toNat]
/-- A matrix parameter. -/
def rMp (r : BitVec 3) : List Nat := [224 + r.toNat]
/-- A loop counter. -/
def rLc (r : BitVec 2) : List Nat := [232 + r.toNat]
/-- An expansion parameter. -/
def rXp (r : BitVec 3) : List Nat := [236 + r.toNat]
/-- A system register. -/
def rSys (r : BitVec 12) : List Nat := [256 + r.toNat]
/-- Both predicates of a pair (R271, R275); pair 0 writes only p1. -/
def pairP (k : BitVec 3) : List Nat := if k = 0 then [65] else [64 + 2 * k.toNat, 65 + 2 * k.toNat]
/-- Both masks of a pair. -/
def pairM (k : BitVec 3) : List Nat := if k = 0 then [81] else [80 + 2 * k.toNat, 81 + 2 * k.toNat]

/-- The registers that an operation reads, its guard included (R271). -/
def regReads (i : Instr) : List Nat :=
  match i with
  | .nop g => rP g
  | .add g _ s t => rP g ++ rS s ++ rS t
  | .sub g _ s t => rP g ++ rS s ++ rS t
  | .mul g _ s t => rP g ++ rS s ++ rS t
  | .mulhI64 g _ s t => rP g ++ rS s ++ rS t
  | .mulhN64 g _ s t => rP g ++ rS s ++ rS t
  | .divI64 g _ s t => rP g ++ rS s ++ rS t
  | .divN64 g _ s t => rP g ++ rS s ++ rS t
  | .remI64 g _ s t => rP g ++ rS s ++ rS t
  | .remN64 g _ s t => rP g ++ rS s ++ rS t
  | .and g _ s t => rP g ++ rS s ++ rS t
  | .or g _ s t => rP g ++ rS s ++ rS t
  | .xor g _ s t => rP g ++ rS s ++ rS t
  | .shl g _ s t => rP g ++ rS s ++ rS t
  | .shrI64 g _ s t => rP g ++ rS s ++ rS t
  | .shrN64 g _ s t => rP g ++ rS s ++ rS t
  | .minI64 g _ s t => rP g ++ rS s ++ rS t
  | .minN64 g _ s t => rP g ++ rS s ++ rS t
  | .maxI64 g _ s t => rP g ++ rS s ++ rS t
  | .maxN64 g _ s t => rP g ++ rS s ++ rS t
  | .addI64S g _ s t => rP g ++ rS s ++ rS t
  | .addN64S g _ s t => rP g ++ rS s ++ rS t
  | .subI64S g _ s t => rP g ++ rS s ++ rS t
  | .subN64S g _ s t => rP g ++ rS s ++ rS t
  | .addi g _ s _ => rP g ++ rS s
  | .andi g _ s _ => rP g ++ rS s
  | .ori g _ s _ => rP g ++ rS s
  | .xori g _ s _ => rP g ++ rS s
  | .shli g _ s _ => rP g ++ rS s
  | .shriI64 g _ s _ => rP g ++ rS s
  | .shriN64 g _ s _ => rP g ++ rS s
  | .li g _ _ => rP g
  | .lis g d _ => rP g ++ rS d
  | .sel g _ s t k => rP g ++ rS s ++ rS t ++ rP k
  | .cmp g _ _ s t => rP g ++ rS s ++ rS t
  | .cmpi g _ _ s _ => rP g ++ rS s
  | .cmpq g _ s t => rP g ++ rS s ++ rS t
  | .fadd g _ s t => rP g ++ rS s ++ rS t
  | .fsub g _ s t => rP g ++ rS s ++ rS t
  | .fmul g _ s t => rP g ++ rS s ++ rS t
  | .fdiv g _ s t => rP g ++ rS s ++ rS t
  | .fmin g _ s t => rP g ++ rS s ++ rS t
  | .fmax g _ s t => rP g ++ rS s ++ rS t
  | .fma g _ s t q => rP g ++ rS s ++ rS t ++ rS q
  | .fcmp g _ _ s t => rP g ++ rS s ++ rS t
  | .fcmpq g _ s t => rP g ++ rS s ++ rS t
  | .fcvt g _ s _ _ => rP g ++ rS s
  | .clz g _ s => rP g ++ rS s
  | .popc g _ s => rP g ++ rS s
  | .pand g _ s t => rP g ++ rP s ++ rP t
  | .por g _ s t => rP g ++ rP s ++ rP t
  | .pxor g _ s t => rP g ++ rP s ++ rP t
  | .pandn g _ s t => rP g ++ rP s ++ rP t
  | .sext g _ s _ => rP g ++ rS s
  | .zext g _ s _ => rP g ++ rS s
  | .br g _ => rP g
  | .call g _ => rP g
  | .brq g _ => rP g
  | .brqn g _ => rP g
  | .brr g s => rP g ++ rS s
  | .callr g s => rP g ++ rS s
  | .loop g n _ => rP g ++ rLc n
  | .lcset g _ s => rP g ++ rS s
  | .barw g _ => rP g
  | .yield g => rP g
  | .halt g => rP g
  | .eret g => rP g
  | .cqclr g => rP g
  | .syscall g _ => rP g
  | .mfsr g _ num => rP g ++ rSys num
  | .mtsr g s _ => rP g ++ rS s
  | .mtsrTrapcauseHost g s => rP g ++ rS s
  | .mtsrFmtctlSeedw g s => rP g ++ rS s
  | .tdset g _ s t => rP g ++ rS s ++ rS t
  | .tdget g _ s t => rP g ++ rS s ++ rS t
  | .tdinv g _ s => rP g ++ rS s
  | .vadd g _ s t _ k => rP g ++ rV s ++ rV t ++ rM k
  | .vsub g _ s t _ k => rP g ++ rV s ++ rV t ++ rM k
  | .vmul g _ s t _ k => rP g ++ rV s ++ rV t ++ rM k
  | .vdiv g _ s t _ k => rP g ++ rV s ++ rV t ++ rM k
  | .vmin g _ s t _ k => rP g ++ rV s ++ rV t ++ rM k
  | .vmax g _ s t _ k => rP g ++ rV s ++ rV t ++ rM k
  | .vaddS g _ s t _ k => rP g ++ rV s ++ rV t ++ rM k
  | .vsubS g _ s t _ k => rP g ++ rV s ++ rV t ++ rM k
  | .vand g _ s t _ k => rP g ++ rV s ++ rV t ++ rM k
  | .vor g _ s t _ k => rP g ++ rV s ++ rV t ++ rM k
  | .vxor g _ s t _ k => rP g ++ rV s ++ rV t ++ rM k
  | .vshl g _ s t _ k => rP g ++ rV s ++ rV t ++ rM k
  | .vshr g _ s t _ k => rP g ++ rV s ++ rV t ++ rM k
  | .vabs g _ s _ k => rP g ++ rV s ++ rM k
  | .vneg g _ s _ k => rP g ++ rV s ++ rM k
  | .vmov g _ s _ k => rP g ++ rV s ++ rM k
  | .vfmaF32 g _ s t q k => rP g ++ rV s ++ rV t ++ rV q ++ rM (k.setWidth 4)
  | .vfmaBf16 g _ s t q k => rP g ++ rV s ++ rV t ++ rV q ++ rM (k.setWidth 4)
  | .vsel g _ s t _ k => rP g ++ rV s ++ rV t ++ rM k
  | .vcmp g _ _ s t _ k => rP g ++ rV s ++ rV t ++ rM k
  | .vcmpq g _ s t _ k => rP g ++ rV s ++ rV t ++ rM k
  | .vbcast g _ s _ k => rP g ++ rS s ++ rM k
  | .vget g _ s t _ => rP g ++ rV s ++ rS t
  | .vset g d s t _ k => rP g ++ rV d ++ rS s ++ rS t ++ rM k
  | .mand g _ s t => rP g ++ rM s ++ rM t
  | .mor g _ s t => rP g ++ rM s ++ rM t
  | .mxor g _ s t => rP g ++ rM s ++ rM t
  | .mandn g _ s t => rP g ++ rM s ++ rM t
  | .vcvt g _ s _ _ k => rP g ++ rV s ++ rM k
  | .vqnt g _ s t _ k => rP g ++ rV s ++ rV t ++ rM k
  | .vdqnt g _ s t _ k => rP g ++ rV s ++ rV t ++ rM k
  | .vbamax g _ s t _ k => rP g ++ rV s ++ rV t ++ rM k
  | .vrsum g _ s _ k => rP g ++ rV s ++ rM k
  | .vrmax g _ s _ k => rP g ++ rV s ++ rM k
  | .vrmin g _ s _ k => rP g ++ rV s ++ rM k
  | .vscan g _ s _ k => rP g ++ rV s ++ rM k
  | .vperm g _ s t _ k => rP g ++ rV s ++ rV t ++ rM k
  | .vrot g _ s t _ k => rP g ++ rV s ++ rS t ++ rM k
  | .vexp2 g _ s _ k => rP g ++ rV s ++ rM k
  | .vlog2 g _ s _ k => rP g ++ rV s ++ rM k
  | .vrcp g _ s _ k => rP g ++ rV s ++ rM k
  | .vrsqrt g _ s _ k => rP g ++ rV s ++ rM k
  | .vsqrt g _ s _ k => rP g ++ rV s ++ rM k
  | .vtanh g _ s _ k => rP g ++ rV s ++ rM k
  | .mcall g _ p q _ => rP g ++ rS p ++ rS q
  | .mwait g s => rP g ++ rS s
  | .mstat g _ s => rP g ++ rS s
  | .mpset g _ s => rP g ++ rS s
  | .mpget g _ n => rP g ++ rMp n
  | .mucw g i v => rP g ++ rS i ++ rS v
  | .mucwT g i v => rP g ++ rS i ++ rS v
  | .mav g _ tile r => rP g ++ rA tile ++ rS r
  | .mva g _ s r => rP g ++ rV s ++ rS r
  | .ldN g _ a _ _ _ => rP g ++ rS a
  | .ldI g _ a _ _ _ => rP g ++ rS a
  | .st g r a _ _ _ => rP g ++ rS r ++ rS a
  | .ldnN g _ a _ _ _ => rP g ++ rS a
  | .ldnI g _ a _ _ _ => rP g ++ rS a
  | .stn g r a _ _ _ => rP g ++ rS r ++ rS a
  | .vld g _ a _ _ k => rP g ++ rS a ++ rM k
  | .vst g v a _ _ k => rP g ++ rV v ++ rS a ++ rM k
  | .vldn g _ a _ _ k => rP g ++ rS a ++ rM k
  | .vstn g v a _ _ k => rP g ++ rV v ++ rS a ++ rM k
  | .vlds g _ a x _ k => rP g ++ rS a ++ rS x ++ rM k
  | .vsts g v a x _ k => rP g ++ rV v ++ rS a ++ rS x ++ rM k
  | .vgth g _ a x _ k => rP g ++ rS a ++ rV x ++ rM k
  | .vsct g v a x _ k => rP g ++ rV v ++ rS a ++ rV x ++ rM k
  | .vgthn g _ a x _ k => rP g ++ rS a ++ rV x ++ rM k
  | .vsctn g v a x _ k => rP g ++ rV v ++ rS a ++ rV x ++ rM k
  | .vldx g _ a x _ k => rP g ++ rS a ++ rXp x ++ rM k
  | .aaddI32 g _ a t _ _ => rP g ++ rS a ++ rS t
  | .aaddI64 g _ a t _ _ => rP g ++ rS a ++ rS t
  | .aaddF32 g _ a t _ _ => rP g ++ rS a ++ rS t
  | .amaxI32 g _ a t _ _ => rP g ++ rS a ++ rS t
  | .amaxF32 g _ a t _ _ => rP g ++ rS a ++ rS t
  | .acas g d a t _ _ => rP g ++ rS a ++ rS t ++ rS d
  | .amaxrrI32 g _ a t _ _ => rP g ++ rS a ++ rS t
  | .amaxrrF32 g _ a t _ _ => rP g ++ rS a ++ rS t
  | .fence g _ _ _ _ => rP g
  | .cpy g h x y _ _ => rP g ++ rS h ++ rS x ++ rS y
  | .cpyf g h x y _ _ => rP g ++ rS h ++ rS x ++ rS y ++ rS (y + 1)
  | .rwait g _ _ => rP g
  | .rrel g _ => rP g
  | .rpub g _ s => rP g ++ rS s
  | .chsend g c x _ => rP g ++ rS c ++ rS x
  | .chrecv g _ c => rP g ++ rS c
  | .waita g _ a v _ _ _ => rP g ++ rS a ++ rS v
  | .bankcfg g s => rP g ++ rS s
  | .gstep g _ => rP g
  | .bcast g b a => rP g ++ rS b ++ rS a
  | .latch g b a => rP g ++ rS b ++ rS a
  | .deadl g s => rP g ++ rS s
  | .deadlF g s => rP g ++ rS s
  | .deadlXp g s _ => rP g ++ rS s
  | _ => []

/-- The registers that an operation writes (R271). -/
def regWrites (i : Instr) : List Nat :=
  match i with
  | .add _ d _ _ => rS d
  | .sub _ d _ _ => rS d
  | .mul _ d _ _ => rS d
  | .mulhI64 _ d _ _ => rS d
  | .mulhN64 _ d _ _ => rS d
  | .divI64 _ d _ _ => rS d
  | .divN64 _ d _ _ => rS d
  | .remI64 _ d _ _ => rS d
  | .remN64 _ d _ _ => rS d
  | .and _ d _ _ => rS d
  | .or _ d _ _ => rS d
  | .xor _ d _ _ => rS d
  | .shl _ d _ _ => rS d
  | .shrI64 _ d _ _ => rS d
  | .shrN64 _ d _ _ => rS d
  | .minI64 _ d _ _ => rS d
  | .minN64 _ d _ _ => rS d
  | .maxI64 _ d _ _ => rS d
  | .maxN64 _ d _ _ => rS d
  | .addI64S _ d _ _ => rS d
  | .addN64S _ d _ _ => rS d
  | .subI64S _ d _ _ => rS d
  | .subN64S _ d _ _ => rS d
  | .addi _ d _ _ => rS d
  | .andi _ d _ _ => rS d
  | .ori _ d _ _ => rS d
  | .xori _ d _ _ => rS d
  | .shli _ d _ _ => rS d
  | .shriI64 _ d _ _ => rS d
  | .shriN64 _ d _ _ => rS d
  | .li _ d _ => rS d
  | .lis _ d _ => rS d
  | .sel _ d _ _ _ => rS d
  | .cmp _ _ pair _ _ => pairP pair
  | .cmpi _ _ pair _ _ => pairP pair
  | .fadd _ d _ _ => rS d
  | .fsub _ d _ _ => rS d
  | .fmul _ d _ _ => rS d
  | .fdiv _ d _ _ => rS d
  | .fmin _ d _ _ => rS d
  | .fmax _ d _ _ => rS d
  | .fma _ d _ _ _ => rS d
  | .fcmp _ _ pair _ _ => pairP pair
  | .fcvt _ d _ _ _ => rS d
  | .clz _ d _ => rS d
  | .popc _ d _ => rS d
  | .pand _ d _ _ => rP d
  | .por _ d _ _ => rP d
  | .pxor _ d _ _ => rP d
  | .pandn _ d _ _ => rP d
  | .sext _ d _ _ => rS d
  | .zext _ d _ _ => rS d
  | .call _ _ => [63]
  | .callr _ _ => [63]
  | .loop _ n _ => rLc n
  | .lcset _ n _ => rLc n
  | .mfsr _ d _ => rS d
  | .mtsr _ _ num => rSys num
  | .mtsrTrapcauseHost _ _ => rSys 0x022
  | .mtsrFmtctlSeedw _ _ => rSys 0x003
  | .tdset _ d _ _ => rS d
  | .tdget _ d _ _ => rS d
  | .tdinv _ d _ => rS d
  | .vadd _ d _ _ _ _ => rV d
  | .vsub _ d _ _ _ _ => rV d
  | .vmul _ d _ _ _ _ => rV d
  | .vdiv _ d _ _ _ _ => rV d
  | .vmin _ d _ _ _ _ => rV d
  | .vmax _ d _ _ _ _ => rV d
  | .vaddS _ d _ _ _ _ => rV d
  | .vsubS _ d _ _ _ _ => rV d
  | .vand _ d _ _ _ _ => rV d
  | .vor _ d _ _ _ _ => rV d
  | .vxor _ d _ _ _ _ => rV d
  | .vshl _ d _ _ _ _ => rV d
  | .vshr _ d _ _ _ _ => rV d
  | .vabs _ d _ _ _ => rV d
  | .vneg _ d _ _ _ => rV d
  | .vmov _ d _ _ _ => rV d
  | .vfmaF32 _ d _ _ _ _ => rV d
  | .vfmaBf16 _ d _ _ _ _ => rV d
  | .vsel _ d _ _ _ _ => rV d
  | .vcmp _ _ pair _ _ _ _ => pairM pair
  | .vbcast _ d _ _ _ => rV d
  | .vget _ d _ _ _ => rS d
  | .vset _ d _ _ _ _ => rV d
  | .mand _ d _ _ => rM d
  | .mor _ d _ _ => rM d
  | .mxor _ d _ _ => rM d
  | .mandn _ d _ _ => rM d
  | .vcvt _ d _ _ _ _ => rV d
  | .vqnt _ d _ _ _ _ => rV d
  | .vdqnt _ d _ _ _ _ => rV d
  | .vbamax _ d _ _ _ _ => rV d
  | .vrsum _ d _ _ _ => rV d
  | .vrmax _ d _ _ _ => rV d
  | .vrmin _ d _ _ _ => rV d
  | .vscan _ d _ _ _ => rV d
  | .vperm _ d _ _ _ _ => rV d
  | .vrot _ d _ _ _ _ => rV d
  | .vexp2 _ d _ _ _ => rV d
  | .vlog2 _ d _ _ _ => rV d
  | .vrcp _ d _ _ _ => rV d
  | .vrsqrt _ d _ _ _ => rV d
  | .vsqrt _ d _ _ _ => rV d
  | .vtanh _ d _ _ _ => rV d
  | .mcall _ d _ _ _ => rS d
  | .mstat _ d _ => rS d
  | .mpset _ n _ => rMp n
  | .mpget _ d _ => rS d
  | .mav _ d _ _ => rV d
  | .mva _ tile _ _ => rA tile
  | .ldN _ r _ _ _ _ => rS r
  | .ldI _ r _ _ _ _ => rS r
  | .ldnN _ r _ _ _ _ => rS r
  | .ldnI _ r _ _ _ _ => rS r
  | .vld _ v _ _ _ _ => rV v
  | .vldn _ v _ _ _ _ => rV v
  | .vlds _ v _ _ _ _ => rV v
  | .vgth _ v _ _ _ _ => rV v
  | .vgthn _ v _ _ _ _ => rV v
  | .vldx _ v _ _ _ _ => rV v
  | .aaddI32 _ d _ _ _ _ => rS d
  | .aaddI64 _ d _ _ _ _ => rS d
  | .aaddF32 _ d _ _ _ _ => rS d
  | .amaxI32 _ d _ _ _ _ => rS d
  | .amaxF32 _ d _ _ _ _ => rS d
  | .acas _ d _ _ _ _ => rS d
  | .amaxrrI32 _ d _ _ _ _ => rS d
  | .amaxrrF32 _ d _ _ _ _ => rS d
  | .rwait _ d _ => rS d
  | .rrel _ n => [5100 + n.toNat]
  | .chrecv _ d _ => rS d
  | .waita _ d _ _ _ _ _ => rS d
  | .deadl _ _ => [5000]
  | .deadlF _ _ => [5001]
  | .deadlXp _ _ j => rXp j
  | _ => []

end Sys2Proof.Machine
end

