-- ==== Sys2Proof/Machine/Group.lean ====
section
/-!
DEFINITION. Sys2Proof/Machine/Group.lean: the issue of a group (R269 to R274, R15): structural checks, scoreboard,
guards, the evaluation of every operation on the state before the group, and the commit of all effects or of none. A
single operation issues as a group of one.
-/
namespace Sys2Proof.Machine

/-- What later operations of the same group must know of an earlier one. -/
inductive Tag where
  | plain | copy | send | latch | mcmd | push | pop | clear
  | chan (c : Nat)
  | bank (b : Nat) (whole : Bool)
  | ring (n : Nat)
  deriving DecidableEq, Repr

/-- The condition that a wait of WAITA registers (R148, R354). -/
abbrev WaitWord := Option (BitVec 64 × Bool × BitVec 2 × BitVec 64)

/-- What an operation does: effects, each with its phase (0 queue clears and pops, and writes of FMTCTL; 1 registers,
stores and accesses; 2 queue pushes and modes of banks; 3 enqueues and arrivals; 4 what follows the commit); a trap, with
what taking it clears; a deferred trap raised at this group's boundary (R307); or a stall before commit, which is a WAIT of
R135 or not. -/
inductive OpRes where
  | done (tag : Tag) (effs : List (Nat × (State → State)))
  | trap (t : TrapInfo) (taken : State → State)
  | late (t : TrapInfo) (taken : State → State)
  | stall (wait : Bool) (word : WaitWord)

/-- An operation evaluated: the page walks it made, and what it does. -/
structure OpOut where
  walk : State → State
  res : OpRes

/-- The meaning of an operation: from the state before the group and the earlier operations' tags. -/
abbrev Op := State → List Tag → OpOut

/-- An operation with one effect of phase 1. -/
def opEff (f : State → State) : OpOut := ⟨id, .done .plain [(1, f)]⟩

/-- An operation with no effect. -/
def opNone : OpOut := ⟨id, .done .plain []⟩

/-- An operation that traps, taking nothing away. -/
def opTrap (t : TrapInfo) : OpOut := ⟨id, .trap t id⟩

/-- An operation that stalls its group without a WAIT. -/
def opStall : OpOut := ⟨id, .stall false none⟩

/-- An operation that makes its cell WAIT. -/
def opWait : OpOut := ⟨id, .stall true none⟩

/-- An operation that writes the issuing cell in phase 1. -/
def opCell (k : Nat) (f : Cell → Cell) : OpOut := opEff fun s => modCell s k f

/-- An operation that writes one scalar. -/
def opScalar (s : State) (d : BitVec 6) (v : BitVec 64) : OpOut := opCell s.iss.key fun c => wrS c d v

/-- The issuing cell. -/
def self (s : State) : Cell := getCell s s.iss.key

/-- An operation of a group with where it stands. -/
structure Issue where
  i : Instr
  op : Op
  place : Iss

/-! ### Guards, poison and the scoreboard -/

/-- The guard of an operation (R264, R274). -/
def guardOf (i : Instr) : BitVec 4 :=
  match encodeSlot i with
  | some x => x.g
  | none => 0

/-- Is the guard true at the start of the group? -/
def guardTrue (c : Cell) (i : Instr) : Bool := rdP c (guardOf i).toNat

/-- Is a register poisoned (R260)? -/
def regPoisoned (c : Cell) (n : Nat) : Bool :=
  if n < 64 then tblGet false c.poisonS n
  else if 96 ≤ n ∧ n < 160 then tblGet false c.poisonV (n - 96)
  else tblGet false c.poisonR n

/-- The number of a register in its file (R271). -/
def regNumber (n : Nat) : Nat :=
  if n < 64 then n
  else if n < 80 then n - 64
  else if n < 96 then n - 80
  else if n < 160 then n - 96
  else if n < 232 then n - 224
  else if n < 236 then n - 232
  else n - 236

/-- The first poisoned register that an operation reads. -/
def poisonRead (c : Cell) (i : Instr) : Option Nat := (regReads i).find? (regPoisoned c)

/-- The register that an outstanding access will write. -/
def accessReg (a : Access) : Option Nat :=
  match a.dest with
  | .none => none
  | .s n => if n = 0 then none else some n
  | .v n _ => some (96 + n)

/-- Registers with a value still to come (R273). -/
def pendingRegs (c : Cell) : List Nat := c.accesses.filterMap accessReg

/-- Does an operation wait on the scoreboard (R273)? -/
def scoreBlocked (c : Cell) (i : Instr) : Bool :=
  (regReads i ++ regWrites i).any fun n => (pendingRegs c).contains n

/-! ### Evaluation and commit (R15, R273) -/

/-- Evaluate one operation: a guarded-off one has no effect; a poisoned register raises POISON with its number. -/
def evalOp (s : State) (x : Issue) (tags : List Tag) : OpOut :=
  let c := getCell s s.iss.key
  if !guardTrue c x.i then opNone
  else
    match poisonRead c x.i with
    | some n => opTrap (cellTrap causePoison 0 (regNumber n))
    | none => x.op { s with iss := x.place } tags

/-- The tag of an evaluated operation. -/
def outTag (o : OpOut) : Tag :=
  match o.res with
  | .done t _ => t
  | _ => .plain

/-- Evaluate a group in slot order. -/
def evalOps (s : State) : List Issue → List Tag → List (Nat × OpOut)
  | [], _ => []
  | x :: xs, tags =>
    let o := evalOp s x tags
    (x.place.idx, o) :: evalOps s xs (tags ++ [outTag o])

/-- Apply the effects of one phase. -/
def runPhase (effs : List (Nat × (State → State))) (p : Nat) (s : State) : State :=
  effs.foldl (fun s e => if e.1 = p then e.2 s else s) s

/-- All effects of a group. -/
def groupEffs (outs : List (Nat × OpOut)) : List (Nat × (State → State)) :=
  outs.flatMap fun o => match o.2.res with
    | .done _ effs => effs
    | _ => []

/-- What every commit does to its cell first: the next group follows. -/
def committed (next : BitVec 64) (c : Cell) : Cell :=
  { c with
    pc := next
    branched := false
    watchSkip := false
    run := .run
    waitWord := none
    groupNo := c.groupNo + 1 }

/-- The counts of a commit (R281), after its own writes of counters (R311). -/
def counted (n : Nat) (c : Cell) : Cell := countEv (countEv c 2 1) 3 n

/-- A commit ends the watchdog's count for the team (R259). -/
def petWatchdog (s : State) (k : Nat) : State :=
  let c := getCell s k
  modTeam s (teamKey c.ctx c.team) fun t => { t with idle := 0, hung := false }

/-- Commit a group (R273). -/
def commitGroup (s : State) (outs : List (Nat × OpOut)) : State :=
  let k := s.iss.key
  let effs := groupEffs outs
  let s1 := modCell (petWatchdog s k) k (committed s.iss.next)
  let s2 := runPhase effs 3 (runPhase effs 2 (runPhase effs 1 (runPhase effs 0 s1)))
  runPhase effs 4 (modCell s2 k (counted outs.length))

/-- The traps of a group with the positions of their operations, in slot order (R15). -/
def groupTraps (outs : List (Nat × OpOut)) : List (Nat × TrapInfo × (State → State)) :=
  outs.filterMap fun o => match o.2.res with
    | .trap t f => some (o.1, t, f)
    | _ => none

/-- The deferred trap that an operation of the group raises at its boundary (R246, R307). -/
def groupLate (outs : List (Nat × OpOut)) : Option (TrapInfo × (State → State)) :=
  outs.findSome? fun o => match o.2.res with
    | .late t f => some (t, f)
    | _ => none

/-- How many operations of a group carry a tag. -/
def tagCount (outs : List (Nat × OpOut)) (t : Tag) : Nat := (outs.filter fun o => outTag o.2 == t).length

/-- Would the condition queue hold more than 16 entries (R276)? CQCLR empties it before the group's pushes (R298). -/
def cqOver (c : Cell) (outs : List (Nat × OpOut)) : Bool :=
  let present := if tagCount outs .clear = 0 then c.cq.length - tagCount outs .pop else 0
  decide (0 < tagCount outs .push) && decide (16 < present + tagCount outs .push)

/-- The first stall of a group. -/
def groupStall (outs : List (Nat × OpOut)) : Option (Bool × WaitWord) :=
  outs.findSome? fun o => match o.2.res with
    | .stall w x => some (w, x)
    | _ => none

/-- TRAPSLOT of the operations that trap. -/
def trapMask (l : List Nat) : BitVec 8 := l.foldl (fun m i => m ||| (1#8 <<< i)) 0

/-- What an evaluated group does: a deferred trap, else the lowest trap, else a stall, else the commit (R15, R246,
R273). -/
def settleGroup (s : State) (outs : List (Nat × OpOut)) : State :=
  let k := s.iss.key
  let s1 := outs.foldl (fun s o => o.2.walk s) s
  match groupLate outs, groupTraps outs with
  | some (t, f), _ => f (takeTrap s1 k t s.iss.group 0 true)
  | none, (i, t, f) :: rest => f (takeTrap s1 k t s.iss.group (trapMask (i :: rest.map fun x => x.1)) false)
  | none, [] =>
    match groupStall outs with
    | some (true, w) => modCell s1 k (enterWait s.pkg.gtime.toNat w)
    | some (false, _) => s1
    | none => if cqOver (getCell s k) outs then s1 else commitGroup s1 outs

/-- Issue a group whose structural checks have passed; State.iss names the cell, the group and the next one. -/
def issueGroup (s : State) (xs : List Issue) : State :=
  let c := getCell s s.iss.key
  if xs.any fun x => guardTrue c x.i && scoreBlocked c x.i then s
  else settleGroup s (evalOps s xs [])

/-- Issue one operation as a group of its own. -/
def issueOne (i : Instr) (op : Op) (s : State) : State := issueGroup s [⟨i, op, s.iss⟩]

/-- An operation that is no instruction raises its structural cause (R267, R287). -/
def raiseStructural (s : State) (cause : BitVec 8) : State :=
  takeTrap s s.iss.key (wordTrap cause s.iss.word) s.iss.group (trapMask [s.iss.idx]) false

/-- The structural cause of a slot that holds no operation (R267, R287): a header where none may stand is ILLHDR, a header
with a reserved bit and an unassigned opcode are ILLOP. -/
def strayCause (s : State) : BitVec 8 :=
  let w := s.iss.word
  let placed := s.iss.addr.toNat % 16 == 0 && !w.getLsbD 31 && !(getCell s s.iss.key).branched
  if w.extractLsb' 28 3 = 0#3 ∧ !placed then causeIllhdr else causeIllop

/-- The issue of such a slot as a group of its own. -/
def raiseWord (s : State) : State := raiseStructural s (strayCause s)

/-! ### Fetch (R265 to R269) -/

/-- The key of a bundle in a core's instruction cache. -/
def icacheKey (ctx va : Nat) : Nat := ctx * 2 ^ 52 + va

/-- Lines of the instruction cache: 64 KiB of 16-byte bundles. -/
def icacheSize : Nat := 4096

/-- Fill the instruction cache; a free choice says what goes when it is full (log 7). -/
def icacheFill (s : State) (core key : Nat) (bs : List Byte) : State :=
  modCore { s with tick := s.tick + 1 } core fun c =>
    let t := if c.icache.length < icacheSize then c.icache
      else match c.icache[Config.choose s.tick icacheSize % icacheSize]? with
        | some e => tblErase c.icache e.1
        | none => c.icache
    { c with icache := tblSet [] t key bs }

/-- Invalidate a context's lines of a core's instruction cache (R265). -/
def dropLines (ctx : Nat) (c : Core) : Core := { c with icache := tblFilter (fun k _ => k / 2 ^ 52 != ctx) c.icache }

/-- Fetch a bundle for the slot at `slot` (R265): translation and rights at every fetch, bytes from the cache while they
stand there. -/
def fetchBundle (s : State) (k : Nat) (va slot : Nat) : State × Except TrapInfo (List Byte) :=
  let c := getCell s k
  let info := kindInfo .fetch 0
  let bad := fun (cause : BitVec 8) => cellTrap cause (BitVec.ofNat 64 slot) info
  if 2 ^ 52 ≤ va then (s, .error (bad causePage))
  else
    let x := translate s (.core k) c.ctx va .fetch (!c.super) true
    let s1 := x.eff s
    match x.res with
    | .error e => (s1, .error (bad e))
    | .ok l =>
      let key := icacheKey c.ctx va
      match tblGet [] (getCore s (keyCore k)).icache key with
      | [] =>
        let pa := leafPa l va
        if physPoisoned s1 pa 16 then (s1, .error (cellTrap causePoison (BitVec.ofNat 64 slot) 0))
        else
          let bs := physBytes s1 pa 16
          (icacheFill s1 (keyCore k) key bs, .ok bs)
      | bs => (s1, .ok bs)

/-- Slot i of a bundle. -/
def bundleWord (bs : List Byte) (i : Nat) : BitVec 32 := BitVec.ofNat 32 (ofBytes ((bs.drop (4 * i)).take 4))

/-- The class of a slot word (R264). -/
def wordClass (w : BitVec 32) : BitVec 3 := w.extractLsb' 28 3

/-- The byte lent to slot i (R266). -/
def lentByte (bs : List Byte) (i : Nat) : BitVec 8 :=
  let h := bundleWord bs 0
  if i = 0 ∨ wordClass h ≠ 0 then 0 else h.extractLsb' (8 * (3 - i)) 8

/-- A slot of a group as it was scanned: its fault as a header, what it decodes to, has it a bit of TRAPSLOT (R242: a header
in slot 0 has none), and does the header of its bundle lend it a byte? -/
structure Scanned where
  addr : Nat
  word : BitVec 32
  header : Option (BitVec 8)
  dec : Except Reject Instr
  counted : Bool
  lender : Bool

/-- Scan slots i to 3 of a bundle up to the first operation with S set (R267, R269): the slots, and was a stop found?
`first` says that the program counter names slot i and was reached by a branch. -/
def scanSlots (va : Nat) (bs : List Byte) (first : Bool) (i : Nat) : Nat → List Scanned × Bool
  | 0 => ([], false)
  | n + 1 =>
    let w := bundleWord bs i
    let put := fun (h : Option (BitVec 8)) (r : List Scanned × Bool) =>
      (⟨va + 4 * i, w, h, decodeSikan w (lentByte bs i), i != 0 || h.isNone, i != 0 && wordClass (bundleWord bs 0) == 0⟩ :: r.1, r.2)
    if wordClass w = 0 then
      let rest := scanSlots va bs false (i + 1) n
      if i ≠ 0 ∨ w.getLsbD 31 ∨ first then put (some causeIllhdr) rest
      else if w.extractLsb' 24 4 ≠ 0#4 then put (some causeIllop) rest
      else rest
    else if w.getLsbD 31 then put none ([], true)
    else put none (scanSlots va bs false (i + 1) n)

/-- How many slots of a list have a bit of TRAPSLOT. -/
def countedSlots (l : List Scanned) : Nat := (l.filter Scanned.counted).length

/-- The bit of TRAPSLOT of a slot, from the slots before it (R15, R267). -/
def slotBit (before : List Scanned) (x : Scanned) : Option Nat := if x.counted then some (countedSlots before) else none

/-- The words fetched for a group that meet the watchpoint (R282): its slots and the headers that lend to them, each with its
address and its bit of TRAPSLOT. -/
def fetchHits (c : Cell) (before : List Scanned) : List Scanned → List (Nat × Option Nat)
  | [] => []
  | x :: xs =>
    let a := x.addr / 16 * 16
    let head := if x.lender && watched c a 4 .fetch then [(a, none)] else []
    let own := if watched c x.addr 4 .fetch then [(x.addr, slotBit before x)] else []
    head ++ own ++ fetchHits c (before ++ [x]) xs

/-- The group at the program counter (R269): its slots and whether its stop was found, or the fault of its fetch with the
position of the slot that needs it. -/
def fetchGroup (s : State) (k : Nat) : State × Except (Nat × TrapInfo) (List Scanned × Bool) :=
  let c := getCell s k
  let pc := c.pc.toNat
  let va := pc / 16 * 16
  let i := pc / 4 % 4
  match fetchBundle s k va pc with
  | (s1, .error t) => (s1, .error (0, t))
  | (s1, .ok bs) =>
    let (l, stop) := scanSlots va bs c.branched i (4 - i)
    if stop then (s1, .ok (l, true))
    else
      match fetchBundle s1 k (va + 16) (va + 16) with
      | (s2, .error t) => (s2, .error (countedSlots l, t))
      | (s2, .ok bs2) =>
        let (l2, stop2) := scanSlots (va + 16) bs2 false 0 4
        (s2, .ok (l ++ l2, stop2))

/-! ### Structural checks (R270 to R272) -/

/-- The port of a class: 0 scalar, 1 vector, 2 matrix, 3 copy; none for a header. -/
def portOf (w : BitVec 32) : Option Nat :=
  match (wordClass w).toNat with
  | 0 => none
  | 1 => some 0
  | 2 => some 0
  | 3 => some 1
  | 4 => some 1
  | 5 => some 2
  | _ => some 3

/-- Operations that a port takes in one group (R270). -/
def portLimit (p : Nat) : Nat := if p = 1 ∨ p = 3 then 2 else 1

/-- Is the word a branch (R270)? -/
def isBranch (w : BitVec 32) : Bool :=
  let op := (w.extractLsb' 18 6).toNat
  wordClass w == 2#3 && (decide (op ≤ 6) || op == 0x0B)

/-- The structural cause of one slot, after the slots before it (R267, R270 to R272). -/
def slotCause (before : List Scanned) (x : Scanned) (last stop : Bool) : Option (BitVec 8) :=
  match x.header with
  | some c => some c
  | none =>
    match x.dec with
    | .error _ => some causeIllop
    | .ok i =>
      let used := before.filter fun y => y.header.isNone && portOf y.word == portOf x.word
      let full := match portOf x.word with
        | some p => decide (portLimit p ≤ used.length)
        | none => false
      if !stop || full || (isBranch x.word && !last) then some causeIllport
      else
        let regs := regReads i ++ regWrites i
        let dep := before.any fun y => match y.dec with
          | .ok j => (regWrites j).any fun n => regs.contains n
          | .error _ => false
        if dep then some causeIlldep else none

/-- The structural causes of a group in slot order, each with its bit of TRAPSLOT; a faulty header in slot 0 has none (R242,
R267). -/
def structuralCauses (before : List Scanned) (stop : Bool) : List Scanned → List (Option Nat × BitVec 8 × BitVec 32)
  | [] => []
  | x :: xs =>
    let rest := structuralCauses (before ++ [x]) stop xs
    match slotCause before x xs.isEmpty stop with
    | some c => (slotBit before x, c, x.word) :: rest
    | none => rest

/-! ### A cell's turn -/

/-- May a cell issue (R135, R249, R262, R260, R38)? A cell whose committed barrier or step arrival waits may not. -/
def canIssue (s : State) (k : Nat) : Bool :=
  let c := getCell s k
  let u := getCore s (keyCore k)
  c.live && !c.held && !c.issueStopped && !u.stopped && !u.parity && !s.pkg.thermtrip
    && (c.run == .run || (c.run == .wait && !c.arrived))

/-- The address of the group at the program counter: past a header slot that sequential issue skips (R242, R269). -/
def groupStart (s : State) (k : Nat) : BitVec 64 :=
  let c := getCell s k
  let pc := c.pc.toNat
  if pc % 16 ≠ 0 ∨ c.branched then c.pc
  else
    match (fetchBundle s k pc pc).2 with
    | .error _ => c.pc
    | .ok bs =>
      let w := bundleWord bs 0
      if wordClass w = 0 ∧ !w.getLsbD 31 ∧ w.extractLsb' 24 4 = 0#4 then c.pc + 4 else c.pc

/-- Does a group need the address of the group after it: it holds a CALL, CALLR, YIELD or SYSCALL (R302, R306, R308)? -/
def needsNext (l : List Scanned) : Bool :=
  l.any fun x =>
    let op := (x.word.extractLsb' 18 6).toNat
    wordClass x.word == 2#3 && (op == 1 || op == 5 || op == 9 || op == 0x0D)

/-- The address after a group whose last slot stands at `last`, with the fault of fetching the next bundle; a group that needs
it skips a header there. R308 has the fetch for a SYSCALL in slot 3; it is made too where a later operation of the SYSCALL's
group stands there (DEDUCED, log 10). -/
def nextGroup (s : State) (k : Nat) (last : Nat) (needs : Bool) : State × BitVec 64 × Option TrapInfo :=
  let next := last + 4
  if next % 16 = 0 ∧ needs then
    match fetchBundle s k next next with
    | (s1, .error t) => (s1, BitVec.ofNat 64 next, some t)
    | (s1, .ok bs) => (s1, BitVec.ofNat 64 (if wordClass (bundleWord bs 0) = 0 then next + 4 else next), none)
  else (s, BitVec.ofNat 64 next, none)

end Sys2Proof.Machine
end

