-- ==== Sys2Proof/Machine/Scalar.lean ====
section
/-!
DEFINITION. Sys2Proof/Machine/Scalar.lean: the meanings of class 1 (R292 to R301): integer arithmetic and logic, compares
and the condition queue, predicate logic, F32 arithmetic and conversion. `op…` is the operation of a group, `exec…` the
group of that one operation.
-/
namespace Sys2Proof.Machine

/-! ### Shared forms -/

/-- A form with one source register. -/
def opRR (d s : BitVec 6) (f : BitVec 64 → BitVec 64) : Op := fun st _ => opScalar st d (f (rdS (self st) s))

/-- A form with two source registers. -/
def opRRR (d s t : BitVec 6) (f : BitVec 64 → BitVec 64 → BitVec 64) : Op := fun st _ =>
  opScalar st d (f (rdS (self st) s) (rdS (self st) t))

/-- The pattern of a saturated integer result (R223, R292). -/
def satWord (signed : Bool) (v : Int) : BitVec 64 := BitVec.ofInt 64 (satInt signed 64 v)

/-- The 64-bit value of an integer type (R292). -/
def wordInt (signed : Bool) (x : BitVec 64) : Int := if signed then x.toInt else (x.toNat : Int)

/-- The upper half of a product (R292). -/
def mulHigh (signed : Bool) (x y : BitVec 64) : BitVec 64 :=
  BitVec.ofInt 64 (wordInt signed x * wordInt signed y / 2 ^ 64)

/-- The quotient of R224 on 64 bits, wrapping. -/
def divWord (signed : Bool) (x y : BitVec 64) : BitVec 64 :=
  BitVec.ofInt 64 (divInt signed 64 false (wordInt signed x) (wordInt signed y))

/-- The remainder of R224 on 64 bits. -/
def remWord (signed : Bool) (x y : BitVec 64) : BitVec 64 := BitVec.ofInt 64 (remInt (wordInt signed x) (wordInt signed y))

/-- The smaller, or the greater, of two words (R292). -/
def pickWord (signed greater : Bool) (x y : BitVec 64) : BitVec 64 :=
  let lt := if signed then x.slt y else x.ult y
  if lt == greater then y else x

/-- Write a compare's condition and its complement to a predicate pair; pair 0 writes only p1 (R275). -/
def wrPair (c : Cell) (pair : BitVec 3) (b : Bool) : Cell :=
  wrP (wrP c (2 * pair.toNat) b) (2 * pair.toNat + 1) (!b)

/-- Push one bit at the tail of the condition queue (R276). -/
def pushCq (b : Bool) (c : Cell) : Cell := { c with cq := c.cq ++ [b] }

/-- An operation that pushes onto the condition queue (R276). -/
def opPush (k : Nat) (b : Bool) : OpOut := ⟨id, .done .push [(2, fun st => modCell st k (pushCq b))]⟩

/-- One floating-point operation of a cell on lane 0, under the FMTCTL from before the group, with the draw and the flags
at commit (R231, R234, R311). -/
def fpCell (fmt : BitVec 64) (f : FpCtl → FpRes) (c : Cell) : FpRes × Cell :=
  let (r, gens) := drawOn c.gens 0 fmt f
  (r, { c with gens := gens, fmtctl := fmtctlOr c.fmtctl r.flags })

/-- A scalar floating-point operation (R300): the low 32 bits of the operands, the result zero-extended. -/
def opFp (d : BitVec 6) (f : Cell → FpCtl → FpRes) (fix : Nat → BitVec 64) : Op := fun st _ =>
  let c0 := self st
  opCell st.iss.key fun c =>
    let (r, c1) := fpCell c0.fmtctl (f c0) c
    wrS c1 d (fix r.code)

/-- The F32 code in a scalar (R300). -/
def f32In (c : Cell) (r : BitVec 6) : Nat := (rdS c r).toNat % 2 ^ 32

/-- The F32 datum in a scalar, under FTZ (R232, R300). -/
def f32Val (c : Cell) (ctl : FpCtl) (r : BitVec 6) : FVal := ffRead .f32 ctl.ftz (f32In c r)

/-- An F32 operation on two scalars. -/
def opF2 (d s t : BitVec 6) (f : FpCtl → FVal → FVal → FpRes) : Op :=
  opFp d (fun c ctl => f ctl (f32Val c ctl s) (f32Val c ctl t)) (BitVec.ofNat 64)

/-- The compare of two F32 scalars, with its flags (R297). -/
def f32Cmp (c : Cell) (cond s t : Nat) : Bool × FpFlags :=
  let ctl := fmtctlCtl c.fmtctl 0
  fcmpVal cond (ffRead .f32 ctl.ftz s) (ffRead .f32 ctl.ftz t)

/-- Set accrued flags (R231). -/
def setFlags (f : FpFlags) (c : Cell) : Cell := { c with fmtctl := fmtctlOr c.fmtctl f }

/-- The types of FCVT (R301): 0 i64, 1 n64, 2 f32, 3 bf16, 4 i32, 5 n32. -/
def cvtType (n : BitVec 3) : Fmt :=
  match n.toNat with
  | 0 => .int ⟨true, 64⟩
  | 1 => .int ⟨false, 64⟩
  | 2 => .flt .f32
  | 3 => .flt .bf16
  | 4 => .int ⟨true, 32⟩
  | _ => .int ⟨false, 32⟩

/-- The bits of a type in a register (R301). -/
def cvtIn (n : BitVec 3) (x : BitVec 64) : Nat := x.toNat % 2 ^ fmtBits (cvtType n)

/-- A result of a type as a register (R301): i32 sign-extended, the others zero-extended. -/
def cvtOut (n : BitVec 3) (code : Nat) : BitVec 64 :=
  if n = 4 then (BitVec.ofNat 32 code).signExtend 64 else BitVec.ofNat 64 code


/-! ### Integer arithmetic and logic (R292 to R295) -/

/-- R295: no effect; it takes the scalar port. -/
def opNop : Op := fun _ _ => opNone

/-- R295: one such operation as a group. -/
def execNop (g : BitVec 4) (st : State) : Host.Outcome State Fault Refusal :=
  .next (issueOne (.nop g) (opNop) st)

/-- R292: s[d] := x + y. -/
def opAdd (d s t : BitVec 6) : Op := opRRR d s t (fun x y => x + y)

/-- R292: one such operation as a group. -/
def execAdd (g : BitVec 4) (d s t : BitVec 6) (st : State) : Host.Outcome State Fault Refusal :=
  .next (issueOne (.add g d s t) (opAdd d s t) st)

/-- R292: s[d] := x - y. -/
def opSub (d s t : BitVec 6) : Op := opRRR d s t (fun x y => x - y)

/-- R292: one such operation as a group. -/
def execSub (g : BitVec 4) (d s t : BitVec 6) (st : State) : Host.Outcome State Fault Refusal :=
  .next (issueOne (.sub g d s t) (opSub d s t) st)

/-- R292: s[d] := x * y. -/
def opMul (d s t : BitVec 6) : Op := opRRR d s t (fun x y => x * y)

/-- R292: one such operation as a group. -/
def execMul (g : BitVec 4) (d s t : BitVec 6) (st : State) : Host.Outcome State Fault Refusal :=
  .next (issueOne (.mul g d s t) (opMul d s t) st)

/-- R292: s[d] := the upper half of the signed product. -/
def opMulhI64 (d s t : BitVec 6) : Op := opRRR d s t (mulHigh true)

/-- R292: one such operation as a group. -/
def execMulhI64 (g : BitVec 4) (d s t : BitVec 6) (st : State) : Host.Outcome State Fault Refusal :=
  .next (issueOne (.mulhI64 g d s t) (opMulhI64 d s t) st)

/-- R292: s[d] := the upper half of the unsigned product. -/
def opMulhN64 (d s t : BitVec 6) : Op := opRRR d s t (mulHigh false)

/-- R292: one such operation as a group. -/
def execMulhN64 (g : BitVec 4) (d s t : BitVec 6) (st : State) : Host.Outcome State Fault Refusal :=
  .next (issueOne (.mulhN64 g d s t) (opMulhN64 d s t) st)

/-- R292: s[d] := the signed quotient. -/
def opDivI64 (d s t : BitVec 6) : Op := opRRR d s t (divWord true)

/-- R292: one such operation as a group. -/
def execDivI64 (g : BitVec 4) (d s t : BitVec 6) (st : State) : Host.Outcome State Fault Refusal :=
  .next (issueOne (.divI64 g d s t) (opDivI64 d s t) st)

/-- R292: s[d] := the unsigned quotient. -/
def opDivN64 (d s t : BitVec 6) : Op := opRRR d s t (divWord false)

/-- R292: one such operation as a group. -/
def execDivN64 (g : BitVec 4) (d s t : BitVec 6) (st : State) : Host.Outcome State Fault Refusal :=
  .next (issueOne (.divN64 g d s t) (opDivN64 d s t) st)

/-- R292: s[d] := the signed remainder. -/
def opRemI64 (d s t : BitVec 6) : Op := opRRR d s t (remWord true)

/-- R292: one such operation as a group. -/
def execRemI64 (g : BitVec 4) (d s t : BitVec 6) (st : State) : Host.Outcome State Fault Refusal :=
  .next (issueOne (.remI64 g d s t) (opRemI64 d s t) st)

/-- R292: s[d] := the unsigned remainder. -/
def opRemN64 (d s t : BitVec 6) : Op := opRRR d s t (remWord false)

/-- R292: one such operation as a group. -/
def execRemN64 (g : BitVec 4) (d s t : BitVec 6) (st : State) : Host.Outcome State Fault Refusal :=
  .next (issueOne (.remN64 g d s t) (opRemN64 d s t) st)

/-- R292: s[d] := bitwise AND. -/
def opAnd (d s t : BitVec 6) : Op := opRRR d s t (fun x y => x &&& y)

/-- R292: one such operation as a group. -/
def execAnd (g : BitVec 4) (d s t : BitVec 6) (st : State) : Host.Outcome State Fault Refusal :=
  .next (issueOne (.and g d s t) (opAnd d s t) st)

/-- R292: s[d] := bitwise OR. -/
def opOr (d s t : BitVec 6) : Op := opRRR d s t (fun x y => x ||| y)

/-- R292: one such operation as a group. -/
def execOr (g : BitVec 4) (d s t : BitVec 6) (st : State) : Host.Outcome State Fault Refusal :=
  .next (issueOne (.or g d s t) (opOr d s t) st)

/-- R292: s[d] := bitwise XOR. -/
def opXor (d s t : BitVec 6) : Op := opRRR d s t (fun x y => x ^^^ y)

/-- R292: one such operation as a group. -/
def execXor (g : BitVec 4) (d s t : BitVec 6) (st : State) : Host.Outcome State Fault Refusal :=
  .next (issueOne (.xor g d s t) (opXor d s t) st)

/-- R292: s[d] := x shifted left by y mod 64. -/
def opShl (d s t : BitVec 6) : Op := opRRR d s t (fun x y => x <<< (y.toNat % 64))

/-- R292: one such operation as a group. -/
def execShl (g : BitVec 4) (d s t : BitVec 6) (st : State) : Host.Outcome State Fault Refusal :=
  .next (issueOne (.shl g d s t) (opShl d s t) st)

/-- R292: s[d] := x shifted right by y mod 64 with its sign. -/
def opShrI64 (d s t : BitVec 6) : Op := opRRR d s t (fun x y => x.sshiftRight (y.toNat % 64))

/-- R292: one such operation as a group. -/
def execShrI64 (g : BitVec 4) (d s t : BitVec 6) (st : State) : Host.Outcome State Fault Refusal :=
  .next (issueOne (.shrI64 g d s t) (opShrI64 d s t) st)

/-- R292: s[d] := x shifted right by y mod 64. -/
def opShrN64 (d s t : BitVec 6) : Op := opRRR d s t (fun x y => x >>> (y.toNat % 64))

/-- R292: one such operation as a group. -/
def execShrN64 (g : BitVec 4) (d s t : BitVec 6) (st : State) : Host.Outcome State Fault Refusal :=
  .next (issueOne (.shrN64 g d s t) (opShrN64 d s t) st)

/-- R292: s[d] := the smaller, signed. -/
def opMinI64 (d s t : BitVec 6) : Op := opRRR d s t (pickWord true false)

/-- R292: one such operation as a group. -/
def execMinI64 (g : BitVec 4) (d s t : BitVec 6) (st : State) : Host.Outcome State Fault Refusal :=
  .next (issueOne (.minI64 g d s t) (opMinI64 d s t) st)

/-- R292: s[d] := the smaller, unsigned. -/
def opMinN64 (d s t : BitVec 6) : Op := opRRR d s t (pickWord false false)

/-- R292: one such operation as a group. -/
def execMinN64 (g : BitVec 4) (d s t : BitVec 6) (st : State) : Host.Outcome State Fault Refusal :=
  .next (issueOne (.minN64 g d s t) (opMinN64 d s t) st)

/-- R292: s[d] := the greater, signed. -/
def opMaxI64 (d s t : BitVec 6) : Op := opRRR d s t (pickWord true true)

/-- R292: one such operation as a group. -/
def execMaxI64 (g : BitVec 4) (d s t : BitVec 6) (st : State) : Host.Outcome State Fault Refusal :=
  .next (issueOne (.maxI64 g d s t) (opMaxI64 d s t) st)

/-- R292: s[d] := the greater, unsigned. -/
def opMaxN64 (d s t : BitVec 6) : Op := opRRR d s t (pickWord false true)

/-- R292: one such operation as a group. -/
def execMaxN64 (g : BitVec 4) (d s t : BitVec 6) (st : State) : Host.Outcome State Fault Refusal :=
  .next (issueOne (.maxN64 g d s t) (opMaxN64 d s t) st)

/-- R292: s[d] := the saturated signed sum. -/
def opAddI64S (d s t : BitVec 6) : Op := opRRR d s t (fun x y => satWord true (x.toInt + y.toInt))

/-- R292: one such operation as a group. -/
def execAddI64S (g : BitVec 4) (d s t : BitVec 6) (st : State) : Host.Outcome State Fault Refusal :=
  .next (issueOne (.addI64S g d s t) (opAddI64S d s t) st)

/-- R292: s[d] := the saturated unsigned sum. -/
def opAddN64S (d s t : BitVec 6) : Op := opRRR d s t (fun x y => satWord false ((x.toNat : Int) + y.toNat))

/-- R292: one such operation as a group. -/
def execAddN64S (g : BitVec 4) (d s t : BitVec 6) (st : State) : Host.Outcome State Fault Refusal :=
  .next (issueOne (.addN64S g d s t) (opAddN64S d s t) st)

/-- R292: s[d] := the saturated signed difference. -/
def opSubI64S (d s t : BitVec 6) : Op := opRRR d s t (fun x y => satWord true (x.toInt - y.toInt))

/-- R292: one such operation as a group. -/
def execSubI64S (g : BitVec 4) (d s t : BitVec 6) (st : State) : Host.Outcome State Fault Refusal :=
  .next (issueOne (.subI64S g d s t) (opSubI64S d s t) st)

/-- R292: s[d] := the saturated unsigned difference. -/
def opSubN64S (d s t : BitVec 6) : Op := opRRR d s t (fun x y => satWord false ((x.toNat : Int) - y.toNat))

/-- R292: one such operation as a group. -/
def execSubN64S (g : BitVec 4) (d s t : BitVec 6) (st : State) : Host.Outcome State Fault Refusal :=
  .next (issueOne (.subN64S g d s t) (opSubN64S d s t) st)

/-- R293: s[d] := x + imm. -/
def opAddi (d s : BitVec 6) (imm : BitVec 14) : Op := opRR d s fun x => x + imm.signExtend 64

/-- R293: one such operation as a group. -/
def execAddi (g : BitVec 4) (d s : BitVec 6) (imm : BitVec 14) (st : State) : Host.Outcome State Fault Refusal :=
  .next (issueOne (.addi g d s imm) (opAddi d s imm) st)

/-- R293: s[d] := x AND imm. -/
def opAndi (d s : BitVec 6) (imm : BitVec 14) : Op := opRR d s fun x => x &&& imm.signExtend 64

/-- R293: one such operation as a group. -/
def execAndi (g : BitVec 4) (d s : BitVec 6) (imm : BitVec 14) (st : State) : Host.Outcome State Fault Refusal :=
  .next (issueOne (.andi g d s imm) (opAndi d s imm) st)

/-- R293: s[d] := x OR imm. -/
def opOri (d s : BitVec 6) (imm : BitVec 14) : Op := opRR d s fun x => x ||| imm.signExtend 64

/-- R293: one such operation as a group. -/
def execOri (g : BitVec 4) (d s : BitVec 6) (imm : BitVec 14) (st : State) : Host.Outcome State Fault Refusal :=
  .next (issueOne (.ori g d s imm) (opOri d s imm) st)

/-- R293: s[d] := x XOR imm. -/
def opXori (d s : BitVec 6) (imm : BitVec 14) : Op := opRR d s fun x => x ^^^ imm.signExtend 64

/-- R293: one such operation as a group. -/
def execXori (g : BitVec 4) (d s : BitVec 6) (imm : BitVec 14) (st : State) : Host.Outcome State Fault Refusal :=
  .next (issueOne (.xori g d s imm) (opXori d s imm) st)

/-- R293: s[d] := x * 2^n. -/
def opShli (d s n : BitVec 6) : Op := opRR d s fun x => x <<< n.toNat

/-- R293: one such operation as a group. -/
def execShli (g : BitVec 4) (d s n : BitVec 6) (st : State) : Host.Outcome State Fault Refusal :=
  .next (issueOne (.shli g d s n) (opShli d s n) st)

/-- R293: s[d] := floor(sext(x, 64) / 2^n). -/
def opShriI64 (d s n : BitVec 6) : Op := opRR d s fun x => x.sshiftRight n.toNat

/-- R293: one such operation as a group. -/
def execShriI64 (g : BitVec 4) (d s n : BitVec 6) (st : State) : Host.Outcome State Fault Refusal :=
  .next (issueOne (.shriI64 g d s n) (opShriI64 d s n) st)

/-- R293: s[d] := x / 2^n. -/
def opShriN64 (d s n : BitVec 6) : Op := opRR d s fun x => x >>> n.toNat

/-- R293: one such operation as a group. -/
def execShriN64 (g : BitVec 4) (d s n : BitVec 6) (st : State) : Host.Outcome State Fault Refusal :=
  .next (issueOne (.shriN64 g d s n) (opShriN64 d s n) st)

/-- R294: s[d] := imm, sign-extended. -/
def opLi (d : BitVec 6) (imm : BitVec 20) : Op := fun st _ => opScalar st d (imm.signExtend 64)

/-- R294: one such operation as a group. -/
def execLi (g : BitVec 4) (d : BitVec 6) (imm : BitVec 20) (st : State) : Host.Outcome State Fault Refusal :=
  .next (issueOne (.li g d imm) (opLi d imm) st)

/-- R294: s[d] := s[d] * 65,536 + imm. -/
def opLis (d : BitVec 6) (imm : BitVec 16) : Op := opRR d d fun x => (x <<< 16) + imm.setWidth 64

/-- R294: one such operation as a group. -/
def execLis (g : BitVec 4) (d : BitVec 6) (imm : BitVec 16) (st : State) : Host.Outcome State Fault Refusal :=
  .next (issueOne (.lis g d imm) (opLis d imm) st)

/-- R295: s[d] := s[s] where p[k] is 1, s[t] otherwise. -/
def opSel (d s t : BitVec 6) (k : BitVec 4) : Op := fun st _ =>
  opScalar st d (if rdP (self st) k.toNat then rdS (self st) s else rdS (self st) t)

/-- R295: one such operation as a group. -/
def execSel (g : BitVec 4) (d s t : BitVec 6) (k : BitVec 4) (st : State) : Host.Outcome State Fault Refusal :=
  .next (issueOne (.sel g d s t k) (opSel d s t k) st)

/-- R295: s[d] := the leading zero bits of x. -/
def opClz (d s : BitVec 6) : Op := opRR d s fun x => BitVec.ofNat 64 (leadingZeros x.toNat 64)

/-- R295: one such operation as a group. -/
def execClz (g : BitVec 4) (d s : BitVec 6) (st : State) : Host.Outcome State Fault Refusal :=
  .next (issueOne (.clz g d s) (opClz d s) st)

/-- R295: s[d] := the 1 bits of x. -/
def opPopc (d s : BitVec 6) : Op := opRR d s fun x => BitVec.ofNat 64 (popCount x.toNat 64)

/-- R295: one such operation as a group. -/
def execPopc (g : BitVec 4) (d s : BitVec 6) (st : State) : Host.Outcome State Fault Refusal :=
  .next (issueOne (.popc g d s) (opPopc d s) st)

/-- R295: s[d] := sext(x, n). -/
def opSext (d s : BitVec 6) (n : BitVec 7) : Op := opRR d s fun x => BitVec.ofInt 64 (sextInt x.toNat n.toNat)

/-- R295: one such operation as a group. -/
def execSext (g : BitVec 4) (d s : BitVec 6) (n : BitVec 7) (st : State) : Host.Outcome State Fault Refusal :=
  .next (issueOne (.sext g d s n) (opSext d s n) st)

/-- R295: s[d] := zext(x, n). -/
def opZext (d s : BitVec 6) (n : BitVec 7) : Op := opRR d s fun x => BitVec.ofNat 64 (zextNat x.toNat n.toNat)

/-- R295: one such operation as a group. -/
def execZext (g : BitVec 4) (d s : BitVec 6) (n : BitVec 7) (st : State) : Host.Outcome State Fault Refusal :=
  .next (issueOne (.zext g d s n) (opZext d s n) st)

/-! ### Compares (R296, R297) -/

/-- R296: the pair takes the condition on s[s] and s[t]. -/
def opCmp (cond pair : BitVec 3) (s t : BitVec 6) : Op := fun st _ =>
  opCell st.iss.key fun c => wrPair c pair (icmp cond.toNat (rdS (self st) s) (rdS (self st) t))

/-- R296: one such operation as a group. -/
def execCmp (g : BitVec 4) (cond pair : BitVec 3) (s t : BitVec 6) (st : State) : Host.Outcome State Fault Refusal :=
  .next (issueOne (.cmp g cond pair s t) (opCmp cond pair s t) st)

/-- R296: the pair takes the condition on s[s] and the immediate. -/
def opCmpi (cond pair : BitVec 3) (s : BitVec 6) (imm : BitVec 14) : Op := fun st _ =>
  opCell st.iss.key fun c => wrPair c pair (icmp cond.toNat (rdS (self st) s) (imm.signExtend 64))

/-- R296: one such operation as a group. -/
def execCmpi (g : BitVec 4) (cond pair : BitVec 3) (s : BitVec 6) (imm : BitVec 14) (st : State) : Host.Outcome State Fault Refusal :=
  .next (issueOne (.cmpi g cond pair s imm) (opCmpi cond pair s imm) st)

/-- R296: the queue takes the condition on s[s] and s[t]. -/
def opCmpq (cond : BitVec 3) (s t : BitVec 6) : Op := fun st _ =>
  opPush st.iss.key (icmp cond.toNat (rdS (self st) s) (rdS (self st) t))

/-- R296: one such operation as a group. -/
def execCmpq (g : BitVec 4) (cond : BitVec 3) (s t : BitVec 6) (st : State) : Host.Outcome State Fault Refusal :=
  .next (issueOne (.cmpq g cond s t) (opCmpq cond s t) st)

/-- R297: the pair takes the F32 condition. -/
def opFcmp (cond pair : BitVec 3) (s t : BitVec 6) : Op := fun st _ =>
  let r := f32Cmp (self st) cond.toNat (f32In (self st) s) (f32In (self st) t)
  opCell st.iss.key fun c => wrPair (setFlags r.2 c) pair r.1

/-- R297: one such operation as a group. -/
def execFcmp (g : BitVec 4) (cond pair : BitVec 3) (s t : BitVec 6) (st : State) : Host.Outcome State Fault Refusal :=
  .next (issueOne (.fcmp g cond pair s t) (opFcmp cond pair s t) st)

/-- R297: the queue takes the F32 condition. -/
def opFcmpq (cond : BitVec 3) (s t : BitVec 6) : Op := fun st _ =>
  let k := st.iss.key
  let r := f32Cmp (self st) cond.toNat (f32In (self st) s) (f32In (self st) t)
  ⟨id, .done .push [(1, fun st => modCell st k (setFlags r.2)), (2, fun st => modCell st k (pushCq r.1))]⟩

/-- R297: one such operation as a group. -/
def execFcmpq (g : BitVec 4) (cond : BitVec 3) (s t : BitVec 6) (st : State) : Host.Outcome State Fault Refusal :=
  .next (issueOne (.fcmpq g cond s t) (opFcmpq cond s t) st)

/-! ### Predicate logic (R299) -/

/-- A form of predicate logic (R299). -/
def opPred (d s t : BitVec 4) (f : Bool → Bool → Bool) : Op := fun st _ =>
  opCell st.iss.key fun c => wrP c d.toNat (f (rdP (self st) s.toNat) (rdP (self st) t.toNat))

/-- R299: p[d] := p[s] AND p[t]. -/
def opPand (d s t : BitVec 4) : Op := opPred d s t fun x y => x && y

/-- R299: one such operation as a group. -/
def execPand (g d s t : BitVec 4) (st : State) : Host.Outcome State Fault Refusal :=
  .next (issueOne (.pand g d s t) (opPand d s t) st)

/-- R299: p[d] := p[s] OR p[t]. -/
def opPor (d s t : BitVec 4) : Op := opPred d s t fun x y => x || y

/-- R299: one such operation as a group. -/
def execPor (g d s t : BitVec 4) (st : State) : Host.Outcome State Fault Refusal :=
  .next (issueOne (.por g d s t) (opPor d s t) st)

/-- R299: p[d] := p[s] XOR p[t]. -/
def opPxor (d s t : BitVec 4) : Op := opPred d s t fun x y => xor x y

/-- R299: one such operation as a group. -/
def execPxor (g d s t : BitVec 4) (st : State) : Host.Outcome State Fault Refusal :=
  .next (issueOne (.pxor g d s t) (opPxor d s t) st)

/-- R299: p[d] := p[s] AND NOT p[t]. -/
def opPandn (d s t : BitVec 4) : Op := opPred d s t fun x y => x && !y

/-- R299: one such operation as a group. -/
def execPandn (g d s t : BitVec 4) (st : State) : Host.Outcome State Fault Refusal :=
  .next (issueOne (.pandn g d s t) (opPandn d s t) st)

/-! ### F32 arithmetic and conversion (R300, R301) -/

/-- R300: s[d] := x + y, rounded to F32. -/
def opFadd (d s t : BitVec 6) : Op := opF2 d s t fun ctl x y => addVal .f32 ctl x y

/-- R300: one such operation as a group. -/
def execFadd (g : BitVec 4) (d s t : BitVec 6) (st : State) : Host.Outcome State Fault Refusal :=
  .next (issueOne (.fadd g d s t) (opFadd d s t) st)

/-- R300: s[d] := x - y, rounded to F32. -/
def opFsub (d s t : BitVec 6) : Op := opF2 d s t fun ctl x y => addVal .f32 ctl x (negVal y)

/-- R300: one such operation as a group. -/
def execFsub (g : BitVec 4) (d s t : BitVec 6) (st : State) : Host.Outcome State Fault Refusal :=
  .next (issueOne (.fsub g d s t) (opFsub d s t) st)

/-- R300: s[d] := x * y, rounded to F32. -/
def opFmul (d s t : BitVec 6) : Op := opF2 d s t fun ctl x y => mulVal .f32 ctl x y

/-- R300: one such operation as a group. -/
def execFmul (g : BitVec 4) (d s t : BitVec 6) (st : State) : Host.Outcome State Fault Refusal :=
  .next (issueOne (.fmul g d s t) (opFmul d s t) st)

/-- R300: s[d] := x / y, rounded to F32. -/
def opFdiv (d s t : BitVec 6) : Op := opF2 d s t fun ctl x y => divVal .f32 ctl x y

/-- R300: one such operation as a group. -/
def execFdiv (g : BitVec 4) (d s t : BitVec 6) (st : State) : Host.Outcome State Fault Refusal :=
  .next (issueOne (.fdiv g d s t) (opFdiv d s t) st)

/-- R300: s[d] := the smaller F32 operand. -/
def opFmin (d s t : BitVec 6) : Op := 
  opFp d (fun c ctl => minMaxCode .f32 ctl.ftz false (f32In c s) (f32In c t)) (BitVec.ofNat 64)

/-- R300: one such operation as a group. -/
def execFmin (g : BitVec 4) (d s t : BitVec 6) (st : State) : Host.Outcome State Fault Refusal :=
  .next (issueOne (.fmin g d s t) (opFmin d s t) st)

/-- R300: s[d] := the greater F32 operand. -/
def opFmax (d s t : BitVec 6) : Op := 
  opFp d (fun c ctl => minMaxCode .f32 ctl.ftz true (f32In c s) (f32In c t)) (BitVec.ofNat 64)

/-- R300: one such operation as a group. -/
def execFmax (g : BitVec 4) (d s t : BitVec 6) (st : State) : Host.Outcome State Fault Refusal :=
  .next (issueOne (.fmax g d s t) (opFmax d s t) st)

/-- R300: s[d] := x * y + z, rounded once. -/
def opFma (d s t q : BitVec 6) : Op := 
  opFp d (fun c ctl => fmaVal .f32 ctl (f32Val c ctl s) (f32Val c ctl t) (f32Val c ctl q)) (BitVec.ofNat 64)

/-- R300: one such operation as a group. -/
def execFma (g : BitVec 4) (d s t q : BitVec 6) (st : State) : Host.Outcome State Fault Refusal :=
  .next (issueOne (.fma g d s t q) (opFma d s t q) st)

/-- R301: s[d] := s[s] converted between two types. -/
def opFcvt (d s : BitVec 6) (src dst : BitVec 3) : Op := 
  opFp d (fun c ctl => convertCode (cvtType src) (cvtType dst) ctl (cvtIn src (rdS c s))) (cvtOut dst)

/-- R301: one such operation as a group. -/
def execFcvt (g : BitVec 4) (d s : BitVec 6) (src dst : BitVec 3) (st : State) : Host.Outcome State Fault Refusal :=
  .next (issueOne (.fcvt g d s src dst) (opFcvt d s src dst) st)

end Sys2Proof.Machine
end

