-- ==== Sys2Proof/Machine/Control.lean ====
section
/-!
DEFINITION. Sys2Proof/Machine/Control.lean: the meanings of the branches, loops, barriers, YIELD and traps of class 2 (R302 to
R309).
-/
namespace Sys2Proof.Machine

/-! ### Branches -/

/-- The target of a branch with a word offset from its own slot (R283). -/
def wordTarget (addr : BitVec 64) (off : Int) : BitVec 64 := addr + BitVec.ofInt 64 (off * 4)

/-- The effect of a branch that is taken. -/
def jumpEff (k : Nat) (target : BitVec 64) : Nat × (State → State) :=
  (1, fun st => modCell st k fun c => { c with pc := target, branched := true })

/-- The fault of a target outside the 52-bit space (R283). -/
def targetTrap (target : BitVec 64) : TrapInfo := cellTrap causePage target (kindInfo .fetch 0)

/-- Effects and a branch, unless its target lies outside the address space. -/
def opJump (k : Nat) (tag : Tag) (target : BitVec 64) (effs : List (Nat × (State → State))) : OpOut :=
  if 2 ^ 52 ≤ target.toNat then opTrap (targetTrap target) else ⟨id, .done tag (effs ++ [jumpEff k target])⟩

/-- The write of the return address (R302). -/
def linkEff (k : Nat) (next : BitVec 64) : Nat × (State → State) := (1, fun st => modCell st k fun c => wrS c 63 next)

/-- A branch that saves its return address; the fetch of the next bundle comes before the commit (R302). -/
def opCallTo (st : State) (target : BitVec 64) : OpOut :=
  match st.iss.nextFault with
  | some t => opTrap t
  | none => opJump st.iss.key .plain target [linkEff st.iss.key st.iss.next]

/-- BRQ and BRQN: pop the head and branch where it equals `want` (R302); an empty queue is a WAIT (R135, R276). -/
def opQueueBranch (off : BitVec 26) (want : Bool) : Op := fun st _ =>
  let k := st.iss.key
  match (self st).cq with
  | [] => opWait
  | h :: _ =>
    let pop : Nat × (State → State) := (0, fun st => modCell st k fun c => { c with cq := c.cq.tail })
    if h = want then opJump k .pop (wordTarget st.iss.addr off.toInt) [pop] else ⟨id, .done .pop [pop]⟩

/-- The checks of a register target (R303), and what follows them. -/
def opRegTarget (target : BitVec 64) (go : OpOut) : OpOut :=
  if target.toNat % 4 ≠ 0 then opTrap (cellTrap causeAlign target 4)
  else if 2 ^ 52 ≤ target.toNat then opTrap (targetTrap target)
  else go


/-- R302: branch. -/
def opBr (off : BitVec 26) : Op := fun st _ =>
  opJump st.iss.key .plain (wordTarget st.iss.addr off.toInt) []

/-- R302: one such operation as a group. -/
def execBr (g : BitVec 4) (off : BitVec 26) (st : State) : Host.Outcome State Fault Refusal :=
  .next (issueOne (.br g off) (opBr off) st)

/-- R302: branch and s63 := the return address. -/
def opCall (off : BitVec 26) : Op := fun st _ => opCallTo st (wordTarget st.iss.addr off.toInt)

/-- R302: one such operation as a group. -/
def execCall (g : BitVec 4) (off : BitVec 26) (st : State) : Host.Outcome State Fault Refusal :=
  .next (issueOne (.call g off) (opCall off) st)

/-- R302: pop the head of the condition queue and branch where it is 1. -/
def opBrq (off : BitVec 26) : Op := opQueueBranch off true

/-- R302: one such operation as a group. -/
def execBrq (g : BitVec 4) (off : BitVec 26) (st : State) : Host.Outcome State Fault Refusal :=
  .next (issueOne (.brq g off) (opBrq off) st)

/-- R302: pop the head of the condition queue and branch where it is 0. -/
def opBrqn (off : BitVec 26) : Op := opQueueBranch off false

/-- R302: one such operation as a group. -/
def execBrqn (g : BitVec 4) (off : BitVec 26) (st : State) : Host.Outcome State Fault Refusal :=
  .next (issueOne (.brqn g off) (opBrqn off) st)

/-- R303: branch to s[s]. -/
def opBrr (s : BitVec 6) : Op := fun st _ =>
  let target := rdS (self st) s
  opRegTarget target (opJump st.iss.key .plain target [])

/-- R303: one such operation as a group. -/
def execBrr (g : BitVec 4) (s : BitVec 6) (st : State) : Host.Outcome State Fault Refusal :=
  .next (issueOne (.brr g s) (opBrr s) st)

/-- R303: branch to s[s], read before s63 := the return address. -/
def opCallr (s : BitVec 6) : Op := fun st _ =>
  let target := rdS (self st) s
  opRegTarget target (opCallTo st target)

/-- R303: one such operation as a group. -/
def execCallr (g : BitVec 4) (s : BitVec 6) (st : State) : Host.Outcome State Fault Refusal :=
  .next (issueOne (.callr g s) (opCallr s) st)

/-! ### Hardware loops -/

/-- Read a loop counter. -/
def rdLc (c : Cell) (n : BitVec 2) : BitVec 64 := tblGet 0 c.lc n.toNat

/-- R304: count down and branch while the counter is above 1. -/
def opLoop (n : BitVec 2) (off : BitVec 24) : Op := fun st _ =>
  let k := st.iss.key
  let v := rdLc (self st) n
  let put : Nat × (State → State) := (1, fun st => modCell st k fun c => wrLc c n (if 1 < v.toNat then v - 1 else 0))
  if 1 < v.toNat then opJump k .plain (wordTarget st.iss.addr off.toInt) [put] else ⟨id, .done .plain [put]⟩

/-- R304: one such operation as a group. -/
def execLoop (g : BitVec 4) (n : BitVec 2) (off : BitVec 24) (st : State) : Host.Outcome State Fault Refusal :=
  .next (issueOne (.loop g n off) (opLoop n off) st)

/-- R304: lc[n] := s[s]. -/
def opLcset (n : BitVec 2) (s : BitVec 6) : Op := fun st _ => opCell st.iss.key fun c => wrLc c n (rdS (self st) s)

/-- R304: one such operation as a group. -/
def execLcset (g : BitVec 4) (n : BitVec 2) (s : BitVec 6) (st : State) : Host.Outcome State Fault Refusal :=
  .next (issueOne (.lcset g n s) (opLcset n s) st)

/-! ### Barriers and yield -/

/-- R305, R142: arrive at a team barrier; a non-member raises ILLOP with the barrier number. -/
def opBarw (b : BitVec 3) : Op := fun st _ =>
  let k := st.iss.key
  let c := self st
  if isMember st c.ctx (144 + 2 * b.toNat) c.cell then ⟨id, .done .plain [(3, fun st => beginArrival st k true b.toNat)]⟩
  else opTrap (cellTrap causeIllop 0 b.toNat)

/-- R305, R142: one such operation as a group. -/
def execBarw (g : BitVec 4) (b : BitVec 3) (st : State) : Host.Outcome State Fault Refusal :=
  .next (issueOne (.barw g b) (opBarw b) st)

/-- A cell stops at its YIELD (R149, R306); its record is written by the save. -/
def yieldCell (s : State) (c : Cell) : Cell := { c with run := .stopped, stopBeat := s.pkg.beat, stopTime := s.pkg.gtime }

/-- R306: without a request, or in a trap handler, no effect; otherwise the cell stops once its engines are idle and the slots
it has published stand in their rings. -/
def opYield : Op := fun st _ =>
  let k := st.iss.key
  let c := self st
  if !c.yreq || c.busy then opNone
  else if c.copies.isEmpty && c.pubs.isEmpty && !cmdsLive c then ⟨id, .done .plain [(4, fun st => modCell st k (yieldCell st))]⟩
  else opStall

/-- R306: one such operation as a group. -/
def execYield (g : BitVec 4) (st : State) : Host.Outcome State Fault Refusal :=
  .next (issueOne (.yield g) (opYield) st)

/-! ### Traps and the condition queue -/

/-- R309: return from a trap; PRIV in user mode. -/
def opEret : Op := fun st _ =>
  if !(self st).super then opTrap (wordTrap causePriv st.iss.word)
  else opCell st.iss.key returned

/-- R309: one such operation as a group. -/
def execEret (g : BitVec 4) (st : State) : Host.Outcome State Fault Refusal :=
  .next (issueOne (.eret g) (opEret) st)

/-- R298: empty the condition queue. -/
def opCqclr : Op := fun st _ =>
  let k := st.iss.key
  ⟨id, .done .clear [(0, fun st => modCell st k fun c => { c with cq := [] })]⟩

/-- R298: one such operation as a group. -/
def execCqclr (g : BitVec 4) (st : State) : Host.Outcome State Fault Refusal :=
  .next (issueOne (.cqclr g) (opCqclr) st)

/-- R308: commit the group and take a SYSCALL trap whose TRAPPC names the next group. -/
def opSyscall (code : BitVec 20) : Op := fun st _ =>
  let i := st.iss
  match i.nextFault with
  | some t => opTrap t
  | none =>
    ⟨id, .done .plain [(4, fun st =>
      takeTrap st i.key (cellTrap causeSyscall 0 code.toNat) i.next (trapMask [i.idx]) false)]⟩

/-- R308: one such operation as a group. -/
def execSyscall (g : BitVec 4) (code : BitVec 20) (st : State) : Host.Outcome State Fault Refusal :=
  .next (issueOne (.syscall g code) (opSyscall code) st)

end Sys2Proof.Machine
end

