-- ==== Sys2Proof/Machine/System.lean ====
section
/-!
DEFINITION. Sys2Proof/Machine/System.lean: the meanings of MFSR, MTSR (R310, R311) and of TDSET, TDGET and TDINV (R312 to
R315).
-/
namespace Sys2Proof.Machine

/-! ### System registers -/

/-- PRIV with the slot word (R244). -/
def opPriv (st : State) : OpOut := opTrap (wordTrap causePriv st.iss.word)

/-- An MTSR that the mode allows, with what follows the commit. -/
def opSysWrite (st : State) (num : BitVec 12) (effs : List (Nat × (State → State))) : OpOut :=
  if sysWritable (self st).super num then ⟨id, .done .plain effs⟩ else opPriv st

/-- The effect of an MTSR on the cell. -/
def sysEff (k : Nat) (num : BitVec 12) (v : BitVec 64) (phase : Nat) : Nat × (State → State) :=
  (phase, fun st => modCell st k fun c => sysWrite c num v)

/-- Hand the current trap to the host (R243, R245, R311). -/
def handTrap (st : State) (k : Nat) : State :=
  let c := getCell st k
  toHost st k c.cause c.trappc c.trapaddr c.trapaux

/-- Set the generators from SEED (R234, R311). -/
def reseed (c : Cell) : Cell := { c with gens := seedGens (fmtctlSeed c.fmtctl) c.team c.cell }


/-- R310: s[d] := the system register as it stood before the group. -/
def opMfsr (d : BitVec 6) (num : BitVec 12) : Op := fun st _ =>
  if sysReadable (self st).super num then opScalar st d (sysValue st st.iss.key num) else opPriv st

/-- R310: one such operation as a group. -/
def execMfsr (g : BitVec 4) (d : BitVec 6) (num : BitVec 12) (st : State) : Host.Outcome State Fault Refusal :=
  .next (issueOne (.mfsr g d num) (opMfsr d num) st)

/-- R310: write a system register field by field. -/
def opMtsr (s : BitVec 6) (num : BitVec 12) : Op := fun st _ =>
  opSysWrite st num [sysEff st.iss.key num (rdS (self st) s) 1]

/-- R310: one such operation as a group. -/
def execMtsr (g : BitVec 4) (s : BitVec 6) (num : BitVec 12) (st : State) : Host.Outcome State Fault Refusal :=
  .next (issueOne (.mtsr g s num) (opMtsr s num) st)

/-- R243, R310: write TRAPCAUSE; HOST = 1 hands the trap to the host after the commit. -/
def opMtsrTrapcauseHost (s : BitVec 6) : Op := fun st _ =>
  let k := st.iss.key
  let v := rdS (self st) s
  let hand : List (Nat × (State → State)) := if v.getLsbD 63 then [(4, fun st => handTrap st k)] else []
  opSysWrite st 0x022#12 (sysEff k 0x022#12 v 1 :: hand)

/-- R243, R310: one such operation as a group. -/
def execMtsrTrapcauseHost (g : BitVec 4) (s : BitVec 6) (st : State) : Host.Outcome State Fault Refusal :=
  .next (issueOne (.mtsrTrapcauseHost g s) (opMtsrTrapcauseHost s) st)

/-- R231, R310: write FMTCTL; SEEDW = 1 sets the generators after the draws of the group. -/
def opMtsrFmtctlSeedw (s : BitVec 6) : Op := fun st _ =>
  let k := st.iss.key
  let v := rdS (self st) s
  let seed : List (Nat × (State → State)) := if v.getLsbD 7 then [(3, fun st => modCell st k reseed)] else []
  opSysWrite st 0x003#12 (sysEff k 0x003#12 v 0 :: seed)

/-- R231, R310: one such operation as a group. -/
def execMtsrFmtctlSeedw (g : BitVec 4) (s : BitVec 6) (st : State) : Host.Outcome State Fault Refusal :=
  .next (issueOne (.mtsrFmtctlSeedw g s) (opMtsrFmtctlSeedw s) st)

/-! ### Tensor descriptors -/

/-- A descriptor with VALID and GEN set. -/
def dStamp (d : Desc) (valid : Bool) (gen : Nat) : Desc :=
  (d &&& ~~~(BitVec.ofNat 512 (2 ^ 511 + (2 ^ 500 - 2 ^ 480)))) ||| BitVec.ofNat 512 (bit01 valid * 2 ^ 511 + gen * 2 ^ 480)

/-- The next generation (R312): 0 is skipped. -/
def nextGen (g : Nat) : Nat := if g + 1 < 2 ^ 20 then g + 1 else 1

/-- Remove a slot from every core's descriptor cache of a context (R176). -/
def dropDescs (st : State) (ctx slot : Nat) : State :=
  { st with cores := tblMapAll coreEmpty (fun _ u => { u with dcache := tblErase u.dcache (dcacheKey ctx slot) }) st.cores }

/-- Write a table entry as the device (R315). -/
def putEntry (st : State) (ctx slot pa : Nat) (d : Desc) : State := dropDescs (deviceWrite st pa (toBytes d.toNat 64)) ctx slot

/-- The 64 bytes at a checked address, read as a load of the cell reads them: 16-byte sectors one by one. -/
def readImage (s : State) (k pa : Nat) (clvl evp : BitVec 2) : State × List Byte × Bool :=
  foldIndex (fun (r : State × List Byte × Bool) i =>
    let (s1, bs, bad) := physLoad r.1 k (pa + 16 * i) 16 clvl evp
    (s1, r.2.1 ++ bs, r.2.2 || bad)) (s, [], false) 0 4

/-- The address of a 64-byte image, checked under R14; an aperture page raises PERM (R432). -/
def imageCheck (st : State) (k : Nat) (va : BitVec 64) (kind : Kind) : Except TrapInfo Leaf × (State → State) :=
  checkGlobal false st k va 64 0 kind

/-- The table entry of a slot, checked for a read and then for a write (R431): the entry and where it stands. -/
def entryCheck (st : State) (k slot : Nat) : Except TrapInfo (Desc × Nat) × (State → State) :=
  match tdEntry st k slot .read with
  | (.error t, w) => (.error t, w)
  | (.ok _, w) =>
    match tdEntry (w st) k slot .write with
    | (.error t, w2) => (.error t, fun s => w2 (w s))
    | (.ok (d, l), w2) => (.ok (d, leafPa l (tdAddr st (getCell st k).ctx slot)), fun s => w2 (w s))

/-- Replace a slot's entry and answer its new handle (R312, R314). -/
def opPutEntry (st : State) (d : BitVec 6) (slot pa gen : Nat) (e : Desc) (w : State → State) : OpOut :=
  let k := st.iss.key
  let ctx := (self st).ctx
  ⟨w, .done .plain [(1, fun st => modCell (putEntry st ctx slot pa e) k fun c =>
    wrS c d (BitVec.ofNat 64 (slot + gen * 4096)))]⟩

/-- R312: check a 64-byte image and write it to a descriptor slot. -/
def opTdset (d s t : BitVec 6) : Op := fun st _ =>
  let k := st.iss.key
  let c := self st
  let slot := (rdS c s).toNat % 4096
  let va := rdS c t
  match imageCheck st k va .read with
  | (.error x, w) => ⟨w, .trap x id⟩
  | (.ok l, w) =>
    if classPending c 0 || fencePending c (c.groupNo + 1) then ⟨w, .stall false none⟩
    else
      let read := fun (s : State) => readImage (w s) k (leafPa l va.toNat) (leafClvl l.bits) (leafEvp l.bits)
      let (st1, bs, bad) := read st
      let img : Desc := BitVec.ofNat 512 (ofBytes bs)
      let w1 := fun (s : State) => (read s).1
      if bad then ⟨w1, .trap (cellTrap causePoison va 0) id⟩
      else if !dGood img then ⟨w1, .trap (cellTrap causeShape 0 slot) id⟩
      else
        match entryCheck st1 k slot with
        | (.error x, w2) => ⟨fun s => w2 (w1 s), .trap x id⟩
        | (.ok (old, pa), w2) =>
          let g := nextGen (dGen old)
          opPutEntry st d slot pa g (dStamp img true g) fun s => w2 (w1 s)

/-- R312: one such operation as a group. -/
def execTdset (g : BitVec 4) (d s t : BitVec 6) (st : State) : Host.Outcome State Fault Refusal :=
  .next (issueOne (.tdset g d s t) (opTdset d s t) st)

/-- The stores of the 64 bytes of a descriptor in class 0 (R313). -/
def storeImage (c : Cell) (va : BitVec 64) (l : Leaf) (d : Desc) : Cell :=
  foldIndex (fun c i =>
    let a := va + BitVec.ofNat 64 (8 * i)
    addAccess c 0 8 a (.store (d.extractLsb' (64 * i) 64)) (globalPlace l a.toNat) .none) c 0 8

/-- R313: read a descriptor by its handle: its top 64 bits, and all of it to memory unless C is 0. -/
def opTdget (d s t : BitVec 6) : Op := fun st _ =>
  let k := st.iss.key
  let c := self st
  let va := rdS c t
  match tdt st k ((rdS c s).setWidth 32) with
  | (.error x, w) => ⟨w, .trap x id⟩
  | (.ok e, w) =>
    let top : Nat × (State → State) := (1, fun st => modCell st k fun c => wrS c d (e.extractLsb' 448 64))
    if t = 0 then ⟨w, .done .plain [top]⟩
    else
      match imageCheck (w st) k va .write with
      | (.error x, w2) => ⟨fun s => w2 (w s), .trap x id⟩
      | (.ok l, w2) =>
        ⟨fun s => w2 (w s), .done .plain [top, (1, fun st => modCell st k fun c => storeImage c va l e)]⟩

/-- R313: one such operation as a group. -/
def execTdget (g : BitVec 4) (d s t : BitVec 6) (st : State) : Host.Outcome State Fault Refusal :=
  .next (issueOne (.tdget g d s t) (opTdget d s t) st)

/-- R314: invalidate a descriptor slot by its handle. -/
def opTdinv (d s : BitVec 6) : Op := fun st _ =>
  let k := st.iss.key
  let h : BitVec 32 := (rdS (self st) s).setWidth 32
  match tdt st k h with
  | (.error x, w) => ⟨w, .trap x id⟩
  | (.ok _, w) =>
    match entryCheck (w st) k (h.toNat % 4096) with
    | (.error x, w2) => ⟨fun s => w2 (w s), .trap x id⟩
    | (.ok (old, pa), w2) =>
      let g := nextGen (dGen old)
      opPutEntry st d (h.toNat % 4096) pa g (dStamp old false g) fun s => w2 (w s)

/-- R314: one such operation as a group. -/
def execTdinv (g : BitVec 4) (d s : BitVec 6) (st : State) : Host.Outcome State Fault Refusal :=
  .next (issueOne (.tdinv g d s) (opTdinv d s) st)

end Sys2Proof.Machine
end

