-- ==== Sys2Proof/Machine/Transcend.lean ====
section
/-!
DEFINITION. Sys2Proof/Machine/Transcend.lean: the transcendental functions of R335 and R336. A result that the manual
leaves within a bound is a free value of Config inside that bound; the bound is measured against the exact function, taken
with 160 fractional bits (log 8).
-/
namespace Sys2Proof.Machine

/-! ### Fixed-point functions -/

/-- Fractional bits. -/
def fracBits : Nat := 160

/-- One in fixed point. -/
def fixOne : Nat := 2 ^ fracBits

/-- ln 2 in fixed point: the sum of 1 / (k * 2^k). -/
def fixLn2 : Nat := sumIndex (fun k => fixOne / (k * 2 ^ k)) 1 180

/-- The sum of z^k / k! over `n` more terms, the last term being `t` at index `k`. -/
def expTerms (z t k : Nat) : Nat → Nat
  | 0 => t
  | n + 1 => t + expTerms z (t * z / fixOne / (k + 1)) (k + 1) n

/-- e^z for z below 1, in fixed point. -/
def fixExp (z : Nat) : Nat := expTerms z fixOne 0 60

/-- The sum of w * y^i / (2 i + 1) over `n` terms from index `i`, with y in fixed point. -/
def atanhTerms (y w i : Nat) : Nat → Nat
  | 0 => 0
  | n + 1 => w / (2 * i + 1) + atanhTerms y (w * y / fixOne) (i + 1) n

/-- ln a for a in [1, 2), in fixed point: 2 atanh((a - 1) / (a + 1)). -/
def fixLn (a : Nat) : Nat :=
  let z := (a - fixOne) * fixOne / (a + fixOne)
  2 * atanhTerms (z * z / fixOne) z 0 60

/-- A magnitude as a fixed-point number, rounded down. -/
def fixOf (m : Nat) (e : Int) : Nat :=
  let (a, b) := scaleFrac m 1 (e + fracBits)
  a / b

/-! ### Exact values to measure against -/

/-- A real number (-1)^neg * num / den * 2^e; `exact` says that it is the function's own value and no approximation. -/
structure Approx where
  neg : Bool
  num : Nat
  den : Nat
  e : Int
  exact : Bool

/-- 2^x; exact where x is an integer. -/
def approxExp2 (neg : Bool) (m : Nat) (e : Int) : Approx :=
  let v : Int := if neg then -(fixOf m e : Int) else (fixOf m e : Int)
  let n := v / (fixOne : Nat)
  let f := (v - n * (fixOne : Nat)).toNat
  let (a, b) := scaleFrac m 1 e
  if a % b = 0 then ⟨false, 1, 1, n, true⟩
  else ⟨false, fixExp (f * fixLn2 / fixOne), 1, n - (fracBits : Int), false⟩

/-- log2 x for x positive. -/
def approxLog2 (m : Nat) (e : Int) : Approx :=
  let k := Nat.log2 m
  let a := m * fixOne / 2 ^ k
  let v : Int := ((k : Int) + e) * (fixOne : Nat) + ((fixLn a * fixOne / fixLn2 : Nat) : Int)
  ⟨decide (v < 0), v.natAbs, 1, -(fracBits : Int), false⟩

/-- 1 / x for x not zero. -/
def approxRcp (neg : Bool) (m : Nat) (e : Int) : Approx := ⟨neg, 1, m, -e, true⟩

/-- 1 / sqrt x for x positive: the square root of 2^400 / m at an even exponent. -/
def approxRsqrt (m : Nat) (e : Int) : Approx :=
  let (m1, e1) := if e % 2 = 0 then (m, e) else (2 * m, e - 1)
  ⟨false, sqrtBits (2 ^ 400 / m1) 201 0, 1, -(e1 / 2) - 200, false⟩

/-- tanh x for x not zero: (u - 1) / (u + 1) with u = e^(2 |x|). -/
def approxTanh (neg : Bool) (m : Nat) (e : Int) : Approx :=
  let v := 2 * fixOf m e
  let n := v / fixLn2
  let u := fixExp (v - n * fixLn2) * 2 ^ n
  ⟨neg, u - fixOne, u + fixOne, 0, false⟩

/-! ### The bound -/

/-- The quantum of a format at a magnitude num / den * 2^e: the unit in its last place. -/
def ulpExp (f : FFmt) (num den : Nat) (e : Int) : Int :=
  max (log2Frac num den + e) (1 - (ffBias f : Int)) - (ffManBits f : Int)

/-- Is |v - a| at most n units of the last place of a, or 2^absE when that is larger? `v` is (-1)^neg * m * 2^x. -/
def withinBound (f : FFmt) (n : Nat) (absE : Option Int) (a : Approx) (neg : Bool) (m : Nat) (x : Int) : Bool :=
  let u := ulpExp f a.num a.den a.e
  let base := min (min x a.e) (min u (absE.getD u))
  let at_ := fun (k : Nat) (e : Int) => k * 2 ^ (e - base).toNat
  let sgn := fun (s : Bool) (k : Nat) => if s then -(k : Int) else (k : Int)
  let diff := (sgn neg (at_ (m * a.den) x) - sgn a.neg (at_ a.num a.e)).natAbs
  let lim := max (at_ n u) (match absE with
    | some b => at_ 1 b
    | none => 0)
  decide (diff ≤ lim * a.den)

/-- Does a code lie within the bound? An infinity stands for the first value above the largest finite one. -/
def codeWithin (f : FFmt) (n : Nat) (absE : Option Int) (a : Approx) (code : Nat) : Bool :=
  match ffDecode f code with
  | .nan => false
  | .inf neg => withinBound f n absE a neg 1 128
  | .fin neg m e => withinBound f n absE a neg m e

/-- The result by bound (R335), with the flags of R336. -/
def byBound (f : FFmt) (fn n : Nat) (absE : Option Int) (ftz : Bool) (a : Approx) (x : Nat) : FpRes :=
  let free := Config.transcend fn (ffWidth f) x % 2 ^ ffWidth f
  let code := if codeWithin f n absE a free then free else (roundTo f plainCtl a.neg a.num a.den a.e).code
  match ffDecode f code with
  | .fin neg m e =>
    let same := a.exact && withinBound f 0 none a neg m e
    let tiny := decide (m < 2 ^ ffManBits f)
    if ftz && tiny && m != 0 then exactRes (ffSign f neg) ⟨true, true, false, false, false⟩
    else exactRes code ⟨!same, !same && tiny, false, false, false⟩
  | _ => exactRes code ⟨true, false, true, false, false⟩

/-- Is a magnitude m * 2^e a power of two, and of which exponent? -/
def pow2Exp (m : Nat) (e : Int) : Option Int := if m = 2 ^ Nat.log2 m then some ((Nat.log2 m : Nat) + e) else none

/-- The code of (-1)^neg * 2^k, when it is normal. -/
def pow2Code (f : FFmt) (neg : Bool) (k : Int) : Option Nat :=
  if 1 - (ffBias f : Int) ≤ k ∧ k ≤ (ffBias f : Int) then some ((roundTo f plainCtl neg 1 1 k).code) else none

/-- 1.0 in a format. -/
def oneCode (f : FFmt) : Nat := ffBias f * 2 ^ ffManBits f

/-- VEXP2 (R336). -/
def exp2Val (f : FFmt) (ftz : Bool) (code : Nat) : FpRes :=
  match ffRead f ftz code with
  | .nan => nanRes f
  | .inf n => exactRes (if n then 0 else ffInf f) fpNone
  | .fin neg m e =>
    if m = 0 then exactRes (oneCode f) fpNone
    else
      let (a, b) := scaleFrac m 1 e
      let low := if f = .f32 then 150 else 134
      let k : Int := if neg then -((a / b : Nat) : Int) else ((a / b : Nat) : Int)
      if !neg && decide (128 * b ≤ a) then exactRes (ffInf f) ⟨true, false, true, false, false⟩
      else if neg && decide (low * b < a) then exactRes 0 ⟨true, true, false, false, false⟩
      else if a % b = 0 ∧ -126 ≤ k ∧ k ≤ 127 then exactRes ((roundTo f plainCtl false 1 1 k).code) fpNone
      else byBound f 0 (if f = .f32 then 2 else 1) none ftz (approxExp2 neg m e) code

/-- VLOG2 (R336). -/
def log2Val (f : FFmt) (ftz : Bool) (code : Nat) : FpRes :=
  match ffRead f ftz code with
  | .nan => nanRes f
  | .inf n => if n then nanRes f else infRes f false
  | .fin neg m e =>
    if m = 0 then exactRes (ffSign f true + ffInf f) fpDZ
    else if neg then nanRes f
    else
      match pow2Exp m e with
      | some k => exactRes ((roundTo f plainCtl (decide (k < 0)) k.natAbs 1 0).code) fpNone
      | none =>
        byBound f 1 (if f = .f32 then 2 else 1) (some (if f = .f32 then -24 else -9)) ftz (approxLog2 m e) code

/-- VRCP (R336). -/
def rcpVal (f : FFmt) (ftz : Bool) (code : Nat) : FpRes :=
  match ffRead f ftz code with
  | .nan => nanRes f
  | .inf n => exactRes (ffSign f n) fpNone
  | .fin neg m e =>
    if m = 0 then exactRes (ffSign f neg + ffInf f) fpDZ
    else
      match pow2Exp m e with
      | some k =>
        match pow2Code f neg (-k) with
        | some r => exactRes r fpNone
        | none => byBound f 2 1 none ftz (approxRcp neg m e) code
      | none => byBound f 2 1 none ftz (approxRcp neg m e) code

/-- VRSQRT (R336). -/
def rsqrtVal (f : FFmt) (ftz : Bool) (code : Nat) : FpRes :=
  match ffRead f ftz code with
  | .nan => nanRes f
  | .inf n => if n then nanRes f else exactRes 0 fpNone
  | .fin neg m e =>
    if m = 0 then exactRes (ffSign f neg + ffInf f) fpDZ
    else if neg then nanRes f
    else
      match pow2Exp m e with
      | some k =>
        if k % 2 = 0 then exactRes ((roundTo f plainCtl false 1 1 (-(k / 2))).code) fpNone
        else byBound f 3 1 none ftz (approxRsqrt m e) code
      | none => byBound f 3 1 none ftz (approxRsqrt m e) code

/-- VTANH (R336). -/
def tanhVal (f : FFmt) (ftz : Bool) (code : Nat) : FpRes :=
  match ffRead f ftz code with
  | .nan => nanRes f
  | .inf n => exactRes (ffSign f n + oneCode f) fpNone
  | .fin neg m e =>
    if m = 0 then exactRes (ffSign f neg) fpNone
    else
      let (a, b) := scaleFrac m 1 e
      let nx : FpFlags := ⟨true, false, false, false, false⟩
      let tiny := decide (m < 2 ^ ffManBits f)
      if 10 * b ≤ a then exactRes (ffSign f neg + oneCode f) nx
      else if a * 2 ^ 12 < b then exactRes code { nx with uf := tiny }
      else byBound f 5 (if f = .f32 then 2 else 1) (some (if f = .f32 then -24 else -9)) ftz (approxTanh neg m e) code

end Sys2Proof.Machine
end

