-- ==== Sys2Proof/Machine/Vector.lean ====
section
/-!
DEFINITION. Sys2Proof/Machine/Vector.lean: the meanings of classes 3 and 4 (R317 to R336).
-/
namespace Sys2Proof.Machine

/-! ### Elements, lanes and masks (R229, R317) -/

/-- The element type of a code (R285). -/
def vecType (t : BitVec 4) : Fmt := (typeOfCode t.toNat).getD (.flt .f32)

/-- Element i of width w of a register. -/
def elemAt (c : Cell) (r : BitVec 6) (w i : Nat) : Nat := (rdV c r (i * w / 32)).toNat / 2 ^ (i * w % 32) % 2 ^ w

/-- A lane with the element at bit `pos` replaced. -/
def laneWith (x : BitVec 32) (w pos v : Nat) : BitVec 32 :=
  BitVec.ofNat 32 (x.toNat - x.toNat / 2 ^ pos % 2 ^ w * 2 ^ pos + v % 2 ^ w * 2 ^ pos)

/-- Write element i of width w of a register. -/
def putElem (c : Cell) (r : BitVec 6) (w i v : Nat) : Cell :=
  let l := i * w / 32
  wrV c r l (laneWith (rdV c r l) w (i * w % 32) v)

/-- A write of every lane clears the poison mark; a write of some lanes keeps it (R337). -/
def healV (c : Cell) (r : BitVec 6) (full : Bool) : Cell :=
  if full then { c with poisonV := tblErase c.poisonV r.toNat } else c

/-- Does a mask make every lane active? -/
def allLanes (m : BitVec 64) : Bool := m == BitVec.allOnes 64

/-- A vector operation: from the cell before the group, what it does to the cell at commit. -/
def opVec (f : Cell → Cell → Cell) : Op := fun st _ =>
  let c0 := self st
  opCell st.iss.key (f c0)

/-- Compute E elements of width `w` under a mask: element i lies in lane i * ww / 32; its rounding draws from that lane's
generator and its flags accrue (R231, R234, R317). -/
def vecLoop (c0 : Cell) (d : BitVec 6) (mask : BitVec 64) (ww w e : Nat) (f : Nat → FpCtl → FpRes) (c : Cell) : Cell :=
  let go := fun (c : Cell) (i : Nat) =>
    let l := i * ww / 32
    if mask.getLsbD l then
      let (r, gens) := drawOn c.gens l c0.fmtctl (f i)
      putElem { c with gens := gens, fmtctl := fmtctlOr c.fmtctl r.flags } d w i r.code
    else c
  healV (foldIndex go c 0 e) d (allLanes mask)

/-- An operation on two registers, element by element at a type (R317). -/
def opV3 (d s t : BitVec 6) (ty k : BitVec 4) (f : Fmt → FpCtl → Nat → Nat → FpRes) : Op :=
  opVec fun c0 c =>
    let w := fmtBits (vecType ty)
    vecLoop c0 d (rdM c0 k.toNat) w w (2048 / w) (fun i ctl => f (vecType ty) ctl (elemAt c0 s w i) (elemAt c0 t w i)) c

/-- An operation on one register, element by element at a type. -/
def opV2 (d s : BitVec 6) (ty k : BitVec 4) (f : Fmt → FpCtl → Nat → FpRes) : Op :=
  opVec fun c0 c =>
    let w := fmtBits (vecType ty)
    vecLoop c0 d (rdM c0 k.toNat) w w (2048 / w) (fun i ctl => f (vecType ty) ctl (elemAt c0 s w i)) c

/-- An operation on whole lanes that ignores T (R321, R328). -/
def opLanes (d : BitVec 6) (k : BitVec 4) (f : Cell → Nat → BitVec 32) : Op :=
  opVec fun c0 c => vecLoop c0 d (rdM c0 k.toNat) 32 32 64 (fun i _ => exactRes (f c0 i).toNat fpNone) c

/-! ### Element functions (R319 to R322) -/

/-- An arithmetic form: a floating-point function, and an integer one that wraps. -/
def arith (ff : FFmt → FpCtl → FVal → FVal → FpRes) (fi : Int → Int → Int) (ty : Fmt) (ctl : FpCtl) (x y : Nat) : FpRes :=
  match ty with
  | .flt f => ff f ctl (ffRead f ctl.ftz x) (ffRead f ctl.ftz y)
  | .int i => exactRes (lowBits (fi (intValue i.signed i.width x) (intValue i.signed i.width y)) i.width) fpNone

/-- VDIV: the quotient (R224, R319). -/
def vdivElem (ty : Fmt) (ctl : FpCtl) (x y : Nat) : FpRes :=
  match ty with
  | .flt f => divVal f ctl (ffRead f ctl.ftz x) (ffRead f ctl.ftz y)
  | .int i =>
    exactRes (lowBits (divInt i.signed i.width false (intValue i.signed i.width x) (intValue i.signed i.width y)) i.width)
      fpNone

/-- VMIN and VMAX. -/
def pickElem (greater : Bool) (ty : Fmt) (ctl : FpCtl) (x y : Nat) : FpRes :=
  match ty with
  | .flt f => minMaxCode f ctl.ftz greater x y
  | .int i =>
    let lt := decide (intValue i.signed i.width x < intValue i.signed i.width y)
    exactRes (if lt == greater then y else x) fpNone

/-- The saturating forms (R320). -/
def satElem (fi : Int → Int → Int) (ty : Fmt) (_ : FpCtl) (x y : Nat) : FpRes :=
  match ty with
  | .flt _ => exactRes 0 fpNone
  | .int i =>
    exactRes (lowBits (satInt i.signed i.width (fi (intValue i.signed i.width x) (intValue i.signed i.width y))) i.width)
      fpNone

/-- VSHL and VSHR (R225, R321). -/
def shiftElem (left : Bool) (ty : Fmt) (_ : FpCtl) (x y : Nat) : FpRes :=
  let w := fmtBits ty
  let n := y % w
  let signed := match ty with
    | .int i => i.signed
    | .flt _ => false
  if left then exactRes (x * 2 ^ n % 2 ^ w) fpNone
  else exactRes (lowBits (intValue signed w x / (2 ^ n : Nat)) w) fpNone

/-- VABS and VNEG (R322). -/
def signElem (neg : Bool) (ty : Fmt) (ctl : FpCtl) (x : Nat) : FpRes :=
  match ty with
  | .flt f =>
    if ffIsNaN f x then nanRes f
    else
      let y := flushCode f ctl.ftz x
      let top := 2 ^ (ffWidth f - 1)
      exactRes (if neg then (y + top) % (2 * top) else y % top) fpNone
  | .int i =>
    let v := intValue i.signed i.width x
    exactRes (lowBits (if neg then -v else (v.natAbs : Int)) i.width) fpNone


/-! ### Arithmetic and logic -/

/-- R319: element sums. -/
def opVadd (d s t : BitVec 6) (ty k : BitVec 4) : Op := opV3 d s t ty k (arith addVal fun x y => x + y)

/-- R319: one such operation as a group. -/
def execVadd (g : BitVec 4) (d s t : BitVec 6) (ty k : BitVec 4) (st : State) : Host.Outcome State Fault Refusal :=
  .next (issueOne (.vadd g d s t ty k) (opVadd d s t ty k) st)

/-- R319: element differences. -/
def opVsub (d s t : BitVec 6) (ty k : BitVec 4) : Op := opV3 d s t ty k (arith (fun f ctl x y => addVal f ctl x (negVal y)) fun x y => x - y)

/-- R319: one such operation as a group. -/
def execVsub (g : BitVec 4) (d s t : BitVec 6) (ty k : BitVec 4) (st : State) : Host.Outcome State Fault Refusal :=
  .next (issueOne (.vsub g d s t ty k) (opVsub d s t ty k) st)

/-- R319: element products. -/
def opVmul (d s t : BitVec 6) (ty k : BitVec 4) : Op := opV3 d s t ty k (arith mulVal fun x y => x * y)

/-- R319: one such operation as a group. -/
def execVmul (g : BitVec 4) (d s t : BitVec 6) (ty k : BitVec 4) (st : State) : Host.Outcome State Fault Refusal :=
  .next (issueOne (.vmul g d s t ty k) (opVmul d s t ty k) st)

/-- R319: element quotients. -/
def opVdiv (d s t : BitVec 6) (ty k : BitVec 4) : Op := opV3 d s t ty k vdivElem

/-- R319: one such operation as a group. -/
def execVdiv (g : BitVec 4) (d s t : BitVec 6) (ty k : BitVec 4) (st : State) : Host.Outcome State Fault Refusal :=
  .next (issueOne (.vdiv g d s t ty k) (opVdiv d s t ty k) st)

/-- R319: the smaller elements. -/
def opVmin (d s t : BitVec 6) (ty k : BitVec 4) : Op := opV3 d s t ty k (pickElem false)

/-- R319: one such operation as a group. -/
def execVmin (g : BitVec 4) (d s t : BitVec 6) (ty k : BitVec 4) (st : State) : Host.Outcome State Fault Refusal :=
  .next (issueOne (.vmin g d s t ty k) (opVmin d s t ty k) st)

/-- R319: the greater elements. -/
def opVmax (d s t : BitVec 6) (ty k : BitVec 4) : Op := opV3 d s t ty k (pickElem true)

/-- R319: one such operation as a group. -/
def execVmax (g : BitVec 4) (d s t : BitVec 6) (ty k : BitVec 4) (st : State) : Host.Outcome State Fault Refusal :=
  .next (issueOne (.vmax g d s t ty k) (opVmax d s t ty k) st)

/-- R320: saturated element sums. -/
def opVaddS (d s t : BitVec 6) (ty k : BitVec 4) : Op := opV3 d s t ty k (satElem fun x y => x + y)

/-- R320: one such operation as a group. -/
def execVaddS (g : BitVec 4) (d s t : BitVec 6) (ty k : BitVec 4) (st : State) : Host.Outcome State Fault Refusal :=
  .next (issueOne (.vaddS g d s t ty k) (opVaddS d s t ty k) st)

/-- R320: saturated element differences. -/
def opVsubS (d s t : BitVec 6) (ty k : BitVec 4) : Op := opV3 d s t ty k (satElem fun x y => x - y)

/-- R320: one such operation as a group. -/
def execVsubS (g : BitVec 4) (d s t : BitVec 6) (ty k : BitVec 4) (st : State) : Host.Outcome State Fault Refusal :=
  .next (issueOne (.vsubS g d s t ty k) (opVsubS d s t ty k) st)

/-- R321: lanes combined by AND; T is ignored. -/
def opVand (d s t : BitVec 6) (ty k : BitVec 4) : Op := opLanes d k fun c l => rdV c s l &&& rdV c t l

/-- R321: one such operation as a group. -/
def execVand (g : BitVec 4) (d s t : BitVec 6) (ty k : BitVec 4) (st : State) : Host.Outcome State Fault Refusal :=
  .next (issueOne (.vand g d s t ty k) (opVand d s t ty k) st)

/-- R321: lanes combined by OR; T is ignored. -/
def opVor (d s t : BitVec 6) (ty k : BitVec 4) : Op := opLanes d k fun c l => rdV c s l ||| rdV c t l

/-- R321: one such operation as a group. -/
def execVor (g : BitVec 4) (d s t : BitVec 6) (ty k : BitVec 4) (st : State) : Host.Outcome State Fault Refusal :=
  .next (issueOne (.vor g d s t ty k) (opVor d s t ty k) st)

/-- R321: lanes combined by XOR; T is ignored. -/
def opVxor (d s t : BitVec 6) (ty k : BitVec 4) : Op := opLanes d k fun c l => rdV c s l ^^^ rdV c t l

/-- R321: one such operation as a group. -/
def execVxor (g : BitVec 4) (d s t : BitVec 6) (ty k : BitVec 4) (st : State) : Host.Outcome State Fault Refusal :=
  .next (issueOne (.vxor g d s t ty k) (opVxor d s t ty k) st)

/-- R321: elements shifted left. -/
def opVshl (d s t : BitVec 6) (ty k : BitVec 4) : Op := opV3 d s t ty k (shiftElem true)

/-- R321: one such operation as a group. -/
def execVshl (g : BitVec 4) (d s t : BitVec 6) (ty k : BitVec 4) (st : State) : Host.Outcome State Fault Refusal :=
  .next (issueOne (.vshl g d s t ty k) (opVshl d s t ty k) st)

/-- R321: elements shifted right. -/
def opVshr (d s t : BitVec 6) (ty k : BitVec 4) : Op := opV3 d s t ty k (shiftElem false)

/-- R321: one such operation as a group. -/
def execVshr (g : BitVec 4) (d s t : BitVec 6) (ty k : BitVec 4) (st : State) : Host.Outcome State Fault Refusal :=
  .next (issueOne (.vshr g d s t ty k) (opVshr d s t ty k) st)

/-- R322: absolute values. -/
def opVabs (d s : BitVec 6) (ty k : BitVec 4) : Op := opV2 d s ty k (signElem false)

/-- R322: one such operation as a group. -/
def execVabs (g : BitVec 4) (d s : BitVec 6) (ty k : BitVec 4) (st : State) : Host.Outcome State Fault Refusal :=
  .next (issueOne (.vabs g d s ty k) (opVabs d s ty k) st)

/-- R322: negated elements. -/
def opVneg (d s : BitVec 6) (ty k : BitVec 4) : Op := opV2 d s ty k (signElem true)

/-- R322: one such operation as a group. -/
def execVneg (g : BitVec 4) (d s : BitVec 6) (ty k : BitVec 4) (st : State) : Host.Outcome State Fault Refusal :=
  .next (issueOne (.vneg g d s ty k) (opVneg d s ty k) st)

/-- R322: lanes copied whole; T is ignored. -/
def opVmov (d s : BitVec 6) (ty k : BitVec 4) : Op := opLanes d k fun c l => rdV c s l

/-- R322: one such operation as a group. -/
def execVmov (g : BitVec 4) (d s : BitVec 6) (ty k : BitVec 4) (st : State) : Host.Outcome State Fault Refusal :=
  .next (issueOne (.vmov g d s ty k) (opVmov d s ty k) st)

/-- A fused multiply-add at a type (R323). -/
def opVfma (f : FFmt) (d s t q : BitVec 6) (k : BitVec 2) : Op :=
  opVec fun c0 c =>
    let w := ffWidth f
    vecLoop c0 d (rdM c0 k.toNat) w w (2048 / w) (fun i ctl =>
      fmaVal f ctl (ffRead f ctl.ftz (elemAt c0 s w i)) (ffRead f ctl.ftz (elemAt c0 t w i))
        (ffRead f ctl.ftz (elemAt c0 q w i))) c

/-- R323: F32 x * y + z, rounded once. -/
def opVfmaF32 (d s t q : BitVec 6) (k : BitVec 2) : Op := opVfma .f32 d s t q k

/-- R323: one such operation as a group. -/
def execVfmaF32 (g : BitVec 4) (d s t q : BitVec 6) (k : BitVec 2) (st : State) : Host.Outcome State Fault Refusal :=
  .next (issueOne (.vfmaF32 g d s t q k) (opVfmaF32 d s t q k) st)

/-- R323: BF16 x * y + z, rounded once. -/
def opVfmaBf16 (d s t q : BitVec 6) (k : BitVec 2) : Op := opVfma .bf16 d s t q k

/-- R323: one such operation as a group. -/
def execVfmaBf16 (g : BitVec 4) (d s t q : BitVec 6) (k : BitVec 2) (st : State) : Host.Outcome State Fault Refusal :=
  .next (issueOne (.vfmaBf16 g d s t q k) (opVfmaBf16 d s t q k) st)

/-! ### Selection, compares and mask logic -/

/-- R324: every lane from s or from t by the mask. -/
def opVsel (d s t : BitVec 6) (ty k : BitVec 4) : Op := opVec fun c0 c =>
  wrVAll c d ((List.range 64).map fun l => if (rdM c0 k.toNat).getLsbD l then rdV c0 s l else rdV c0 t l)

/-- R324: one such operation as a group. -/
def execVsel (g : BitVec 4) (d s t : BitVec 6) (ty k : BitVec 4) (st : State) : Host.Outcome State Fault Refusal :=
  .next (issueOne (.vsel g d s t ty k) (opVsel d s t ty k) st)

/-- The type code of a vector compare for `vcmpLane`: 0 f32, 2 i32, 3 n32. -/
def cmpLanes (c0 : Cell) (cond : BitVec 3) (s t : BitVec 6) (ty k : BitVec 4) (l : Nat) : Bool × FpFlags :=
  if (rdM c0 k.toNat).getLsbD l then
    vcmpLane ty.toNat cond.toNat (fmtctlCtl c0.fmtctl 0).ftz (rdV c0 s l) (rdV c0 t l)
  else (false, fpNone)

/-- The lanes on which a vector compare holds, and its flags (R325). -/
def cmpMask (c0 : Cell) (cond : BitVec 3) (s t : BitVec 6) (ty k : BitVec 4) : BitVec 64 × FpFlags :=
  (BitVec.ofNat 64 (maskOf (fun l => (cmpLanes c0 cond s t ty k l).1) 64),
    (List.range 64).foldl (fun f l => fpOr f (cmpLanes c0 cond s t ty k l).2) fpNone)

/-- R325: a mask pair takes the condition and its complement on active lanes, 0 elsewhere. -/
def opVcmp (cond pair : BitVec 3) (s t : BitVec 6) (ty k : BitVec 4) : Op := opVec fun c0 c =>
  let (m, f) := cmpMask c0 cond s t ty k
  wrM (wrM (setFlags f c) (2 * pair.toNat) m) (2 * pair.toNat + 1) (rdM c0 k.toNat &&& ~~~m)

/-- R325: one such operation as a group. -/
def execVcmp (g : BitVec 4) (cond pair : BitVec 3) (s t : BitVec 6) (ty k : BitVec 4) (st : State) : Host.Outcome State Fault Refusal :=
  .next (issueOne (.vcmp g cond pair s t ty k) (opVcmp cond pair s t ty k) st)

/-- R325: push the OR of the condition over active lanes. -/
def opVcmpq (cond : BitVec 3) (s t : BitVec 6) (ty k : BitVec 4) : Op := fun st _ =>
  let i := st.iss.key
  let (m, f) := cmpMask (self st) cond s t ty k
  ⟨id, .done .push [(1, fun st => modCell st i (setFlags f)), (2, fun st => modCell st i (pushCq (m != 0)))]⟩

/-- R325: one such operation as a group. -/
def execVcmpq (g : BitVec 4) (cond : BitVec 3) (s t : BitVec 6) (ty k : BitVec 4) (st : State) : Host.Outcome State Fault Refusal :=
  .next (issueOne (.vcmpq g cond s t ty k) (opVcmpq cond s t ty k) st)

/-- A form of mask logic (R326). -/
def opMask (d s t : BitVec 4) (f : BitVec 64 → BitVec 64 → BitVec 64) : Op :=
  opVec fun c0 c => wrM c d.toNat (f (rdM c0 s.toNat) (rdM c0 t.toNat))

/-- R326: m[d] := m[s] AND m[t]. -/
def opMand (d s t : BitVec 4) : Op := opMask d s t fun x y => x &&& y

/-- R326: one such operation as a group. -/
def execMand (g d s t : BitVec 4) (st : State) : Host.Outcome State Fault Refusal :=
  .next (issueOne (.mand g d s t) (opMand d s t) st)

/-- R326: m[d] := m[s] OR m[t]. -/
def opMor (d s t : BitVec 4) : Op := opMask d s t fun x y => x ||| y

/-- R326: one such operation as a group. -/
def execMor (g d s t : BitVec 4) (st : State) : Host.Outcome State Fault Refusal :=
  .next (issueOne (.mor g d s t) (opMor d s t) st)

/-- R326: m[d] := m[s] XOR m[t]. -/
def opMxor (d s t : BitVec 4) : Op := opMask d s t fun x y => x ^^^ y

/-- R326: one such operation as a group. -/
def execMxor (g d s t : BitVec 4) (st : State) : Host.Outcome State Fault Refusal :=
  .next (issueOne (.mxor g d s t) (opMxor d s t) st)

/-- R326: m[d] := m[s] AND NOT m[t]. -/
def opMandn (d s t : BitVec 4) : Op := opMask d s t fun x y => x &&& ~~~y

/-- R326: one such operation as a group. -/
def execMandn (g d s t : BitVec 4) (st : State) : Host.Outcome State Fault Refusal :=
  .next (issueOne (.mandn g d s t) (opMandn d s t) st)

/-! ### Moves between lanes and scalars -/

/-- R327: the low bits of s[s] into every active element. -/
def opVbcast (d s : BitVec 6) (ty k : BitVec 4) : Op := opVec fun c0 c =>
  let w := fmtBits (vecType ty)
  vecLoop c0 d (rdM c0 k.toNat) w w (2048 / w) (fun _ _ => exactRes ((rdS c0 s).toNat % 2 ^ w) fpNone) c

/-- R327: one such operation as a group. -/
def execVbcast (g : BitVec 4) (d s : BitVec 6) (ty k : BitVec 4) (st : State) : Host.Outcome State Fault Refusal :=
  .next (issueOne (.vbcast g d s ty k) (opVbcast d s ty k) st)

/-- R327: s[d] := element s[t] mod E of vs; sign-extended for the .i types. -/
def opVget (d s t : BitVec 6) (ty : BitVec 4) : Op := fun st _ =>
  let c := self st
  let w := fmtBits (vecType ty)
  let x := elemAt c s w ((rdS c t).toNat % (2048 / w))
  opScalar st d (loadValue (ty == 2 || ty == 4 || ty == 6) 8 (if ty == 2 || ty == 4 || ty == 6 then lowBits (sextInt x w) 64 else x))

/-- R327: one such operation as a group. -/
def execVget (g : BitVec 4) (d s t : BitVec 6) (ty : BitVec 4) (st : State) : Host.Outcome State Fault Refusal :=
  .next (issueOne (.vget g d s t ty) (opVget d s t ty) st)

/-- R327: element s[t] mod E := the low bits of s[s], where its lane is active. -/
def opVset (d s t : BitVec 6) (ty k : BitVec 4) : Op := opVec fun c0 c =>
  let w := fmtBits (vecType ty)
  let i := (rdS c0 t).toNat % (2048 / w)
  if (rdM c0 k.toNat).getLsbD (i * w / 32) then putElem c d w i ((rdS c0 s).toNat % 2 ^ w) else c

/-- R327: one such operation as a group. -/
def execVset (g : BitVec 4) (d s t : BitVec 6) (ty k : BitVec 4) (st : State) : Host.Outcome State Fault Refusal :=
  .next (issueOne (.vset g d s t ty k) (opVset d s t ty k) st)

/-- R328: each active lane l := lane bits(vt lane l, 5, 0) of vs. -/
def opVperm (d s t : BitVec 6) (ty k : BitVec 4) : Op := opLanes d k fun c l => rdV c s ((rdV c t l).toNat % 64)

/-- R328: one such operation as a group. -/
def execVperm (g : BitVec 4) (d s t : BitVec 6) (ty k : BitVec 4) (st : State) : Host.Outcome State Fault Refusal :=
  .next (issueOne (.vperm g d s t ty k) (opVperm d s t ty k) st)

/-- R328: each active lane l := lane (l + 64 - n) mod 64 of vs, n := s[t] mod 64. -/
def opVrot (d s t : BitVec 6) (ty k : BitVec 4) : Op := opLanes d k fun c l => rdV c s ((l + 64 - (rdS c t).toNat % 64) % 64)

/-- R328: one such operation as a group. -/
def execVrot (g : BitVec 4) (d s t : BitVec 6) (ty k : BitVec 4) (st : State) : Host.Outcome State Fault Refusal :=
  .next (issueOne (.vrot g d s t ty k) (opVrot d s t ty k) st)

/-! ### Conversions and block scales -/

/-- Zero the lanes from `l` on (R329 to R331). -/
def zeroLanes (d : BitVec 6) (l : Nat) (c : Cell) : Cell := foldIndex (fun c i => wrV c d i 0) c l (64 - l)

/-- R329: elements converted between two types; a narrowing zeroes the lanes above. -/
def opVcvt (d s : BitVec 6) (dst src k : BitVec 4) : Op := opVec fun c0 c =>
  let from_ := vecType src
  let tgt := vecType dst
  let wf := fmtBits from_
  let wt := fmtBits tgt
  let ww := max wf wt
  let n := 2048 / ww
  let c1 := vecLoop c0 d (rdM c0 k.toNat) ww wt n (fun i ctl => convertCode from_ tgt ctl (elemAt c0 s wf i)) c
  if wt < ww then zeroLanes d (n * wt / 32) c1 else c1

/-- R329: one such operation as a group. -/
def execVcvt (g : BitVec 4) (d s : BitVec 6) (dst src k : BitVec 4) (st : State) : Host.Outcome State Fault Refusal :=
  .next (issueOne (.vcvt g d s dst src k) (opVcvt d s dst src k) st)

/-- The floating-point format of a type code. -/
def vecFloat (ty : BitVec 4) : FFmt :=
  match vecType ty with
  | .flt f => f
  | .int _ => .f32

/-- One element of VQNT (R331): the exact quotient by the block's scale, converted; a zero scale gives a zero. -/
def quantElem (tgt : FFmt) (ctl : FpCtl) (x sc : Nat) : FpRes :=
  match ffRead .f32 ctl.ftz x, ffDecode .e3m5 sc with
  | .nan, _ => floatToFloat .f32 tgt ctl .nan
  | _, .nan => floatToFloat .f32 tgt ctl .nan
  | .inf n, _ => floatToFloat .f32 tgt ctl (.inf n)
  | .fin n m e, .fin _ sm se =>
    if sm = 0 then exactRes (ffSign tgt n) ⟨decide (m ≠ 0), false, false, false, false⟩
    else roundTo tgt ctl n m sm (e - se)
  | .fin n _ _, .inf _ => exactRes (ffSign tgt n) fpNone

/-- One element of VDQNT (R332): the exact product with the block's scale. -/
def dequantElem (from_ : FFmt) (x sc : Nat) : FpRes :=
  { mulVal .f32 plainCtl (ffDecode from_ x) (ffDecode .e3m5 sc) with rounded := false }

/-- R331: 64 F32 lanes divided by their block scales and narrowed. -/
def opVqnt (d s t : BitVec 6) (ty k : BitVec 4) : Op := opVec fun c0 c =>
  let tgt := vecFloat ty
  let w := ffWidth tgt
  let c1 := vecLoop c0 d (rdM c0 k.toNat) 32 w 64 (fun i ctl =>
    quantElem tgt ctl (rdV c0 s i).toNat (elemAt c0 t 8 (i / 8))) c
  zeroLanes d (64 * w / 32) c1

/-- R331: one such operation as a group. -/
def execVqnt (g : BitVec 4) (d s t : BitVec 6) (ty k : BitVec 4) (st : State) : Host.Outcome State Fault Refusal :=
  .next (issueOne (.vqnt g d s t ty k) (opVqnt d s t ty k) st)

/-- R332: 64 elements multiplied by their block scales, as F32. -/
def opVdqnt (d s t : BitVec 6) (ty k : BitVec 4) : Op := opVec fun c0 c =>
  let from_ := vecFloat ty
  vecLoop c0 d (rdM c0 k.toNat) 32 32 64 (fun i _ =>
    dequantElem from_ (elemAt c0 s (ffWidth from_) i) (elemAt c0 t 8 (i / 8))) c

/-- R332: one such operation as a group. -/
def execVdqnt (g : BitVec 4) (d s t : BitVec 6) (ty k : BitVec 4) (st : State) : Host.Outcome State Fault Refusal :=
  .next (issueOne (.vdqnt g d s t ty k) (opVdqnt d s t ty k) st)

/-- The code of a datum that a format holds exactly. -/
def exactCode (f : FFmt) : FVal → Nat
  | .nan => ffNaN f
  | .inf n => ffSign f n + ffInf f
  | .fin n m e => (roundTo f plainCtl n m 1 e).code

/-- The greater of two data; a NaN stays (R330). -/
def maxVal (x y : FVal) : FVal :=
  match x, y with
  | .nan, _ => .nan
  | _, .nan => .nan
  | x, y => if beforeVal x y then y else x

/-- The magnitude of a datum. -/
def absVal : FVal → FVal
  | .nan => .nan
  | .inf _ => .inf false
  | .fin _ m e => .fin false m e

/-- The block maximum of VBAMAX with lane b of vt (R330). -/
def blockMax (c0 : Cell) (f : FFmt) (s t : BitVec 6) (mask : BitVec 64) (b : Nat) : FVal :=
  let ftz := (fmtctlCtl c0.fmtctl 0).ftz
  let w := ffWidth f
  let a := (List.range 8).foldl (fun a j =>
    let i := 8 * b + j
    if mask.getLsbD (i * w / 32) then maxVal a (absVal (ffRead f ftz (elemAt c0 s w i))) else a) (.fin false 0 0)
  maxVal a (ffRead .f32 ftz (rdV c0 t b).toNat)

/-- R330: the absolute maximum of each block of 8 elements, running with vt; the lanes above are zero. -/
def opVbamax (d s t : BitVec 6) (ty k : BitVec 4) : Op := opVec fun c0 c =>
  let f := vecFloat ty
  let blocks := 2048 / ffWidth f / 8
  let val := blockMax c0 f s t (rdM c0 k.toNat)
  let nv := (List.range blocks).any fun b => isNaNVal (val b)
  let lanes := (List.range 64).map fun b => if b < blocks then BitVec.ofNat 32 (exactCode .f32 (val b)) else 0
  wrVAll (if nv then setFlags fpNV c else c) d lanes

/-- R330: one such operation as a group. -/
def execVbamax (g : BitVec 4) (d s t : BitVec 6) (ty k : BitVec 4) (st : State) : Host.Outcome State Fault Refusal :=
  .next (issueOne (.vbamax g d s t ty k) (opVbamax d s t ty k) st)

/-! ### Reductions and scans -/

/-- The quantum of exact sums: below every subnormal of F32 and BF16. -/
def sumExp : Int := -149

/-- An exact sum of data under the rules of R333: the sum in units of 2^-149, the infinities and NaN seen, and whether all
terms were -0 or all +0. -/
structure ExactSum where
  sum : Int
  posInf : Bool
  negInf : Bool
  nan : Bool
  allNeg : Bool
  allPos : Bool
  some : Bool

/-- The empty sum. -/
def sumNone : ExactSum := ⟨0, false, false, false, true, true, false⟩

/-- Add a datum. -/
def sumAdd (a : ExactSum) (x : FVal) : ExactSum :=
  match x with
  | .nan => { a with nan := true, some := true }
  | .inf true => { a with negInf := true, some := true }
  | .inf false => { a with posInf := true, some := true }
  | .fin n m e =>
    let v : Int := (m * 2 ^ (e - sumExp).toNat : Nat)
    { a with
      sum := a.sum + (if n then -v else v)
      allNeg := a.allNeg && n && m == 0
      allPos := a.allPos && !n && m == 0
      some := true }

/-- The sum rounded once (R333). -/
def sumRound (f : FFmt) (ctl : FpCtl) (a : ExactSum) : FpRes :=
  if !a.some then exactRes 0 fpNone
  else if a.nan || (a.posInf && a.negInf) then nanRes f
  else if a.posInf || a.negInf then infRes f a.negInf
  else if a.sum = 0 then roundTo f ctl (a.allNeg || (!a.allPos && decide (ctl.rm = .rdn))) 0 1 0
  else roundTo f ctl (decide (a.sum < 0)) a.sum.natAbs 1 sumExp

/-- The indices of the active elements of width w. -/
def activeElems (mask : BitVec 64) (w : Nat) : List Nat := (List.range (2048 / w)).filter fun i => mask.getLsbD (i * w / 32)

/-- A reduction: r by the active elements, under the draw of lane 0, into every element (R333). -/
def opReduce (d s : BitVec 6) (ty k : BitVec 4) (f : Fmt → FpCtl → List Nat → FpRes) : Op :=
  opVec fun c0 c =>
    let w := fmtBits (vecType ty)
    let xs := (activeElems (rdM c0 k.toNat) w).map (elemAt c0 s w)
    let (r, gens) := drawOn c.gens 0 c0.fmtctl fun ctl => f (vecType ty) ctl xs
    let c1 := { c with gens := gens, fmtctl := fmtctlOr c.fmtctl r.flags }
    healV (foldIndex (fun c i => putElem c d w i r.code) c1 0 (2048 / w)) d true

/-- The sum of elements (R333). -/
def sumElems (ty : Fmt) (ctl : FpCtl) (xs : List Nat) : FpRes :=
  match ty with
  | .flt f => sumRound f ctl (xs.foldl (fun a x => sumAdd a (ffRead f ctl.ftz x)) sumNone)
  | .int i => exactRes (xs.foldl (fun a x => (a + x) % 2 ^ i.width) 0) fpNone

/-- The extreme of elements; without any, the type's own extreme (R333). -/
def pickElems (greater : Bool) (ty : Fmt) (ctl : FpCtl) (xs : List Nat) : FpRes :=
  match xs with
  | [] =>
    match ty with
    | .flt f => exactRes (ffSign f greater + ffInf f) fpNone
    | .int i => exactRes (lowBits (if greater then intMin i.signed i.width else intMax i.signed i.width) i.width) fpNone
  | x :: r =>
    r.foldl (fun a y =>
      let b := pickElem greater ty ctl a.code y
      { b with flags := fpOr a.flags b.flags }) (pickElem greater ty ctl x x)

/-- R333: the sum of the active elements into every element. -/
def opVrsum (d s : BitVec 6) (ty k : BitVec 4) : Op := opReduce d s ty k sumElems

/-- R333: one such operation as a group. -/
def execVrsum (g : BitVec 4) (d s : BitVec 6) (ty k : BitVec 4) (st : State) : Host.Outcome State Fault Refusal :=
  .next (issueOne (.vrsum g d s ty k) (opVrsum d s ty k) st)

/-- R333: the greatest active element into every element. -/
def opVrmax (d s : BitVec 6) (ty k : BitVec 4) : Op := opReduce d s ty k (pickElems true)

/-- R333: one such operation as a group. -/
def execVrmax (g : BitVec 4) (d s : BitVec 6) (ty k : BitVec 4) (st : State) : Host.Outcome State Fault Refusal :=
  .next (issueOne (.vrmax g d s ty k) (opVrmax d s ty k) st)

/-- R333: the smallest active element into every element. -/
def opVrmin (d s : BitVec 6) (ty k : BitVec 4) : Op := opReduce d s ty k (pickElems false)

/-- R333: one such operation as a group. -/
def execVrmin (g : BitVec 4) (d s : BitVec 6) (ty k : BitVec 4) (st : State) : Host.Outcome State Fault Refusal :=
  .next (issueOne (.vrmin g d s ty k) (opVrmin d s ty k) st)

/-- R334: each active lane := the sum of the active lanes up to it. -/
def opVscan (d s : BitVec 6) (ty k : BitVec 4) : Op := opVec fun c0 c =>
  let m := rdM c0 k.toNat
  vecLoop c0 d m 32 32 64 (fun i ctl =>
    sumElems (vecType ty) ctl (((List.range (i + 1)).filter fun l => m.getLsbD l).map fun l => (rdV c0 s l).toNat)) c

/-- R334: one such operation as a group. -/
def execVscan (g : BitVec 4) (d s : BitVec 6) (ty k : BitVec 4) (st : State) : Host.Outcome State Fault Refusal :=
  .next (issueOne (.vscan g d s ty k) (opVscan d s ty k) st)

/-! ### Transcendentals (R335, R336) -/

/-- A function of one element at F32 or BF16. -/
def opFun (d s : BitVec 6) (ty k : BitVec 4) (f : FFmt → Bool → Nat → FpRes) : Op :=
  opV2 d s ty k fun t ctl x => match t with
    | .flt g => f g ctl.ftz x
    | .int _ => exactRes 0 fpNone

/-- R335: 2^x within its bound. -/
def opVexp2 (d s : BitVec 6) (ty k : BitVec 4) : Op := opFun d s ty k exp2Val

/-- R335: one such operation as a group. -/
def execVexp2 (g : BitVec 4) (d s : BitVec 6) (ty k : BitVec 4) (st : State) : Host.Outcome State Fault Refusal :=
  .next (issueOne (.vexp2 g d s ty k) (opVexp2 d s ty k) st)

/-- R335: log2 x within its bound. -/
def opVlog2 (d s : BitVec 6) (ty k : BitVec 4) : Op := opFun d s ty k log2Val

/-- R335: one such operation as a group. -/
def execVlog2 (g : BitVec 4) (d s : BitVec 6) (ty k : BitVec 4) (st : State) : Host.Outcome State Fault Refusal :=
  .next (issueOne (.vlog2 g d s ty k) (opVlog2 d s ty k) st)

/-- R335: 1 / x within its bound. -/
def opVrcp (d s : BitVec 6) (ty k : BitVec 4) : Op := opFun d s ty k rcpVal

/-- R335: one such operation as a group. -/
def execVrcp (g : BitVec 4) (d s : BitVec 6) (ty k : BitVec 4) (st : State) : Host.Outcome State Fault Refusal :=
  .next (issueOne (.vrcp g d s ty k) (opVrcp d s ty k) st)

/-- R335: 1 / sqrt x within its bound. -/
def opVrsqrt (d s : BitVec 6) (ty k : BitVec 4) : Op := opFun d s ty k rsqrtVal

/-- R335: one such operation as a group. -/
def execVrsqrt (g : BitVec 4) (d s : BitVec 6) (ty k : BitVec 4) (st : State) : Host.Outcome State Fault Refusal :=
  .next (issueOne (.vrsqrt g d s ty k) (opVrsqrt d s ty k) st)

/-- R335: sqrt x, correctly rounded. -/
def opVsqrt (d s : BitVec 6) (ty k : BitVec 4) : Op := opV2 d s ty k fun t ctl x => match t with
  | .flt g => sqrtVal g ctl (ffRead g ctl.ftz x)
  | .int _ => exactRes 0 fpNone

/-- R335: one such operation as a group. -/
def execVsqrt (g : BitVec 4) (d s : BitVec 6) (ty k : BitVec 4) (st : State) : Host.Outcome State Fault Refusal :=
  .next (issueOne (.vsqrt g d s ty k) (opVsqrt d s ty k) st)

/-- R335: tanh x within its bound. -/
def opVtanh (d s : BitVec 6) (ty k : BitVec 4) : Op := opFun d s ty k tanhVal

/-- R335: one such operation as a group. -/
def execVtanh (g : BitVec 4) (d s : BitVec 6) (ty k : BitVec 4) (st : State) : Host.Outcome State Fault Refusal :=
  .next (issueOne (.vtanh g d s ty k) (opVtanh d s ty k) st)

end Sys2Proof.Machine
end

