-- ==== Sys2Proof/Machine/Memory.lean ====
section
/-!
DEFINITION. Sys2Proof/Machine/Memory.lean: the meanings of class 6 (R338 to R349): loads, stores, atomics and FENCE. An
off-core access is checked at issue and performs by a later turn (log 3); an access to the cell's own banks performs at the
commit.
-/
namespace Sys2Proof.Machine

/-! ### Scalar accesses -/

/-- The address of a scalar access: base plus offset times size (R340). -/
def scalarAddr (c : Cell) (a : BitVec 6) (sz : BitVec 2) (off : BitVec 8) : BitVec 64 :=
  rdS c a + BitVec.ofInt 64 (off.toInt * (2 ^ sz.toNat : Nat))

/-- One off-core access of a checked global address (R96, R161, R200). -/
def opGlobal (va : BitVec 64) (size : Nat) (cls : BitVec 4) (kind : Kind) (acc : AccKind) (dest : AccDest) : Op :=
  fun st _ =>
    let k := st.iss.key
    match globalCheck st k va size cls kind with
    | (.error t, w) => ⟨w, .trap t id⟩
    | (.ok l, w) =>
      ⟨w, .done .plain [(1, fun st => modCell st k fun c => addAccess c cls size va acc (globalPlace l va.toNat) dest)]⟩

/-- Does a near address name the issuing cell's own banks directly (R158)? -/
def ownNear (va : BitVec 64) : Bool := !va.getLsbD 25

/-- Does a near address reach the issuing cell's own banks, directly or by its own core's number (R158, R205)? -/
def ownBank (s : State) (k : Nat) (va : BitVec 64) : Bool :=
  match nearPlace s k (va.setWidth 32) with
  | some (j, _, _) => j == k
  | none => false

/-- One near access of a checked address that goes to a team cell: it performs by a later turn. -/
def peerEff (k : Nat) (va : BitVec 64) (size : Nat) (cls : BitVec 4) (acc : AccKind) (dest : AccDest) :
    Nat × (State → State) :=
  (1, fun st => modCell st k fun c => addAccess c cls size va acc (.near (va.setWidth 32)) dest)

/-- A near load (R340): of the cell's own banks the value stands at commit, which waits for what a FENCE has left pending
(R207). -/
def opNearLoad (va : BitVec 64) (size : Nat) (cls : BitVec 4) (signed : Bool) (dest : AccDest) : Op := fun st _ =>
  let k := st.iss.key
  match nearCheck st k va size size .load with
  | .error t => opTrap t
  | .ok (j, b, off) =>
    if j = k then
      if fenceStalls (self st) cls then opStall else
      let c := getCell st j
      let v := loadValue signed size (ofBytes (nearBytes c b off size))
      let bad := presentPoisoned c b off size
      opCell k fun c => bindValue c dest v bad
    else ⟨id, .done .plain [peerEff k va size cls (.load signed) dest]⟩

/-- A near store (R340). -/
def opNearStore (va : BitVec 64) (size : Nat) (cls : BitVec 4) (d : BitVec 64) : Op := fun st _ =>
  let k := st.iss.key
  match nearCheck st k va size size .store with
  | .error t => opTrap t
  | .ok (j, b, off) =>
    if j = k then
      if fenceStalls (self st) cls then opStall
      else opEff fun st => nearStore st k va j b off (toBytes d.toNat size)
    else ⟨id, .done .plain [peerEff k va size cls (.store d) .none]⟩

/-- R340: global scalar load, zero-extended. -/
def opLdN (r a : BitVec 6) (cls : BitVec 4) (sz : BitVec 2) (off : BitVec 8) : Op := fun st tags =>
  opGlobal (scalarAddr (self st) a sz off) (2 ^ sz.toNat) cls .read (.load false) (.s r.toNat) st tags

/-- R340: one such operation as a group. -/
def execLdN (g : BitVec 4) (r a : BitVec 6) (cls : BitVec 4) (sz : BitVec 2) (off : BitVec 8) (st : State) : Host.Outcome State Fault Refusal :=
  .next (issueOne (.ldN g r a cls sz off) (opLdN r a cls sz off) st)

/-- R340: global scalar load, sign-extended. -/
def opLdI (r a : BitVec 6) (cls : BitVec 4) (sz : BitVec 2) (off : BitVec 8) : Op := fun st tags =>
  opGlobal (scalarAddr (self st) a sz off) (2 ^ sz.toNat) cls .read (.load true) (.s r.toNat) st tags

/-- R340: one such operation as a group. -/
def execLdI (g : BitVec 4) (r a : BitVec 6) (cls : BitVec 4) (sz : BitVec 2) (off : BitVec 8) (st : State) : Host.Outcome State Fault Refusal :=
  .next (issueOne (.ldI g r a cls sz off) (opLdI r a cls sz off) st)

/-- R340: global scalar store. -/
def opSt (r a : BitVec 6) (cls : BitVec 4) (sz : BitVec 2) (off : BitVec 8) : Op := fun st tags =>
  opGlobal (scalarAddr (self st) a sz off) (2 ^ sz.toNat) cls .write (.store (rdS (self st) r)) .none st tags

/-- R340: one such operation as a group. -/
def execSt (g : BitVec 4) (r a : BitVec 6) (cls : BitVec 4) (sz : BitVec 2) (off : BitVec 8) (st : State) : Host.Outcome State Fault Refusal :=
  .next (issueOne (.st g r a cls sz off) (opSt r a cls sz off) st)

/-- R340: near scalar load, zero-extended. -/
def opLdnN (r a : BitVec 6) (cls : BitVec 4) (sz : BitVec 2) (off : BitVec 8) : Op := fun st tags =>
  opNearLoad (scalarAddr (self st) a sz off) (2 ^ sz.toNat) cls false (.s r.toNat) st tags

/-- R340: one such operation as a group. -/
def execLdnN (g : BitVec 4) (r a : BitVec 6) (cls : BitVec 4) (sz : BitVec 2) (off : BitVec 8) (st : State) : Host.Outcome State Fault Refusal :=
  .next (issueOne (.ldnN g r a cls sz off) (opLdnN r a cls sz off) st)

/-- R340: near scalar load, sign-extended. -/
def opLdnI (r a : BitVec 6) (cls : BitVec 4) (sz : BitVec 2) (off : BitVec 8) : Op := fun st tags =>
  opNearLoad (scalarAddr (self st) a sz off) (2 ^ sz.toNat) cls true (.s r.toNat) st tags

/-- R340: one such operation as a group. -/
def execLdnI (g : BitVec 4) (r a : BitVec 6) (cls : BitVec 4) (sz : BitVec 2) (off : BitVec 8) (st : State) : Host.Outcome State Fault Refusal :=
  .next (issueOne (.ldnI g r a cls sz off) (opLdnI r a cls sz off) st)

/-- R340: near scalar store. -/
def opStn (r a : BitVec 6) (cls : BitVec 4) (sz : BitVec 2) (off : BitVec 8) : Op := fun st tags =>
  opNearStore (scalarAddr (self st) a sz off) (2 ^ sz.toNat) cls (rdS (self st) r) st tags

/-- R340: one such operation as a group. -/
def execStn (g : BitVec 4) (r a : BitVec 6) (cls : BitVec 4) (sz : BitVec 2) (off : BitVec 8) (st : State) : Host.Outcome State Fault Refusal :=
  .next (issueOne (.stn g r a cls sz off) (opStn r a cls sz off) st)

/-! ### Vector accesses (R341 to R343) -/

/-- The active lanes of a mask, lowest first. -/
def activeLanes (m : BitVec 64) : List Nat := (List.range 64).filter fun l => m.getLsbD l

/-- The lane addresses of consecutive lanes (R341). -/
def laneLinear (c : Cell) (a : BitVec 6) (off : BitVec 4) (l : Nat) : BitVec 64 :=
  rdS c a + BitVec.ofInt 64 (off.toInt * 256) + BitVec.ofNat 64 (4 * l)

/-- The lane addresses of a stride (R342). -/
def laneStrided (c : Cell) (a x : BitVec 6) (l : Nat) : BitVec 64 := rdS c a + BitVec.ofNat 64 l * rdS c x

/-- The lane addresses of an index vector (R342). -/
def laneIndexed (c : Cell) (a x : BitVec 6) (l : Nat) : BitVec 64 := rdS c a + (rdV c x l).signExtend 64

/-- Check the lanes of a global access in ascending order: the lowest faulting lane is the fault (R343). -/
def laneLeaves (k : Nat) (cls : BitVec 4) (kind : Kind) (addr : Nat → BitVec 64) :
    State → List Nat → Except TrapInfo (List (Nat × Leaf)) × (State → State)
  | _, [] => (.ok [], id)
  | st, l :: ls =>
    match globalCheck st k (addr l) 4 cls kind with
    | (.error t, w) => (.error t, w)
    | (.ok f, w) =>
      match laneLeaves k cls kind addr (w st) ls with
      | (.error t, w2) => (.error t, fun s => w2 (w s))
      | (.ok r, w2) => (.ok ((l, f) :: r), fun s => w2 (w s))

/-- Check the lanes of a near access in ascending order. -/
def lanePlaces (st : State) (k : Nat) (u : NearUse) (addr : Nat → BitVec 64) :
    List Nat → Except TrapInfo (List (Nat × Nat × Nat × Nat))
  | [] => .ok []
  | l :: ls =>
    match nearCheck st k (addr l) 4 4 u with
    | .error t => .error t
    | .ok p =>
      match lanePlaces st k u addr ls with
      | .error t => .error t
      | .ok r => .ok ((l, p) :: r)

/-- Must a near access to these places wait before commit: one is in the cell's own banks, and a FENCE has left accesses that
must perform before it (R207)? -/
def ownStalls (c : Cell) (key : Nat) (cls : BitVec 4) (ps : List (Nat × Nat × Nat × Nat)) : Bool :=
  fenceStalls c cls && ps.any fun e => e.2.1 == key

/-- A load that writes every lane takes the poison mark of its register away (R337). -/
def fullLoad (mask : BitVec 64) (v : BitVec 6) (c : Cell) : Cell := healV c v (allLanes mask)

/-- A global vector load: one access per active lane. -/
def opLanesLoad (v : BitVec 6) (cls k : BitVec 4) (addr : Cell → Nat → BitVec 64) : Op := fun st _ =>
  let key := st.iss.key
  let c := self st
  let mask := rdM c k.toNat
  match laneLeaves key cls .read (addr c) st (activeLanes mask) with
  | (.error t, w) => ⟨w, .trap t id⟩
  | (.ok ls, w) =>
    let put := fun (c1 : Cell) (e : Nat × Leaf) =>
      addAccess c1 cls 4 (addr c e.1) (.load false) (globalPlace e.2 (addr c e.1).toNat) (.v v.toNat e.1)
    ⟨w, .done .plain [(1, fun st => modCell st key fun c1 => ls.foldl put (fullLoad mask v c1))]⟩

/-- A global vector store: one access per active lane, lanes ascending. -/
def opLanesStore (v : BitVec 6) (cls k : BitVec 4) (addr : Cell → Nat → BitVec 64) : Op := fun st _ =>
  let key := st.iss.key
  let c := self st
  match laneLeaves key cls .write (addr c) st (activeLanes (rdM c k.toNat)) with
  | (.error t, w) => ⟨w, .trap t id⟩
  | (.ok ls, w) =>
    let put := fun (c1 : Cell) (e : Nat × Leaf) =>
      addAccess c1 cls 4 (addr c e.1) (.store ((rdV c v e.1).setWidth 64)) (globalPlace e.2 (addr c e.1).toNat) .none
    ⟨w, .done .plain [(1, fun st => modCell st key fun c1 => ls.foldl put c1)]⟩

/-- A near vector load: lanes of the cell's own banks at commit, others by later turns. -/
def opNearLanesLoad (v : BitVec 6) (cls k : BitVec 4) (addr : Cell → Nat → BitVec 64) : Op := fun st _ =>
  let key := st.iss.key
  let c := self st
  let mask := rdM c k.toNat
  match lanePlaces st key .load (addr c) (activeLanes mask) with
  | .error t => opTrap t
  | .ok ps =>
    if ownStalls c key cls ps then opStall else
    let put := fun (c1 : Cell) (e : Nat × Nat × Nat × Nat) =>
      let dest : AccDest := .v v.toNat e.1
      let va := addr c e.1
      if e.2.1 = key then
        bindValue c1 dest (loadValue false 4 (ofBytes (nearBytes c e.2.2.1 e.2.2.2 4))) (presentPoisoned c e.2.2.1 e.2.2.2 4)
      else addAccess c1 cls 4 va (.load false) (.near (va.setWidth 32)) dest
    opCell key fun c1 => ps.foldl put (fullLoad mask v c1)

/-- A near vector store: each lane a store of 4 bytes, lanes ascending. -/
def opNearLanesStore (v : BitVec 6) (cls k : BitVec 4) (addr : Cell → Nat → BitVec 64) : Op := fun st _ =>
  let key := st.iss.key
  let c := self st
  match lanePlaces st key .store (addr c) (activeLanes (rdM c k.toNat)) with
  | .error t => opTrap t
  | .ok ps =>
    if ownStalls c key cls ps then opStall else
    let put := fun (s : State) (e : Nat × Nat × Nat × Nat) =>
      let d : BitVec 64 := (rdV c v e.1).setWidth 64
      let va := addr c e.1
      if e.2.1 = key then nearStore s key va e.2.1 e.2.2.1 e.2.2.2 (toBytes d.toNat 4)
      else modCell s key fun c1 => addAccess c1 cls 4 va (.store d) (.near (va.setWidth 32)) .none
    opEff fun s => ps.foldl put s

/-- R341: load of 64 consecutive words. -/
def opVld (v a : BitVec 6) (cls off k : BitVec 4) : Op := opLanesLoad v cls k fun c => laneLinear c a off

/-- R341: one such operation as a group. -/
def execVld (g : BitVec 4) (v a : BitVec 6) (cls off k : BitVec 4) (st : State) : Host.Outcome State Fault Refusal :=
  .next (issueOne (.vld g v a cls off k) (opVld v a cls off k) st)

/-- R341: store of 64 consecutive words. -/
def opVst (v a : BitVec 6) (cls off k : BitVec 4) : Op := opLanesStore v cls k fun c => laneLinear c a off

/-- R341: one such operation as a group. -/
def execVst (g : BitVec 4) (v a : BitVec 6) (cls off k : BitVec 4) (st : State) : Host.Outcome State Fault Refusal :=
  .next (issueOne (.vst g v a cls off k) (opVst v a cls off k) st)

/-- R341: near load of 64 consecutive words. -/
def opVldn (v a : BitVec 6) (cls off k : BitVec 4) : Op := opNearLanesLoad v cls k fun c => laneLinear c a off

/-- R341: one such operation as a group. -/
def execVldn (g : BitVec 4) (v a : BitVec 6) (cls off k : BitVec 4) (st : State) : Host.Outcome State Fault Refusal :=
  .next (issueOne (.vldn g v a cls off k) (opVldn v a cls off k) st)

/-- R341: near store of 64 consecutive words. -/
def opVstn (v a : BitVec 6) (cls off k : BitVec 4) : Op := opNearLanesStore v cls k fun c => laneLinear c a off

/-- R341: one such operation as a group. -/
def execVstn (g : BitVec 4) (v a : BitVec 6) (cls off k : BitVec 4) (st : State) : Host.Outcome State Fault Refusal :=
  .next (issueOne (.vstn g v a cls off k) (opVstn v a cls off k) st)

/-- R342: strided load. -/
def opVlds (v a x : BitVec 6) (cls k : BitVec 4) : Op := opLanesLoad v cls k fun c => laneStrided c a x

/-- R342: one such operation as a group. -/
def execVlds (g : BitVec 4) (v a x : BitVec 6) (cls k : BitVec 4) (st : State) : Host.Outcome State Fault Refusal :=
  .next (issueOne (.vlds g v a x cls k) (opVlds v a x cls k) st)

/-- R342: strided store. -/
def opVsts (v a x : BitVec 6) (cls k : BitVec 4) : Op := opLanesStore v cls k fun c => laneStrided c a x

/-- R342: one such operation as a group. -/
def execVsts (g : BitVec 4) (v a x : BitVec 6) (cls k : BitVec 4) (st : State) : Host.Outcome State Fault Refusal :=
  .next (issueOne (.vsts g v a x cls k) (opVsts v a x cls k) st)

/-- R342: gather. -/
def opVgth (v a x : BitVec 6) (cls k : BitVec 4) : Op := opLanesLoad v cls k fun c => laneIndexed c a x

/-- R342: one such operation as a group. -/
def execVgth (g : BitVec 4) (v a x : BitVec 6) (cls k : BitVec 4) (st : State) : Host.Outcome State Fault Refusal :=
  .next (issueOne (.vgth g v a x cls k) (opVgth v a x cls k) st)

/-- R342: scatter. -/
def opVsct (v a x : BitVec 6) (cls k : BitVec 4) : Op := opLanesStore v cls k fun c => laneIndexed c a x

/-- R342: one such operation as a group. -/
def execVsct (g : BitVec 4) (v a x : BitVec 6) (cls k : BitVec 4) (st : State) : Host.Outcome State Fault Refusal :=
  .next (issueOne (.vsct g v a x cls k) (opVsct v a x cls k) st)

/-- R342: near gather. -/
def opVgthn (v a x : BitVec 6) (cls k : BitVec 4) : Op := opNearLanesLoad v cls k fun c => laneIndexed c a x

/-- R342: one such operation as a group. -/
def execVgthn (g : BitVec 4) (v a x : BitVec 6) (cls k : BitVec 4) (st : State) : Host.Outcome State Fault Refusal :=
  .next (issueOne (.vgthn g v a x cls k) (opVgthn v a x cls k) st)

/-- R342: near scatter. -/
def opVsctn (v a x : BitVec 6) (cls k : BitVec 4) : Op := opNearLanesStore v cls k fun c => laneIndexed c a x

/-- R342: one such operation as a group. -/
def execVsctn (g : BitVec 4) (v a x : BitVec 6) (cls k : BitVec 4) (st : State) : Host.Outcome State Fault Refusal :=
  .next (issueOne (.vsctn g v a x cls k) (opVsctn v a x cls k) st)

/-! ### Bit fields (R344, R345) -/

/-- The bit position of a lane's field in the stream. -/
def fieldBit (pat : BitVec 64) (l : Nat) : Nat := bitsOf pat.toNat 31 16 + l * bitsOf pat.toNat 47 32

/-- The near address, the bit offset and the number of bytes of a lane's read. -/
def fieldRead (base pat : BitVec 64) (l : Nat) : BitVec 64 × Nat × Nat :=
  let b := fieldBit pat l
  (base + BitVec.ofNat 64 (b / 8), b % 8, (b % 8 + patWidth pat + 7) / 8)

/-- Do all n bytes from a near address stand in the cell's own banks? -/
def ownRun (s : State) (k : Nat) (a : BitVec 64) (n : Nat) : Bool :=
  ownBank s k a && ownBank s k (a + BitVec.ofNat 64 (n - 1))

/-- Check the bytes of the lanes in ascending order, and gather what they hold now. -/
def laneFields (st : State) (key : Nat) (base pat : BitVec 64) : List Nat → Except TrapInfo (List (Nat × Nat × Bool))
  | [] => .ok []
  | l :: ls =>
    let (a, _, n) := fieldRead base pat l
    match nearGather st key a n n with
    | .error t => .error t
    | .ok (x, bad) =>
      match laneFields st key base pat ls with
      | .error t => .error t
      | .ok r => .ok ((l, x, bad) :: r)

/-- R345: extraction of one bit field per lane from a near byte stream. -/
def opVldx (v a : BitVec 6) (x : BitVec 3) (cls k : BitVec 4) : Op := fun st _ =>
  let key := st.iss.key
  let c := self st
  let mask := rdM c k.toNat
  let pat := tblGet 0 c.xp x.toNat
  let base := rdS c a
  match laneFields st key base pat (activeLanes mask) with
  | .error t => opTrap t
  | .ok ls =>
    let own := fun (l : Nat) => let (va, _, n) := fieldRead base pat l; ownRun st key va n
    if fenceStalls c cls && ls.any (fun e => own e.1) then opStall else
    let put := fun (c1 : Cell) (e : Nat × Nat × Bool) =>
      let (va, o, n) := fieldRead base pat e.1
      let dest : AccDest := .v v.toNat e.1
      if ownRun st key va n then bindValue c1 dest (fieldValue o pat e.2.1) e.2.2
      else addAccess c1 cls n va (.field o pat) (.near (va.setWidth 32)) dest
    opCell key fun c1 => ls.foldl put (fullLoad mask v c1)

/-- R345: one such operation as a group. -/
def execVldx (g : BitVec 4) (v a : BitVec 6) (x : BitVec 3) (cls k : BitVec 4) (st : State) : Host.Outcome State Fault Refusal :=
  .next (issueOne (.vldx g v a x cls k) (opVldx v a x cls k) st)

/-! ### Atomics (R346 to R348) -/

/-- An atomic: near at once for the cell's own banks, otherwise by a later turn; global under the right of an atomic. -/
def opAtomic (op : Nat) (d a t : BitVec 6) (cls : BitVec 4) (near : Bool) : Op := fun st tags =>
  let k := st.iss.key
  let c := self st
  let va := rdS c a
  let size := amoSize op
  let acc : AccKind := .amo op (rdS c t) (rdS c d)
  let dest : AccDest := .s d.toNat
  if near then
    match nearCheck st k va size size .atomic with
    | .error e => opTrap e
    | .ok (j, b, off) =>
      if j = k then
        if fenceStalls c cls then opStall else
        opEff fun st =>
          let (s1, r) := nearAmo st j b off size op (rdS c t) (rdS c d)
          modCell s1 k fun c => bindValue c dest r.value r.poison
      else ⟨id, .done .plain [peerEff k va size cls acc dest]⟩
  else opGlobal va size cls .atomic acc dest st tags

/-- R346: atomic add of 32 bits. -/
def opAaddI32 (d a t : BitVec 6) (cls : BitVec 4) (near : Bool) : Op := opAtomic 0 d a t cls near

/-- R346: one such operation as a group. -/
def execAaddI32 (g : BitVec 4) (d a t : BitVec 6) (cls : BitVec 4) (near : Bool) (st : State) : Host.Outcome State Fault Refusal :=
  .next (issueOne (.aaddI32 g d a t cls near) (opAaddI32 d a t cls near) st)

/-- R346: atomic add of 64 bits. -/
def opAaddI64 (d a t : BitVec 6) (cls : BitVec 4) (near : Bool) : Op := opAtomic 1 d a t cls near

/-- R346: one such operation as a group. -/
def execAaddI64 (g : BitVec 4) (d a t : BitVec 6) (cls : BitVec 4) (near : Bool) (st : State) : Host.Outcome State Fault Refusal :=
  .next (issueOne (.aaddI64 g d a t cls near) (opAaddI64 d a t cls near) st)

/-- R346: atomic add of F32. -/
def opAaddF32 (d a t : BitVec 6) (cls : BitVec 4) (near : Bool) : Op := opAtomic 2 d a t cls near

/-- R346: one such operation as a group. -/
def execAaddF32 (g : BitVec 4) (d a t : BitVec 6) (cls : BitVec 4) (near : Bool) (st : State) : Host.Outcome State Fault Refusal :=
  .next (issueOne (.aaddF32 g d a t cls near) (opAaddF32 d a t cls near) st)

/-- R346: atomic signed maximum. -/
def opAmaxI32 (d a t : BitVec 6) (cls : BitVec 4) (near : Bool) : Op := opAtomic 3 d a t cls near

/-- R346: one such operation as a group. -/
def execAmaxI32 (g : BitVec 4) (d a t : BitVec 6) (cls : BitVec 4) (near : Bool) (st : State) : Host.Outcome State Fault Refusal :=
  .next (issueOne (.amaxI32 g d a t cls near) (opAmaxI32 d a t cls near) st)

/-- R346: atomic maximum of F32. -/
def opAmaxF32 (d a t : BitVec 6) (cls : BitVec 4) (near : Bool) : Op := opAtomic 4 d a t cls near

/-- R346: one such operation as a group. -/
def execAmaxF32 (g : BitVec 4) (d a t : BitVec 6) (cls : BitVec 4) (near : Bool) (st : State) : Host.Outcome State Fault Refusal :=
  .next (issueOne (.amaxF32 g d a t cls near) (opAmaxF32 d a t cls near) st)

/-- R346: atomic compare and swap of 64 bits. -/
def opAcas (d a t : BitVec 6) (cls : BitVec 4) (near : Bool) : Op := opAtomic 5 d a t cls near

/-- R346: one such operation as a group. -/
def execAcas (g : BitVec 4) (d a t : BitVec 6) (cls : BitVec 4) (near : Bool) (st : State) : Host.Outcome State Fault Refusal :=
  .next (issueOne (.acas g d a t cls near) (opAcas d a t cls near) st)

/-- R347: atomic read and reset of a signed maximum. -/
def opAmaxrrI32 (d a t : BitVec 6) (cls : BitVec 4) (near : Bool) : Op := opAtomic 6 d a t cls near

/-- R347: one such operation as a group. -/
def execAmaxrrI32 (g : BitVec 4) (d a t : BitVec 6) (cls : BitVec 4) (near : Bool) (st : State) : Host.Outcome State Fault Refusal :=
  .next (issueOne (.amaxrrI32 g d a t cls near) (opAmaxrrI32 d a t cls near) st)

/-- R347: atomic read and reset of a maximum of F32. -/
def opAmaxrrF32 (d a t : BitVec 6) (cls : BitVec 4) (near : Bool) : Op := opAtomic 7 d a t cls near

/-- R347: one such operation as a group. -/
def execAmaxrrF32 (g : BitVec 4) (d a t : BitVec 6) (cls : BitVec 4) (near : Bool) (st : State) : Host.Outcome State Fault Refusal :=
  .next (issueOne (.amaxrrF32 g d a t cls near) (opAmaxrrF32 d a t cls near) st)

/-! ### FENCE (R207, R208, R349) -/

/-- Is an access to the package's physical addresses? -/
def accPhys (a : Access) : Bool :=
  match a.place with
  | .phys .. => true
  | _ => false

/-- Does an access bind a value? -/
def accLoads : AccKind → Bool
  | .store _ => false
  | _ => true

/-- Does a FENCE of a scope wait for an earlier access of a masked class (R207)? An atomic counts as a load and as a store
(R209). -/
def fenceHolds (scope : Nat) (a : Access) : Bool :=
  unperformed a && (accLoads a.kind
    || (decide (1 ≤ scope) && accNear a)
    || (decide (2 ≤ scope) && accPhys a)
    || (decide (3 ≤ scope) && accWindow a))

/-- Do the pending lines that a FENCE drains include this one: masked writes of the cell, and its write-backs? -/
def fenceLine (k : Nat) (mask : BitVec 16) (backs : Bool) (l : WcLine) : Bool :=
  l.owners.any fun o => o.key == some k && (if o.back then backs else mask.getLsbD o.cls.toNat)

/-- A committed FENCE stands between the groups before it and those after, while an access that it covers is pending (R207). -/
def putFence (mask : BitVec 16) (c : Cell) : Cell := pruneFences { c with fences := c.fences ++ [(c.groupNo, mask)] }

/-- R349: wait until the earlier accesses of the masked classes have reached the scope. -/
def opFence (scope : BitVec 2) (wb inv : Bool) (mask : BitVec 16) : Op := fun st _ =>
  let k := st.iss.key
  let c := self st
  if c.accesses.any fun a => mask.getLsbD a.cls.toNat && fenceHolds scope.toNat a then opStall
  else
    let clean : List (Nat × (State → State)) := if wb || inv then [(0, fun st => cleanCache st k inv)] else []
    let drain : List (Nat × (State → State)) :=
      if 2 ≤ scope.toNat then [(0, fun st => drainAll st (fenceLine k mask (mask != 0 || wb || inv)))] else []
    ⟨id, .done .plain (clean ++ drain ++ [(1, fun st => modCell st k (putFence mask))])⟩

/-- R349: one such operation as a group. -/
def execFence (g : BitVec 4) (scope : BitVec 2) (wb inv : Bool) (mask : BitVec 16) (st : State) : Host.Outcome State Fault Refusal :=
  .next (issueOne (.fence g scope wb inv mask) (opFence scope wb inv mask) st)

end Sys2Proof.Machine
end

