-- ==== Sys2Proof/Machine/CopyEngine.lean ====
section
/-!
DEFINITION. Sys2Proof/Machine/CopyEngine.lean: the copy engine of a cell (R355 to R362, R367): the choice of what starts, the
elements of a tile, completion with flag, ring slot or channel element, and the faults of R248. Packets of a remote stream
are sent by the transport.
-/
namespace Sys2Proof.Machine

/-! ### Operations -/

/-- The operation of a cell by its place in issue order. -/
def findCopy (c : Cell) (order : Nat) : Option CopyOp := c.copies.find? fun o => o.order == order

/-- Change an operation. -/
def modCopy (s : State) (k order : Nat) (f : CopyOp → CopyOp) : State :=
  modCell s k fun c => { c with copies := c.copies.map fun o => if o.order = order then f o else o }

/-- Is the operation's destination a remote stream? -/
def copyRemote (o : CopyOp) : Bool :=
  match o.dst with
  | some d => dSpace d.d == 2
  | none => false

/-- The next sequence number (R357): 0 is skipped. -/
def nextSeq (n : BitVec 16) : BitVec 16 := if n + 1 = 0 then 1 else n + 1

/-- Enqueue an operation (R357, R358): it takes the next sequence number and the next place in issue order. -/
def enqueueCopy (k : Nat) (o : CopyOp) (s : State) : State :=
  modCell s k fun c =>
    { c with
      copies := c.copies ++ [{ o with seq := nextSeq c.copySeq, order := c.opNo, group := c.groupNo }]
      copySeq := nextSeq c.copySeq
      opNo := c.opNo + 1
      recon := { c.recon with copyEnq := c.recon.copyEnq + 1 } }

/-- Who moves the operation's elements (R183): the layout unit of the cell's own base die, in the cell's context. -/
def copyAgent (s : State) (k : Nat) (o : CopyOp) : Agent :=
  ⟨k, (getCell s k).ctx, o.user, o.cls, .layout (keyDie k), o.early⟩

/-- Does the operation's fork still wait for stores of its cell (R206, R211)? None of its accesses comes before them. -/
def copyFork (s : State) (k : Nat) (o : CopyOp) : Bool := forkWaits (getCell s k) o.group (some o.cls)

/-- Record a fault that stops the operation at its element (R183, R248). -/
def stopCopy (t : TrapInfo) (o : CopyOp) : CopyOp := { noteCopyFault t o with stop := true, sent := true }

/-! ### Start (R356, R359) -/

/-- The tile counts of a remote stream (R180). -/
def streamTcount (d : Desc) (i : Nat) : Nat := (dExt d i + dTile d i - 1) / dTile d i

/-- How many tiles a remote stream has. -/
def streamTiles (d : Desc) : Nat := streamTcount d 0 * streamTcount d 1 * streamTcount d 2 * streamTcount d 3

/-- Is a coordinate of a stream a multiple of the tile (R180)? -/
def tileAligned (d : Desc) (x : Coord) : Bool := allIndex (fun i => coordAt x i % (dTile d i : Int) == 0) 0 4

/-- The tile index of destination coordinates, or none where the pattern does not reach them (R77, R90, R180). -/
def streamTile (d : Desc) (x : Coord) : Option Nat :=
  let tc : Coord := ⟨x.x0 / (dTile d 0 : Int), x.x1 / (dTile d 1 : Int), x.x2 / (dTile d 2 : Int), x.x3 / (dTile d 3 : Int)⟩
  if allIndex (fun i => decide (0 ≤ coordAt tc i) && decide (coordAt tc i < (streamTcount d i : Int))) 0 4 then
    some (tileIndex (rsOrder d) (streamTcount d) tc)
  else none

/-- What starting an operation finds wrong (R359, R180, R91), INFO holding the first offending handle (R244). -/
def startFault (s : State) (o : CopyOp) : Option TrapInfo :=
  let hs := (o.handles.setWidth 32).toNat
  let hd := (o.handles.extractLsb' 32 32).toNat
  if dSpace o.src.d = 2 then some (engTrap causeShape 0 hs)
  else
    match o.dst with
    | none => none
    | some d =>
      if dFmt o.src.d ≠ dFmt d.d then some (engTrap causeFormat 0 hs)
      else if dSpace d.d = 2 ∧ o.tile.isNone ∧ !tileAligned d.d (coordOf o.dstC) then some (engTrap causeShape 0 hd)
      else if dSpace d.d = 2 ∧ rsMcast d.d ∧ (tblGet none s.net.mcast (rsPeer d.d)).isNone then
        some (engTrap causeRemote 0 (rsPeer d.d + 2 ^ 30 + 2 ^ 31))
      else none

/-- The operation as it starts. -/
def startedCopy (s : State) (o : CopyOp) : CopyOp :=
  let o1 := { o with started := true }
  match startFault s o with
  | some t => stopCopy t o1
  | none =>
    match o.dst with
    | some d =>
      if dSpace d.d = 2 ∧ o.tile.isNone then
        match streamTile d.d (coordOf o.dstC) with
        | some t => { o1 with tile := some t }
        | none => { o1 with sent := true }
      else o1
    | none => o1

/-- Is an operation in progress (R356)? -/
def inProgress (o : CopyOp) : Bool := o.started && o.finished.isNone

/-- Does operation `a` start before `b`: the earlier deadline, then the earlier issue, and none after every deadline? -/
def startsBefore (a b : CopyOp) : Bool :=
  if a.deadline = b.deadline then decide (a.order < b.order)
  else if a.deadline = 0 then false
  else if b.deadline = 0 then true
  else a.deadline.ult b.deadline

/-- The pending operation that starts next. -/
def nextCopy (c : Cell) : Option CopyOp :=
  (c.copies.filter fun o => !o.started).foldl (fun (b : Option CopyOp) o =>
    match b with
    | none => some o
    | some p => if startsBefore o p then some o else b) none

/-- Start the next pending operation, while fewer than 4 are in progress and the tile runs (R250, R356). -/
def startCopy (s : State) (k : Nat) : State :=
  let c := getCell s k
  if !tileRuns s k || decide (4 ≤ (c.copies.filter inProgress).length) then s
  else
    match nextCopy c with
    | some o => modCopy s k o.order (startedCopy s)
    | none => s

/-! ### Elements (R359) -/

/-- Elements of the tile that an operation moves: that of the destination, or for a channel of the source (R359, R367). -/
def copyShape (o : CopyOp) : Desc :=
  match o.dst with
  | some d => d.d
  | none => o.src.d

/-- The source element of offset n: its coordinates. -/
def copySource (o : CopyOp) (n : Nat) : Coord := coordAdd (coordOf o.srcC) (dOffset (copyShape o) n)

/-- The POISON fault of an engine read at an address (R242, R244, R260). -/
def enginePoison (addr : Int) : TrapInfo := engTrap causePoison addr 0

/-- The address of element n of an operation's source. -/
def copyAddr (o : CopyOp) (n : Nat) : Int := (elemAddr o.src.d (wrapCoord o.src.d (copySource o n))).1

/-- Does a near address name a cell whose tile is stopped or that does not run, so that an access waits at its source
(R250)? -/
def nearStopped (s : State) (k : Nat) (a : BitVec 32) : Bool :=
  match nearPlace s k a with
  | some (j, _, _) => !tileRuns s j
  | none => false

/-- Does an element stand in a bank that an access must wait for (R250)? A clipped one stands nowhere. -/
def elemHeld (s : State) (k : Nat) (d : Desc) (x : Coord) : Bool :=
  let y := wrapCoord d x
  let a := (elemAddr d y).1
  dSpace d == 0 && coordInside d y && (nearStopped s k (BitVec.ofInt 32 a)
    || nearStopped s k (BitVec.ofInt 32 (a + (max 1 (dBits d / 8) : Nat) - 1)))

/-- May a started operation touch its elements now: it has not stopped at a fault or finished, its tile runs (R250), and its
fork waits for nothing more? -/
def copyOpen (s : State) (k : Nat) (o : CopyOp) : Bool :=
  o.started && !o.stop && o.finished.isNone && tileRuns s k && !copyFork s k o

/-- May element n of a local copy move now, its banks not those of a stopped tile? -/
def elemOpen (s : State) (k : Nat) (o : CopyOp) (d : Desc) (n : Nat) : Bool :=
  copyOpen s k o && dSpace d != 2 && decide (n < dTileElems d) && !tblGet false o.performed n
    && !elemHeld s k o.src.d (copySource o n) && !elemHeld s k d (coordAdd (coordOf o.dstC) (dOffset d n))

/-- Keep bytes that were read ahead, from an address on; what stands there already stays. -/
def putEarly (whole : Bool) (addr : Int) : List (Byte × Bool) → Tbl (Option EarlyByte) → Tbl (Option EarlyByte)
  | [], t => t
  | (b, bad) :: r, t =>
    putEarly whole (addr + 1) r (if (tblGet none t addr.toNat).isSome then t else tblSet none t addr.toNat (some ⟨b, bad, whole⟩))

/-- Read ahead the j-th part of source element n of an operation (R201, R211): a byte of an element narrower than 4 bytes, an
aligned word of a wider one. The parts of a tile may so be read at different times, before the step that uses them; what
faults is left to that step. -/
def fetchPart (s : State) (k order n j : Nat) : State :=
  match findCopy (getCell s k) order with
  | none => s
  | some o =>
    let d := o.src.d
    let y := wrapCoord d (copySource o n)
    let size := max 1 (dBits d / 8)
    let part := if 4 ≤ size then 4 else 1
    if !copyOpen s k o || elemHeld s k d (copySource o n) || !coordInside d y || decide (size ≤ j * part)
        || decide (dTileElems (copyShape o) ≤ n) then s
    else
      let a := (elemAddr d y).1 + (j * part : Nat)
      match engBytes s (copyAgent s k o) (dSpace d) a part with
      | (_, .error _) => s
      | (s1, .ok l) => modCopy s1 k order fun o => { o with early := putEarly (part == 4) a l o.early }

/-- Move one element of a local copy; a poisoned source poisons what it writes and faults the operation (R260). The byte of an
E2M1 source stays read for its other element (R201). -/
def moveElem (s : State) (k order n : Nat) : State :=
  match findCopy (getCell s k) order with
  | none => s
  | some o =>
    match o.dst with
    | none => s
    | some d =>
      if !elemOpen s k o d.d n then s
      else
        let s0 := if dBits o.src.d = 4 then fetchPart s k order n 0 else s
        let ag := copyAgent s0 k ((findCopy (getCell s0 k) order).getD o)
        let mark := fun (o : CopyOp) => { o with performed := tblSet false o.performed n true }
        match readElem s0 ag o.src.d (copySource o n) with
        | (s1, .error t) => modCopy s1 k order (stopCopy t)
        | (s1, .ok (v, bad)) =>
          match writeElem s1 ag d.d (coordAdd (coordOf o.dstC) (dOffset d.d n)) v bad with
          | (s2, .error t) => modCopy s2 k order (stopCopy t)
          | (s2, .ok _) => modCopy s2 k order fun o => mark (if bad then noteCopyFault (enginePoison (copyAddr o n)) o else o)

/-- The element of a tile that shares its byte with element n: of E2M1 tensors, the other one of an even and odd pair along
dimension 0 (R178). -/
def bytePartner (d : Desc) (origin : Coord) (n : Nat) : Option Nat :=
  let i := n % dTile d 0
  if dFmt d ≠ 12 then none
  else if (origin.x0 + (i : Int)) % 2 = 0 then (if i + 1 < dTile d 0 then some (n + 1) else none)
  else if 0 < i then some (n - 1) else none

/-- The elements of a tile that one write moves (R201): no byte is seen half written. -/
def elemParts (o : CopyOp) (d : Desc) (n : Nat) : List Nat := n :: (bytePartner d (coordOf o.dstC) n).toList

/-- Move an element of a local copy with the one that shares its byte. -/
def performElem (s : State) (k order n : Nat) : State :=
  match findCopy (getCell s k) order with
  | none => s
  | some o =>
    match o.dst with
    | none => s
    | some d =>
      let l := elemParts o d.d n
      if l.all fun i => elemOpen s k o d.d i || tblGet false o.performed i then l.foldl (fun s i => moveElem s k order i) s else s

/-- Elements read for a channel or a chunk: their codes, lowest first, the fault that stopped the read, and the offsets of those
that were poisoned. -/
structure ReadRun where
  codes : List Nat
  fault : Option TrapInfo
  bad : List Nat

/-- Read `n` elements of an operation's source from offset `i` on, up to the first fault. -/
def readRun (s : State) (ag : Agent) (o : CopyOp) (i : Nat) : Nat → State × ReadRun
  | 0 => (s, ⟨[], none, []⟩)
  | n + 1 =>
    match readElem s ag o.src.d (copySource o i) with
    | (s1, .error t) => (s1, ⟨[], some t, []⟩)
    | (s1, .ok (v, bad)) =>
      let (s2, r) := readRun s1 ag o (i + 1) n
      (s2, ⟨v :: r.codes, r.fault, if bad then i :: r.bad else r.bad⟩)

/-- Codes packed into bytes: E2M1 elements two to a byte, the even one low (R178, R229). -/
def packCodes (bits : Nat) : List Nat → List Byte
  | [] => []
  | x :: y :: r =>
    if bits = 4 then BitVec.ofNat 8 (x % 16 + y % 16 * 16) :: packCodes bits r
    else toBytes x (bits / 8) ++ toBytes y (bits / 8) ++ packCodes bits r
  | [x] => toBytes x (max 1 (bits / 8))

/-- The 64-bit word of a packed element. -/
def packedWord (bits i : Nat) : Nat := i * bits / 64

/-- Read the element of a local channel into the engine (R367); a poisoned word of it poisons the slot's word (R260). -/
def readChannel (s : State) (k : Nat) (o : CopyOp) : State :=
  let (s1, r) := readRun s (copyAgent s k o) o 0 (dTileElems o.src.d)
  modCopy s1 k o.order fun o =>
    let o1 := { o with buf := packCodes (dBits o.src.d) r.codes, bufBad := r.bad.map (packedWord (dBits o.src.d)) }
    let o2 := match r.bad with
      | [] => o1
      | n :: _ => noteCopyFault (enginePoison (copyAddr o n)) o1
    match r.fault with
    | some t => noteCopyFault t o2
    | none => o2

/-! ### Completion (R360, R362, R367) -/

/-- Put bytes at a place in banks as an engine. -/
def putNear (s : State) (j b off : Nat) (bs : List Byte) : State :=
  modCell s j fun c => healNear (setNearBytes c b off bs) b off bs.length

/-- Write the flag word of CPYF as one 8-byte engine write (R360). -/
def writeFlag (s : State) (k : Nat) (addr : BitVec 32) (v : BitVec 64) : Except TrapInfo State :=
  match nearCheck s k (addr.setWidth 64) 8 8 .engineWrite with
  | .error t => .error t
  | .ok (j, b, off) => .ok (putNear s j b off (toBytes v.toNat 8))

/-- Was an operation late (R356)? -/
def copyLate (s : State) (o : CopyOp) : Bool := o.deadline != 0 && o.deadline.ult s.pkg.gtime

/-- Every element has performed: lateness is fixed, and the flag is written (R360). -/
def finishCopy (s : State) (k : Nat) (o : CopyOp) : State :=
  let done := fun (s : State) => modCopy s k o.order fun p => { p with finished := some (copyLate s o) }
  match o.flag with
  | none => done s
  | some (a, v) =>
    match writeFlag s k a v with
    | .ok s1 => done s1
    | .error t => modCopy (done s) k o.order (noteCopyFault t)

/-- The 16-byte record of a ring slot (R362). -/
def copyRecord (o : CopyOp) (late : Bool) : List Byte :=
  toBytes o.dstC.toNat 8 ++ toBytes (o.handles.extractLsb' 32 32).toNat 4 ++ toBytes o.seq.toNat 2
    ++ toBytes (bit01 late) 1 ++ zeroBytes 1

/-- The operation leaves the queue (R360); a remote send of a channel is no longer unacknowledged (R367). -/
def leaveCopy (s : State) (k : Nat) (o : CopyOp) : State :=
  let s1 := modCell s k fun c =>
    countEv { c with
      copies := c.copies.filter fun p => p.order != o.order
      recon := { c.recon with copyDone := c.recon.copyDone + 1 }
      chUnacked := match o.chan with
        | some ch => if ch.remote then tblSet 0 c.chUnacked ch.num (tblGet 0 c.chUnacked ch.num - 1) else c.chUnacked
        | none => c.chUnacked } 8 1
  settleTeam s1 (getCell s1 k).ctx (getCell s1 k).team

/-- A completion without a slot: its fault is deferred once the queue has room (R246, R248). -/
def leaveDeferred (s : State) (k : Nat) (o : CopyOp) (f : Option TrapInfo) : State :=
  match f with
  | none => leaveCopy s k o
  | some t => if deferRoom (getCell s k) then leaveCopy (modCell s k fun c => deferFault c t o.order) k o else s

/-- The fault of a slot write that the bank refuses (R244, R362): its address and the slot size. -/
def slotTrap (r : Ring) : TrapInfo :=
  engTrap causeBankmode ((slotAddr r r.wp).toNat : Int) r.slotSz

/-- Has the ring no room? -/
def ringNoRoom (r : Ring) : Bool := decide (ringSlots r ≤ ringFill r)

/-- Poison words of the slot at a ring's write count. -/
def poisonSlot (n : Nat) (words : List Nat) (c : Cell) : Cell :=
  let r := getRing c n
  let a := (slotAddr r r.wp).toNat
  words.foldl (fun c w => poisonNear c (bitsOf a 20 16 + (a % 65536 + 8 * w) / 65536) ((a % 65536 + 8 * w) % 65536) 8) c

/-- Do a ring's banks refuse the slot that an operation would produce now (R154, R362)? The fault that it then has. -/
def slotRefused (s : State) (o : CopyOp) (j n len : Nat) : Option TrapInfo :=
  let r := getRing (getCell s j) n
  if ringNoRoom r || !tileRuns s j || banksAdmit (getCell s j) (slotAddr r r.wp) len .engineWrite then none
  else some (o.fault.getD (copyTrap o (slotTrap r)))

/-- Produce a slot of a ring of cell `j` for an operation of cell `k` (R360, R362, R248). -/
def produceFor (s : State) (k : Nat) (o : CopyOp) (j n : Nat) (bs : List Byte) (order : Option Nat) : State :=
  let r := getRing (getCell s j) n
  if ringNoRoom r || !tileRuns s j then s
  else
    match slotRefused s o j n bs.length with
    | some t => leaveDeferred s k o (some t)
    | none =>
      let put := fun (c : Cell) =>
        let c1 := produceSlot c n bs (o.fault.map fun t => ⟨order, t⟩)
        { c1 with poisonBank := (poisonSlot n o.bufBad { c1 with rings := c.rings }).poisonBank }
      leaveCopy (modCell s j put) k o

/-- The key of a cell of the same team by its index. -/
def seatOf (s : State) (k i : Nat) : Option Nat :=
  (teamOf s (getCell s k)).seats.find? fun j => (getCell s j).cell == i

/-- Has an earlier element of the channel still to be produced (R367)? -/
def earlierElement (c : Cell) (o : CopyOp) (ch : ChanSend) : Bool :=
  c.copies.any fun p => decide (p.order < o.order) && match p.chan with
    | some q => q.num == ch.num
    | none => false

/-- Is the context of a slot's cell at stage 3 of a removal or past it, where rings are not produced (R262, R369)? -/
def pastCopies (s : State) (k : Nat) : Bool :=
  match (getCtx s (getCell s k).ctx).killing with
  | some (stage, _) => decide (3 ≤ stage)
  | none => false

/-- The fault that the delivery of a finished operation would defer (R248, R360), if any. -/
def deferredFault (s : State) (k : Nat) (o : CopyOp) : Option TrapInfo :=
  if pastCopies s k then none
  else
    match o.chan with
    | some ch =>
      if ch.remote then o.fault
      else if earlierElement (getCell s k) o ch then none
      else (seatOf s k ch.rcell).bind fun j => slotRefused s o j ch.ring o.buf.length
    | none => if o.ring = 0 then o.fault else slotRefused s o k o.ring 16

/-- Deliver a finished operation to its completion object (R358, R360, R367). -/
def deliverCopy (s : State) (k : Nat) (o : CopyOp) (late : Bool) : State :=
  if pastCopies s k then leaveCopy s k o
  else
  match o.chan with
  | some ch =>
    if ch.remote then leaveDeferred s k o o.fault
    else if earlierElement (getCell s k) o ch then s
    else
      match seatOf s k ch.rcell with
      | some j => produceFor s k o j ch.ring o.buf (if j = k then some o.order else none)
      | none => s
  | none =>
    if o.ring = 0 then leaveDeferred s k o o.fault
    else produceFor s k o k o.ring (copyRecord o late) (some o.order)

/-- Do what is left of a started operation: its elements in ascending order, or the read of a channel element. -/
def runCopy (s : State) (k : Nat) (o : CopyOp) : State :=
  if o.stop then s
  else
    match o.dst with
    | some d => foldIndex (fun s n => performElem s k o.order n) s 0 (dTileElems d.d)
    | none => readChannel s k o

/-- Does an operation still wait for banks of a stopped tile (R250): to move an element, to read a channel's, or to write its
flag? -/
def copyHeld (s : State) (k : Nat) (o : CopyOp) : Bool :=
  let held := fun (l : Bool) => l && match o.dst with
    | some d => !copyRemote o && (List.range (dTileElems d.d)).any fun n => !tblGet false o.performed n
    | none => (List.range (dTileElems o.src.d)).any fun n => elemHeld s k o.src.d (copySource o n)
  held (!o.stop) || match o.flag with
    | some (a, _) => nearStopped s k a
    | none => false

/-- May the operation finish: of a remote stream, once its last packet has been sent and acknowledged (R90)? -/
def mayFinish (o : CopyOp) : Bool := !copyRemote o || (o.sent && o.unacked == 0)

/-- Complete an operation of a running tile: finish it, and deliver it where its completion object has room (R360). -/
def completeCopy (s : State) (k order : Nat) : State :=
  match findCopy (getCell s k) order with
  | none => s
  | some o =>
    if !o.started || !tileRuns s k then s
    else
      match o.finished with
      | some late => deliverCopy s k o late
      | none =>
        if !mayFinish o || copyFork s k o || (o.dst.isNone && copyHeld s k o) then s
        else
          let s1 := if copyRemote o then s else runCopy s k o
          match findCopy (getCell s1 k) order with
          | none => s1
          | some o1 =>
            if o1.dst.isSome && copyHeld s1 k o1 then s1
            else
            let s2 := finishCopy s1 k o1
            match findCopy (getCell s2 k) order with
            | some o2 => deliverCopy s2 k o2 (o2.finished.getD false)
            | none => s2

/-! ### Software rings (R129, R365) -/

/-- The stage of a cell index (R131). -/
def stageOf (s : State) (ctx i : Nat) : Nat := launchField s ctx 56 8 / 16 ^ i % 16

/-- The rank of a cell index: how many cells of lower index have its stage (R128). -/
def rankOf (s : State) (ctx i : Nat) : Nat :=
  ((List.range i).filter fun j => stageOf s ctx j == stageOf s ctx i).length

/-- The cell of a stage with a cell's rank (R129). -/
def stageMate (s : State) (k stage : Nat) : Option Nat :=
  let c := getCell s k
  (teamOf s c).seats.find? fun j =>
    (getCell s j).stage == stage && rankOf s c.ctx (getCell s j).cell == rankOf s c.ctx c.cell

/-- Is ring n the upstream ring of the cell (R129)? -/
def isUpstream (s : State) (c : Cell) (n : Nat) : Bool :=
  decide (1 < launchField s c.ctx 43 1) && decide (0 < c.stage) && n == launchField s c.ctx 45 1

/-- The cell and ring that an RPUB of ring n produces into, where there is one (R365). -/
def pubTarget (s : State) (k n : Nat) : Option (Nat × Nat) :=
  let c := getCell s k
  let t := if isAlias s c n then (stageMate s k (c.stage + 1)).map fun j => (j, launchField s c.ctx 45 1)
    else if isUpstream s c n then none else some (k, n)
  match t with
  | some (j, m) => if (getRing (getCell s j) m).kind = 4 then some (j, m) else none
  | none => none

/-- Do the banks of a published slot's ring refuse it (R154, R365)? -/
def pubRefused (s : State) (j m len : Nat) : Bool :=
  let c := getCell s j
  !banksAdmit c (slotAddr (getRing c m) (getRing c m).wp) len .engineWrite

/-- Produce one published slot; a bank that refuses it is a deferred BANKMODE of the publisher (R365). -/
def publish (s : State) (k j m : Nat) (p : Pub) : State :=
  let r := getRing (getCell s j) m
  let a := (slotAddr r r.wp).toNat
  let mark := fun (c : Cell) => if p.poison then poisonNear c (bitsOf a 20 16) (a % 65536) p.data.length else c
  if !pubRefused s j m p.data.length then modCell s j fun c => mark (produceSlot c m p.data none)
  else modCell s k fun c => deferTrap c (cellTrap causeBankmode (BitVec.ofNat 64 a) r.slotSz)

/-- Does a publication wait: its ring is full, its target's tile is stopped (R250, R362), or its refusal finds no room among
the deferred traps (R246)? -/
def pubWaits (s : State) (k n : Nat) : Bool :=
  match pubTarget s k n with
  | some (j, m) =>
    let r := getRing (getCell s j) m
    ringNoRoom r || !tileRuns s j || (!deferRoom (getCell s k) && pubRefused s j m r.slotSz)
  | none => false

/-- Produce the slots that a cell has published, oldest first, as far as there is room. -/
def settlePubs (s : State) (k : Nat) : Nat → State
  | 0 => s
  | n + 1 =>
    match (getCell s k).pubs.find? fun p => !pubWaits s k p.ring with
    | none => s
    | some p =>
      let s1 := modCell s k fun c => { c with pubs := c.pubs.erase p }
      settlePubs (match pubTarget s1 k p.ring with
        | some (j, m) => publish s1 k j m p
        | none => s1) k n

/-- A committed RPUB. -/
def beginPub (k : Nat) (p : Pub) (s : State) : State :=
  let s1 := modCell s k fun c => { c with pubs := c.pubs ++ [p] }
  settlePubs s1 k (getCell s1 k).pubs.length

/-- The 16 bytes of the slot that a faulting command leaves in FRING (R378): no rule states them (log 13). -/
def fringBytes (s : State) (t : TrapInfo) : List Byte :=
  (List.range 16).map fun i => BitVec.ofNat 8 (Config.unstated (378 + 1024 * i) (s.tick * 65536 + t.opid.toNat))

/-- Produce the faulted slots that a cell's sequencer still owes, as far as there is room (R378); a bank that refuses one
loses it. -/
def settleFring (s : State) (k : Nat) : Nat → State
  | 0 => s
  | n + 1 =>
    let c := getCell s k
    match c.fring.find? fun e => !ringNoRoom (getRing c e.1) with
    | none => s
    | some e =>
      let r := getRing c e.1
      let s1 := { modCell s k fun c => { c with fring := c.fring.erase e } with tick := s.tick + 1 }
      settleFring (if banksAdmit c (slotAddr r r.wp) 16 .engineWrite then
        modCell s1 k fun c => produceSlot c e.1 (fringBytes s e.2) (some ⟨none, e.2⟩) else s1) k n

/-- Room has appeared in a ring of cell `k`: what waits to be produced into it goes on. -/
def settleProducers (s : State) (k : Nat) : State :=
  let s1 := settleFring s k (getCell s k).fring.length
  (teamOf s1 (getCell s1 k)).seats.foldl (fun s j => settlePubs s j (getCell s j).pubs.length) s1

end Sys2Proof.Machine
end

