-- ==== Sys2Proof/Machine/Async.lean ====
section
/-!
DEFINITION. Sys2Proof/Machine/Async.lean: the meanings of class 7 (R350 to R355, R358, R363 to R368): copies, rings, channels,
waits, bank modes, steps, the broadcast bus and the copy parameters.
-/
namespace Sys2Proof.Machine

/-! ### Copies (R358) -/

/-- How many earlier operations of the group enqueue a copy. -/
def copiesBefore (tags : List Tag) : Nat :=
  (tags.filter fun t => match t with
    | .copy => true
    | .chan _ => true
    | _ => false).length

/-- Is the copy engine's queue full, the group's earlier operations counted (R356, R369)? -/
def copyQueueFull (c : Cell) (tags : List Tag) : Bool := decide (64 ≤ c.copies.length + copiesBefore tags)

/-- An operation as it is issued, before it has its numbers. -/
def newCopy (c : Cell) (src : DescChain) (dst : Option DescChain) (h x y : BitVec 64) (cls : BitVec 4) : CopyOp :=
  ⟨0, 0, 0, src, dst, h, x, y, none, cls, c.cdead, !c.super, 0, none, none, false, [], [], none, false, none, 0, false, none,
    [], []⟩

/-- The ring check of a copy (R358). -/
def copyRingGood (c : Cell) (n : Nat) : Bool := n == 0 || (getRing c n).kind == 1

/-- The flag check of CPYF (R358): an 8-byte engine write. -/
def flagTrap (st : State) (k : Nat) (flag : Option (BitVec 32 × BitVec 64)) : Option TrapInfo :=
  match flag with
  | none => none
  | some (a, _) =>
    match nearCheck st k (a.setWidth 64) 8 8 .engineWrite with
    | .error t => some t
    | .ok _ => none

/-- CPY and CPYF: the checks of R358 in order, then the enqueue at commit. -/
def opCopy (h x y : BitVec 64) (cls : BitVec 4) (n : Nat) (flag : Option (BitVec 32 × BitVec 64)) : Op := fun st tags =>
  let k := st.iss.key
  let c := self st
  match tdtChain st k (h.setWidth 32) with
  | (.error t, w) => ⟨w, .trap t id⟩
  | (.ok src, w) =>
    match tdtChain (w st) k (h.extractLsb' 32 32) with
    | (.error t, w2) => ⟨fun s => w2 (w s), .trap t id⟩
    | (.ok dst, w2) =>
      let walk := fun s => w2 (w s)
      if !copyRingGood c n then ⟨walk, .trap (cellTrap causeRing 0 n) id⟩
      else
        match flagTrap st k flag with
        | some t => ⟨walk, .trap t id⟩
        | none =>
          if copyQueueFull c tags then ⟨walk, .stall false none⟩
          else
            ⟨walk, .done .copy [(3, enqueueCopy k { newCopy c src (some dst) h x y cls with ring := n, flag := flag })]⟩

/-- R358: copy one tile. -/
def opCpy (h x y : BitVec 6) (cls ring : BitVec 4) : Op := fun st tags =>
  let c := self st
  opCopy (rdS c h) (rdS c x) (rdS c y) cls ring.toNat none st tags

/-- R358: one such operation as a group. -/
def execCpy (g : BitVec 4) (h x y : BitVec 6) (cls ring : BitVec 4) (st : State) : Host.Outcome State Fault Refusal :=
  .next (issueOne (.cpy g h x y cls ring) (opCpy h x y cls ring) st)

/-- R358: copy one tile and write a flag word after it. -/
def opCpyf (h x y : BitVec 6) (cls ring : BitVec 4) : Op := fun st tags =>
  let c := self st
  opCopy (rdS c h) (rdS c x) (rdS c y) cls ring.toNat (some (c.cflag, rdS c (y + 1))) st tags

/-- R358: one such operation as a group. -/
def execCpyf (g : BitVec 4) (h x y : BitVec 6) (cls ring : BitVec 4) (st : State) : Host.Outcome State Fault Refusal :=
  .next (issueOne (.cpyf g h x y cls ring) (opCpyf h x y cls ring) st)

/-! ### Rings (R363 to R365) -/

/-- May software read or release ring n (R363, R364)? -/
def ringUsable (st : State) (c : Cell) (n : Nat) : Bool := (getRing c n).kind != 0 && !isAlias st c n

/-- Taking the trap of a fault mark clears it (R248). -/
def clearMark (k n : Nat) (s : State) : State :=
  modCell s k fun c =>
    let r := getRing c n
    setRing c n { r with marks := tblErase r.marks (r.rp.toNat % ringSlots r) }

/-- The slot at RP (R363): WAIT while the ring is empty, the recorded fault of a faulted slot, else the slot's address. -/
def opRingWait (d : BitVec 6) (n : Nat) (fix : TrapInfo → TrapInfo) : Op := fun st _ =>
  let k := st.iss.key
  let c := self st
  let r := getRing c n
  if !ringUsable st c n then opTrap (cellTrap causeRing 0 n)
  else if ringFill r = 0 then opWait
  else
    match headMark r with
    | some m => ⟨id, .trap (fix m.trap) (clearMark k n)⟩
    | none => opScalar st d ((slotAddr r r.rp).setWidth 64)

/-- R363: wait for the slot at the read count and return its address. -/
def opRwait (d : BitVec 6) (n : BitVec 5) : Op := opRingWait d n.toNat id

/-- R363: one such operation as a group. -/
def execRwait (g : BitVec 4) (d : BitVec 6) (n : BitVec 5) (st : State) : Host.Outcome State Fault Refusal :=
  .next (issueOne (.rwait g d n) (opRwait d n) st)

/-- The release of a slot: RP advances, and what waits for room goes on. -/
def releaseSlot (k n : Nat) (s : State) : State :=
  settleProducers (modCell s k fun c => let r := getRing c n; setRing c n { r with rp := r.rp + 1 }) k

/-- R364: release the slot at the read count. -/
def opRrel (n : BitVec 5) : Op := fun st _ =>
  let k := st.iss.key
  let c := self st
  let r := getRing c n.toNat
  if !ringUsable st c n.toNat || ringFill r == 0 then opTrap (cellTrap causeRing 0 n.toNat)
  else
    match headMark r with
    | some m => ⟨id, .trap m.trap (clearMark k n.toNat)⟩
    | none => ⟨id, .done .plain [(3, releaseSlot k n.toNat)]⟩

/-- R364: one such operation as a group. -/
def execRrel (g : BitVec 4) (n : BitVec 5) (st : State) : Host.Outcome State Fault Refusal :=
  .next (issueOne (.rrel g n) (opRrel n) st)

/-- The source of an RPUB: X = 0, and the checks of R13 to 16 bytes in every bank it touches (R365). -/
def pubSource (st : State) (k : Nat) (a : BitVec 64) (size : Nat) : Except TrapInfo (Nat × Nat) :=
  if !ownNear a ∧ a.toNat < 2 ^ 32 then .error (nearTrap causeNearbound a size)
  else
    match nearCheck st k a size 1 .load with
    | .error t => .error t
    | .ok (_, b, off) =>
      let last := b + (off + size - 1) / 65536
      if 32 ≤ last then .error (nearTrap causeNearbound a size)
      else if (List.range (last + 1 - b)).any fun i => !admits (getBank (getCell st k) (b + i)).mode (b + i) size .load then
        .error (nearTrap causeBankmode a size)
      else if a.toNat % 16 ≠ 0 then .error (nearTrap causeAlign a size)
      else .ok (b, off)

/-- Has a store still to reach the point that the edge of RPUB asks of it (R214)? -/
def pubPending (c : Cell) : Bool :=
  c.accesses.any fun a => unperformed a && accWrites a.kind && (accNear a || accPhys a)

/-- R365: produce one slot from software. -/
def opRpub (n : BitVec 5) (s : BitVec 6) : Op := fun st _ =>
  let k := st.iss.key
  let c := self st
  match pubTarget st k n.toNat with
  | none => opTrap (cellTrap causeRing 0 n.toNat)
  | some (j, m) =>
    let r := getRing (getCell st j) m
    match pubSource st k (rdS c s) r.slotSz with
    | .error t => opTrap t
    | .ok (b, off) =>
      if pubPending c || fencePending c (c.groupNo + 1) || pubWaits st k n.toNat || (c.pubs.any fun p => p.ring == n.toNat) then opStall
      else if !banksAdmit (getCell st j) (slotAddr r r.wp) r.slotSz .engineWrite then
        opTrap (cellTrap causeBankmode ((slotAddr r r.wp).setWidth 64) r.slotSz)
      else
        let p : Pub := ⟨n.toNat, nearBytes c b off r.slotSz, presentPoisoned c b off r.slotSz⟩
        ⟨id, .done .plain [(0, fun st => drainAll st fun l => l.owners.any fun o => o.key == some k), (3, beginPub k p)]⟩

/-- R365: one such operation as a group. -/
def execRpub (g : BitVec 4) (n : BitVec 5) (s : BitVec 6) (st : State) : Host.Outcome State Fault Refusal :=
  .next (issueOne (.rpub g n s) (opRpub n s) st)

/-! ### Channels (R366 to R368) -/

/-- An entry of the launch's channel table, where there is one (R366). -/
def chanEntry (st : State) (ctx c : Nat) : Option (BitVec 128) :=
  if launchField st ctx 40 2 ≤ c then none
  else (getCtx st ctx).launch.map fun l => BitVec.ofNat 128 (ofBytes ((l.channels.drop (16 * c)).take 16))

/-- KIND of a channel. -/
def chKind (e : BitVec 128) : Nat := (e.extractLsb' 41 2).toNat
/-- RCELL. -/
def chRcell (e : BitVec 128) : Nat := (e.extractLsb' 43 4).toNat
/-- SCELL. -/
def chScell (e : BitVec 128) : Nat := (e.extractLsb' 47 4).toNat
/-- RING. -/
def chRing (e : BitVec 128) : Nat := (e.extractLsb' 51 5).toNat
/-- The depth. -/
def chDepth (e : BitVec 128) : Nat := (e.extractLsb' 56 8).toNat + 1
/-- DHANDLE. -/
def chDhandle (e : BitVec 128) : BitVec 32 := e.extractLsb' 64 32
/-- SHANDLE. -/
def chShandle (e : BitVec 128) : BitVec 32 := e.extractLsb' 96 32

/-- The CHAN trap of a channel. -/
def chanTrap (c : Nat) : TrapInfo := cellTrap causeChan 0 c

/-- Does the receiver's ring fit a local channel, its slot size apart (R367)? -/
def chanRingGood (st : State) (k : Nat) (e : BitVec 128) : Bool :=
  match seatOf st k (chRcell e) with
  | some j => let r := getRing (getCell st j) (chRing e); r.kind == 1 && ringSlots r == chDepth e
  | none => false

/-- Are the receiver's slots smaller than the element (R367)? -/
def chanSlotShort (st : State) (k : Nat) (e : BitVec 128) (d : Desc) : Bool :=
  match seatOf st k (chRcell e) with
  | some j => decide ((getRing (getCell st j) (chRing e)).slotSz < (dTileElems d * dBits d + 7) / 8)
  | none => true

/-- The enqueue of a remote element: its tile is the send count modulo the tile count (R367). -/
def enqueueRemote (k n : Nat) (d : Desc) (o : CopyOp) (s : State) : State :=
  let count := tblGet 0 (getCell s k).chSent n
  let s1 := enqueueCopy k { o with tile := some (count % streamTiles d) } s
  modCell s1 k fun c => { c with chUnacked := tblSet 0 c.chUnacked n (tblGet 0 c.chUnacked n + 1) }

/-- The send count of a channel increments at commit (R367). -/
def countSend (k n : Nat) (s : State) : State :=
  modCell s k fun c => { c with chSent := tblSet 0 c.chSent n (tblGet 0 c.chSent n + 1) }

/-- Does the group stall on the depth of a remote channel, the group's earlier sends counted (R367)? -/
def chanFull (c : Cell) (n depth : Nat) (tags : List Tag) : Bool :=
  decide (depth ≤ tblGet 0 c.chUnacked n + (tags.filter fun t => t == .chan n).length)

/-- R367: send one element on a channel. -/
def opChsend (c x : BitVec 6) (cls : BitVec 4) : Op := fun st tags =>
  let k := st.iss.key
  let me := self st
  let n := (rdS me c).toNat % 256
  match chanEntry st me.ctx n with
  | none => opTrap (chanTrap n)
  | some e =>
    if chKind e = 0 ∨ chKind e = 3 ∨ me.cell ≠ chScell e ∨ (chKind e = 1 ∧ !chanRingGood st k e) then opTrap (chanTrap n)
    else
      match tdtChain st k (chShandle e) with
      | (.error t, w) => ⟨w, .trap t id⟩
      | (.ok src, w) =>
        let h : BitVec 64 := (chDhandle e ++ chShandle e : BitVec (32 + 32))
        if chKind e = 1 then
          if chanSlotShort st k e src.d then ⟨w, .trap (chanTrap n) id⟩
          else if copyQueueFull me tags then ⟨w, .stall false none⟩
          else
            let o := { newCopy me src none h (rdS me x) 0 cls with chan := some ⟨n, false, chRcell e, chRing e⟩ }
            ⟨w, .done (.chan n) [(3, fun s => countSend k n (enqueueCopy k o s))]⟩
        else
          match tdtChain (w st) k (chDhandle e) with
          | (.error t, w2) => ⟨fun s => w2 (w s), .trap t id⟩
          | (.ok dst, w2) =>
            let walk := fun s => w2 (w s)
            if copyQueueFull me tags || chanFull me n (chDepth e) tags then ⟨walk, .stall false none⟩
            else
              let o := { newCopy me src (some dst) h (rdS me x) 0 cls with chan := some ⟨n, true, 0, 0⟩ }
              ⟨walk, .done (.chan n) [(3, fun s => countSend k n (enqueueRemote k n dst.d o s))]⟩

/-- R367: one such operation as a group. -/
def execChsend (g : BitVec 4) (c x : BitVec 6) (cls : BitVec 4) (st : State) : Host.Outcome State Fault Refusal :=
  .next (issueOne (.chsend g c x cls) (opChsend c x cls) st)

/-- R368: receive one element on a channel. -/
def opChrecv (d c : BitVec 6) : Op := fun st tags =>
  let me := self st
  let n := (rdS me c).toNat % 256
  match chanEntry st me.ctx n with
  | none => opTrap (chanTrap n)
  | some e =>
    if chKind e = 0 ∨ chKind e = 2 ∨ (chKind e = 1 ∧ me.cell ≠ chRcell e) then opTrap (chanTrap n)
    else opRingWait d (chRing e) (fun t => { t with src := 4, opid := BitVec.ofNat 16 n }) st tags

/-- R368: one such operation as a group. -/
def execChrecv (g : BitVec 4) (d c : BitVec 6) (st : State) : Host.Outcome State Fault Refusal :=
  .next (issueOne (.chrecv g d c) (opChrecv d c) st)

/-! ### Waiting on a word (R354) -/

/-- Has an earlier access to the same team cell still to perform (R205)? -/
def nearPending (c : Cell) (a : BitVec 64) : Bool :=
  c.accesses.any fun b => unperformed b && match b.place with
    | .near x => bitsOf x.toNat 24 21 == bitsOf a.toNat 24 21 && !ownNear a
    | _ => false

/-- The end of a wait: the word as found, or a registered WAIT. -/
def opWaitWord (d : BitVec 6) (a v : BitVec 64) (glob : Bool) (cc : BitVec 2) (w : BitVec 64) (bad : Bool)
    (walk : State → State) (k : Nat) : OpOut :=
  if cmpWord cc w v then ⟨walk, .done .plain [(1, fun st => modCell st k fun c => bindValue c (.s d.toNat) w bad)]⟩
  else ⟨walk, .stall true (some (a, glob, cc, v))⟩

/-- R354: wait until a 64-bit word compares, and return it; a word of a stopped tile is not reached (R250), and accesses that
a FENCE has left pending come first (R207). -/
def opWaita (d a v : BitVec 6) (cls : BitVec 4) (glob : Bool) (cc : BitVec 2) : Op := fun st _ =>
  let k := st.iss.key
  let c := self st
  let va := rdS c a
  let x := rdS c v
  if glob then
    match checkGlobal false st k va 8 cls .read with
    | (.error t, w) => ⟨w, .trap t id⟩
    | (.ok l, w) =>
      if classPending c cls || fencePending c (c.groupNo + 1) then ⟨w, .stall false none⟩
      else
        let pa := leafPa l va.toNat
        let bad := physPoisoned st pa 8
        let walk := fun s => if bad then postPoison (w s) (keyCore k) pa c.ctx else w s
        opWaitWord d va x glob cc (BitVec.ofNat 64 (physNat (w st) pa 8)) bad walk k
  else
    match nearCheck st k va 8 8 .load with
    | .error t => opTrap t
    | .ok (j, b, off) =>
      if nearPending c va || fencePending c (c.groupNo + 1) || (j != k && !tileRuns st j) then opStall
      else
        let o := getCell st j
        opWaitWord d va x glob cc (BitVec.ofNat 64 (ofBytes (nearBytes o b off 8))) (presentPoisoned o b off 8) id k

/-- R354: one such operation as a group. -/
def execWaita (g : BitVec 4) (d a v : BitVec 6) (cls : BitVec 4) (glob : Bool) (cc : BitVec 2) (st : State) : Host.Outcome State Fault Refusal :=
  .next (issueOne (.waita g d a v cls glob cc) (opWaita d a v cls glob cc) st)

/-! ### Bank modes (R155, R156, R350, R351) -/

/-- The mode of a code. -/
def bankModeOf (n : Nat) : BankMode :=
  match n with
  | 0 => .off
  | 1 => .spad
  | 2 => .cache
  | _ => .plane

/-- How many plane regions the two slots of a core hold (R137). -/
def planesUsed (s : State) (k : Nat) : Nat :=
  let n := fun (c : Cell) => ((List.range 8).filter fun j => (getBank c (2 * j)).mode == .plane).length
  n (getCell s (2 * keyCore k)) + n (getCell s (2 * keyCore k + 1))

/-- Regions that the group's earlier BANKCFGs create. -/
def planesBefore (c : Cell) (tags : List Tag) : Nat :=
  (tags.filter fun t => match t with
    | .bank b whole => whole && (getBank c b).mode != .plane
    | _ => false).length

/-- Drop the bytes of a bank: what it holds is not architected (R155), a free value under a fresh tag (log 6). -/
def strayBank (tag b : Nat) (c : Cell) : Cell :=
  modBank { c with
    bytes := tblFilter (fun i _ => i / 65536 != b) c.bytes
    poisonBank := tblFilter (fun i _ => i / 8192 != b) c.poisonBank } b fun x => { x with stale := some tag }

/-- A bank leaves CACHE: its dirty sectors are written back, its lines go, its bytes are stray. -/
def leaveCache (s : State) (k b : Nat) : State :=
  let s1 := cleanWay s k b false
  { modCell s1 k (strayBank s1.tick b) with tick := s1.tick + 1 }

/-- A word of a region that bank 2j + 1 holds is copied into bank 2j, with its poison. -/
def compactWord (j w : Nat) (c : Cell) : Cell :=
  let c1 := setNearBytes c (2 * j) (4 * w) ((List.range 4).map fun i => bankByte c (2 * j + 1) (4 * w + i))
  if tblGet false c.poisonBank (8192 * (2 * j + 1) + w / 2) then poisonNear c1 (2 * j) (4 * w) 4 else c1

/-- A pair leaves PLANE (R155): the present plane is compacted into bank 2j, and bank 2j + 1 is stray. -/
def leavePlane (s : State) (k j : Nat) : State :=
  let go := fun (c : Cell) =>
    let odd := tblFilter (fun i b => i / 16384 == j && b) c.selOdd
    let c1 := odd.foldl (fun c e => compactWord j (e.1 % 16384) c) c
    strayBank s.tick (2 * j + 1) { c1 with
      selOdd := tblFilter (fun i _ => i / 16384 != j) c1.selOdd
      writer := tblFilter (fun i _ => i / 16384 != j) c1.writer
      regions := tblErase c1.regions j }
  { modCell s k go with tick := s.tick + 1 }

/-- A bank leaves its mode for OFF. -/
def leaveMode (s : State) (k b : Nat) : State :=
  match (getBank (getCell s k) b).mode with
  | .cache => leaveCache s k b
  | .plane => if b % 2 = 0 then leavePlane s k (b / 2) else s
  | _ => s

/-- Set the mode and live extent of a bank. -/
def putMode (k b : Nat) (m : BankMode) (extent : Nat) (s : State) : State :=
  modCell s k fun c => modBank c b fun x => { x with mode := m, extent := extent }

/-- The transition of one bank that is no plane, to a mode other than PLANE. -/
def turnBank (k b : Nat) (m : BankMode) (extent : Nat) (s : State) : State :=
  let s1 := if (getBank (getCell s k) b).mode = m then s else leaveMode s k b
  putMode k b m extent s1

/-- The transition of a pair out of PLANE. -/
def turnPair (k j : Nat) (m : BankMode) (extent : Nat) (s : State) : State :=
  putMode k (2 * j + 1) m extent (putMode k (2 * j) m extent (leavePlane s k j))

/-- The transition of a pair into PLANE, or of a region to another rule or step group. -/
def turnPlane (k j : Nat) (g : Region) (extent : Nat) (s : State) : State :=
  let s1 := if (getBank (getCell s k) (2 * j)).mode = .plane then s
    else leaveMode (leaveMode s k (2 * j)) k (2 * j + 1)
  let s2 := putMode k (2 * j + 1) .plane extent (putMode k (2 * j) .plane extent s1)
  modCell s2 k fun c => { c with regions := tblSet none c.regions j (some g) }

/-- Is a request malformed, or refused for its bank (R132, R155, R351)? -/
def bankRefused (st : State) (k : Nat) (q : BitVec 64) (tags : List Tag) : Bool :=
  let c := self st
  let b := bitsOf q.toNat 4 0
  let mode := bitsOf q.toNat 7 6
  let rule := bitsOf q.toNat 10 8
  let g := bitsOf q.toNat 13 11
  let plane := (getBank c b).mode == .plane
  q &&& 0xFFFFFFFFFFE0C020#64 != 0 || decide (16 < bitsOf q.toNat 20 16) || !(getBank c b).alloc ||
    (if mode = 3 then
      decide (4 < rule) || b % 2 == 1 || decide (15 < b) || !(getBank c (b + 1)).alloc || !isMember st c.ctx (160 + 2 * g) c.cell
        || (!plane && decide (8 ≤ planesUsed st k + planesBefore c tags))
    else rule != 0 || g != 0)

/-- Does another BANKCFG of the group name the bank or its pair (R351)? -/
def bankTaken (b : Nat) (whole : Bool) (tags : List Tag) : Bool :=
  tags.any fun t => match t with
    | .bank x w => x == b || ((w || whole) && x / 2 == b / 2)
    | _ => false

/-- Has a word of a region been written in the open step? -/
def regionWritten (c : Cell) (j : Nat) : Bool := c.writer.any fun e => e.1 / 16384 == j

/-- R351: change the mode and live extent of a bank or of a pair. -/
def opBankcfg (s : BitVec 6) : Op := fun st tags =>
  let k := st.iss.key
  let c := self st
  let q := rdS c s
  let b := bitsOf q.toNat 4 0
  let mode := bankModeOf (bitsOf q.toNat 7 6)
  let extent := bitsOf q.toNat 20 16
  let g : Region := ⟨q.extractLsb' 8 3, q.extractLsb' 11 3⟩
  let plane := (getBank c b).mode == .plane
  let whole := mode == .plane || plane
  if bankRefused st k q tags then opTrap (cellTrap causeBankmode 0 0)
  else if bankTaken b whole tags then opTrap (wordTrap causeIlldep st.iss.word)
  else if !c.copies.isEmpty || cmdsLive c then opStall
  else if mode = .plane ∧ plane ∧ getRegion c (b / 2) ≠ g ∧ regionWritten c (b / 2) then opTrap (cellTrap causeBankmode 0 0)
  else
    let turn : State → State :=
      if mode = .plane then turnPlane k (b / 2) g extent
      else if plane then turnPair k (b / 2) mode extent
      else turnBank k b mode extent
    ⟨id, .done (.bank b whole) [(2, turn)]⟩

/-- R351: one such operation as a group. -/
def execBankcfg (g : BitVec 4) (s : BitVec 6) (st : State) : Host.Outcome State Fault Refusal :=
  .next (issueOne (.bankcfg g s) (opBankcfg s) st)

/-- R352: arrive at a step group and wait for its step. -/
def opGstep (n : BitVec 3) : Op := fun st _ =>
  let k := st.iss.key
  let c := self st
  if isMember st c.ctx (160 + 2 * n.toNat) c.cell then ⟨id, .done .plain [(3, fun st => beginArrival st k false n.toNat)]⟩
  else opTrap (cellTrap causeBankmode 0 0)

/-- R352: one such operation as a group. -/
def execGstep (g : BitVec 4) (n : BitVec 3) (st : State) : Host.Outcome State Fault Refusal :=
  .next (issueOne (.gstep g n) (opGstep n) st)

/-! ### The broadcast bus (R171, R172, R353) -/

/-- The 256 bytes of the cell's own banks that a bus operation names: checks 1 to 4 of R353. -/
def busPlace (st : State) (k : Nat) (a : BitVec 64) (u : NearUse) : Except TrapInfo (Nat × Nat) :=
  if a.toNat < 2 ^ 32 ∧ !ownNear a then .error (nearTrap causeNearbound a 256)
  else
    match nearCheck st k a 256 256 u with
    | .error t => .error t
    | .ok (_, b, off) => .ok (b, off)

/-- How many earlier operations of the group carry a tag. -/
def tagsBefore (tags : List Tag) (t : Tag) : Nat := (tags.filter fun x => x == t).length

/-- R171: put 256 bytes in the send buffer for a beat. -/
def opBcast (b a : BitVec 6) : Op := fun st tags =>
  let k := st.iss.key
  let c := self st
  let t := rdS c b
  match busPlace st k (rdS c a) .bcast with
  | .error e => opTrap e
  | .ok (b, off) =>
    if t.toNat < st.pkg.beat.toNat + 2 ∨ st.pkg.beat.toNat + 4096 < t.toNat then
      opTrap (cellTrap causeLatch 0 (t.toNat % 2 ^ 32))
    else if 4 ≤ (c.sends.filter fun x => !x.clash).length + tagsBefore tags .send then opStall
    else
      let x : Send := ⟨t, nearBytes c b off 256, presentPoisoned c b off 256, false⟩
      ⟨id, .done .send [(3, fun st => modCell st k fun c => { c with sends := c.sends ++ [x] })]⟩

/-- R171: one such operation as a group. -/
def execBcast (g : BitVec 4) (b a : BitVec 6) (st : State) : Host.Outcome State Fault Refusal :=
  .next (issueOne (.bcast g b a) (opBcast b a) st)

/-- LATSTAT after a latch has completed (R174). -/
def latchDone (beat : BitVec 64) (filled coll : Bool) (c : Cell) : Cell :=
  { c with
    latFilled := filled
    latColl := c.latColl || coll
    latBeat := beat.setWidth 16
    recon := { c.recon with latchDone := c.recon.latchDone + 1 } }

/-- Arm a latch; at or after its beat, or too far ahead, it completes at once unfilled (R172). -/
def armLatch (now : BitVec 64) (beat : BitVec 64) (dest : BitVec 32) (c : Cell) : Cell :=
  let c1 := { c with recon := { c.recon with latchArmed := c.recon.latchArmed + 1 } }
  if beat.toNat ≤ now.toNat ∨ now.toNat + 4096 < beat.toNat then latchDone beat false false c1
  else { c1 with latches := c1.latches ++ [⟨beat, dest, none, none⟩] }

/-- R172: arm a latch for a beat. -/
def opLatch (b a : BitVec 6) : Op := fun st tags =>
  let k := st.iss.key
  let c := self st
  match busPlace st k (rdS c a) .latch with
  | .error e => opTrap e
  | .ok _ =>
    if 8 ≤ (c.latches.filter fun l => l.filled.isNone).length + tagsBefore tags .latch then opStall
    else
      ⟨id, .done .latch [(3, fun st => modCell st k (armLatch st.pkg.beat (rdS c b) ((rdS c a).setWidth 32)))]⟩

/-- R172: one such operation as a group. -/
def execLatch (g : BitVec 4) (b a : BitVec 6) (st : State) : Host.Outcome State Fault Refusal :=
  .next (issueOne (.latch g b a) (opLatch b a) st)

/-! ### Copy parameters (R344, R355) -/

/-- R355: CDEAD := s[A]. -/
def opDeadl (s : BitVec 6) : Op := fun st _ => opCell st.iss.key fun c => { c with cdead := rdS (self st) s }

/-- R355: one such operation as a group. -/
def execDeadl (g : BitVec 4) (s : BitVec 6) (st : State) : Host.Outcome State Fault Refusal :=
  .next (issueOne (.deadl g s) (opDeadl s) st)

/-- R355: CFLAG := bits [31:0] of s[A]. -/
def opDeadlF (s : BitVec 6) : Op := fun st _ => opCell st.iss.key fun c => { c with cflag := (rdS (self st) s).setWidth 32 }

/-- R355: one such operation as a group. -/
def execDeadlF (g : BitVec 4) (s : BitVec 6) (st : State) : Host.Outcome State Fault Refusal :=
  .next (issueOne (.deadlF g s) (opDeadlF s) st)

/-- R355: xp[j] := s[A]; ILLOP where a reserved field of the pattern is not zero. -/
def opDeadlXp (s : BitVec 6) (j : BitVec 3) : Op := fun st _ =>
  let v := rdS (self st) s
  if v &&& 0xFFFF00000000E060#64 ≠ 0 then opTrap (wordTrap causeIllop st.iss.word)
  else opCell st.iss.key fun c => wrXp c j.toNat v

/-- R355: one such operation as a group. -/
def execDeadlXp (g : BitVec 4) (s : BitVec 6) (j : BitVec 3) (st : State) : Host.Outcome State Fault Refusal :=
  .next (issueOne (.deadlXp g s j) (opDeadlXp s j) st)

end Sys2Proof.Machine
end

