-- ==== Sys2Proof/Machine/Mma.lean ====
section
/-!
DEFINITION. Sys2Proof/Machine/Mma.lean: the arithmetic of a matrix tile operation (R230, R237, R238) and of STACC (R386),
and the reading of an operand (R181, R385).
-/
namespace Sys2Proof.Machine

/-! ### Exact terms (R237) -/

/-- The exponent of the unit in which every finite value of a format is an integer. -/
def ffUnit (f : FFmt) : Int := 1 - (ffBias f : Int) - (ffManBits f : Int)

/-- A finite datum as an integer in that unit. -/
def ffInt (f : FFmt) : FVal → Int
  | .fin neg m e => let v : Int := (m * 2 ^ (e - ffUnit f).toNat : Nat); if neg then -v else v
  | _ => 0

/-- Is a datum zero? -/
def isZeroVal : FVal → Bool
  | .fin _ m _ => m == 0
  | _ => false

/-- Is a datum an infinity? -/
def isInfVal : FVal → Bool
  | .inf _ => true
  | _ => false

/-- One row of an operand as an MMA takes it: the data of its elements, their signs and integers, the integers of their
block scales, and the band scale. -/
structure MmaRow where
  vals : List FVal
  ints : List Int
  scales : List Int
  scaleNaN : Bool
  band : FVal
  deriving DecidableEq, Repr

/-- A sum on its way: the exact integer, and is every term of it -0? -/
structure MmaSum where
  val : Int
  minus : Bool
  deriving DecidableEq, Repr

/-- Is the product of two data a zero or negative number of sign minus? -/
def termMinus (x y : FVal) : Bool := signVal x != signVal y

/-- The 8 products of a block (R237, steps 1 to 3): their exact sum, the exact sum of the scaled products, and whether every
product is -0. -/
def blockSum : List (FVal × FVal) → List (Int × Int) → List (Int × Int) → Int × Int × Bool
  | (x, y) :: vs, (a, b) :: is, (p, q) :: ss =>
    let (t, u, m) := blockSum vs is ss
    (a * b + t, a * b * (p * q) + u, m && a * b == 0 && termMinus x y)
  | _, _, _ => (0, 0, true)

/-- A scaled block as a term of the sum: an exact zero takes the sign of its factors. -/
def blockTerm (r : Int × Int × Bool) : MmaSum :=
  ⟨r.2.1, r.2.1 == 0 && (if r.1 = 0 then r.2.2 else decide (r.1 < 0))⟩

/-- The exact sum over `n` blocks. -/
def dotSum (vs : List (FVal × FVal)) (is ss : List (Int × Int)) : Nat → MmaSum
  | 0 => ⟨0, true⟩
  | n + 1 =>
    let b := blockTerm (blockSum (vs.take 8) (is.take 8) (ss.take 8))
    let r := dotSum (vs.drop 8) (is.drop 8) (ss.drop 8) n
    ⟨b.val + r.val, b.minus && r.minus⟩

/-- What the special values of the products decide (R237): a NaN, an infinity by its sign, or nothing. -/
def dotSpecial : List (FVal × FVal) → Option FVal
  | [] => none
  | (x, y) :: r =>
    let here : Option FVal :=
      if isNaNVal x || isNaNVal y || (isInfVal x && isZeroVal y) || (isZeroVal x && isInfVal y) then some .nan
      else if isInfVal x || isInfVal y then some (.inf (signVal x != signVal y))
      else none
    match here, dotSpecial r with
    | some .nan, _ => some .nan
    | _, some .nan => some .nan
    | some (.inf a), some (.inf b) => if a = b then some (.inf a) else some .nan
    | some v, _ => some v
    | none, v => v

/-- The value of an element under an infinite band scale of its own row or of the other one (R230): infinite, or NaN where its
E2M1 value or its block scale is zero; under a finite one a zero, or a datum of the product's sign. -/
def bandElem (band : FVal) (v : FVal) (scale : Int) : FVal :=
  let neg := signVal v != signVal band
  let zero := isZeroVal v || scale == 0
  if isInfVal band then (if zero then .nan else .inf neg)
  else if zero || isZeroVal band then .fin neg 0 0
  else .fin neg 1 0

/-- The elements of a row as R230 has them where a band scale is infinite. -/
def bandElems (r : MmaRow) : List FVal := (r.vals.zip r.scales).map fun x => bandElem r.band x.1 x.2

/-- The products whose special values decide (R230, R237): of the elements as they are, or under an infinite band scale as it
makes them. -/
def specialPairs (x y : MmaRow) : List (FVal × FVal) :=
  if isInfVal x.band || isInfVal y.band then (bandElems x).zip (bandElems y) else x.vals.zip y.vals

/-- S × ba × bb of finite band scales, rounded once to F32 (R237, step 4); `e` is the exponent of the unit of S. Other band
scales are decided before it. -/
def bandRound (s : MmaSum) (e : Int) (x y : FVal) : Nat :=
  let neg := (if s.val = 0 then s.minus else decide (s.val < 0)) != (signVal x != signVal y)
  match x, y with
  | .fin _ m a, .fin _ n b => (roundTo .f32 plainCtl neg (s.val.natAbs * m * n) 1 (e + a + b)).code
  | _, _ => ffNaN .f32

/-- The dot product of two rows rounded to F32 (R237, R238): r of step 4. -/
def dotF32 (fa fb : FFmt) (block : Bool) (x y : MmaRow) : Nat :=
  let vs := x.vals.zip y.vals
  if x.scaleNaN || y.scaleNaN || isNaNVal x.band || isNaNVal y.band then ffNaN .f32
  else
    match dotSpecial (specialPairs x y) with
    | some .nan => ffNaN .f32
    | some v => ffSign .f32 (signVal v) + ffInf .f32
    | none =>
      let e := ffUnit fa + ffUnit fb + (if block then 2 * ffUnit .e3m5 else 0)
      bandRound (dotSum vs (x.ints.zip y.ints) (x.scales.zip y.scales) (x.vals.length / 8)) e x.band y.band

/-- The new accumulator word of an F32 sum (R237, step 5). -/
def accAdd (acc r : Nat) : Nat := (addVal .f32 plainCtl (ffDecode .f32 acc) (ffDecode .f32 r)).code

/-- The exact integer dot product of two rows of I8 codes. -/
def dotI8 : List Nat → List Nat → Int
  | x :: xs, y :: ys => sextInt x 8 * sextInt y 8 + dotI8 xs ys
  | _, _ => 0

/-! ### Operands (R181, R385) -/

/-- Elements of K for a format code: 192 bytes. -/
def mmaK (fmt : Nat) : Nat := 1536 / max 1 (codeBits fmt)

/-- The coordinates that a coordinate register gives element (k, r) of an operand (R385). -/
def operandCoord (c : BitVec 64) (k r : Nat) : Coord :=
  let x := coordOf c
  ⟨x.x0 + (k : Int), x.x1 + (r : Int), x.x2, x.x3⟩

/-- Where the block scale of an element stands (R181). -/
def scaleCoord (y : Coord) : Coord := ⟨y.x0 / 8, y.x1, y.x2, y.x3⟩

/-- Where the band scale of an element stands (R181). -/
def bandCoord (y : Coord) : Coord := ⟨y.x1 / 64, y.x2, y.x3, 0⟩

/-- Is the chain of an E2M1 descriptor whole (R181, R385)? -/
def chainGood (ch : DescChain) : Bool :=
  dFmt ch.d != 12 || match ch.scale, ch.band with
    | some e, some f => dFmt e == 13 && dFmt f == 9
    | _, _ => false

/-- Read the codes at a list of coordinates, with the address of the first poisoned one; the first fault ends the read. -/
def readCodes (s : State) (ag : Agent) (d : Desc) :
    List Coord → State × Except TrapInfo (List Nat × Option (BitVec 64))
  | [] => (s, .ok ([], none))
  | x :: xs =>
    match readElem s ag d x with
    | (s1, .error t) => (s1, .error t)
    | (s1, .ok (v, bad)) =>
      match readCodes s1 ag d xs with
      | (s2, .error t) => (s2, .error t)
      | (s2, .ok (r, b)) =>
        (s2, .ok (v :: r, if bad then some (BitVec.ofInt 64 (elemAddr d (wrapCoord d x)).1) else b))

/-- One row of an operand: its element codes, its scale codes and band code where it has them, and the address of the first
poisoned one. -/
def readRow (s : State) (ag : Agent) (ch : DescChain) (c : BitVec 64) (r : Nat) :
    State × Except TrapInfo (List Nat × List Nat × List Nat × Option (BitVec 64)) :=
  let xs := (List.range (mmaK (dFmt ch.d))).map fun k => operandCoord c k r
  match readCodes s ag ch.d xs with
  | (s1, .error t) => (s1, .error t)
  | (s1, .ok (vs, bad)) =>
    match ch.scale, ch.band with
    | some e, some f =>
      if dFmt ch.d ≠ 12 then (s1, .ok (vs, [], [], bad))
      else
        match readCodes s1 ag e (xs.map fun x => scaleCoord (wrapCoord ch.d x)) with
        | (s2, .error t) => (s2, .error t)
        | (s2, .ok (ss, bad2)) =>
          match readCodes s2 ag f [bandCoord (wrapCoord ch.d (operandCoord c 0 r))] with
          | (s3, .error t) => (s3, .error t)
          | (s3, .ok (bs, bad3)) => (s3, .ok (vs, ss, bs, (bad.or bad2).or bad3))
    | _, _ => (s1, .ok (vs, [], [], bad))

/-- Rows `r` to `r + n - 1` of an operand put behind those read. -/
def readRows (s : State) (ag : Agent) (ch : DescChain) (c : BitVec 64) (o : Operand) (r : Nat) :
    Nat → State × Except TrapInfo Operand
  | 0 => (s, .ok o)
  | n + 1 =>
    match readRow s ag ch c r with
    | (s1, .error t) => (s1, .error t)
    | (s1, .ok (vs, ss, bs, bad)) =>
      readRows s1 ag ch c { o with
        elems := o.elems ++ vs
        scales := o.scales ++ ss
        bands := o.bands ++ bs
        bad := if bad.isSome then o.bad ++ [r] else o.bad
        badAddr := o.badAddr.or bad } (r + 1) n

/-- Read a whole operand (R385). -/
def readOperand (s : State) (ag : Agent) (ch : DescChain) (h : BitVec 32) (c : BitVec 64) :
    State × Except TrapInfo Operand :=
  readRows s ag ch c ⟨h, dFmt ch.d, [], [], [], [], none⟩ 0 64

/-- Row r of an operand of a floating-point format as an MMA takes it. -/
def mmaRow (f : FFmt) (o : Operand) (r : Nat) : MmaRow :=
  let k := mmaK o.fmt
  let vals := ((o.elems.drop (k * r)).take k).map (ffDecode f)
  let codes := (o.scales.drop (k * r)).take k
  let block := o.fmt == 12
  ⟨vals, vals.map (ffInt f),
    if block then codes.map fun c => ffInt .e3m5 (ffDecode .e3m5 c) else List.replicate k 1,
    codes.any fun c => isNaNVal (ffDecode .e3m5 c),
    if block then ffDecode .bf16 (o.bands.getD r 0) else .fin false 1 0⟩

/-- The floating-point format of a matrix operand by its code (R238). -/
def mmaFmt (code : Nat) : Option FFmt :=
  match code with
  | 9 => some .bf16
  | 10 => some .e4m3
  | 11 => some .e5m2
  | 12 => some .e2m1
  | _ => none

/-- Is the pair of formats one of R238? -/
def pairGood (a b : Nat) : Bool :=
  ((a == 10 || a == 11) && (b == 10 || b == 11)) || (a == b && (a == 12 || a == 9 || a == 0))

/-- The words of a tile after an MMA, row by row, from the words before it. -/
def mmaWords (a b : Operand) (old : Nat → Nat → Nat) : List Nat :=
  match mmaFmt a.fmt, mmaFmt b.fmt with
  | some fa, some fb =>
    let rows := (List.range 64).map (mmaRow fa a)
    let cols := (List.range 64).map (mmaRow fb b)
    (rows.zip (List.range 64)).flatMap fun x =>
      (cols.zip (List.range 64)).map fun y => accAdd (old x.2 y.2) (dotF32 fa fb (a.fmt == 12) x.1 y.1)
  | _, _ =>
    let k := mmaK 0
    let row := fun (o : Operand) (r : Nat) => (o.elems.drop (k * r)).take k
    (List.range 64).flatMap fun i =>
      (List.range 64).map fun j => lowBits ((old i j : Int) + dotI8 (row a i) (row b j)) 32

/-! ### Accumulators -/

/-- The key of the 64-bit accumulator word that holds an element (R163, R260). -/
def accWord (tile i j : Nat) : Nat := (4096 * tile + 64 * i + j) / 2

/-- Is an accumulator element poisoned? -/
def accPoisoned (c : Cell) (tile i j : Nat) : Bool := tblGet false c.poisonAcc (accWord tile i j)

/-- Write a whole tile; its poison goes. -/
def setTile (c : Cell) (tile : Nat) (ws : List Nat) : Cell :=
  { c with
    a := tblSetList 0 c.a (4096 * tile) (ws.map (BitVec.ofNat 32))
    poisonAcc := tblFilter (fun w _ => w / 2048 != tile) c.poisonAcc }

/-- Every word of a tile zero (R384). -/
def zeroTile (c : Cell) (tile : Nat) : Cell :=
  { c with
    a := tblFilter (fun w _ => w / 4096 != tile) c.a
    poisonAcc := tblFilter (fun w _ => w / 2048 != tile) c.poisonAcc }

/-- Poison the words that elements of a tile stand in. -/
def poisonTile (c : Cell) (tile : Nat) (p : Nat → Nat → Bool) : Cell :=
  { c with poisonAcc := foldIndex (fun t n =>
      if p (n / 64) (n % 64) then tblSet false t (accWord tile (n / 64) (n % 64)) true else t) c.poisonAcc 0 4096 }

/-! ### STACC (R386) -/

/-- The floating-point format that STACC writes, by format code. -/
def staccFmt (code : Nat) : Option FFmt :=
  match code with
  | 8 => some .f32
  | 9 => some .bf16
  | 10 => some .e4m3
  | 11 => some .e5m2
  | _ => none

/-- Does STACC write the format? -/
def staccGood (code : Nat) : Bool := (staccFmt code).isSome || code == 2 || code == 0

/-- word × SC in a format, the product exact, rounded once (R386). -/
def staccRound (f : FFmt) (word sc : Nat) (ctl : FpCtl) : FpRes :=
  match ffDecode .f32 word, ffDecode .f32 sc with
  | .nan, _ => nanRes f
  | _, .nan => nanRes f
  | .fin a m e, .fin b n g => roundTo f ctl (a != b) (m * n) 1 (e + g)
  | x, y => if isZeroVal x || isZeroVal y then nanRes f else infTo f ctl (signVal x != signVal y)

/-- The code that STACC writes for a word of column j, and the generators after it: FTZ plays no part (R386). -/
def staccCode (fmt : Nat) (ctl : BitVec 64) (sc word j : Nat) (gens : Tbl (BitVec 32)) : Nat × Tbl (BitVec 32) :=
  match staccFmt fmt with
  | some f =>
    let (r, g) := drawOn gens j (ctl &&& ~~~0x20#64) (staccRound f word sc)
    (r.code, g)
  | none => (if fmt = 2 then word else lowBits (satInt true 8 (sextInt word 32)) 8, gens)

end Sys2Proof.Machine
end

