-- ==== Sys2Proof/Machine/Matrix.lean ====
section
/-!
DEFINITION. Sys2Proof/Machine/Matrix.lean: the matrix sequencer (R372 to R383, R390): commands, arrays, micro-operations and
faults; and the meanings of class 5 (R371 to R380) and of the micro-operations (R384 to R389).
-/
namespace Sys2Proof.Machine

/-! ### The store (R380, R381) -/

/-- A word of the microprogram store; what MUCW has not written is Dennov's library (R139, log 9). -/
def storeWord (c : Cell) (n : Nat) : BitVec 64 := (tblGet none c.mucode n).getD (Config.libraryWord n)

/-- An entry of the routine table. -/
def routineEntry (c : Cell) (r : Nat) : BitVec 32 := (tblGet none c.routines r).getD (Config.libraryRoutine r)

/-! ### Commands -/

/-- The command of a cell that an ID names while it is held. -/
def findCmd (c : Cell) (id : BitVec 16) : Option MatCmd := c.cmds.find? fun m => m.id == id

/-- The command that an ID names, held and inside the window of R373. -/
def heldCmd (c : Cell) (id : BitVec 16) : Option MatCmd :=
  if id = 0 ∨ 32768 ≤ (c.idNewest - id).toNat then none else findCmd c id

/-- The state code of R375. -/
def cmdState : Option MatCmd → Nat
  | none => 0
  | some m => match m.run with
    | .waiting => 1
    | .running => 2
    | .faulted => 3

/-- Change a command. -/
def modCmd (s : State) (k : Nat) (id : BitVec 16) (f : MatCmd → MatCmd) : State :=
  modCell s k fun c => { c with cmds := c.cmds.map fun m => if m.id = id then f m else m }

/-- The array of a core that a command runs on is free again (R374). -/
def freeArray (s : State) (k : Nat) (id : BitVec 16) : State :=
  let clear := fun (x : Option (Nat × BitVec 16)) => if x = some (k, id) then none else x
  modCore s (keyCore k) fun u => { u with arrayX := clear u.arrayX, arrayY := clear u.arrayY }

/-- One command becomes FAULTED (R390): its fault names it, its array is free, and with FR set it owes a slot (R378, R381). -/
def markFaulted (s : State) (k : Nat) (id : BitVec 16) (t : TrapInfo) : State :=
  match findCmd (getCell s k) id with
  | none => s
  | some m =>
    let t1 : TrapInfo := { t with engine := true, src := 2, opid := id }
    let e := routineEntry (getCell s k) m.routine
    let n := (e.extractLsb' 16 5).toNat
    let s1 := freeArray (modCmd s k id fun m => { m with run := .faulted, array := none, fault := some t1 }) k id
    modCell s1 k fun c =>
      let c1 := countEv c 7 1
      if e.getLsbD 21 && (getRing c n).kind == 3 then { c1 with fring := c1.fring ++ [(n, t1)] } else c1

/-- The fault of a predecessor that is held as FAULTED (R373). -/
def predFault (c : Cell) (m : MatCmd) : Option TrapInfo :=
  [m.pred1, m.pred2].findSome? fun p => match heldCmd c p with
    | some q => if q.run = .faulted then q.fault else none
    | none => none

/-- Commands that wait for a FAULTED predecessor retire FAULTED too, in MCALL order. -/
def cascade (s : State) (k : Nat) : Nat → State
  | 0 => s
  | n + 1 =>
    let c := getCell s k
    match c.cmds.findSome? fun m => if m.run = .waiting then (predFault c m).map fun t => (m.id, t) else none with
    | some (id, t) => cascade (markFaulted s k id t) k n
    | none => s

/-- A command faults, with all that follows from it (R373, R378, R390). -/
def faultCmd (s : State) (k : Nat) (id : BitVec 16) (t : TrapInfo) : State :=
  let s1 := cascade (markFaulted s k id t) k 32
  settleFring s1 k (getCell s1 k).fring.length

/-- A command retires clean (R373, R384). -/
def retireCmd (s : State) (k : Nat) (id : BitVec 16) : State :=
  modCell (freeArray s k id) k fun c => countEv { c with cmds := c.cmds.filter fun m => m.id != id } 7 1

/-- In stage 2 of a removal, do commands on the arrays run to retirement, as R262 has it, or stop at the end of their
micro-operation, as R391 has it? The rules give both, and which one holds is left open (log 28). -/
def killRetires : Bool := Config.unstated 262 391 % 2 == 0

/-- May the commands of a cell run: its tile runs (R250), and its context is not past the stage of a removal that lets them
(R262, R391)? -/
def cmdsRun (s : State) (k : Nat) : Bool :=
  tileRuns s k && match (getCtx s (getCell s k).ctx).killing with
    | some (stage, _) => decide (stage < 2) || (stage == 2 && killRetires)
    | none => true

/-- Has a predecessor retired clean (R373)? -/
def predClean (c : Cell) (p : BitVec 16) : Bool := (heldCmd c p).isNone

/-- The command of a cell that an array takes: one that a restore brought back running, else the oldest in MCALL order whose
predecessors have both retired clean (R374, R391), once the near stores before its fork have performed (R211). -/
def readyCmd (s : State) (k : Nat) : Option MatCmd :=
  let c := getCell s k
  if !cmdsRun s k then none
  else
    match c.cmds.find? fun m => m.run == .running && m.array.isNone with
    | some m => some m
    | none =>
      (c.cmds.find? fun m => m.run == .waiting && predClean c m.pred1 && predClean c m.pred2).filter fun m =>
        !forkWaits c m.group none

/-- Value of a command's snapshot of mp[n]. -/
def cmdMp (m : MatCmd) (n : Nat) : BitVec 64 := tblGet 0 m.mp n

/-- A command as it starts its routine (R383); one that had started goes on. -/
def startedCmd (c : Cell) (array : Bool) (m : MatCmd) : MatCmd :=
  match m.run with
  | .waiting => { m with
      run := .running
      array := some array
      index := (routineEntry c m.routine).toNat % 4096
      c := foldIndex (fun t i => tblSet 0 t i (cmdMp m i)) [] 0 7
      lk := []
      sc := 0x3F800000
      statB := none
      gens := seedGens (fmtctlSeed m.fmtctl ^^^ m.id.toNat) c.team c.cell }
  | _ => { m with array := some array }

/-- Between two slots with ready commands the arrays are given in turn (R374). -/
def arrayTurn (s : State) (core : Nat) : Option (Nat × MatCmd) :=
  match readyCmd s (2 * core), readyCmd s (2 * core + 1) with
  | some a, some b => some (if (getCore s core).turnB then (2 * core + 1, b) else (2 * core, a))
  | some a, none => some (2 * core, a)
  | none, some b => some (2 * core + 1, b)
  | none, none => none

/-- A free array of a core takes a command (R374): X before Y. -/
def startCmd (s : State) (core : Nat) : State :=
  let u := getCore s core
  if u.arrayX.isSome && u.arrayY.isSome then s
  else
    match arrayTurn s core with
    | none => s
    | some (k, m) =>
      let y := u.arrayX.isSome
      let s1 := modCmd s k m.id (startedCmd (getCell s k) y)
      modCore s1 core fun u =>
        let v := { u with turnB := k % 2 == 0 }
        if y then { v with arrayY := some (k, m.id) } else { v with arrayX := some (k, m.id) }

/-! ### Micro-operations (R384) -/

/-- What a micro-operation does: it is complete and the next index follows, or TARGET; it waits; it faults, with what it has
done; or its command retires. -/
inductive MicroRes where
  | done (f : State → State)
  | jump (f : State → State) (target : Nat)
  | wait
  | fault (f : State → State) (t : TrapInfo)
  | ret

/-- The meaning of a micro-operation of a command of a slot. -/
abbrev Micro := State → Nat → MatCmd → MicroRes

/-- The command goes on at an index; what its last micro-operation had done ahead is spent. -/
def stepCmd (s : State) (k : Nat) (id : BitVec 16) (n : Nat) : State :=
  modCmd s k id fun m => { m with index := n, early := [], stored := [] }

/-- Run one micro-operation of the command that State.iss names, while it runs on an array. -/
def microStep (i : Micro) (s : State) : State :=
  let k := s.iss.key
  match findCmd (getCell s k) s.iss.cmd with
  | none => s
  | some m =>
    if m.run != .running || m.array.isNone || !cmdsRun s k then s
    else
      match i s k m with
      | .done f => stepCmd (f s) k m.id (m.index + 1)
      | .jump f n => stepCmd (f s) k m.id n
      | .wait => s
      | .fault f t => faultCmd (f s) k m.id t
      | .ret => retireCmd s k m.id

/-- The MCMD or MUCODE fault of a command at its index (R244, R390). -/
def cmdTrap (cause : BitVec 8) (m : MatCmd) : TrapInfo := engTrap cause 0 (m.routine + 256 * (m.index % 4096))

/-- The micro-operation that a command is to run next, or none: beyond the store, or a word that is no micro-operation. -/
def fetchMicro (c : Cell) (m : MatCmd) : Option Instr :=
  if 4096 ≤ m.index then none
  else
    match decodeUop (storeWord c m.index) with
    | .ok i => some i
    | .error _ => none

/-- A word that is no micro-operation faults its command with MUCODE (R383, R384). -/
def badMicro (s : State) : State := microStep (fun _ _ m => .fault id (cmdTrap causeMucode m)) s

/-- A coordinate register. -/
def cReg (m : MatCmd) (n : BitVec 4) : BitVec 64 := tblGet 0 m.c n.toNat

/-- Write a coordinate register. -/
def setCReg (n : BitVec 4) (v : BitVec 64) (m : MatCmd) : MatCmd := { m with c := tblSet 0 m.c n.toNat v }

/-- A micro-operation that changes its command only. -/
def microReg (k : Nat) (m : MatCmd) (f : MatCmd → MatCmd) : MicroRes := .done fun s => modCmd s k m.id f

/-- 16-bit field j of a coordinate register replaced. -/
def setField (w : BitVec 64) (j : BitVec 2) (v : BitVec 16) : BitVec 64 :=
  let sh := 16 * j.toNat
  (w &&& ~~~(0xFFFF#64 <<< sh)) ||| (v.setWidth 64 <<< sh)

/-- 16-bit field j of a coordinate register. -/
def getField (w : BitVec 64) (j : Nat) : BitVec 16 := w.extractLsb' (16 * j) 16

/-- The handle H[n] of a command (R371). -/
def cmdHandle (m : MatCmd) (n : BitVec 2) : BitVec 32 :=
  let w := cmdMp m (if n.toNat < 2 then 4 else 5)
  if n.toNat % 2 = 0 then w.setWidth 32 else w.extractLsb' 32 32

/-- The snapshot of H[n]; none for a null handle. -/
def cmdDesc (m : MatCmd) (n : BitVec 2) : Option DescChain := tblGet none m.descs n.toNat

/-- The tile of a micro-operation, or none where it lies at or above NACC or outside AMASK (R382, R390). -/
def cmdTile (c : Cell) (m : MatCmd) (t : BitVec 6) (tr : BitVec 4) : Option Nat :=
  let n := t.toNat + (if tr = 0 then 0 else (getField (cReg m tr) 3).toNat)
  if n < c.nacc ∧ (cmdMp m 7).getLsbD n then some n else none

/-- Who reads and writes banks for a command. -/
def cmdAgent (s : State) (k : Nat) (m : MatCmd) : Agent := ⟨k, (getCell s k).ctx, false, 0, .layout (keyDie k), m.early⟩

/-- A fault with no effect. -/
def microTrap (t : TrapInfo) : MicroRes := .fault id t

/-- The SHAPE fault of an operand's tile: 192 bytes by 64 (R385). -/
def operandShape (ch : DescChain) : Bool :=
  dTile ch.d 0 == mmaK (dFmt ch.d) && dTile ch.d 1 == 64 && dTile ch.d 2 == 1 && dTile ch.d 3 == 1

/-- The chain descriptors of an operand that do not lie in near space (log 14). -/
def chainFar (ch : DescChain) : Bool :=
  dFmt ch.d == 12 && [ch.scale, ch.band].any fun d => match d with
    | some e => dSpace e != 0
    | none => false

/-- The checks of operand B alone, as LDB makes them; those of A are the same (R385). -/
def operandTrap (ch : DescChain) (h : BitVec 32) : Option TrapInfo :=
  if dSpace ch.d ≠ 0 || !operandShape ch then some (engTrap causeShape 0 h.toNat)
  else if !chainGood ch then some (engTrap causeFormat 0 h.toNat)
  else if chainFar ch then some (engTrap causeShape 0 h.toNat)
  else none

/-- The checks of an MMA on two descriptors, in the order of R385. -/
def pairTrap (a b : DescChain) (ha hb : BitVec 32) : Option TrapInfo :=
  if dSpace a.d ≠ 0 then some (engTrap causeShape 0 ha.toNat)
  else if dSpace b.d ≠ 0 then some (engTrap causeShape 0 hb.toNat)
  else if !operandShape a then some (engTrap causeShape 0 ha.toNat)
  else if !operandShape b then some (engTrap causeShape 0 hb.toNat)
  else if !pairGood (dFmt a.d) (dFmt b.d) then some (engTrap causeFormat 0 ha.toNat)
  else
    match operandTrap a ha with
    | some t => some t
    | none => operandTrap b hb

/-- The address that a POISON fault of an MMA records (R390): that of the first poisoned operand element, A before B, else 0 for
an accumulator word. -/
def poisonAddr (a b : Operand) : BitVec 64 := (a.badAddr.or b.badAddr).getD 0

/-- Add a product into a tile (R385); a poisoned operand or word leaves the values, poisons what it would write, and faults
the command (R260, R390). -/
def mmaInto (k n : Nat) (a b : Operand) (s : State) : MicroRes :=
  let c := getCell s k
  let bad := fun (i j : Nat) => a.bad.contains i || b.bad.contains j || accPoisoned c n i j
  if (List.range 4096).any fun e => bad (e / 64) (e % 64) then
    .fault (fun _ => modCell s k fun c => poisonTile c n bad) { enginePoison 0 with addr := poisonAddr a b }
  else .done fun _ => modCell s k fun c => setTile c n (mmaWords a b fun i j => (rdA c n i j).toNat)

/-- Read B, where it is not held, and add the product. -/
def mmaRun (k n : Nat) (ag : Agent) (s : State) (a : Operand) (b : DescChain ⊕ Operand) (h : BitVec 32) (cw : BitVec 64) :
    MicroRes :=
  match b with
  | .inr o => mmaInto k n a o s
  | .inl ch =>
    match readOperand s ag ch h cw with
    | (s1, .error t) => .fault (fun _ => s1) t
    | (s1, .ok o) => mmaInto k n a o s1

/-- Where element e of a tile goes (R386). -/
def staccPlace (x : Coord) (e : Nat) : Coord := coordAdd x ⟨((e % 64 : Nat) : Int), ((e / 64 : Nat) : Int), 0, 0⟩

/-- Write element e of a tile and those after it that have not been written ahead, up to the first fault (R386): the generators
after them, whether a poisoned word was among them, and the fault. -/
def staccRun (k n : Nat) (ag : Agent) (d : Desc) (x : Coord) (m : MatCmd) (s : State) (g : Tbl (BitVec 32)) (bad : Bool)
    (e : Nat) : Nat → State × Tbl (BitVec 32) × Bool × Option TrapInfo
  | 0 => (s, g, bad, none)
  | r + 1 =>
    let c := getCell s k
    let i := e / 64
    let j := e % 64
    let p := accPoisoned c n i j
    let (v, g1) := staccCode (dFmt d) m.fmtctl m.sc.toNat (rdA c n i j).toNat j g
    let put := if tblGet false m.stored e then (s, .ok ()) else writeElem s ag d (staccPlace x e) v p
    match put with
    | (s1, .error t) => (s1, g1, bad || p, some t)
    | (s1, .ok _) => staccRun k n ag d x m s1 g1 (bad || p) (e + 1) r

/-- The generators of a STACC after `r` elements from e on (R234, R386). -/
def staccGens (c : Cell) (n : Nat) (d : Desc) (m : MatCmd) (g : Tbl (BitVec 32)) (e : Nat) : Nat → Tbl (BitVec 32)
  | 0 => g
  | r + 1 =>
    staccGens c n d m (staccCode (dFmt d) m.fmtctl m.sc.toNat (rdA c n (e / 64) (e % 64)).toNat (e % 64) g).2 (e + 1) r

/-- What a STACC writes: a tile into a tensor, or its fault (R386). -/
def staccTarget (st : State) (k : Nat) (m : MatCmd) (ha : BitVec 2) (t : BitVec 6) (tr : BitVec 4) :
    Except TrapInfo (Nat × Desc) :=
  match cmdTile (getCell st k) m t tr, cmdDesc m ha with
  | none, _ => .error (cmdTrap causeMcmd m)
  | _, none => .error (cmdTrap causeMcmd m)
  | some n, some ch =>
    let d := ch.d
    let h := (cmdHandle m ha).toNat
    if dSpace d ≠ 0 ∨ dTile d 0 ≠ 64 ∨ dTile d 1 ≠ 64 ∨ dTile d 2 ≠ 1 ∨ dTile d 3 ≠ 1 then .error (engTrap causeShape 0 h)
    else if !staccGood (dFmt d) then .error (engTrap causeFormat 0 h)
    else .ok (n, d)

/-- Is a tile of a cell's team not running? Only then can a near access of the cell's engines have to wait (R250). -/
def peersStopped (s : State) (k : Nat) : Bool := (teamOf s (getCell s k)).seats.any fun j => !tileRuns s j

/-- Does an element of a STACC stand in a bank of a stopped tile? -/
def staccHeld (s : State) (k : Nat) (d : Desc) (x : Coord) : Bool :=
  peersStopped s k && (List.range 4096).any fun e => elemHeld s k d (staccPlace x e)

/-- Does an element of an operand, or of its scales, stand in a bank of a stopped tile (R250)? -/
def operandHeld (s : State) (k : Nat) (ch : DescChain) (c : BitVec 64) : Bool :=
  let at_ := fun (d : Option Desc) (x : Coord) => match d with
    | some d => dFmt ch.d == 12 && elemHeld s k d x
    | none => false
  peersStopped s k && (List.range 64).any fun r => (List.range (mmaK (dFmt ch.d))).any fun i =>
    let x := operandCoord c i r
    elemHeld s k ch.d x || at_ ch.scale (scaleCoord (wrapCoord ch.d x)) || at_ ch.band (bandCoord (wrapCoord ch.d x))

/-- The engine's form of a near fault. -/
def asEngine (t : TrapInfo) : TrapInfo := { t with engine := true }

/-- A micro-operation as one step of the command that State.iss names. -/
def microNext (i : Micro) (s : State) : Host.Outcome State Fault Refusal := .next (microStep i s)

/-! ### The meanings of the micro-operations -/


/-- R385: add A × B into a tile. -/
def doMma (ha hb : BitVec 2) (f1 f2 : BitVec 4) (t : BitVec 6) (tr : BitVec 4) (keepB : Bool) : Micro := fun st k m =>
  let ag := cmdAgent st k m
  match cmdTile (getCell st k) m t tr, cmdDesc m ha with
  | none, _ => microTrap (cmdTrap causeMcmd m)
  | _, none => microTrap (cmdTrap causeMcmd m)
  | some n, some a =>
    let go := fun (b : DescChain ⊕ Operand) (hb : BitVec 32) (cw : BitVec 64) =>
      let held := operandHeld st k a (cReg m f1) || match b with
        | .inl ch => operandHeld st k ch cw
        | .inr _ => false
      if held then .wait else
      match readOperand st ag a (cmdHandle m ha) (cReg m f1) with
      | (s1, .error t) => .fault (fun _ => s1) t
      | (s1, .ok o) => mmaRun k n ag s1 o b hb cw
    if keepB then
      match m.statB with
      | none => microTrap (cmdTrap causeMucode m)
      | some o =>
        let bad := if dSpace a.d ≠ 0 ∨ !operandShape a then some (engTrap causeShape 0 (cmdHandle m ha).toNat)
          else if !pairGood (dFmt a.d) o.fmt then some (engTrap causeFormat 0 (cmdHandle m ha).toNat)
          else operandTrap a (cmdHandle m ha)
        match bad with
        | some t => microTrap t
        | none => go (.inr o) o.handle 0
    else
      match cmdDesc m hb with
      | none => microTrap (cmdTrap causeMcmd m)
      | some b =>
        match pairTrap a b (cmdHandle m ha) (cmdHandle m hb) with
        | some t => microTrap t
        | none => go (.inl b) (cmdHandle m hb) (cReg m f2)

/-- R385: one such micro-operation. -/
def execUopMma (ha hb : BitVec 2) (f1 f2 : BitVec 4) (t : BitVec 6) (tr : BitVec 4) (keepB : Bool) (st : State) : Host.Outcome State Fault Refusal := microNext (doMma ha hb f1 f2 t tr keepB) st

/-- R384, R385: read operand B and hold it. -/
def doLdb (hb : BitVec 2) (f2 : BitVec 4) : Micro := fun st k m =>
  match cmdDesc m hb with
  | none => microTrap (cmdTrap causeMcmd m)
  | some b =>
    match operandTrap b (cmdHandle m hb) with
    | some t => microTrap t
    | none =>
      if operandHeld st k b (cReg m f2) then .wait else
      match readOperand st (cmdAgent st k m) b (cmdHandle m hb) (cReg m f2) with
      | (s1, .error t) => .fault (fun _ => s1) t
      | (s1, .ok x) =>
        match x.badAddr with
        | some a => .fault (fun _ => s1) { enginePoison 0 with addr := a }
        | none => .done fun _ => modCmd s1 k m.id fun m => { m with statB := some x }

/-- R384, R385: one such micro-operation. -/
def execUopLdb (hb : BitVec 2) (f2 : BitVec 4) (st : State) : Host.Outcome State Fault Refusal := microNext (doLdb hb f2) st

/-- R384: every word of the tile := 0. -/
def doZacc (t : BitVec 6) (tr : BitVec 4) : Micro := fun st k m =>
  match cmdTile (getCell st k) m t tr with
  | none => microTrap (cmdTrap causeMcmd m)
  | some n => .done fun s => modCell s k fun c => zeroTile c n

/-- R384: one such micro-operation. -/
def execUopZacc (t : BitVec 6) (tr : BitVec 4) (st : State) : Host.Outcome State Fault Refusal := microNext (doZacc t tr) st

/-- R386: write a tile to a SPAD tensor. -/
def doStacc (ha : BitVec 2) (f1 : BitVec 4) (t : BitVec 6) (tr : BitVec 4) (z : Bool) : Micro := fun st k m =>
  match staccTarget st k m ha t tr with
  | .error e => microTrap e
  | .ok (n, d) =>
    let x := coordOf (cReg m f1)
    if staccHeld st k d x then .wait
    else
      match staccRun k n (cmdAgent st k m) d x m st m.gens false 0 4096 with
      | (s1, _, _, some e) => .fault (fun _ => s1) e
      | (s1, _, true, none) => .fault (fun _ => s1) (enginePoison 0)
      | (s1, g, false, none) =>
        .done fun _ => modCmd (if z then modCell s1 k fun c => zeroTile c n else s1) k m.id fun m => { m with gens := g }

/-- R386: one such micro-operation. -/
def execUopStacc (ha : BitVec 2) (f1 : BitVec 4) (t : BitVec 6) (tr : BitVec 4) (z : Bool) (st : State) : Host.Outcome State Fault Refusal := microNext (doStacc ha f1 t tr z) st

/-- R384: set the scale SC. -/
def doScale (f1 : BitVec 4) (imm : BitVec 32) : Micro := fun _ k m =>
  microReg k m fun m => { m with sc := if f1 = 0 then imm else (cReg m f1).setWidth 32 }

/-- R384: one such micro-operation. -/
def execUopScale (f1 : BitVec 4) (imm : BitVec 32) (st : State) : Host.Outcome State Fault Refusal := microNext (doScale f1 imm) st

/-- R384: c[F1] := c[F2] with one field replaced. -/
def doSetc (f1 f2 : BitVec 4) (j : BitVec 2) (v : BitVec 16) : Micro := fun _ k m =>
  microReg k m fun m => setCReg f1 (setField (cReg m f2) j v) m

/-- R384: one such micro-operation. -/
def execUopSetc (f1 f2 : BitVec 4) (j : BitVec 2) (v : BitVec 16) (st : State) : Host.Outcome State Fault Refusal := microNext (doSetc f1 f2 j v) st

/-- R384: c[F1] := c[F2] + c[F3], field by field. -/
def doAddc (f1 f2 f3 : BitVec 4) : Micro := fun _ k m =>
  let sum := fun (i : Nat) => getField (cReg m f2) i + getField (cReg m f3) i
  microReg k m fun m => setCReg f1 (sum 3 ++ sum 2 ++ sum 1 ++ sum 0 : BitVec (16 + 16 + 16 + 16)) m

/-- R384: one such micro-operation. -/
def execUopAddc (f1 f2 f3 : BitVec 4) (st : State) : Host.Outcome State Fault Refusal := microNext (doAddc f1 f2 f3) st

/-- R384: add to one field of c[F1]. -/
def doAddci (f1 : BitVec 4) (j : BitVec 2) (v : BitVec 16) : Micro := fun _ k m =>
  microReg k m fun m => setCReg f1 (setField (cReg m f1) j (getField (cReg m f1) j.toNat + v)) m

/-- R384: one such micro-operation. -/
def execUopAddci (f1 : BitVec 4) (j : BitVec 2) (v : BitVec 16) (st : State) : Host.Outcome State Fault Refusal := microNext (doAddci f1 j v) st

/-- R387: counted branch. -/
def doLoop (n : BitVec 2) (f2 : BitVec 4) (r : Bool) (count target : BitVec 12) : Micro := fun _ k m =>
  let now := tblGet 0 m.lk n.toNat
  let cnt := if r then (getField (cReg m f2) 0).toNat else count.toNat
  let v := (if now = 0 then cnt else now) - 1
  let put := fun (s : State) => modCmd s k m.id fun m => { m with lk := tblSet 0 m.lk n.toNat v }
  if now = 0 ∧ cnt = 0 then microTrap (cmdTrap causeMucode m)
  else if v = 0 then .done put
  else .jump put target.toNat

/-- R387: one such micro-operation. -/
def execUopLoop (n : BitVec 2) (f2 : BitVec 4) (r : Bool) (count target : BitVec 12) (st : State) : Host.Outcome State Fault Refusal := microNext (doLoop n f2 r count target) st

/-- R388: take the slot at the read count of a ring. -/
def doWtile (f1 : BitVec 4) (ring : BitVec 5) : Micro := fun st k m =>
  let c := getCell st k
  let n := ring.toNat
  let q := getRing c n
  let a := slotAddr q q.rp
  if !ringUsable st c n then microTrap (engTrap causeRing 0 n)
  else if ringFill q = 0 then .wait
  else
    match headMark q with
    | some x => .fault (clearMark k n) x.trap
    | none =>
      match nearCheck st k (a.setWidth 64) 8 1 .engineRead with
      | .error t => microTrap (asEngine t)
      | .ok (_, b, off) =>
        if presentPoisoned c b off 8 then microTrap { enginePoison 0 with addr := a.setWidth 64 }
        else
          let w := BitVec.ofNat 64 (ofBytes (nearBytes c b off 8))
          .done fun s => releaseSlot k n (modCmd s k m.id (setCReg f1 w))

/-- R388: one such micro-operation. -/
def execUopWtile (f1 : BitVec 4) (ring : BitVec 5) (st : State) : Host.Outcome State Fault Refusal := microNext (doWtile f1 ring) st

/-- R389: wait until a near word compares. -/
def doWflag (f1 f2 : BitVec 4) (cc : BitVec 2) : Micro := fun st k m =>
  let a : BitVec 32 := (cReg m f1).setWidth 32
  match nearCheck st k (a.setWidth 64) 8 8 .load with
  | .error t => microTrap (asEngine t)
  | .ok (j, b, off) =>
    let o := getCell st j
    if nearStopped st k a then .wait
    else if presentPoisoned o b off 8 then microTrap { enginePoison 0 with addr := a.setWidth 64 }
    else if cmpWord cc (BitVec.ofNat 64 (ofBytes (nearBytes o b off 8))) (cReg m f2) then .done id
    else .wait

/-- R389: one such micro-operation. -/
def execUopWflag (f1 f2 : BitVec 4) (cc : BitVec 2) (st : State) : Host.Outcome State Fault Refusal := microNext (doWflag f1 f2 cc) st

/-- R389: write a flag word, or produce a slot into a ring. -/
def doSignal (f1 f2 : BitVec 4) (kind : Bool) (ring : BitVec 5) : Micro := fun st k m =>
  let v := cReg m f2
  if kind then
    let c := getCell st k
    let n := ring.toNat
    let q := getRing c n
    let bs := toBytes v.toNat 8 ++ toBytes m.id.toNat 2 ++ toBytes m.index 2 ++ zeroBytes 4
    if q.kind ≠ 3 then microTrap (engTrap causeRing 0 n)
    else if ringNoRoom q then .wait
    else if !banksAdmit c (slotAddr q q.wp) 16 .engineWrite then microTrap (slotTrap q)
    else .done fun s => modCell s k fun c => produceSlot c n bs none
  else
    let a : BitVec 32 := (cReg m f1).setWidth 32
    match nearCheck st k (a.setWidth 64) 8 8 .engineWrite with
    | .error t => microTrap (asEngine t)
    | .ok (j, b, off) =>
      if nearStopped st k a then .wait else .done fun s => putNear s j b off (toBytes v.toNat 8)

/-- R389: one such micro-operation. -/
def execUopSignal (f1 f2 : BitVec 4) (kind : Bool) (ring : BitVec 5) (st : State) : Host.Outcome State Fault Refusal := microNext (doSignal f1 f2 kind ring) st

/-- R384: the command retires clean. -/
def doRet : Micro := fun _ _ _ => .ret

/-- R384: one such micro-operation. -/
def execUopRet (st : State) : Host.Outcome State Fault Refusal := microNext doRet st

/-- R384: no effect. -/
def doMnop : Micro := fun _ _ _ => .done id

/-- R384: one such micro-operation. -/
def execUopMnop (st : State) : Host.Outcome State Fault Refusal := microNext doMnop st

/-! ### What a micro-operation does ahead (R201, R211) -/

/-- The command of a slot that runs on an array now. -/
def runningOn (s : State) (k : Nat) (id : BitVec 16) : Option MatCmd :=
  (findCmd (getCell s k) id).filter fun m => m.run == .running && m.array.isSome && cmdsRun s k

/-- Read a near byte, or an aligned word, ahead for the micro-operation of a running command: the bytes of an operand may so be
read at different times, before the step that uses them. What faults is left to that step. -/
def fetchNear (s : State) (k : Nat) (id : BitVec 16) (addr : Nat) (word : Bool) : State :=
  match runningOn s k id with
  | none => s
  | some m =>
    let a := if word then addr / 4 * 4 else addr
    if nearStopped s k (BitVec.ofNat 32 a) then s
    else
      match engBytes s (cmdAgent s k m) 0 (a : Int) (if word then 4 else 1) with
      | (_, .error _) => s
      | (s1, .ok l) => modCmd s1 k id fun m => { m with early := putEarly word (a : Int) l m.early }

/-- Write element e of the STACC that a running command is at ahead of the others (R386): the order in which the words of one
STACC perform is not defined. What faults is left to the step that ends the micro-operation. -/
def storeAhead (s : State) (k : Nat) (id : BitVec 16) (e : Nat) : State :=
  match runningOn s k id with
  | none => s
  | some m =>
    match fetchMicro (getCell s k) m with
    | some (.uopStacc ha f1 t tr _) =>
      match staccTarget s k m ha t tr with
      | .error _ => s
      | .ok (n, d) =>
        let x := staccPlace (coordOf (cReg m f1)) e
        if 4096 ≤ e || tblGet false m.stored e || elemHeld s k d x then s
        else
          let c := getCell s k
          let i := e / 64
          let j := e % 64
          let v := (staccCode (dFmt d) m.fmtctl m.sc.toNat (rdA c n i j).toNat j (staccGens c n d m m.gens 0 e)).1
          match writeElem s (cmdAgent s k m) d x v (accPoisoned c n i j) with
          | (_, .error _) => s
          | (s1, .ok _) => modCmd s1 k id fun m => { m with stored := tblSet false m.stored e true }
    | _ => s

/-! ### Class 5 (R371 to R380) -/

/-- Read a matrix parameter register. -/
def rdMp (c : Cell) (n : Nat) : BitVec 64 := tblGet 0 c.mp n

/-- The handles H0 to H3 in mp4 and mp5 (R371). -/
def mpHandles (c : Cell) : List (BitVec 32) :=
  [(rdMp c 4).setWidth 32, (rdMp c 4).extractLsb' 32 32, (rdMp c 5).setWidth 32, (rdMp c 5).extractLsb' 32 32]

/-- The snapshots of a list of handles from H[i] on, null ones left out (R372). -/
def takeDescs (st : State) (k i : Nat) : List (BitVec 32) → Except TrapInfo (Tbl (Option DescChain)) × (State → State)
  | [] => (.ok [], id)
  | h :: hs =>
    if h.toNat / 4096 = 0 then takeDescs st k (i + 1) hs
    else
      match tdtChain st k h with
      | (.error t, w) => (.error t, w)
      | (.ok d, w) =>
        match takeDescs (w st) k (i + 1) hs with
        | (.error t, w2) => (.error t, fun s => w2 (w s))
        | (.ok r, w2) => (.ok (tblSet none r i (some d)), fun s => w2 (w s))

/-- The ID after another (R372): 0 is skipped. -/
def nextId (n : BitVec 16) : BitVec 16 := if n + 1 = 0 then 1 else n + 1

/-- Is AMASK malformed, or does it name a tile the cell has not (R372)? -/
def maskBad (c : Cell) : Bool := decide (2 ^ 48 ≤ (rdMp c 7).toNat) || decide (2 ^ c.nacc ≤ (rdMp c 7).toNat)

/-- Hold a command as WAITING (R372); a predecessor held as FAULTED ends it at once (R373). -/
def enqueueCmd (k : Nat) (m : MatCmd) (s : State) : State :=
  let s1 := modCell s k fun c => { c with
    cmds := c.cmds ++ [{ m with id := c.idNext, order := c.opNo, group := c.groupNo }]
    idNewest := c.idNext
    idNext := nextId c.idNext
    opNo := c.opNo + 1 }
  let s2 := cascade s1 k 32
  settleFring s2 k (getCell s2 k).fring.length

/-- R372: call a routine with predecessors. -/
def opMcall (d p q : BitVec 6) (r : BitVec 8) : Op := fun st _ =>
  let k := st.iss.key
  let c := self st
  let n := r.toNat
  if !(routineEntry c n).getLsbD 31 then opTrap (cellTrap causeMcmd 0 n)
  else if maskBad c then opTrap (cellTrap causeMcmd 0 n)
  else
    match takeDescs st k 0 (mpHandles c) with
    | (.error t, w) => ⟨w, .trap t id⟩
    | (.ok ds, w) =>
      if 32 ≤ c.cmds.length + c.fring.length then ⟨w, .stall false none⟩
      else
        let m : MatCmd := ⟨0, n, 0, 0, c.mp, c.fmtctl, ds, (rdS c p).setWidth 16, (rdS c q).setWidth 16, .waiting, none, 0, [], [],
          0, none, [], [], [], none⟩
        ⟨w, .done .mcmd [(1, fun st => modCell st k fun x => wrS x d (c.idNext.setWidth 64)), (3, enqueueCmd k m)]⟩

/-- R372: one such operation as a group. -/
def execMcall (g : BitVec 4) (d p q : BitVec 6) (r : BitVec 8) (st : State) : Host.Outcome State Fault Refusal :=
  .next (issueOne (.mcall g d p q r) (opMcall d p q r) st)

/-- Release the entry of a faulted command (R376, R378). -/
def releaseCmd (id : BitVec 16) (c : Cell) : Cell := { c with cmds := c.cmds.filter fun m => m.id != id }

/-- R376: join a command, raising its fault. -/
def opMwait (s : BitVec 6) : Op := fun st _ =>
  let k := st.iss.key
  let i : BitVec 16 := (rdS (self st) s).setWidth 16
  match heldCmd (self st) i with
  | none => opNone
  | some m =>
    match m.run, m.fault with
    | .faulted, some t => ⟨id, .trap t (fun st => modCell st k (releaseCmd i))⟩
    | _, _ => opWait

/-- R376: one such operation as a group. -/
def execMwait (g : BitVec 4) (s : BitVec 6) (st : State) : Host.Outcome State Fault Refusal :=
  .next (issueOne (.mwait g s) (opMwait s) st)

/-- R377: the state of a command. -/
def opMstat (d s : BitVec 6) : Op := fun st _ =>
  let c := self st
  let v := c.idNewest.toNat * 2 ^ 32 + c.cmds.length * 2 ^ 16 + cmdState (heldCmd c ((rdS c s).setWidth 16))
  opScalar st d (BitVec.ofNat 64 v)

/-- R377: one such operation as a group. -/
def execMstat (g : BitVec 4) (d s : BitVec 6) (st : State) : Host.Outcome State Fault Refusal :=
  .next (issueOne (.mstat g d s) (opMstat d s) st)

/-- R371: mp[n] := s[s]. -/
def opMpset (n : BitVec 3) (s : BitVec 6) : Op := fun st _ =>
  opCell st.iss.key fun c => wrMp c n.toNat (rdS (self st) s)

/-- R371: one such operation as a group. -/
def execMpset (g : BitVec 4) (n : BitVec 3) (s : BitVec 6) (st : State) : Host.Outcome State Fault Refusal :=
  .next (issueOne (.mpset g n s) (opMpset n s) st)

/-- R371: s[d] := mp[n]. -/
def opMpget (d : BitVec 6) (n : BitVec 3) : Op := fun st _ => opScalar st d (rdMp (self st) n.toNat)

/-- R371: one such operation as a group. -/
def execMpget (g : BitVec 4) (d : BitVec 6) (n : BitVec 3) (st : State) : Host.Outcome State Fault Refusal :=
  .next (issueOne (.mpget g d n) (opMpget d n) st)

/-- The MUCODE trap of an index (R244, R380). -/
def storeTrap (routine index : Nat) : OpOut := opTrap (cellTrap causeMucode 0 (routine + 256 * (index % 4096)))

/-- R380: write a word of the microprogram store. -/
def opMucw (i v : BitVec 6) : Op := fun st _ =>
  let c := self st
  let n := (rdS c i).toNat
  if 4096 ≤ n then storeTrap 0 n
  else if !c.cmds.isEmpty then opStall
  else opCell st.iss.key fun x => { x with mucode := tblSet none x.mucode n (some (rdS c v)) }

/-- R380: one such operation as a group. -/
def execMucw (g : BitVec 4) (i v : BitVec 6) (st : State) : Host.Outcome State Fault Refusal :=
  .next (issueOne (.mucw g i v) (opMucw i v) st)

/-- R380, R381: write a routine table entry. -/
def opMucwT (i v : BitVec 6) : Op := fun st _ =>
  let c := self st
  let n := (rdS c i).toNat
  let w : BitVec 32 := (rdS c v).setWidth 32
  if 256 ≤ n then storeTrap 0 n
  else if w &&& 0x7FC0F000#32 ≠ 0 then storeTrap 0 n
  else if !c.cmds.isEmpty then opStall
  else opCell st.iss.key fun x => { x with routines := tblSet none x.routines n (some w) }

/-- R380, R381: one such operation as a group. -/
def execMucwT (g : BitVec 4) (i v : BitVec 6) (st : State) : Host.Outcome State Fault Refusal :=
  .next (issueOne (.mucwT g i v) (opMucwT i v) st)

/-- Has a tile an unretired writer (R379)? -/
def tileWriter (c : Cell) (n : Nat) : Bool := c.cmds.any fun m => m.run != .faulted && (cmdMp m 7).getLsbD n

/-- Row i of a tile written lane by lane; its poison goes (R260). -/
def setRow (n i : Nat) (vs : List (BitVec 32)) (c : Cell) : Cell :=
  { c with
    a := tblSetList 0 c.a (4096 * n + 64 * i) vs
    poisonAcc := tblFilter (fun w _ => w / 32 != 64 * n + i) c.poisonAcc }

/-- R379: v[d] := a row of a tile. -/
def opMav (d tile r : BitVec 6) : Op := fun st _ =>
  let c := self st
  let n := tile.toNat
  let i := (rdS c r).toNat
  if c.nacc ≤ n ∨ 63 < i then opTrap (cellTrap causeMcmd 0 0)
  else if tileWriter c n then opStall
  else
    let bad := (List.range 64).any fun j => accPoisoned c n i j
    opCell st.iss.key fun x =>
      let y := wrVAll x d ((List.range 64).map fun j => rdA c n i j)
      if bad then { y with poisonV := tblSet false y.poisonV d.toNat true } else y

/-- R379: one such operation as a group. -/
def execMav (g : BitVec 4) (d tile r : BitVec 6) (st : State) : Host.Outcome State Fault Refusal :=
  .next (issueOne (.mav g d tile r) (opMav d tile r) st)

/-- R379: a row of a tile := v[s]. -/
def opMva (tile s r : BitVec 6) : Op := fun st _ =>
  let c := self st
  let n := tile.toNat
  let i := (rdS c r).toNat
  if c.nacc ≤ n ∨ 63 < i then opTrap (cellTrap causeMcmd 0 0)
  else if tileWriter c n then opStall
  else opCell st.iss.key (setRow n i ((List.range 64).map fun l => rdV c s l))

/-- R379: one such operation as a group. -/
def execMva (g : BitVec 4) (tile s r : BitVec 6) (st : State) : Host.Outcome State Fault Refusal :=
  .next (issueOne (.mva g tile s r) (opMva tile s r) st)

end Sys2Proof.Machine
end

