-- ==== Sys2Proof/Machine/Halt.lean ====
section
/-!
DEFINITION. Sys2Proof/Machine/Halt.lean: the deferred traps of a cell at its group boundary (R246), the order in which a HALT
raises what has not been raised (R307), and the meaning of HALT.
-/
namespace Sys2Proof.Machine

/-! ### Deferred traps (R246) -/

/-- The event of a collided BCAST that waits for an entry of the queue, and of several the earliest (R173, R246). -/
def waitingClash (c : Cell) : Option Send :=
  (c.sends.filter Send.clash).foldl (fun (b : Option Send) x =>
    match b with
    | none => some x
    | some y => if x.beat.ult y.beat then some x else b) none

/-- The LATCH trap of a beat (R173). -/
def clashTrap (beat : Nat) : TrapInfo := cellTrap causeLatch 0 (beat % 2 ^ 32)

/-- The events of collided sends enter the queue while it has room. -/
def admitClashes (c : Cell) : Nat → Cell
  | 0 => c
  | n + 1 =>
    match waitingClash c with
    | some x => if deferRoom c then admitClashes (deferTrap { c with sends := c.sends.erase x } (clashTrap x.beat.toNat)) n else c
    | none => c

/-- An entry of the queue has been taken: what waits for one goes on. -/
def settleDeferred (s : State) (k : Nat) : State :=
  let s1 := modCell s k fun c => admitClashes c c.sends.length
  settlePubs s1 k (getCell s1 k).pubs.length

/-- Take the oldest deferred trap (R246): TRAPPC names the group about to issue. -/
def takeDeferred (s : State) (k : Nat) : State :=
  match (getCell s k).deferred with
  | [] => s
  | e :: rest =>
    let pc := groupStart s k
    settleDeferred (takeTrap (modCell s k fun c => { c with deferred := rest }) k e.trap pc 0 true) k

/-! ### What has not been raised (R307) -/

/-- A fault that has not been raised: its operation's place in issue order, the trap, and what taking it clears (R248,
R307). -/
structure Unraised where
  order : Nat
  trap : TrapInfo
  clear : State → State

/-- Taking the trap of an entry of the queue of deferred traps removes it. -/
def dropDeferred (k : Nat) (e : Deferred) (s : State) : State :=
  settleDeferred (modCell s k fun c => { c with deferred := c.deferred.erase e }) k

/-- The marks that the cell's own operations left in one ring. -/
def ringUnraised (k n : Nat) (r : Ring) : List Unraised :=
  r.marks.filterMap fun e => match e.2 with
    | some ⟨some o, t⟩ =>
      some ⟨o, t, fun s => modCell s k fun c => setRing c n { getRing c n with marks := tblErase (getRing c n).marks e.1 }⟩
    | _ => none

/-- The faulted commands of a cell. -/
def cmdUnraised (k : Nat) (c : Cell) : List Unraised :=
  c.cmds.filterMap fun m => match m.fault with
    | some t => if m.run = .faulted then some ⟨m.order, t, fun s => modCell s k (releaseCmd m.id)⟩ else none
    | none => none

/-- The faults of engine operations in the queue of deferred traps. -/
def queueUnraised (k : Nat) (c : Cell) : List Unraised :=
  c.deferred.filterMap fun e => e.order.map fun o => ⟨o, e.trap, dropDeferred k e⟩

/-- The faults of finished copy operations that still wait for an entry of the queue, or for room in their ring: taking such a
trap clears the fault mark. -/
def copyUnraised (s : State) (k : Nat) : List Unraised :=
  (getCell s k).copies.filterMap fun o =>
    if o.finished.isNone then none
    else
      match deferredFault s k o with
      | some t => some ⟨o.order, t, fun s => leaveCopy s k o⟩
      | none => o.fault.map fun t => ⟨o.order, t, fun s => modCopy s k o.order fun o => { o with fault := none }⟩

/-- The unraised fault of an engine operation that comes first in issue order (R307). -/
def firstUnraised (s : State) (k : Nat) : Option Unraised :=
  let c := getCell s k
  (c.rings.flatMap (fun e => ringUnraised k e.1 e.2) ++ cmdUnraised k c ++ queueUnraised k c ++ copyUnraised s k).foldl
    (fun (b : Option Unraised) u =>
      match b with
      | none => some u
      | some v => if u.order < v.order then some u else b) none

/-- The oldest deferred trap that is no fault of an engine operation: REMOTE, COLLIDE, LATCH or BANKMODE (R246). -/
def firstEvent (k : Nat) (c : Cell) : Option Unraised :=
  (c.deferred.find? fun e => e.order.isNone).map fun e => ⟨0, e.trap, dropDeferred k e⟩

/-- Has an operation earlier in issue order still to complete? -/
def earlierLive (c : Cell) (order : Nat) : Bool :=
  c.copies.any (fun o => decide (o.order < order)) || c.cmds.any fun m => m.run != .faulted && decide (m.order < order)

/-- What a stalled HALT raises at this boundary (R307): the events of R246 in their order, and the faults of engine operations
in issue order, each once every earlier operation has completed. Between the two no rule gives an order: events come first
(log 10). -/
def haltFault (s : State) (k : Nat) : Option Unraised :=
  let c := getCell s k
  match firstEvent k c with
  | some u => some u
  | none => (firstUnraised s k).filter fun u => !earlierLive c u.order

/-- Is anything of a cell still to be raised? -/
def anyUnraised (s : State) (k : Nat) : Bool := (firstEvent k (getCell s k)).isSome || (firstUnraised s k).isSome

/-- R307: raise unraised faults in issue order, wait until everything has completed, and then halt. -/
def opHalt : Op := fun st _ =>
  let k := st.iss.key
  match haltFault st k with
  | some u => ⟨id, .late u.trap u.clear⟩
  | none =>
    if !anyUnraised st k && cellDrained (self st) then ⟨id, .done .plain [(4, fun st => haltCell st k)]⟩ else opStall

/-- R307: one such operation as a group. -/
def execHalt (g : BitVec 4) (st : State) : Host.Outcome State Fault Refusal :=
  .next (issueOne (.halt g) (opHalt) st)

/-! ### The boundary -/

/-- Is the group about to issue a HALT: it has no structural fault, and the guard of a HALT in it is true? -/
def haltNext (s : State) (k : Nat) : Bool :=
  match (fetchGroup s k).2 with
  | .ok (l, stop) => (structuralCauses [] stop l).isEmpty && l.any fun x => match x.dec with
    | .ok (.halt g) => guardTrue (getCell s k) (.halt g)
    | _ => false
  | .error _ => false

/-- The deferred trap that a cell takes at its boundary, if any: the oldest (R246), or where a HALT is about to issue the one
that comes first in its order (R307). -/
def deferredTurn (s : State) (k : Nat) : Option State :=
  if (getCell s k).deferred.isEmpty then none
  else if haltNext s k then (haltFault s k).map fun u => u.clear (takeTrap s k u.trap (groupStart s k) 0 true)
  else some (takeDeferred s k)

end Sys2Proof.Machine
end

