-- ==== Sys2Proof/Machine/Bus.lean ====
section
/-!
DEFINITION. Sys2Proof/Machine/Bus.lean: the broadcast bus of a cluster (R171 to R175): what drives a beat, what its latches meet,
how a latch completes and when LATSTAT shows it.
-/
namespace Sys2Proof.Machine

/-! ### A beat of the bus -/

/-- The slots of a cluster. -/
def clusterSlots (n : Nat) : List Nat := stride (32 * n) 1 32

/-- The cores of a cluster. -/
def clusterCores (n : Nat) : List Nat := stride (16 * n) 1 16

/-- Does a send-buffer entry wait for a beat still? -/
def sendAhead (x : Send) : Bool := !x.clash

/-- The beats that sends and unmet latches of a cluster wait for; the shell of a core sends for cells that have left (R175). -/
def busBeats (s : State) (cluster : Nat) : List Nat :=
  ((clusterSlots cluster).flatMap fun k =>
    let c := getCell s k
    (c.sends.filter sendAhead).map (fun x => x.beat.toNat)
      ++ c.latches.filterMap fun l => if l.caught.isNone then some l.beat.toNat else none)
    ++ (clusterCores cluster).flatMap fun g =>
      ((getCore s g).shell.filter fun e => sendAhead e.send).map fun e => e.send.beat.toNat

/-- The least number of a list. -/
def leastOf : List Nat → Option Nat
  | [] => none
  | x :: xs => match leastOf xs with
    | none => some x
    | some y => some (min x y)

/-- The beat of a cluster's bus that is due: the least one that has come. -/
def busDue (s : State) (cluster : Nat) : Option Nat :=
  match leastOf (busBeats s cluster) with
  | some t => if t ≤ s.pkg.beat.toNat then some t else none
  | none => none

/-- A cell that drives a beat: its team, and its entries for that beat. -/
structure Driver where
  ctx : Nat
  team : Nat
  entries : List Send

/-- Does a send-buffer entry drive a beat? -/
def drivesBeat (t : Nat) (x : Send) : Bool := sendAhead x && x.beat.toNat == t

/-- The slots whose cells drive a beat. -/
def busSenders (s : State) (cluster t : Nat) : List Nat :=
  (clusterSlots cluster).filter fun k => (getCell s k).sends.any (drivesBeat t)

/-- The cells that drive a beat: those in their slots, then those whose entries stand in a shell. -/
def busDrivers (s : State) (cluster t : Nat) : List Driver :=
  (busSenders s cluster t).map (fun k =>
    let c := getCell s k
    ⟨c.ctx, c.team, c.sends.filter (drivesBeat t)⟩)
  ++ (clusterCores cluster).flatMap fun g =>
    ((getCore s g).shell.filter fun e => drivesBeat t e.send).map fun e => ⟨e.ctx, e.team, [e.send]⟩

/-- What a cell puts on the bus; of two entries for one beat a free choice says which (log 7). -/
def driverData (s : State) (d : Driver) : Option Send :=
  match d.entries with
  | [x] => some x
  | l => l[Config.choose s.tick l.length % max 1 l.length]?

/-- What a latch of cell `k` meets on a beat (R172, R173). -/
def busCaught (s : State) (k : Nat) (drivers : List Driver) : Caught :=
  match drivers with
  | [] => .nothing
  | [d] =>
    let a := getCell s k
    if a.ctx = d.ctx ∧ a.team = d.team then
      match driverData s d with
      | some x => .data x.data x.poison
      | none => .nothing
    else .nothing
  | _ => .collision

/-- A latch of beat t meets what the bus carries. -/
def catchLatch (t : Nat) (x : Caught) (l : Latch) : Latch :=
  if l.caught.isNone && l.beat.toNat == t then { l with caught := some x } else l

/-- A sender's entries after their beat: sent, or of a collision still to be raised. -/
def afterBeat (t : Nat) (clash : Bool) (l : List Send) : List Send :=
  if clash then l.map fun x => if drivesBeat t x then { x with clash := true } else x
  else l.filter fun x => !drivesBeat t x

/-- The entries of a shell after a beat. -/
def shellAfter (t : Nat) (clash : Bool) (l : List ShellSend) : List ShellSend :=
  l.flatMap fun e => (afterBeat t clash [e.send]).map fun x => { e with send := x }

/-- One beat of a cluster's bus: latches of that beat meet what it carries, and the send entries are free; a sender of a collided
beat raises LATCH (R173), at the first boundary of its tile when it runs again, once the queue of deferred traps has room
(R246). -/
def busBeat (s : State) (cluster t : Nat) : State :=
  let drivers := busDrivers s cluster t
  let clash := decide (1 < drivers.length)
  let s1 := (clusterSlots cluster).foldl (fun r k =>
    if (getCell s k).latches.any fun l => l.caught.isNone && l.beat.toNat == t then
      modCell r k fun c => { c with latches := c.latches.map (catchLatch t (busCaught s k drivers)) }
    else r) s
  let s2 := (busSenders s cluster t).foldl (fun r k =>
    modCell r k fun c =>
      let c1 := { c with sends := afterBeat t clash c.sends }
      if tileRuns s k then admitClashes c1 c1.sends.length else c1) s1
  let s3 := (clusterCores cluster).foldl (fun r g =>
    if (getCore s g).shell.isEmpty then r else modCore r g fun u => { u with shell := shellAfter t clash u.shell }) s2
  { s3 with tick := s3.tick + 1 }

/-! ### Latches -/

/-- A latch whose destination has been written or is left as it was. -/
def markLatch (l : Latch) (filled : Bool) (c : Cell) : Cell :=
  { c with latches := c.latches.map fun x => if x == l then { x with filled := some filled } else x }

/-- Would a latch's bank refuse what it has caught (R154, R172)? -/
def latchRefused (s : State) (k : Nat) (l : Latch) : Option TrapInfo :=
  match l.caught with
  | some (.data _ _) => match nearCheck s k (l.dest.setWidth 64) 256 1 .latch with
    | .error t => some t
    | .ok _ => none
  | _ => none

/-- Write the destination of a filled latch. -/
def fillLatch (s : State) (k : Nat) (l : Latch) (bs : List Byte) (poison : Bool) : State :=
  match nearCheck s k (l.dest.setWidth 64) 256 1 .latch with
  | .error _ => s
  | .ok (j, b, off) =>
    let s1 := putNear s j b off bs
    if poison then modCell s1 j fun c => poisonNear c b off 256 else s1

/-- Has a latch's beat T + 7 come, with what it met known and its completion still to be made? -/
def latchReady (s : State) (l : Latch) : Bool :=
  l.caught.isSome && l.filled.isNone && decide (l.beat.toNat + 7 ≤ s.pkg.beat.toNat)

/-- Does a latch's completion wait: its bank refuses the data, and the refusal, a deferred BANKMODE, finds no room (R246)? -/
def latchWaits (s : State) (k : Nat) (l : Latch) : Bool := (latchRefused s k l).isSome && !deferRoom (getCell s k)

/-- The latch of a cell that is due first. -/
def latchDue (s : State) (k : Nat) : Option Latch :=
  (getCell s k).latches.foldl (fun (b : Option Latch) l =>
    if latchReady s l && !latchWaits s k l then
      match b with
      | some x => if l.beat.toNat < x.beat.toNat then some l else b
      | none => some l
    else b) none

/-- A latch completes (R172, R174): its destination is written, or a bank that no longer admits it leaves it unfilled with a
deferred BANKMODE. -/
def settleLatch (s : State) (k : Nat) (l : Latch) : State :=
  match latchRefused s k l with
  | some t => modCell s k fun c => deferTrap (markLatch l false c) t
  | none =>
    match l.caught with
    | some (.data bs p) => modCell (fillLatch s k l bs p) k (markLatch l true)
    | _ => modCell s k (markLatch l false)

/-- Complete a latch of a cell; for a stopped tile the shell keeps what it caught (R175). -/
def completeLatch (s : State) (k : Nat) : State :=
  match latchDue s k with
  | none => s
  | some l => if tileRuns s k then settleLatch s k l else s

/-- The completed latch of the earliest beat that LATSTAT is to show: from the beat after its completion on (R174). -/
def latchShown (beat : Nat) (c : Cell) : Option Latch :=
  c.latches.foldl (fun (b : Option Latch) l =>
    if l.filled.isSome && decide (l.beat.toNat + 8 ≤ beat) then
      match b with
      | some x => if l.beat.toNat < x.beat.toNat then some l else b
      | none => some l
    else b) none

/-- Show completed latches in LATSTAT, the earliest beat first (R174). -/
def showLatches (beat : Nat) (c : Cell) : Nat → Cell
  | 0 => c
  | n + 1 =>
    match latchShown beat c with
    | some l =>
      showLatches beat (latchDone l.beat (l.filled == some true) (l.caught == some .collision)
        { c with latches := c.latches.erase l }) n
    | none => c

/-- LATSTAT of a cell at a beat. -/
def latchesAt (beat : Nat) (c : Cell) : Cell := showLatches beat c c.latches.length

/-- Complete what the shell has caught for a cell whose tile runs again, and show it in LATSTAT before the tile's first issue
(R175). -/
def settleLatches (s : State) (k : Nat) : Nat → State
  | 0 => modCell s k (latchesAt s.pkg.beat.toNat)
  | n + 1 =>
    match latchDue s k with
    | some l => settleLatches (settleLatch s k l) k n
    | none => modCell s k (latchesAt s.pkg.beat.toNat)

/-- The beats at which something is to happen on the buses: sends and latches (R172 to R174). A completion that waits for an
entry of the queue of deferred traps has no beat. -/
def beatsDue (s : State) : List Nat :=
  (s.cells.flatMap fun e =>
    (e.2.sends.filter sendAhead).map (fun x => x.beat.toNat) ++ e.2.latches.filterMap fun l =>
      if l.filled.isSome then none
      else if l.caught.isNone then some l.beat.toNat
      else if tileRuns s e.1 && !latchWaits s e.1 l then some (l.beat.toNat + 7)
      else none)
    ++ s.cores.flatMap fun e => (e.2.shell.filter fun x => sendAhead x.send).map fun x => x.send.beat.toNat

end Sys2Proof.Machine
end

