-- ==== Sys2Proof/Machine/Issue.lean ====
section
/-!
DEFINITION. Sys2Proof/Machine/Issue.lean: the operation of every Sikan instruction, and a cell's turn: its deferred trap, the
fetch and the checks of its next group, its issue (R265 to R273), and the merge stage of a core (R140).
-/
namespace Sys2Proof.Machine

/-- The operation of an instruction; what is no Sikan instruction does nothing in a group. -/
def opOf (i : Instr) : Op :=
  match i with
  | .nop _ => opNop
  | .add _ d s t => opAdd d s t
  | .sub _ d s t => opSub d s t
  | .mul _ d s t => opMul d s t
  | .mulhI64 _ d s t => opMulhI64 d s t
  | .mulhN64 _ d s t => opMulhN64 d s t
  | .divI64 _ d s t => opDivI64 d s t
  | .divN64 _ d s t => opDivN64 d s t
  | .remI64 _ d s t => opRemI64 d s t
  | .remN64 _ d s t => opRemN64 d s t
  | .and _ d s t => opAnd d s t
  | .or _ d s t => opOr d s t
  | .xor _ d s t => opXor d s t
  | .shl _ d s t => opShl d s t
  | .shrI64 _ d s t => opShrI64 d s t
  | .shrN64 _ d s t => opShrN64 d s t
  | .minI64 _ d s t => opMinI64 d s t
  | .minN64 _ d s t => opMinN64 d s t
  | .maxI64 _ d s t => opMaxI64 d s t
  | .maxN64 _ d s t => opMaxN64 d s t
  | .addI64S _ d s t => opAddI64S d s t
  | .addN64S _ d s t => opAddN64S d s t
  | .subI64S _ d s t => opSubI64S d s t
  | .subN64S _ d s t => opSubN64S d s t
  | .addi _ d s imm => opAddi d s imm
  | .andi _ d s imm => opAndi d s imm
  | .ori _ d s imm => opOri d s imm
  | .xori _ d s imm => opXori d s imm
  | .shli _ d s n => opShli d s n
  | .shriI64 _ d s n => opShriI64 d s n
  | .shriN64 _ d s n => opShriN64 d s n
  | .li _ d imm => opLi d imm
  | .lis _ d imm => opLis d imm
  | .sel _ d s t k => opSel d s t k
  | .cmp _ cond pair s t => opCmp cond pair s t
  | .cmpi _ cond pair s imm => opCmpi cond pair s imm
  | .cmpq _ cond s t => opCmpq cond s t
  | .fadd _ d s t => opFadd d s t
  | .fsub _ d s t => opFsub d s t
  | .fmul _ d s t => opFmul d s t
  | .fdiv _ d s t => opFdiv d s t
  | .fmin _ d s t => opFmin d s t
  | .fmax _ d s t => opFmax d s t
  | .fma _ d s t q => opFma d s t q
  | .fcmp _ cond pair s t => opFcmp cond pair s t
  | .fcmpq _ cond s t => opFcmpq cond s t
  | .fcvt _ d s src dst => opFcvt d s src dst
  | .clz _ d s => opClz d s
  | .popc _ d s => opPopc d s
  | .pand _ d s t => opPand d s t
  | .por _ d s t => opPor d s t
  | .pxor _ d s t => opPxor d s t
  | .pandn _ d s t => opPandn d s t
  | .sext _ d s n => opSext d s n
  | .zext _ d s n => opZext d s n
  | .br _ off => opBr off
  | .call _ off => opCall off
  | .brq _ off => opBrq off
  | .brqn _ off => opBrqn off
  | .brr _ s => opBrr s
  | .callr _ s => opCallr s
  | .loop _ n off => opLoop n off
  | .lcset _ n s => opLcset n s
  | .barw _ b => opBarw b
  | .yield _ => opYield
  | .halt _ => opHalt
  | .eret _ => opEret
  | .cqclr _ => opCqclr
  | .syscall _ code => opSyscall code
  | .mfsr _ d num => opMfsr d num
  | .mtsr _ s num => opMtsr s num
  | .mtsrTrapcauseHost _ s => opMtsrTrapcauseHost s
  | .mtsrFmtctlSeedw _ s => opMtsrFmtctlSeedw s
  | .tdset _ d s t => opTdset d s t
  | .tdget _ d s t => opTdget d s t
  | .tdinv _ d s => opTdinv d s
  | .vadd _ d s t ty k => opVadd d s t ty k
  | .vsub _ d s t ty k => opVsub d s t ty k
  | .vmul _ d s t ty k => opVmul d s t ty k
  | .vdiv _ d s t ty k => opVdiv d s t ty k
  | .vmin _ d s t ty k => opVmin d s t ty k
  | .vmax _ d s t ty k => opVmax d s t ty k
  | .vaddS _ d s t ty k => opVaddS d s t ty k
  | .vsubS _ d s t ty k => opVsubS d s t ty k
  | .vand _ d s t ty k => opVand d s t ty k
  | .vor _ d s t ty k => opVor d s t ty k
  | .vxor _ d s t ty k => opVxor d s t ty k
  | .vshl _ d s t ty k => opVshl d s t ty k
  | .vshr _ d s t ty k => opVshr d s t ty k
  | .vabs _ d s ty k => opVabs d s ty k
  | .vneg _ d s ty k => opVneg d s ty k
  | .vmov _ d s ty k => opVmov d s ty k
  | .vfmaF32 _ d s t q k => opVfmaF32 d s t q k
  | .vfmaBf16 _ d s t q k => opVfmaBf16 d s t q k
  | .vsel _ d s t ty k => opVsel d s t ty k
  | .vcmp _ cond pair s t ty k => opVcmp cond pair s t ty k
  | .vcmpq _ cond s t ty k => opVcmpq cond s t ty k
  | .vbcast _ d s ty k => opVbcast d s ty k
  | .vget _ d s t ty => opVget d s t ty
  | .vset _ d s t ty k => opVset d s t ty k
  | .mand _ d s t => opMand d s t
  | .mor _ d s t => opMor d s t
  | .mxor _ d s t => opMxor d s t
  | .mandn _ d s t => opMandn d s t
  | .vcvt _ d s dst src k => opVcvt d s dst src k
  | .vqnt _ d s t ty k => opVqnt d s t ty k
  | .vdqnt _ d s t ty k => opVdqnt d s t ty k
  | .vbamax _ d s t ty k => opVbamax d s t ty k
  | .vrsum _ d s ty k => opVrsum d s ty k
  | .vrmax _ d s ty k => opVrmax d s ty k
  | .vrmin _ d s ty k => opVrmin d s ty k
  | .vscan _ d s ty k => opVscan d s ty k
  | .vperm _ d s t ty k => opVperm d s t ty k
  | .vrot _ d s t ty k => opVrot d s t ty k
  | .vexp2 _ d s ty k => opVexp2 d s ty k
  | .vlog2 _ d s ty k => opVlog2 d s ty k
  | .vrcp _ d s ty k => opVrcp d s ty k
  | .vrsqrt _ d s ty k => opVrsqrt d s ty k
  | .vsqrt _ d s ty k => opVsqrt d s ty k
  | .vtanh _ d s ty k => opVtanh d s ty k
  | .mcall _ d p q r => opMcall d p q r
  | .mwait _ s => opMwait s
  | .mstat _ d s => opMstat d s
  | .mpset _ n s => opMpset n s
  | .mpget _ d n => opMpget d n
  | .mucw _ i v => opMucw i v
  | .mucwT _ i v => opMucwT i v
  | .mav _ d tile r => opMav d tile r
  | .mva _ tile s r => opMva tile s r
  | .ldN _ r a cls sz off => opLdN r a cls sz off
  | .ldI _ r a cls sz off => opLdI r a cls sz off
  | .st _ r a cls sz off => opSt r a cls sz off
  | .ldnN _ r a cls sz off => opLdnN r a cls sz off
  | .ldnI _ r a cls sz off => opLdnI r a cls sz off
  | .stn _ r a cls sz off => opStn r a cls sz off
  | .vld _ v a cls off k => opVld v a cls off k
  | .vst _ v a cls off k => opVst v a cls off k
  | .vldn _ v a cls off k => opVldn v a cls off k
  | .vstn _ v a cls off k => opVstn v a cls off k
  | .vlds _ v a x cls k => opVlds v a x cls k
  | .vsts _ v a x cls k => opVsts v a x cls k
  | .vgth _ v a x cls k => opVgth v a x cls k
  | .vsct _ v a x cls k => opVsct v a x cls k
  | .vgthn _ v a x cls k => opVgthn v a x cls k
  | .vsctn _ v a x cls k => opVsctn v a x cls k
  | .vldx _ v a x cls k => opVldx v a x cls k
  | .aaddI32 _ d a t cls near => opAaddI32 d a t cls near
  | .aaddI64 _ d a t cls near => opAaddI64 d a t cls near
  | .aaddF32 _ d a t cls near => opAaddF32 d a t cls near
  | .amaxI32 _ d a t cls near => opAmaxI32 d a t cls near
  | .amaxF32 _ d a t cls near => opAmaxF32 d a t cls near
  | .acas _ d a t cls near => opAcas d a t cls near
  | .amaxrrI32 _ d a t cls near => opAmaxrrI32 d a t cls near
  | .amaxrrF32 _ d a t cls near => opAmaxrrF32 d a t cls near
  | .fence _ scope wb inv mask => opFence scope wb inv mask
  | .cpy _ h x y cls ring => opCpy h x y cls ring
  | .cpyf _ h x y cls ring => opCpyf h x y cls ring
  | .rwait _ d n => opRwait d n
  | .rrel _ n => opRrel n
  | .rpub _ n s => opRpub n s
  | .chsend _ c x cls => opChsend c x cls
  | .chrecv _ d c => opChrecv d c
  | .waita _ d a v cls glob cc => opWaita d a v cls glob cc
  | .bankcfg _ s => opBankcfg s
  | .gstep _ n => opGstep n
  | .bcast _ b a => opBcast b a
  | .latch _ b a => opLatch b a
  | .deadl _ s => opDeadl s
  | .deadlF _ s => opDeadlF s
  | .deadlXp _ s j => opDeadlXp s j
  | _ => fun _ _ => opNone

/-! ### A cell's turn -/

/-- May the cell issue on this beat under its team's duty (R144)? -/
def dutyPermits (s : State) (k : Nat) : Bool := decide (s.pkg.beat.toNat % 16 < (teamOf s (getCell s k)).duty)

/-- What a cell's turn comes to: it is over, or one operation or several issue. -/
inductive CellNext where
  | over (s : State)
  | one (i : Instr) (s : State)
  | many (xs : List Issue) (s : State)

/-- The operations of a scanned group with where each stands. -/
def groupIssues (base : Iss) (n : Nat) : List Scanned → List Issue
  | [] => []
  | x :: xs =>
    let rest := groupIssues base (n + 1) xs
    match x.dec with
    | .ok i => ⟨i, opOf i, { base with addr := BitVec.ofNat 64 x.addr, word := x.word, idx := n }⟩ :: rest
    | .error _ => rest

/-- A fetched group (R269 to R272): structural faults come before every other check, the watchpoint on its fetches among them
(R282); a single operation that is no instruction is the row UNASSIGNED_OPCODE. -/
def checkGroup (s : State) (k : Nat) (l : List Scanned) (stop : Bool) : CellNext :=
  let start := BitVec.ofNat 64 (match l with
    | x :: _ => x.addr
    | [] => (getCell s k).pc.toNat)
  let lastX := l.getLast?
  let w := match lastX with
    | some x => x.word
    | none => 0
  let lastAddr := match lastX with
    | some x => x.addr
    | none => (getCell s k).pc.toNat
  let (s1, next, nf) := nextGroup s k lastAddr (needsNext l)
  let base : Iss := ⟨k, start, start, next, w, 0, nf, 0, s.iss.virga⟩
  match structuralCauses [] stop l, fetchHits (getCell s k) [] l with
  | (n, cause, word) :: rest, _ =>
    if rest.isEmpty && l.length == 1 && n == some 0 && (cause == causeIllop || cause == causeIllhdr) then
      .one .unassignedOpcode { s with iss := { base with word := word, idx := 0 } }
    else
      .over (takeTrap s k (wordTrap cause word) start (trapMask (n.toList ++ rest.filterMap Prod.fst)) false)
  | [], (a, n) :: rest =>
    let t := cellTrap causeWatch (BitVec.ofNat 64 a) (kindInfo .fetch 0)
    .over (takeTrap s k t start (trapMask (n.toList ++ rest.filterMap Prod.snd)) false)
  | [], [] =>
    match groupIssues base 0 l with
    | [x] => .one x.i { s1 with iss := x.place }
    | xs => .many xs { s1 with iss := base }

/-- What the turn of a cell comes to: its oldest deferred trap, the fault of the fetch of its group, or the group. -/
def prepareCell (s : State) (k : Nat) : CellNext :=
  if !canIssue s k || !dutyPermits s k then .over s
  else
    match deferredTurn s k with
    | some s1 => .over s1
    | none =>
      match fetchGroup s k with
      | (s1, .error (n, t)) => .over (takeTrap s1 k t (groupStart s k) (trapMask [n]) false)
      | (s1, .ok (l, stop)) => checkGroup s1 k l stop

/-- Run a cell's turn. -/
def runCell (s : State) (k : Nat) : State :=
  match prepareCell s k with
  | .over s1 => s1
  | .one .unassignedOpcode s1 => raiseWord s1
  | .one i s1 => issueOne i (opOf i) s1
  | .many xs s1 => issueGroup s1 xs

/-! ### The merge stage (R140, R141) -/

/-- Has a core's merge stage had its cycle on this beat? -/
def mergeSpent (s : State) (core : Nat) : Bool := (getCore s core).cycle == s.pkg.beat.toNat + 1

/-- Would the group of an evaluated turn commit, trap or enter WAIT now (R135, R140)? A group that waits in WAIT is ready when
it would commit. -/
def nextReady : CellNext → Bool
  | .over _ => true
  | .one i s => groupReady s [⟨i, opOf i, s.iss⟩]
  | .many xs s => groupReady s xs
where
  /-- Is a group ready? -/
  groupReady (s : State) (xs : List Issue) : Bool :=
    let c := getCell s s.iss.key
    let outs := evalOps s xs []
    !(xs.any fun x => guardTrue c x.i && scoreBlocked c x.i)
      && ((groupLate outs).isSome || !(groupTraps outs).isEmpty
        || match groupStall outs with
          | some (waits, _) => waits && c.run == .run
          | none => !cqOver c outs)

/-- How many operations of a turn take a port. -/
def nextPorts (p : Nat) : CellNext → Nat
  | .over _ => 0
  | .one _ s => if portOf s.iss.word = some p then 1 else 0
  | .many xs _ => (xs.filter fun x => portOf x.place.word == some p).length

/-- Do two turns fit in one cycle? -/
def nextFits (a b : CellNext) : Bool :=
  decide (nextPorts 0 a + nextPorts 0 b ≤ 1) && decide (nextPorts 1 a + nextPorts 1 b ≤ 2)
    && decide (nextPorts 2 a + nextPorts 2 b ≤ 1) && decide (nextPorts 3 a + nextPorts 3 b ≤ 2)

/-- Is a slot's cell ready in this cycle? -/
def slotReady (s : State) (k : Nat) : Bool :=
  canIssue s k && dutyPermits s k && nextReady (prepareCell s k)

/-- One cycle of the merge stage: the slots that issue, and BLK after it. -/
def mergePlan (s : State) (core : Nat) : List Nat × Nat :=
  let f := 2 * core
  let b := 2 * core + 1
  let blk := (getCore s core).blk
  match slotReady s f, slotReady s b with
  | true, true =>
    if nextFits (prepareCell s f) (prepareCell s b) then ([f, b], 0)
    else if blk = 32 then ([b], 0)
    else ([f], blk + 1)
  | true, false => ([f], blk)
  | false, true => ([b], 0)
  | false, false => ([], blk)

/-- The slots of a core that are ready and that a cycle of its merge stage does not take. -/
def mergeBlocked (s : State) (core : Nat) : List Nat :=
  [2 * core, 2 * core + 1].filter fun k => slotReady s k && !(mergePlan s core).1.contains k

/-- A cycle of a core's merge stage begins: BLK takes its new value, and a blocked slot counts it (R281, code 4). -/
def beginCycle (s : State) (core : Nat) : State :=
  let s1 := modCore s core fun u => { u with blk := (mergePlan s core).2, cycle := s.pkg.beat.toNat + 1 }
  (mergeBlocked s core).foldl (fun r k => modCell r k fun c => countEv c 4 1) s1

end Sys2Proof.Machine
end

