-- ==== Sys2Proof/Machine/CellEvents.lean ====
section
/-!
DEFINITION. Sys2Proof/Machine/CellEvents.lean: what happens in a cluster between groups: answers of accesses (R273), engines
(R356, R360, R374), stalled groups and deferred traps (R246, R273), steps (R168), the broadcast bus (R171 to R175), and the
2 µs drain of the write-combining store (R186).
-/
namespace Sys2Proof.Machine

/-! ### Accesses, engines, groups -/

/-- R273: one more stage of an access of a cell: it performs, or its answer reaches the register. -/
def evAccessResponseReturn (st : State) : State := 
  match st.input with
  | .pair k id => advanceAccess st k id
  | _ => st

/-- R273: one such event. -/
def execAccessResponseReturn (st : State) : Host.Outcome State Fault Refusal := .next (evAccessResponseReturn st)

/-- R356: the copy engine of a cell starts its next pending operation. -/
def evCopyStart (st : State) : State := 
  match st.input with
  | .num k => startCopy st k
  | _ => st

/-- R356: one such event. -/
def execCopyStart (st : State) : Host.Outcome State Fault Refusal := .next (evCopyStart st)

/-- R360: a copy operation of a cell completes. -/
def evCopyComplete (st : State) : State := 
  match st.input with
  | .pair k order => completeCopy st k order
  | _ => st

/-- R360: one such event. -/
def execCopyComplete (st : State) : Host.Outcome State Fault Refusal := .next (evCopyComplete st)

/-- R374: a free array of a core takes a command. -/
def evMatrixCommandStart (st : State) : State := 
  match st.input with
  | .num core => startCmd st core
  | _ => st

/-- R374: one such event. -/
def execMatrixCommandStart (st : State) : Host.Outcome State Fault Refusal := .next (evMatrixCommandStart st)

/-- R273: a stalled group of a cell is tried again in a cycle of the merge stage that takes it (R140), and commits when its
condition holds; the other slot's group, where it issues in the same cycle, is next on the agenda. -/
def evStalledGroupCommit (st : State) : State := 
  match st.input with
  | .num k =>
    let p := mergePlan st (keyCore k)
    if mergeSpent st (keyCore k) || !p.1.contains k then st
    else
      let s1 := runCell (beginCycle st (keyCore k)) k
      { s1 with agenda := (p.1.filter fun j => j != k).map Turn.cell ++ s1.agenda }
  | _ => st

/-- R273: one such event. -/
def execStalledGroupCommit (st : State) : Host.Outcome State Fault Refusal := .next (evStalledGroupCommit st)

/-- R246: the deferred trap that is due at the group boundary of a cell is taken: the oldest, or before a HALT the one that
comes first in its order (R307). -/
def evDeferredTrap (st : State) : State := 
  match st.input with
  | .num k => if canIssue st k then (deferredTurn st k).getD st else st
  | _ => st

/-- R246: one such event. -/
def execDeferredTrap (st : State) : Host.Outcome State Fault Refusal := .next (evDeferredTrap st)

/-- R267, R287: the group that State.iss names holds no operation and raises ILLOP or ILLHDR. -/
def evUnassignedOpcode (st : State) : State := raiseWord st

/-- R267, R287: one such event. -/
def execUnassignedOpcode (st : State) : Host.Outcome State Fault Refusal := .next (evUnassignedOpcode st)

/-! ### Steps (R168, R170) -/

/-- Have all members of a step group arrived, and at least one? -/
def stepArrived (s : State) (ctx team g : Nat) : Bool :=
  let arr := tblGet 0 (getTeam s (teamKey ctx team)).steps g
  let mem := stepMembers s ctx team g
  arr != 0 && allIndex (fun i => !bitOf mem i || bitOf arr i) 0 16

/-- A step of group g completes: every region of the team that is bound to g flips, every member counts it and leaves
WAIT. -/
def completeStep (s : State) (ctx team g : Nat) : State :=
  let tk := teamKey ctx team
  let t := getTeam s tk
  let arr := tblGet 0 t.steps g
  let s1 := t.seats.foldl (fun s k => modCell s k (flipCell (!tileRuns s k) g)) s
  let s2 := modTeam s1 tk fun t => { t with steps := tblSet 0 t.steps g 0, stepBeat := tblSet 0 t.stepBeat g 0 }
  releaseMembers s2 t.seats arr fun c => { c with stepcnt := c.stepcnt + 1 }

/-- Do the cells whose arrivals a step group holds stand in their slots, none of their images written? While one does not, the
completion is pending in the team's state block (R143, R170). -/
def stepSeated (s : State) (ctx team g : Nat) : Bool :=
  let t := getTeam s (teamKey ctx team)
  let written := (s.saves.filter fun j => j.ctx == ctx && j.team == team).flatMap SaveJob.written
  allIndex (fun i => !bitOf (tblGet 0 t.steps g) i
    || (!written.contains i && t.seats.any fun k => (getCell s k).live && (getCell s k).cell == i)) 0 16

/-- R168: a step of a team completes, at least 4 beats after its last arrival. -/
def evGstepComplete (st : State) : State := 
  match st.input with
  | .triple ctx team g =>
    let last := tblGet 0 (getTeam st (teamKey ctx team)).stepBeat g
    if stepArrived st ctx team g && stepSeated st ctx team g && decide (last + 4 ≤ st.pkg.beat.toNat) then
      completeStep st ctx team g
    else st
  | _ => st

/-- R168: one such event. -/
def execGstepComplete (st : State) : Host.Outcome State Fault Refusal := .next (evGstepComplete st)

/-! ### The broadcast bus (R171 to R175) -/

/-- R173: the bus of a cluster carries what is due on it. -/
def evBroadcastBeat (st : State) : State := 
  match st.input with
  | .num cluster =>
    match busDue st cluster with
    | some t => busBeat st cluster t
    | none => st
  | _ => st

/-- R173: one such event. -/
def execBroadcastBeat (st : State) : Host.Outcome State Fault Refusal := .next (evBroadcastBeat st)

/-- R174: a latch of a cell completes. -/
def evLatchComplete (st : State) : State := 
  match st.input with
  | .num k => completeLatch st k
  | _ => st

/-- R174: one such event. -/
def execLatchComplete (st : State) : Host.Outcome State Fault Refusal := .next (evLatchComplete st)

/-! ### The write-combining store (R186) -/

/-- R186: a line of a die that has been held 2 µs drains. -/
def evWcsLineDrainTimeout (st : State) : State := 
  match st.input with
  | .pair die line =>
    match tblGet none (getDie st die).lines line with
    | some l => if l.since + 2000 ≤ st.pkg.gtime.toNat then drainLine st die line else st
    | none => st
  | _ => st

/-- R186: one such event. -/
def execWcsLineDrainTimeout (st : State) : Host.Outcome State Fault Refusal := .next (evWcsLineDrainTimeout st)

end Sys2Proof.Machine
end

