-- ==== Sys2Proof/Machine/Command.lean ====
section
/-!
DEFINITION. Sys2Proof/Machine/Command.lean: what the meanings of all host commands share (R112 to R116): the command that
State.input names while it runs, its payload, and its end.
-/
namespace Sys2Proof.Machine

/-- The running command that the input names, when it has the code and, for a command with operations, the operation byte
at its offset. -/
def inputCmd (s : State) (code : Nat) (op : Option (Nat × Nat)) : Option Cmd :=
  match s.input with
  | .command q i bs =>
    match runningCmd s q i with
    | some c =>
      let opGood : Bool := match op with
        | some (off, v) => cmdNat bs off 1 == v
        | none => true
      if c.bytes = bs ∧ cmdNat bs 0 1 = code ∧ opGood then some c else none
    | none => none
  | _ => none

/-- Do what a command does when the input names it. -/
def withCmd (s : State) (code : Nat) (op : Option (Nat × Nat)) (f : Cmd → State) : State :=
  match inputCmd s code op with
  | some c => f c
  | none => s

/-- The context of a command's header (R112). -/
def cmdCtx (c : Cmd) : Nat := cmdNat c.bytes 4 2 % 4096

/-- The command is DONE (R116). -/
def cmdDone (s : State) (c : Cmd) : State := finishCmd s c stDone 0 0

/-- The command is REFUSED with a code. -/
def cmdRefused (s : State) (c : Cmd) (code : Nat) : State := finishCmd s c stRefused code 0

/-- Change what a running command still needs. -/
def modRunning (s : State) (c : Cmd) (f : Running → Running) : State :=
  { s with gafin := { s.gafin with running := s.gafin.running.map fun r => if sameCmd c r then f r else r } }

/-- The running entry of a command. -/
def runningOf (s : State) (c : Cmd) : Option Running := s.gafin.running.find? (sameCmd c)

end Sys2Proof.Machine
end

