-- ==== Sys2Proof/Machine/Rcb.lean ====
section
/-!
DEFINITION. Sys2Proof/Machine/Rcb.lean: what a receive control block says (R73): its fields, the geometry of its tiles and
chunks (R74, R77, R78), its consumer cell (R80, R82), and the credit that may be granted against it (R58, R61).
-/
namespace Sys2Proof.Machine

/-! ### Fields of an RCB (R73) -/

/-- A field of the image. -/
def rcbBits (b : Rcb) (lo n : Nat) : Nat := (b.image.extractLsb' lo n).toNat
/-- HANDLE. -/
def rcbHandle (b : Rcb) : BitVec 32 := b.image.extractLsb' 480 32
/-- ORIGIN. -/
def rcbOrigin (b : Rcb) : Coord := coordOf (b.image.extractLsb' 416 64)
/-- TSHAPE of a dimension. -/
def rcbTshape (b : Rcb) (i : Nat) : Nat := rcbBits b (352 + 16 * i) 16
/-- LEXT of a dimension. -/
def rcbLext (b : Rcb) (i : Nat) : Nat := rcbBits b (288 + 16 * i) 16
/-- TCOUNT of a dimension. -/
def rcbTcount (b : Rcb) (i : Nat) : Nat := rcbBits b (240 + 12 * i) 12
/-- ORDER. -/
def rcbOrder (b : Rcb) : Nat := rcbBits b 232 8
/-- CTXID. -/
def rcbCtx (b : Rcb) : Nat := rcbBits b 217 12
/-- CHSZ. -/
def rcbChsz (b : Rcb) : Nat := rcbBits b 215 2
/-- MODE: REDUCE. -/
def rcbReduce (b : Rcb) : Bool := b.image.getLsbD 214
/-- ROP. -/
def rcbRop (b : Rcb) : Nat := rcbBits b 211 3
/-- Contributors. -/
def rcbContribs (b : Rcb) : Nat := rcbBits b 207 4 + 1
/-- PADFILL. -/
def rcbPadfill (b : Rcb) : Bool := b.image.getLsbD 206
/-- NORING. -/
def rcbNoring (b : Rcb) : Bool := b.image.getLsbD 205
/-- MODES. -/
def rcbModes (b : Rcb) : Nat := rcbBits b 201 4
/-- RING. -/
def rcbRing (b : Rcb) : Nat := rcbBits b 185 5
/-- BMBASE in bytes. -/
def rcbBase (b : Rcb) : Nat := rcbBits b 158 17 * 64

/-- The IO die that is the home of an RCB (R71). -/
def rcbHome (i : Nat) : Nat := i / 8192

/-- The stream ID of an RCB (R69). -/
def rcbStream (b : Rcb) (i : Nat) : Nat := b.gen.toNat * 2 ^ 14 + i

/-! ### Geometry (R74, R77, R78) -/

/-- Bits of a tile. -/
def rcbTileBits (b : Rcb) : Nat := rcbTshape b 0 * rcbTshape b 1 * rcbTshape b 2 * rcbTshape b 3 * dBits b.desc

/-- CPT: chunks per tile. -/
def rcbCpt (b : Rcb) : Nat := rcbTileBits b / (8 * chunkBytes (rcbChsz b))

/-- Tiles. -/
def rcbTiles (b : Rcb) : Nat := rcbTcount b 0 * rcbTcount b 1 * rcbTcount b 2 * rcbTcount b 3

/-- Elements of a chunk. -/
def rcbChunkElems (b : Rcb) : Nat := chunkBytes (rcbChsz b) * 8 / dBits b.desc

/-- The origin of a tile. -/
def rcbTileOrigin (b : Rcb) (t : Nat) : Coord :=
  let tc := tileCoord (rcbOrder b) (rcbTcount b) t
  coordAdd (rcbOrigin b)
    ⟨tc.x0 * rcbTshape b 0, tc.x1 * rcbTshape b 1, tc.x2 * rcbTshape b 2, tc.x3 * rcbTshape b 3⟩

/-- The coordinates of element e of chunk c. -/
def rcbCoord (b : Rcb) (c e : Nat) : Coord :=
  let t := c / rcbCpt b
  let o := c % rcbCpt b * rcbChunkElems b + e
  coordAdd (rcbTileOrigin b t) (tileOffset (rcbTshape b 0) (rcbTshape b 1) (rcbTshape b 2) o)

/-- Does an element lie outside the logical extent (R78)? -/
def rcbOutside (b : Rcb) (x : Coord) : Bool :=
  (List.range 4).any fun d =>
    rcbLext b d != 0 && (decide (coordAt x d < 0) || decide ((rcbLext b d : Int) ≤ coordAt x d))

/-- Is a chunk clipped (R78)? -/
def rcbClipped (b : Rcb) (c : Nat) : Bool := allIndex (fun e => rcbOutside b (rcbCoord b c e)) 0 (rcbChunkElems b)

/-- Is every chunk of a tile clipped? -/
def rcbTileClipped (b : Rcb) (t : Nat) : Bool := allIndex (rcbClipped b) (t * rcbCpt b) (rcbCpt b)

/-- Bytes rounded up to a multiple of 64. -/
def up64 (n : Nat) : Nat := (n + 63) / 64 * 64

/-- Bytes of the arrival bitmap in the allocation (R74). -/
def rcbBitmapBytes (b : Rcb) : Nat := up64 ((b.nchk * rcbContribs b + 7) / 8)

/-- Bytes of the allocation (R74). -/
def rcbAllocBytes (b : Rcb) : Nat := rcbBitmapBytes b + up64 (2 * rcbTiles b)

/-! ### The consumer (R73, R80, R82) -/

/-- The slot of a cell of a placed team, by context, team and cell index. -/
def cellKey (s : State) (ctx team cell : Nat) : Option Nat :=
  (getTeam s (teamKey ctx team)).seats.find? fun k =>
    let c := getCell s k
    c.live && c.ctx == ctx && c.team == team && c.cell == cell

/-- The slot of the consumer cell, while it is resident. -/
def rcbConsumer (s : State) (b : Rcb) : Option Nat := cellKey s (rcbCtx b) b.team b.cell

/-- The slot of the consumer cell, while it is resident and its tile runs. -/
def rcbReady (s : State) (b : Rcb) : Option Nat :=
  match rcbConsumer s b with
  | some k => if tileRuns s k then some k else none
  | none => none

/-- CORE and SLOT from the placement (R73, R420). -/
def rcbSeat (s : State) (b : Rcb) : Rcb :=
  match rcbConsumer s b with
  | some k => { b with core := BitVec.ofNat 10 (keyCore k), slot := k % 2 == 1 }
  | none => b

/-! ### Credit (R58, R61, R258) -/

/-- The greatest credit that can be granted against RCB i now, in 256-byte units: its open tiles that fit the free slots of
its tile-ready ring; without a ring a bound that no rule gives (log 13); none against a stopped tile or a swapped cell. -/
def rcbRoom (s : State) (i : Nat) : Nat :=
  let b := getRcb s i
  match (if b.state = 1 then rcbReady s b else none) with
  | none => 0
  | some k =>
    if rcbNoring b then Config.unstated 62 s.tick % 65536
    else
      let r := getRing (getCell s k) (rcbRing b)
      (ringSlots r - ringFill r) * ((rcbTileBits b + 2047) / 2048)

/-- Grant credit against RCB i, at most its room: how much of it, no rule states (R61, log 13). -/
def grantRcb (s : State) (i : Nat) : State × Nat :=
  let n := Config.unstated 61 s.tick % (rcbRoom s i + 1)
  ({ modRcb s i fun b => { b with granted := b.granted + BitVec.ofNat 32 n } with tick := s.tick + 1 }, n)

/-- Grant credit against each RCB of a list. -/
def grantRcbs (s : State) : List Nat → State × Nat
  | [] => (s, 0)
  | i :: l =>
    let (s1, n) := grantRcb s i
    let (s2, m) := grantRcbs s1 l
    (s2, n + m)

end Sys2Proof.Machine
end

