-- ==== Sys2Proof/Machine/Transport.lean ====
section
/-!
DEFINITION. Sys2Proof/Machine/Transport.lean: the transport (R41 to R68): what a received packet must pass, opening and closing of PDCs, new packets and
retransmissions, acknowledgements and NACKs, timers, loss of light and key epochs
-/
namespace Sys2Proof.Machine

/-! ### Received packets (R41, R62, R63, R92) -/

/-- Nanoseconds of GTIME. -/
def now (s : State) : Nat := s.pkg.gtime.toNat

/-- The IO die of an Ethernet port. -/
def portDie (port : Nat) : Nat := port / 64

/-- Count a transport error at an IO die (R123, class 4). -/
def countError (s : State) (die : Nat) : State := countSource s (0x4000 + die) 1

/-- Is a packet of the epoch accepted from a peer (R63): the current one, the next one once its key is installed, and each
earlier one for 2 × RTOMAX after the switch away from it? -/
def epochAccepted (s : State) (peer : Nat) (epoch : BitVec 16) : Bool :=
  let e := getPeer s peer
  let d := getDomain s (peerSdom e).toNat
  let next := match d.next with
    | some (n, _) => n == epoch
    | none => false
  let old := d.old.any fun x =>
    x.1 == epoch && decide (now s ≤ x.2 + 2000 * (peerRtomax e).toNat) && !d.ended.contains (epoch, peer)
  d.epoch == epoch || next || old

/-- The peer that a received packet comes from: what is looped back names it, another is matched by its address. -/
def sourcePeer (s : State) (h : Header) (loop : Bool) : Option Nat :=
  if loop then (if peerValid (getPeer s h.port) then some h.port else none)
  else (tblFind (fun _ e => peerMatches e h.src h.ipv4) s.net.peers).map Prod.fst

/-- The Ethernet port that a record names: none for what is looped back. -/
def arrivalPort (h : Header) (loop : Bool) : Nat := if loop then 0 else h.port

/-- Is a frame of a payload of some bytes longer than the 4,352 bytes of R42; one of a chunk or less never is (log 12)? -/
def frameTooLong (size : Nat) : Bool := decide (4096 < size) && decide (4352 < Config.frameBytes size)

/-- What every received packet passes first: a frame longer than the maximum is none (log 12); its bytes are counted, and one that is not of this transport is no concern of
it; from no valid peer, for a function that is not implemented, unauthenticated, or of a stale epoch, it is dropped and
counted (R41, R62, R63, R123). -/
def admitHeader (s : State) (h : Header) (loop : Bool) (size : Nat) : State × Option Nat :=
  if !loop && (!((getPort s h.port).up && decide (h.port < 128)) || frameTooLong size) then (s, none)
  else
    let s1 := if loop then s else countSource s (0x2000 + h.port) (Config.frameBytes size)
    if !loop && h.udp != s.pkg.udpPort then (s1, none)
    else
      match sourcePeer s h loop with
      | none => (countError s1 (portDie h.port), none)
      | some peer =>
        let good := h.known && decide (h.mode.toNat < 4) && (loop || (h.intact && epochAccepted s peer h.epoch))
        if good then (s1, some peer) else (countError s1 (if loop then 0 else portDie h.port), none)

/-- The input that an arrival brings: one from the wire, or entry n of what is looped back, which leaves it. -/
def arrivalOf (s : State) : State × Input × Bool :=
  match s.input with
  | .loop n =>
    match s.net.loop[n]? with
    | some i => ({ s with net := { s.net with loop := removeAt s.net.loop n } }, i, true)
    | none => (s, .none, true)
  | i => (s, i, false)

/-! ### PDCs (R44 to R46) -/

/-- The PDC that holds an identity. -/
def findPdc (s : State) (ctx : BitVec 12) (peer : Nat) (mode : BitVec 4) : Option Nat :=
  (tblFind (fun _ p => p.state != 0 && p.ctx == ctx && p.peer == BitVec.ofNat 16 peer && p.mode == mode) s.net.pdcs).map
    Prod.fst

/-- A free index: any of them, by a free choice (R44, log 7). -/
def freePdc (s : State) : Option Nat :=
  let c := Config.choose s.tick 65536 % 65536
  (firstIndex (fun i => (getPdc s ((c + i) % 65536)).state == 0) 0 65536).map fun i => (c + i) % 65536

/-- The entry of a PDC that opens (R45). -/
def openedPdc (s : State) (ctx : BitVec 12) (peer : Nat) (mode : BitVec 4) : Pdc :=
  let e := getPeer s peer
  { pdcEmpty with
    nextPsn := peerPsn0 e
    unaPsn := peerPsn0 e
    peer := BitVec.ofNat 16 peer
    pset := peerPset e
    cwnd := peerCwnd e
    rtous := peerRtous e
    sdom := peerSdom e
    ctx := ctx
    mode := mode
    state := pdcOpen
    ccacks := 8
    ccus := 2
    entry := e
    est := true
    lastUse := now s
    ccsigAt := now s }

/-- Open a PDC for an identity (R44, R46); with no usable path entry it is in NOPATH (R49). -/
def openPdc (s : State) (ctx : BitVec 12) (peer : Nat) (mode : BitVec 4) : State × Option Nat :=
  match freePdc s with
  | none => (s, none)
  | some n =>
    (settlePdc { modPdc s n (fun _ => openedPdc s ctx peer mode) with tick := s.tick + 1 } n, some n)

/-- The PDC of a receiver (R46, R53, R94): it opens at the first valid packet, with the starting PSN that the packet names
or else its own PSN; one that has FAILED accepts nothing. With no index free the packet is dropped, uncounted and unanswered:
R44 speaks of the initiator only (DESIGN CHOICE, log 47). -/
def receiverPdc (s : State) (h : Header) (peer : Nat) : State × Option Nat :=
  let begin_ := fun (s : State) (n : Nat) =>
    modPdc s n fun p =>
      { p with
        lastUse := now s
        rxOpen := true
        expected := if p.rxOpen then p.expected else h.est.getD h.psn }
  match findPdc s h.ctx peer h.mode with
  | some n => if (getPdc s n).state = pdcFailed then (s, none) else (begin_ s n, some n)
  | none =>
    match openPdc s h.ctx peer h.mode with
    | (s1, some n) => (begin_ s1 n, some n)
    | (s1, none) => (s1, none)

/-! ### Answers of a receiver (R53, R55, R100) -/

/-- The credit that a PDC grants when RCCC is in force, against the RCBs that its packets have reached (R58, R61). -/
def grantedCredit (s : State) (n : Nat) : State × Nat :=
  let p := getPdc s n
  if peerRccc p.entry then
    let (s1, m) := grantRcbs s p.feeds
    (s1, min 65535 m)
  else (s, 0)

/-- Send the acknowledgements that a PDC has gathered, with the credit that it grants, and marked where a packet of theirs
carried an ECN mark (R42, R59). -/
def flushAcks (s : State) (n : Nat) : State :=
  let p := getPdc s n
  if p.acks.isEmpty then s
  else
    let (s1, credit) := grantedCredit s n
    sendBody (modPdc s1 n fun p => { p with acks := [], ackEcn := false }) n (.answer p.acks credit p.ackEcn)

/-- Grant credit again to the senders of RCB i, in an acknowledgement of its own (R258). -/
def regrantRcb (s : State) (i : Nat) : State :=
  let to_ := (tblKeys s.net.pdcs).filter fun n =>
    let p := getPdc s n
    p.state != 0 && p.state != pdcFailed && peerRccc p.entry && p.feeds.contains i
  to_.foldl (fun s n =>
    let (s1, credit) := grantRcb s i
    if credit = 0 then s1 else sendBody s1 n (.answer [] (min 65535 credit) false)) s

/-- Answer a PSN: acknowledgements gather, at most 4 (R53); a NACK is sent at once. UUD answers nothing. -/
def answerPsn (s : State) (n : Nat) (psn : BitVec 32) (ecn : Bool) (a : Answer) : State :=
  let p := getPdc s n
  if p.mode = 3 then s
  else
    match a with
    | .nack .. => sendBody s n (.answer [(psn, a)] 0 false)
    | .ack _ =>
      let s1 := modPdc s n fun p =>
        { p with
          acks := p.acks ++ [(psn, a)]
          ackEcn := p.ackEcn || ecn
          ackSince := if p.acks.isEmpty then now s else p.ackSince }
      if 4 ≤ (getPdc s1 n).acks.length then flushAcks s1 n else s1

/-- Does an answer accept its ROD packet (R53)? -/
def accepts : Answer → Bool
  | .ack _ => true
  | .nack r _ _ => r == 5

/-- Keep the response of an accepted ROD packet, the last 1,024 of them (R100). -/
def keepAnswer (psn : BitVec 32) (a : Answer) (p : Pdc) : Pdc :=
  { p with
    expected := psn + 1
    kept := tblSet none (tblErase p.kept (psn - 1024).toNat) psn.toNat (some a) }

/-- The answer to a ROD packet that was accepted before: the kept response, or a plain acknowledgement (R53). -/
def keptAnswer (p : Pdc) (psn : BitVec 32) : Answer := (tblGet none p.kept psn.toNat).getD (.ack none)

/-- Does a packet ask for an implemented function (R41): a tagged send is of at most 16 KiB per message? -/
def packetKnown (p : Packet) : Bool :=
  p.hd.known && !(p.verb == .tagged && decide (16384 < p.off.toNat + p.data.length))

/-- Handle a received request: order (R53), trimming (R55), and then what its kind does, `f`, on the PDC's index. A trimmed ROD
packet that is not at the next expected PSN takes the kept answer before it and the NACK trimmed after it: R53 and R55 give
both answers and no order (DESIGN CHOICE, log 47). -/
def receiveData (s : State) (loop : Bool) (p : Packet) (f : State → Nat → State × Answer) : State :=
  match admitHeader s { p.hd with known := packetKnown p } loop p.data.length with
  | (s1, none) => s1
  | (s1, some peer) =>
    match receiverPdc s1 p.hd peer with
    | (s2, none) => s2
    | (s2, some n) =>
      let q := getPdc s2 n
      let d := (p.hd.psn - q.expected).toInt
      if q.mode = 1 ∧ d < 0 then answerPsn s2 n p.hd.psn p.hd.ecn (keptAnswer q p.hd.psn)
      else if p.hd.trimmed then answerPsn s2 n p.hd.psn p.hd.ecn (.nack 1 0 0)
      else if q.mode = 1 ∧ 0 < d then answerPsn s2 n p.hd.psn p.hd.ecn (.nack 2 0 0)
      else
        let (s3, a) := f s2 n
        let s4 := match a with
          | .nack 5 _ _ => countError s3 (if loop then pdcDie n else portDie p.hd.port)
          | _ => s3
        let s5 := if q.mode = 1 ∧ accepts a then modPdc s4 n (keepAnswer p.hd.psn a) else s4
        answerPsn s5 n p.hd.psn p.hd.ecn a

/-! ### Packets of a sender (R43, R69, R70, R90, R96) -/

/-- The destinations of a remote stream: peer, stream ID, contributor (R90, R91). -/
def streamDests (s : State) (d : Desc) : List (Nat × Nat × Nat) :=
  if rsMcast d then
    ((tblGet none s.net.mcast (rsPeer d)).getD []).map fun w =>
      (bitsOf w.toNat 63 48, bitsOf w.toNat 47 24, bitsOf w.toNat 23 20)
  else [(rsPeer d, rsStream d, rsContrib d)]

/-- Chunks of a tile. -/
def tileChunks (d : Desc) : Nat := dTileBytes d / chunkBytes (rsChsz d)

/-- Elements of a chunk. -/
def chunkElems (d : Desc) : Nat := chunkBytes (rsChsz d) * 8 / dBits d

/-- The number of a chunk of one destination among the packets of its operation. -/
def chunkNo (dest q : Nat) : Nat := dest * 2 ^ 20 + q

/-- Has the packet of a chunk been made for a destination? -/
def chunkMade (o : CopyOp) (dest q : Nat) : Bool := tblGet false o.performed (chunkNo dest q)

/-- Is a chunk to be sent: the one whose source read faulted and every later one are not (R90)? -/
def chunkWanted (o : CopyOp) (q : Nat) : Bool :=
  match o.limit with
  | some l => decide (q < l)
  | none => true

/-- The next chunk for a destination, in increasing index (R90). -/
def nextChunk (o : CopyOp) (d : Desc) (dest : Nat) : Option Nat :=
  firstIndex (fun q => !chunkMade o dest q && chunkWanted o q) 0 (tileChunks d)

/-- Has the operation no packet left to send? -/
def allSent (o : CopyOp) (d : Desc) (dests : Nat) : Bool :=
  (List.range dests).all fun j => (nextChunk o d j).isNone

/-- A source read has faulted in chunk q, where the operation stops (R90, R183). -/
def stopChunk (t : TrapInfo) (q : Nat) (o : CopyOp) : CopyOp :=
  { noteCopyFault t o with stop := true, limit := some (min q (o.limit.getD q)) }

/-- Fix, after a chunk, whether the operation has sent its last packet. -/
def settleSent (d : Desc) (dests : Nat) (o : CopyOp) : CopyOp := { o with sent := allSent o d dests }

/-- Mark a chunk of a destination as made. -/
def madeChunk (dest q : Nat) (o : CopyOp) : CopyOp := { o with performed := tblSet false o.performed (chunkNo dest q) true }

/-- Messages of at most 16 KiB: the chunks of one (R70). -/
def messageChunks (d : Desc) : Nat := 16384 / chunkBytes (rsChsz d)

/-- The key and offset of the packet of chunk q of tile t: RMA key and offset, or tag and message offset (R69, R70). -/
def chunkTarget (d : Desc) (t q stream contrib : Nat) : Verb × Nat × Nat :=
  let first := t * tileChunks d
  if rsTsend d then
    let m := messageChunks d
    (.tagged, stream * 2 ^ 40 + contrib * 2 ^ 36 + (first + q / m * m) % 2 ^ 24, q % m * chunkBytes (rsChsz d))
  else (.write, stream, contrib * 2 ^ 24 + (first + q) % 2 ^ 24)

/-- A packet before it has a place on a path. -/
def packetOf (verb : Verb) (key off size op : Nat) (arg cmp : BitVec 64) (data : List Byte) : Packet :=
  ⟨⟨0, 0, 0, false, 0, 0, 0, 0, true, true, false, false, none⟩, verb, BitVec.ofNat 64 key, BitVec.ofNat 64 off, size, op, arg, cmp,
    data⟩

/-- Read the payload of chunk q (R56, R90): what was read ahead counts (R201). -/
def chunkRead (s : State) (key : Nat) (o : CopyOp) (d : Desc) (q : Nat) : State × ReadRun :=
  readRun s (copyAgent s key o) o (q * chunkElems d) (chunkElems d)

/-- The physical address of the first poisoned word of n elements from offset i on; a source in banks has none. -/
def poisonedAt (s : State) (ag : Agent) (o : CopyOp) (i : Nat) : Nat → Option Nat
  | 0 => none
  | n + 1 =>
    let y := wrapCoord o.src.d (copySource o i)
    let here := if !coordInside o.src.d y || dSpace o.src.d != 1 then none
      else
        match (virtRun s ag .read (elemAddr o.src.d y).1 (max 1 (dBits o.src.d / 8))).2 with
        | .ok l => (l.find? fun p => physPoisoned s p.1 1).map Prod.fst
        | .error _ => none
    match here with
    | some pa => some pa
    | none => poisonedAt s ag o (i + 1) n

/-- The stack or CXL port of a physical address. -/
def memUnit (s : State) (pa : Nat) : Nat :=
  match physKind s pa with
  | .hbm => stackOf pa
  | .cxl p => p
  | _ => 0

/-- MEM_UE for a poisoned chunk that is not sent (R260); for a source in banks no rule states its address (log 13). -/
def reportChunk (s : State) (key : Nat) (o : CopyOp) (d : Desc) (q : Nat) : State :=
  match poisonedAt s (copyAgent s key o) o (q * chunkElems d) (chunkElems d) with
  | some pa => postMemUe s 3 (pa / 8 * 8) (memUnit s pa)
  | none => postMemUe { s with tick := s.tick + 1 } 3 (Config.unstated 260 s.tick) (Config.unstated 261 s.tick)

/-! ### The PDC of a sender (R44, R46) -/

/-- What an operation that has something to send asks of the transport: its context, peer and mode; none once it has nothing
left, or while its tile is stopped. -/
def carryNeed (s : State) : Carry → Option (Nat × Nat × Nat)
  | .chunk key order dest _ =>
    match findCopy (getCell s key) order with
    | none => none
    | some o =>
      match o.dst with
      | none => none
      | some d =>
        let dests := streamDests s d.d
        match dests[dest]?, nextChunk o d.d dest with
        | some tgt, some _ =>
          if inProgress o && copyRemote o && o.tile.isSome && !o.sent && tileRuns s key then
            some ((getCell s key).ctx, tgt.1, rsMode d.d)
          else none
        | _, _ => none
  | .access key id =>
    match (getCell s key).accesses.find? fun a => a.id == id with
    | none => none
    | some a =>
      match a.place with
      | .window peer _ _ false =>
        if a.answered.isNone && accessRuns s key a then some ((getCell s key).ctx, peer, 1) else none
      | _ => none

/-- Does an operation still need a PDC that is not open, for a peer that can have one? -/
def needsPdc (s : State) (c : Carry) : Bool :=
  match carryNeed s c with
  | none => false
  | some (ctx, peer, mode) =>
    peerValid (getPeer s peer) && (findPdc s (BitVec.ofNat 12 ctx) peer (BitVec.ofNat 4 mode)).isNone

/-- The cell of an operation. -/
def carryKey : Carry → Nat
  | .chunk key _ _ _ => key
  | .access key _ => key

/-- The place of an operation in the issue order of its cell: its group, accesses before engine operations, its number. -/
def carryRank (s : State) : Carry → Nat × Nat × Nat
  | .chunk key order _ _ => (((findCopy (getCell s key) order).map CopyOp.group).getD 0, 1, order)
  | .access key id => ((((getCell s key).accesses.find? fun a => a.id == id).map Access.group).getD 0, 0, id)

/-- Was operation `a` issued before operation `b` of the same cell? -/
def issuedBefore (s : State) (a b : Carry) : Bool :=
  let (x0, x1, x2) := carryRank s a
  let (y0, y1, y2) := carryRank s b
  carryKey a == carryKey b
    && (decide (x0 < y0) || (x0 == y0 && (decide (x1 < y1) || (x1 == y1 && decide (x2 < y2)))))

/-- Put an operation among those that wait for a PDC: before what its cell issued later, else last (R44, log 47). -/
def putWaiting (s : State) (c : Carry) : List Carry → List Carry
  | [] => [c]
  | x :: l => if issuedBefore s c x then c :: x :: l else x :: putWaiting s c l

/-- The operations that wait for a PDC, without those that need none any more. -/
def liveWaiting (s : State) : List Carry := s.net.waiting.filter (needsPdc s)

/-- Replace the operations that wait for a PDC. -/
def setWaiting (s : State) (l : List Carry) : State := { s with net := { s.net with waiting := l } }

/-- An operation waits for a PDC. -/
def joinWaiting (s : State) (who : Carry) : State :=
  let l := liveWaiting s
  setWaiting s (if l.contains who then l else putWaiting s who l)

/-- Open a PDC for an operation: operations that wait for a free index are served in issue order (R44). -/
def openFor (s : State) (who : Carry) (ctx : BitVec 12) (peer : Nat) (mode : BitVec 4) : State × Option Nat :=
  let s1 := joinWaiting s who
  if (liveWaiting s1).head? = some who then
    match openPdc s1 ctx peer mode with
    | (s2, none) => (s2, none)
    | (s2, some n) => (setWaiting s2 (liveWaiting s2), some n)
  else (s1, none)

/-- The PDC of a sender: an index, or none while the operation must wait (R44, R46), or the aux value with which it
completes faulted. -/
def senderPdc (s : State) (who : Carry) (ctx : BitVec 12) (peer : Nat) (mode : BitVec 4) : State × Except Nat (Option Nat) :=
  if !peerValid (getPeer s peer) then (s, .error (peer + 2 ^ 31))
  else
    let opened := fun (s : State) (n : Nat) => if (getPdc s n).state = pdcOpen then some n else none
    match findPdc s ctx peer mode with
    | some n => if (getPdc s n).state = pdcFailed then (s, .error n) else (s, .ok (opened s n))
    | none =>
      match openFor s who ctx peer mode with
      | (s1, none) => (s1, .ok none)
      | (s1, some n) => (s1, .ok (opened s1 n))

/-! ### New packets (R43, R47, R90, R96) -/

/-- Put a packet of a PDC on the wire under its PSN (R49, R54): a retransmission has its PSN already. -/
def transmit (s : State) (n : Nat) (psn : BitVec 32) (p : Packet) : State × Option Nat :=
  let q := getPdc s n
  match takePath s q with
  | none => (s, none)
  | some (w, _) =>
    let port := match w with
      | some (x, _) => x
      | none => q.peer.toNat
    (sendBody s n (.data { p with hd := headerOf s q psn port }), w.map Prod.fst)

/-- A packet that ends without an acknowledgement, because its PDC is UUD: when it has left its port or been discarded,
or been looped back (R53, R90). -/
def endUud (s : State) (n : Nat) (psn : BitVec 32) : State :=
  let p := getPdc s n
  match tblGet none p.sent psn.toNat with
  | some x =>
    if p.mode = 3 then
      endCarry (modPdc s n fun p => { p with sent := tblErase p.sent psn.toNat, unaPsn := p.unaPsn + 1 }) x.carry none none
    else s
  | none => s

/-- When the timer of a PDC next expires. -/
def timerFrom (s : State) (p : Pdc) : Option Nat := if p.mode = 3 then none else some (now s + 1000 * p.rtous.toNat)

/-- Send a new packet on an open PDC (R45, R47, R51, R54). -/
def sendNew (s : State) (n : Nat) (carry : Carry) (tmpl : Packet) (data : List Byte) (size : Nat) : State :=
  let p := getPdc s n
  let psn := p.nextPsn
  let (s1, port) := transmit s n psn { tmpl with data := data }
  let s2 := modPdc s1 n fun p =>
    { p with
      nextPsn := psn + 1
      sent := tblSet none p.sent psn.toNat (some ⟨carry, tmpl, size, port, false, 0, none⟩)
      timer := if p.unaPsn = psn then timerFrom s p else p.timer
      lastUse := now s }
  if pdcLoop p then endUud s2 n psn else s2

/-- Do the limits of R47 allow a new packet of a size (R47, R61)? Parked packets take none of the credit (R58). -/
def withinLimits (p : Pdc) (size : Nat) : Bool :=
  decide ((p.nextPsn - p.unaPsn).toNat < 1024)
    && decide (inflBytes p + size ≤ p.cwnd.toNat * 256)
    && (!peerRccc p.entry || decide (creditBytes p + size ≤ p.credit.toNat * 256))

/-- May a new packet of a size be sent (R47, R61, R410)? -/
def mayQueue (p : Pdc) (size : Nat) : Bool := p.retx.isEmpty && withinLimits p size

/-- R356: does deadline `a` come before `b`; 0 is no deadline? -/
def deadlineBefore (a b : BitVec 64) : Bool := a != 0 && (b == 0 || a.ult b)

/-- The operation of an entry that reached a PDC, while it has a packet left for its destination. -/
def reachedOp (s : State) (e : Reached) : Option CopyOp :=
  match findCopy (getCell s e.key) e.order with
  | some o =>
    match o.dst with
    | some d => if inProgress o && (nextChunk o d.d e.dest).isSome then some o else none
    | none => none
  | none => none

/-- The deadline of packets that R47 holds back, while their tile's copy engine runs (R250, R356). -/
def heldDeadline (s : State) (e : Reached) : Option (BitVec 64) :=
  if e.held && tileRuns s e.key then (reachedOp s e).map CopyOp.deadline else none

/-- Does an entry belong to an operation? -/
def ofOp (key order : Nat) (e : Reached) : Bool := e.key == key && e.order == order

/-- Do held packets of another operation go before those of this one (R356): of an earlier deadline, or of no later one when
they reached the PDC first? -/
def outranked (s : State) (p : Pdc) (key order : Nat) (mine : BitVec 64) : Bool :=
  let first := p.reached.takeWhile fun e => !ofOp key order e
  let rest := (p.reached.dropWhile fun e => !ofOp key order e).filter fun e => !ofOp key order e
  first.any (fun e => (heldDeadline s e).any fun t => !deadlineBefore mine t)
    || rest.any (fun e => (heldDeadline s e).any fun t => deadlineBefore t mine)

/-- Note that packets of an operation have reached a PDC, held back or not; entries with nothing left go. -/
def noteReached (s : State) (x : Reached) (p : Pdc) : Pdc :=
  let l := p.reached.filter fun e => (reachedOp s e).isSome
  let same := fun (e : Reached) => ofOp x.key x.order e && e.dest == x.dest
  { p with reached :=
      if l.any same then l.map fun e => if same e then { e with held := e.held || x.held } else e else l ++ [x] }

/-- Send chunk q of an operation to a destination on PDC n: a poisoned chunk is not sent (R260), and a source read that
faults stops the operation there (R90). -/
def sendChunk (s : State) (key : Nat) (o : CopyOp) (d : Desc) (dests dest n q : Nat) (tgt : Nat × Nat × Nat) : State :=
  let size := chunkBytes (rsChsz d)
  let (s1, r) := chunkRead s key o d q
  let done := fun (s : State) (g : CopyOp → CopyOp) =>
    modCopy s key o.order fun o => settleSent d dests (madeChunk dest q (g { o with early := [] }))
  match r.fault, r.bad with
  | some t, _ => modCopy s1 key o.order fun o => settleSent d dests (stopChunk t q { o with early := [] })
  | none, n :: _ => done (reportChunk s1 key o d q) fun o => noteCopyFault (enginePoison (copyAddr o n)) o
  | none, [] =>
    let (verb, k, off) := chunkTarget d (o.tile.getD 0) q tgt.2.1 tgt.2.2
    let s2 := done s1 fun o => { o with unacked := o.unacked + 1 }
    sendNew s2 n (.chunk key o.order dest q) (packetOf verb k off size 0 0 0 []) (packCodes (dBits d) r.codes) size

/-- Does a chunk wait: for what its operation's fork waits for (R211), or for banks of a stopped tile (R250)? -/
def chunkWaits (s : State) (key : Nat) (o : CopyOp) (d : Desc) (q : Nat) : Bool :=
  copyFork s key o
    || (List.range (chunkElems d)).any fun e => elemHeld s key o.src.d (copySource o (q * chunkElems d + e))

/-- Send the next chunk of an operation to a destination, as far as it may (R44, R46, R47, R90, R91, R356). -/
def transmitChunk (s : State) (key order dest : Nat) : State :=
  match findCopy (getCell s key) order with
  | none => s
  | some o =>
    match o.dst with
    | none => s
    | some d =>
      let dests := streamDests s d.d
      match dests[dest]?, nextChunk o d.d dest with
      | some tgt, some q =>
        let who := Carry.chunk key order dest 0
        if (carryNeed s who).isNone || chunkWaits s key o d.d q then s
        else
          match senderPdc s who (BitVec.ofNat 12 (getCell s key).ctx) tgt.1 (BitVec.ofNat 4 (rsMode d.d)) with
          | (s1, .error aux) =>
            modCopy s1 key order fun o =>
              settleSent d.d dests.length (madeChunk dest q (noteCopyFault (remoteTrap aux) o))
          | (s1, .ok none) => s1
          | (s1, .ok (some n)) =>
            if !withinLimits (getPdc s1 n) (chunkBytes (rsChsz d.d)) || outranked s1 (getPdc s1 n) key order o.deadline then
              modPdc s1 n (noteReached s1 ⟨key, order, dest, true⟩)
            else if !(getPdc s1 n).retx.isEmpty then s1
            else
              sendChunk (modPdc s1 n (noteReached s1 ⟨key, order, dest, false⟩)) key o d.d dests.length dest n q tgt
      | _, _ => s

/-- Is a window access unsent? -/
def accUnsent (a : Access) : Bool :=
  match a.place with
  | .window _ _ _ sent => !sent && unperformed a
  | _ => unperformed a

/-- May a window access be sent: every access of its queue that precedes it has been (R101), and what a fence puts before it has
performed (R207)? -/
def maySend (c : Cell) (a : Access) : Bool :=
  c.accesses.all fun b =>
    b.id == a.id || !precedes c b a || (if sameQueue b a then !accUnsent b else !unperformed b)

/-- The packet of a window access (R69, R96, R99). -/
def windowPacket (a : Access) (win off : Nat) : Packet :=
  match a.kind with
  | .store d => packetOf .write (2 ^ 24 + win) off a.size 0 0 0 (toBytes d.toNat a.size)
  | .amo op x y =>
    let code := if op = 5 then 3 else if op < 3 then op else op + 4
    packetOf .atomic (2 ^ 24 + win) off a.size code x y []
  | _ => packetOf .read (2 ^ 24 + win) off a.size 0 0 0 []

/-- Mark a window access as sent. -/
def markSent (id : Nat) (c : Cell) : Cell :=
  { c with accesses := c.accesses.map fun a =>
      match a.place with
      | .window p w o _ => if a.id = id then { a with place := .window p w o true } else a
      | _ => a }

/-- A refused window access enters the fault buffer of the initiator's die, by context, page and cause REMOTE, and joins the entry
that stands there (R198, R199). -/
def noteRefused (s : State) (key : Nat) (a : Access) : State :=
  noteFault s (keyDie key) (getCell s key).ctx a.va.toNat causeRemote

/-- Send a window access of a cell, as far as it may (R96). -/
def transmitAccess (s : State) (key id : Nat) : State :=
  let c := getCell s key
  match c.accesses.find? fun a => a.id == id with
  | none => s
  | some a =>
    match a.place with
    | .window peer win off false =>
      if a.answered.isSome || !accessRuns s key a || !maySend c a then s
      else
        match senderPdc s (.access key id) (BitVec.ofNat 12 c.ctx) peer 1 with
        | (s1, .error aux) => endCarry (noteRefused s1 key a) (.access key id) none (some (remoteTrap aux))
        | (s1, .ok none) => s1
        | (s1, .ok (some n)) =>
          if mayQueue (getPdc s1 n) a.size then
            let p := windowPacket a win off
            sendNew (modCell s1 key (markSent id)) n (.access key id) p p.data a.size
          else s1
    | _ => s

/-- A frame leaves its egress queue for the fibre, or is discarded (R50): a UUD packet ends (R90). -/
def frameGone (s : State) (f : Frame) : State :=
  match f.body with
  | .data p => endUud s f.pdc p.hd.psn
  | _ => s

/-- Payload bytes of a frame. -/
def frameSize (f : Frame) : Nat :=
  match f.body with
  | .data p => p.data.length
  | _ => 0

/-- The frame at the head of an egress queue goes onto the fibre; its bytes are counted (R123, class 3). -/
def departFrame (s : State) (port : Nat) : State :=
  match tblGet [] s.net.egress port with
  | [] => s
  | fr :: rest =>
    let s1 := { s with net := { s.net with egress := tblSet [] s.net.egress port rest } }
    frameGone (countSource s1 (0x3000 + port) (Config.frameBytes (frameSize fr))) fr

/-- R49, R90, R96: the next chunk of a copy operation for one of its destinations, or a window access, is sent; or the frame at
the head of a port's egress goes onto the fibre. -/
def evPacketTransmit (st : State) : State := 
  match st.input with
  | .triple key order dest => transmitChunk st key order dest
  | .pair key id => transmitAccess st key id
  | .num port => departFrame st port
  | _ => st

/-- R49, R90, R96: one such event. -/
def execPacketTransmit (st : State) : Host.Outcome State Fault Refusal := .next (evPacketTransmit st)

/-! ### Retransmission (R54, R56, R57, R410) -/

/-- The payload of a packet as its source stands now: none when the source cannot be read, or is poisoned; nothing is sent then
and no fault recorded, on which the spec is silent (DESIGN CHOICE, log 47). -/
def rereadPayload (s : State) (x : Sent) : State × Option (List Byte) :=
  match x.carry with
  | .access _ _ => (s, some x.pkt.data)
  | .chunk key order _ q =>
    match findCopy (getCell s key) order with
    | none => (s, none)
    | some o =>
      match o.dst with
      | none => (s, none)
      | some d =>
        let (s1, r) := chunkRead s key { o with early := [] } d.d q
        if r.fault.isSome || !r.bad.isEmpty then (s1, none) else (s1, some (packCodes (dBits d.d) r.codes))

/-- Send an unacknowledged packet again, where its source can be read (R56): was it sent? -/
def resend (s : State) (n : Nat) (psn : BitVec 32) (x : Sent) : State × Bool :=
  match rereadPayload s x with
  | (s1, none) => (s1, false)
  | (s1, some bs) =>
    let (s2, port) := transmit s1 n psn { x.pkt with data := bs }
    (modPdc s2 n fun p =>
      { p with sent := tblSet none p.sent psn.toNat (some { x with port := port, retryAt := none }), lastUse := now s }, true)

/-- The unacknowledged packet of a PSN: one within [UNAPSN, NEXTPSN) that no acknowledgement has named. -/
def outstanding (p : Pdc) (psn : BitVec 32) : Option Sent :=
  match tblGet none p.sent psn.toNat with
  | some x => if x.acked then none else some x
  | none => none

/-- Take the first PSN of the first request, and what is left (R410). -/
def takeRetx : List Retx → Option (BitVec 32 × List Retx)
  | [] => none
  | r :: rest =>
    match r.left with
    | [] => takeRetx rest
    | i :: more => some (r.base + BitVec.ofNat 32 i, if more.isEmpty then rest else { r with left := more } :: rest)

/-- Send the next requested PSN of a PDC: an acknowledged one is skipped, and every one on UUD, whose packets are never
retransmitted (R53); a sent one restarts the timer (R54, R56). -/
def serveRetx (s : State) (n : Nat) : State :=
  let p := getPdc s n
  if !(p.state = pdcOpen ∨ p.state = pdcQuiesce) ∨ !pathReady s p then s
  else
    match takeRetx p.retx with
    | none => s
    | some (psn, rest) =>
      let s1 := modPdc s n fun p => { p with retx := rest }
      match (if p.mode = 3 then none else outstanding p psn) with
      | none => s1
      | some x =>
        match resend s1 n psn x with
        | (s2, true) => modPdc s2 n fun p => { p with timer := timerFrom s p }
        | (s2, false) => s2

/-- R410: the next requested retransmission of a PDC is tested and sent. -/
def evRetxSend (st : State) : State := 
  match st.input with
  | .num n => serveRetx st n
  | _ => st

/-- R410: one such event. -/
def execRetxSend (st : State) : Host.Outcome State Fault Refusal := .next (evRetxSend st)

/-- R54: the retransmission timer of a PDC expires: RTO is posted and the timer stands still. -/
def evRtoExpiry (st : State) : State := 
  match st.input with
  | .num n =>
    let p := getPdc st n
    match p.timer with
    | some t =>
      if t ≤ now st ∧ p.unaPsn ≠ p.nextPsn then
        postPdc (modPdc st n fun p => { p with timer := none }) n 1 p.unaPsn (p.nextPsn - p.unaPsn).toNat 0
          (BitVec.ofNat 64 (bit01 p.parking))
      else st
    | none => st
  | _ => st

/-- R54: one such event. -/
def execRtoExpiry (st : State) : Host.Outcome State Fault Refusal := .next (evRtoExpiry st)

/-- R57: the backoff of a parked PSN of a PDC ends, and the hardware sends the packet again. -/
def evParkedBackoffExpiry (st : State) : State := 
  match st.input with
  | .pair n psn =>
    let p := getPdc st n
    match outstanding p (BitVec.ofNat 32 psn) with
    | some x =>
      match x.retryAt with
      | some t =>
        if t ≤ now st ∧ (p.state = pdcOpen ∨ p.state = pdcQuiesce) ∧ pathReady st p then (resend st n (BitVec.ofNat 32 psn) x).1
        else st
      | none => st
    | none => st
  | _ => st

/-- R57: one such event. -/
def execParkedBackoffExpiry (st : State) : Host.Outcome State Fault Refusal := .next (evParkedBackoffExpiry st)

/-! ### Acknowledgements and NACKs at the sender (R53 to R59, R98, R415) -/

/-- The value that a window access receives from a response. -/
def carryValue (s : State) (c : Carry) (raw : Option (BitVec 64)) : Option (BitVec 64) :=
  match c with
  | .chunk .. => none
  | .access key id =>
    match (getCell s key).accesses.find? fun a => a.id == id with
    | some a => raw.map fun x => answerValue a.kind a.size (x.toNat % 2 ^ (8 * a.size))
    | none => none

/-- Does a packet need a value in its acknowledgement: a read or an atomic (R43)? -/
def needsValue (x : Sent) : Bool := x.pkt.verb == .read || x.pkt.verb == .atomic

/-- A packet of a PDC has ended: acknowledged, or refused (R47, R415). -/
def endPsn (s : State) (n : Nat) (psn : BitVec 32) (x : Sent) (raw : Option (BitVec 64)) (f : Option TrapInfo) : State :=
  endCarry (modPdc s n fun p => { p with sent := tblSet none p.sent psn.toNat (some { x with acked := true, retryAt := none }) })
    x.carry (carryValue s x.carry raw) f

/-- The PDC with UNAPSN past every ended packet. -/
def advanceUna (p : Pdc) : Nat → Pdc
  | 0 => p
  | k + 1 =>
    if p.unaPsn = p.nextPsn then p
    else
      match tblGet none p.sent p.unaPsn.toNat with
      | some x => if x.acked then advanceUna { p with sent := tblErase p.sent p.unaPsn.toNat, unaPsn := p.unaPsn + 1 } k else p
      | none => advanceUna { p with unaPsn := p.unaPsn + 1 } k

/-- Advance UNAPSN; the timer restarts when it moved, and stops when nothing is unacknowledged (R54). -/
def settleUna (s : State) (n : Nat) : State :=
  modPdc s n fun p =>
    let q := advanceUna p 1024
    if q.unaPsn = p.unaPsn then q
    else { q with timer := if q.unaPsn = q.nextPsn then none else timerFrom s q, lastUse := now s }

/-- Does an acknowledgement cover a PSN: before `cum`, or selected; one that needs a value must find it there? -/
def covers (a : Ack) (psn : BitVec 32) (x : Sent) : Bool :=
  let cum := match a.cum with
    | some c => decide ((psn - c).toInt < 0)
    | none => false
  (cum || a.sel.contains psn) && (!needsValue x || a.resp.any fun r => r.1 == psn)

/-- The response of a PSN. -/
def respOf (a : Ack) (psn : BitVec 32) : Option (BitVec 64) := (a.resp.find? fun r => r.1 == psn).map Prod.snd

/-- One PSN of a PDC under an acknowledgement; its bytes are acknowledged. -/
def ackOne (a : Ack) (n : Nat) (s : State) (psn : BitVec 32) : State :=
  match outstanding (getPdc s n) psn with
  | none => s
  | some x =>
    if covers a psn x then
      modPdc (endPsn s n psn x (respOf a psn) none) n fun p =>
        { p with ackBytes := p.ackBytes + x.size, parking := false, est := false }
    else s

/-- CCSIG is due by its count (R59). -/
def ccsigCount (s : State) (n : Nat) : State :=
  let p := getPdc s n
  if p.ccacks ≠ 0 ∧ p.ccacks.toNat ≤ p.ackCount then postPdc s n 4 0 p.ecncnt.toNat 0 (ccsigAux p) else s

/-- An acknowledgement reaches the sender's PDC. -/
def ackPdc (s : State) (n : Nat) (a : Ack) : State :=
  let p := getPdc s n
  let psns := (List.range (p.nextPsn - p.unaPsn).toNat).map fun i => p.unaPsn + BitVec.ofNat 32 i
  let s1 := settleUna (psns.foldl (ackOne a n) s) n
  let some_ := a.cum.isSome || !a.sel.isEmpty
  ccsigCount (modPdc s1 n fun p =>
    { p with
      credit := BitVec.ofNat 16 (min 65535 (p.credit.toNat + a.credit.toNat))
      ecncnt := if a.ecn then p.ecncnt + 1 else p.ecncnt
      ackCount := if some_ then p.ackCount + 1 else p.ackCount
      rttMin := if !some_ then p.rttMin else if p.ackCount = 0 then a.rtt else min p.rttMin a.rtt
      rttLast := if some_ then a.rtt else p.rttLast }) n

/-- What the answers of a receiver reach: the PDC of their identity, unless it has FAILED. -/
def answeredPdc (s : State) (h : Header) (loop : Bool) : State × Option Nat :=
  match admitHeader s h loop 0 with
  | (s1, none) => (s1, none)
  | (s1, some peer) =>
    match findPdc s1 h.ctx peer h.mode with
    | some n => if (getPdc s1 n).state = pdcFailed then (s1, none) else (s1, some n)
    | none => (s1, none)

/-- R54, R59: an acknowledgement arrives. -/
def evAckReceived (st : State) : State := 
  match arrivalOf st with
  | (s, .ack a, loop) =>
    match answeredPdc s a.hd loop with
    | (s1, some n) => ackPdc s1 n a
    | (s1, none) => s1
  | _ => st

/-- R54, R59: one such event. -/
def execAckReceived (st : State) : Host.Outcome State Fault Refusal := .next (evAckReceived st)

/-- The stream ID of a packet (R69, R70). -/
def streamOf (p : Packet) : Nat :=
  match p.verb with
  | .tagged => bitsOf p.key.toNat 63 40
  | .write => if bitsOf p.key.toNat 31 24 = 0 then bitsOf p.key.toNat 23 0 else 0
  | _ => 0

/-- Receiver-not-ready: the backoff doubles up to 256 µs, and the first of an episode posts PARKED (R57). -/
def parkPsn (s : State) (n : Nat) (psn : BitVec 32) (x : Sent) : State :=
  let b := if x.backoff = 0 then 4 else min 256 (2 * x.backoff)
  let parked := (getPdc s n).parking
  let s1 := modPdc s n fun p =>
    { p with
      sent := tblSet none p.sent psn.toNat (some { x with backoff := b, retryAt := some (now s + 1000 * b) })
      parking := true }
  if parked then s1 else postPdc s1 n 12 psn 1 0 (BitVec.ofNat 64 (streamOf x.pkt))

/-- The fault of a refused packet (R98, R244, R415): a window access names window, peer and right, a chunk the PDC. -/
def refusedTrap (p : Pdc) (n : Nat) (x : Sent) (win right : Nat) : TrapInfo :=
  match x.carry with
  | .chunk .. => remoteTrap n
  | .access .. => remoteTrap (win % 256 + p.peer.toNat * 256 + right % 16 * 2 ^ 24)

/-- A packet refused at its receiver ends; on ROD it was accepted, which ends a parking episode (R53, R57, R415). -/
def refusePsn (s : State) (n : Nat) (psn : BitVec 32) (x : Sent) (win right : Nat) : State :=
  let p := getPdc s n
  let s1 := match x.carry with
    | .access key id =>
      match (getCell s key).accesses.find? fun a => a.id == id with
      | some a => noteRefused s key a
      | none => s
    | .chunk .. => s
  let s2 := settleUna (endPsn s1 n psn x none (some (refusedTrap p n x win right))) n
  if p.mode = 1 then modPdc s2 n fun p => { p with parking := false } else s2

/-- A NACK reaches the sender's PDC (R55, R57, R415). -/
def nackPdc (s : State) (n : Nat) (psn : BitVec 32) (port reason win right : Nat) : State :=
  let p := getPdc s n
  let aux := if 1 ≤ reason ∧ reason ≤ 5 then reason else 0xFF
  if reason = 3 then
    match outstanding p psn with
    | some x => parkPsn s n psn x
    | none => s
  else if reason = 1 then postPdc s n 3 psn 1 port 0
  else
    let s1 := postPdc s n 2 psn 1 port (BitVec.ofNat 64 aux)
    if reason = 5 then
      match outstanding p psn with
      | some x => refusePsn s1 n psn x win right
      | none => s1
    else s1

/-- R55, R57, R415: a NACK arrives. -/
def evNackReceived (st : State) : State := 
  match arrivalOf st with
  | (s, .nack h reason win right, loop) =>
    match answeredPdc s h loop with
    | (s1, some n) => nackPdc s1 n h.psn (arrivalPort h loop) reason win right
    | (s1, none) => s1
  | _ => st

/-- R55, R57, R415: one such event. -/
def execNackReceived (st : State) : Host.Outcome State Fault Refusal := .next (evNackReceived st)

/-- R53: the acknowledgements that a PDC has gathered have waited 1 µs. -/
def evAckCoalesceTimeout (st : State) : State := 
  match st.input with
  | .num n => if (getPdc st n).ackSince + 1000 ≤ now st then flushAcks st n else st
  | _ => st

/-- R53: one such event. -/
def execAckCoalesceTimeout (st : State) : Host.Outcome State Fault Refusal := .next (evAckCoalesceTimeout st)

/-- R59: CCUS µs have passed on a PDC with something acknowledged. -/
def evCcsigTimer (st : State) : State := 
  match st.input with
  | .num n =>
    let p := getPdc st n
    if p.ccus ≠ 0 ∧ p.ackCount ≠ 0 ∧ p.ccsigAt + 1000 * p.ccus.toNat ≤ now st then
      postPdc st n 4 0 p.ecncnt.toNat 0 (ccsigAux p)
    else st
  | _ => st

/-- R59: one such event. -/
def execCcsigTimer (st : State) : Host.Outcome State Fault Refusal := .next (evCcsigTimer st)

/-! ### Closing (R46) -/

/-- A PDC enters QUIESCE and begins the close exchange. -/
def quiescePdc (s : State) (n : Nat) : State :=
  let s1 := modPdc s n fun p => { p with state := pdcQuiesce, closeAt := now s + 2000 * (peerRtomax p.entry).toNat }
  sendBody s1 n .closeRequest

/-- Does a cell hold a window access that has not been sent on the PDC of its identity? -/
def accessQueued (p : Pdc) (c : Cell) : Bool :=
  BitVec.ofNat 12 c.ctx == p.ctx && p.mode == 1 && c.accesses.any fun a => a.answered.isNone && match a.place with
    | .window peer _ _ sent => !sent && BitVec.ofNat 16 peer == p.peer
    | _ => false

/-- Has a PDC nothing in flight and nothing queued: no packet of an operation that has reached it waits under R47 either? -/
def pdcIdle (s : State) (p : Pdc) : Bool :=
  p.sent.isEmpty && p.retx.isEmpty && p.outbox.isEmpty && p.acks.isEmpty
    && !(p.reached.any fun e => (reachedOp s e).isSome) && !(s.cells.any fun e => accessQueued p e.2)

/-- R46: an OPEN PDC has had nothing in flight or queued for 1 ms. -/
def evPdcIdleTimeout (st : State) : State := 
  match st.input with
  | .num n =>
    let p := getPdc st n
    if p.state = pdcOpen ∧ pdcIdle st p ∧ p.lastUse + 1000000 ≤ now st then quiescePdc st n else st
  | _ => st

/-- R46: one such event. -/
def execPdcIdleTimeout (st : State) : Host.Outcome State Fault Refusal := .next (evPdcIdleTimeout st)

/-- R46: the close exchange of a PDC has found no answer within 2 × RTOMAX. -/
def evPdcCloseTimeout (st : State) : State := 
  match st.input with
  | .num n =>
    let p := getPdc st n
    if p.state = pdcQuiesce ∧ p.closeAt ≤ now st then closePdc st n else st
  | _ => st

/-- R46: one such event. -/
def execPdcCloseTimeout (st : State) : Host.Outcome State Fault Refusal := .next (evPdcCloseTimeout st)

/-- R46: the peer acknowledges the close. -/
def evPdcCloseAckReceived (st : State) : State := 
  match arrivalOf st with
  | (s, .closeAck h, loop) =>
    match answeredPdc s h loop with
    | (s1, some n) => if (getPdc s1 n).state = pdcQuiesce then closePdc s1 n else s1
    | (s1, none) => s1
  | _ => st

/-- R46: one such event. -/
def execPdcCloseAckReceived (st : State) : Host.Outcome State Fault Refusal := .next (evPdcCloseAckReceived st)

/-- A peer closes its side of an identity: what this side has received from it is over, and the close is answered. -/
def closeReceived (s : State) (n : Nat) : State :=
  sendBody (modPdc s n fun p => { p with rxOpen := false, kept := [], acks := [] }) n .closeAck

/-- R46: a peer's close request arrives and is answered on the PDC of its identity, which opens when none is open (R53). -/
def evPdcCloseRequestReceived (st : State) : State := 
  match arrivalOf st with
  | (s, .close h, loop) =>
    match admitHeader s h loop 0 with
    | (s1, none) => s1
    | (s1, some peer) =>
      match receiverPdc s1 h peer with
      | (s2, some n) => closeReceived s2 n
      | (s2, none) => s2
  | _ => st

/-- R46: one such event. -/
def execPdcCloseRequestReceived (st : State) : Host.Outcome State Fault Refusal := .next (evPdcCloseRequestReceived st)

/-! ### Ports and epochs (R23, R42, R50, R63) -/

/-- Post a record to every Virga core of the package. -/
def postAll (s : State) (r : EventRec) : State := foldIndex (fun s n => postCore s n r) s 0 8

/-- PTP after an Ethernet port has lost its light: if it followed that one, the rate is held (R36). -/
def holdPtp (port : Nat) (p : Package) : Package :=
  if p.ptp = .follow ∧ p.ptpPort.toNat = port then { p with ptp := .hold } else p

/-- Light is lost on a port (R50): the admitted bit goes, what is queued for egress is discarded, LOS is posted. -/
def losePort (s : State) (port : Nat) : State :=
  let frames := tblGet [] s.net.egress port
  let s1 := modPort s port fun _ => ⟨false, false⟩
  let s2 := frames.foldl frameGone { s1 with net := { s1.net with egress := tblSet [] s1.net.egress port [] } }
  settlePaths (postAll { s2 with pkg := holdPtp port s2.pkg } (plainRecord s 5 none port 0))

/-- R50: light is lost on an Ethernet port that is up. -/
def evLossOfLight (st : State) : State := 
  match st.input with
  | .num port => if (getPort st port).up && decide (port < 128) then losePort st port else st
  | _ => st

/-- R50: one such event. -/
def execLossOfLight (st : State) : Host.Outcome State Fault Refusal := .next (evLossOfLight st)

/-- R23: an Ethernet port whose light has returned finishes retraining; no path set takes it back (R52). -/
def evLinkRetrained (st : State) : State := 
  match st.input with
  | .num port =>
    if !(getPort st port).up && decide (port < 128) && decide (5 < st.pkg.phase) then
      postCore (modPort st port fun p => { p with up := true }) (port / 16) (plainRecord st 6 none port 0)
    else st
  | _ => st

/-- R23: one such event. -/
def execLinkRetrained (st : State) : Host.Outcome State Fault Refusal := .next (evLinkRetrained st)

/-- R42: a port receives a PAUSE or priority flow control frame, which is counted and discarded. -/
def evPauseFrameReceived (st : State) : State := 
  match st.input with
  | .num port =>
    if (getPort st port).up && decide (port < 128) then
      countError (countSource st (0x2000 + port) (Config.frameBytes 0)) (portDie port)
    else st
  | _ => st

/-- R42: one such event. -/
def execPauseFrameReceived (st : State) : Host.Outcome State Fault Refusal := .next (evPauseFrameReceived st)

/-- A domain after its switch: the epoch before is accepted for a while yet, and what earlier switches left goes on (R63). -/
def switchedDomain (d : Domain) (e : BitVec 16) (t : Nat) : Domain :=
  ⟨e, none, (d.epoch, t) :: d.old.filter (fun x => x.1 != d.epoch), d.ended.filter fun x => x.1 != d.epoch⟩

/-- The switch of a domain to its next epoch (R63): every Virga core that owns a PDC of the domain learns of it. -/
def switchEpoch (s : State) (dom : Nat) (e : BitVec 16) (t : BitVec 64) : State :=
  let s1 := modDomain s dom fun d => switchedDomain d e t.toNat
  let owns := fun (core : Nat) => (tblFind (fun n p => p.state != 0 && p.sdom.toNat == dom && pdcOwner n == core) s.net.pdcs).isSome
  let r := plainRecord s1 11 none 0 (BitVec.ofNat 64 (dom + 256 * e.toNat))
  foldIndex (fun s core => if owns core then postCore s core r else s) s1 0 8

/-- R63: GTIME reaches the switch time of a domain. -/
def evKeyEpochSwitch (st : State) : State := 
  match st.input with
  | .num dom =>
    match (getDomain st dom).next with
    | some (e, t) => if t.ule st.pkg.gtime then switchEpoch st dom e t else st
    | none => st
  | _ => st

/-- R63: one such event. -/
def execKeyEpochSwitch (st : State) : Host.Outcome State Fault Refusal := .next (evKeyEpochSwitch st)

/-- The old epochs of a domain that are over for a peer, 2 × RTOMAX after the switch away from each (R63). -/
def epochsOver (s : State) (dom peer : Nat) : List (BitVec 16 × Nat) :=
  let d := getDomain s dom
  let over_ := d.old.filter fun x =>
    decide (x.2 + 2000 * (peerRtomax (getPeer s peer)).toNat ≤ now s) && !d.ended.contains (x.1, peer)
  over_.map fun x => (x.1, peer)

/-- R63: 2 × RTOMAX after a switch of a domain, the old epoch of a peer is over. -/
def evKeyEpochGraceEnd (st : State) : State := 
  match st.input with
  | .pair dom peer =>
    if (peerSdom (getPeer st peer)).toNat = dom then
      modDomain st dom fun d => { d with ended := d.ended ++ epochsOver st dom peer }
    else st
  | _ => st

/-- R63: one such event. -/
def execKeyEpochGraceEnd (st : State) : Host.Outcome State Fault Refusal := .next (evKeyEpochGraceEnd st)

end Sys2Proof.Machine
end

