-- ==== Sys2Proof/Machine/Delivery.lean ====
section
/-!
DEFINITION. Sys2Proof/Machine/Delivery.lean: tensor delivery (R69 to R93): arrival, placement and reduction, tile production,
and the operations of RCBSET
-/
namespace Sys2Proof.Machine

/-! ### Placement (R77, R79, R83, R84, R88) -/

/-- Who places: the home IO die, in the RCB's context and in the near space of its consumer. -/
def rcbAgent (b : Rcb) (key : Nat) : Agent := ⟨key, rcbCtx b, false, 0, .direct, []⟩

/-- An Anvil reduction of codes of w bits (R88); for an element width that the operation does not have no rule states the
result (log 13). -/
def anvilCode (rop w old pay : Nat) : Nat :=
  let r : Nat × Nat := match rop with
    | 0 => (32, planeSum 2 old pay)
    | 1 => (16, planeSum 3 (old % 65536) (pay % 65536) % 65536)
    | 2 => (32, (minMaxCode .f32 false true old pay).code)
    | _ => (32, planeSum 1 old pay)
  if r.1 = w then r.2 else Config.unstated 88 (rop + 4 * (w + 64 * (old + 2 ^ 32 * pay))) % 2 ^ w

/-- The element that stands at an inside place, and is it poisoned: the operand of a reduction. -/
def oldElem (s : State) (ag : Agent) (d : Desc) (a : Int) (upper : Bool) : State × Except TrapInfo (Nat × Bool) :=
  let n := max 1 (dBits d / 8)
  let half := fun (v : Nat) => if dFmt d = 12 then (if upper then v / 16 else v % 16) else v
  if dSpace d = 0 then
    match nearRun s ag.key a n .engineWrite n with
    | .error t => (s, .error t)
    | .ok l =>
      (s, .ok (half (ofBytes (l.map fun p => nearByte (getCell s p.1) p.2.1 p.2.2)),
        l.any fun p => nearPoisoned (getCell s p.1) p.2.1 p.2.2 1))
  else
    match virtRun s ag .write a n with
    | (s1, .error t) => (s1, .error t)
    | (s1, .ok l) =>
      (s1, .ok (half (ofBytes (l.map fun p => physByte s1 p.1)), l.any fun p => physPoisoned s1 p.1 1))

/-- Place one element: written, or reduced into what stands there; REDUCE leaves a poisoned word as it is (R83). -/
def placeElem (s : State) (ag : Agent) (d : Desc) (x : Coord) (rop : Option Nat) (v : Nat) : State × Except TrapInfo Unit :=
  match rop with
  | none => writeElem s ag d x v false
  | some r =>
    let y := wrapCoord d x
    if !coordInside d y then (s, .ok ())
    else
      match oldElem s ag d (elemAddr d y).1 (elemAddr d y).2 with
      | (s1, .error t) => (s1, .error t)
      | (s1, .ok (old, bad)) => if bad then (s1, .ok ()) else writeElem s1 ag d x (anvilCode r (dBits d) old v) false

/-- The code of element e of a payload. -/
def payloadCode (w : Nat) (bs : List Byte) (e : Nat) : Nat :=
  if w = 4 then
    let v := (bs.getD (e / 2) 0).toNat
    if e % 2 = 1 then v / 16 else v % 16
  else ofBytes ((bs.drop (e * (w / 8))).take (w / 8))

/-- Place elements e, e + 1, … of chunk c, up to the first fault: elements outside the logical extent take the pad value
when PADFILL is 1 and are left otherwise (R79); without a payload only the pads are written (R78). -/
def placeRun (s : State) (b : Rcb) (key c : Nat) (bs : Option (List Byte)) (e : Nat) : Nat → State × Option TrapInfo
  | 0 => (s, none)
  | n + 1 =>
    let x := rcbCoord b c e
    let rop := if rcbReduce b then some (rcbRop b) else none
    let go := fun (rop : Option Nat) (v : Nat) =>
      match placeElem s (rcbAgent b key) b.desc x rop v with
      | (s1, .error t) => (s1, some t)
      | (s1, .ok _) => placeRun s1 b key c bs (e + 1) n
    if rcbOutside b x then (if rcbPadfill b then go none (dPad b.desc) else placeRun s b key c bs (e + 1) n)
    else
      match bs with
      | some p => go rop (payloadCode (dBits b.desc) p e)
      | none => placeRun s b key c bs (e + 1) n

/-- Place a chunk, or with no payload the pads of a clipped one. -/
def placeChunk (s : State) (b : Rcb) (key c : Nat) (bs : Option (List Byte)) : State × Option TrapInfo :=
  placeRun s b key c bs 0 (rcbChunkElems b)

/-! ### Tile production and faults (R83, R85, R86) -/

/-- A trap as it is recorded against RCB i (R242). -/
def rcbTrap (i : Nat) (t : TrapInfo) : TrapInfo := { t with engine := true, src := 3, opid := BitVec.ofNat 16 i }

/-- RCB i takes STATE FAULTED, and CTX_FAULT goes to the host (R83, R85); the first fault stands. -/
def failRcb (s : State) (i : Nat) (t : TrapInfo) : State :=
  let b := getRcb s i
  if b.state = 3 then s
  else
    postHost (modRcb s i fun b => { b with state := 3, fcause := t.cause })
      ⟨0x0001, BitVec.ofNat 16 t.cause.toNat, some (rcbCtx b),
        ctxFaultBody b.core.toNat b.team b.cell 0 t.addr (trapAux (rcbTrap i t))⟩

/-- The record of a tile (R85). -/
def tileRecord (b : Rcb) (i t : Nat) : List Byte :=
  let o := rcbTileOrigin b t
  toBytes (lowBits o.x0 16) 2 ++ toBytes (lowBits o.x1 16) 2 ++ toBytes (lowBits o.x2 16) 2 ++ toBytes (lowBits o.x3 16) 2
    ++ toBytes t 4 ++ toBytes (rcbStream b i) 3 ++ toBytes (bit01 (rcbTileClipped b t)) 1

/-- Try to produce one entry; none while it must wait for room or for its consumer. -/
def produceTile (s : State) (e : Production) : Option State :=
  let b := getRcb s e.rcb
  match rcbReady s b with
  | none => none
  | some k =>
    let n := rcbRing b
    let r := getRing (getCell s k) n
    if r.kind ≠ 2 then some (failRcb s e.rcb (engTrap causeRing 0 n))
    else if ringNoRoom r then none
    else
      let bs := (tileRecord b e.rcb e.tile).take r.slotSz
      if banksAdmit (getCell s k) (slotAddr r r.wp) bs.length .engineWrite then
        let s1 := modCell s k fun c => produceSlot c n bs (e.trap.map fun t => ⟨none, t⟩)
        some (if e.trap.isNone then modRcb s1 e.rcb fun b => { b with tpend := b.tpend - 1 } else s1)
      else some (failRcb s e.rcb (slotTrap r))

/-- Do two RCBs produce into one ring? -/
def sameRing (b c : Rcb) : Bool :=
  rcbCtx b == rcbCtx c && b.team == c.team && b.cell == c.cell && rcbRing b == rcbRing c

/-- Does an earlier completion for the ring of an RCB wait in its home's queue? -/
def ringWaits (s : State) (i : Nat) (l : List Production) : Bool :=
  l.any fun e => rcbHome e.rcb == rcbHome i && sameRing (getRcb s e.rcb) (getRcb s i)

/-- Entries in a home's production queue. -/
def queuedAt (s : State) (home : Nat) : Nat := (s.net.prod.filter fun e => rcbHome e.rcb == home).length

/-- Produce a slot, or queue it (R86). The 8,192 entries of the queue bind arrivals: a tile that is complete at open, a faulted
slot or the list of an import is queued past them, on which the spec is silent (DESIGN CHOICE, log 34). -/
def emitTile (s : State) (e : Production) : State :=
  let queue := { s with net := { s.net with prod := s.net.prod ++ [e] } }
  if ringWaits s e.rcb s.net.prod then queue else (produceTile s e).getD queue

/-- A tile is complete (R85): TPEND falls as its slot is produced, or at once where there is no ring. -/
def completeTile (s : State) (i t : Nat) : State :=
  if rcbNoring (getRcb s i) then modRcb s i fun b => { b with tpend := b.tpend - 1 } else emitTile s ⟨i, t, none⟩

/-- A placement fault of RCB i at a tile (R83). -/
def faultPlacement (s : State) (i tile : Nat) (t : TrapInfo) : State :=
  if (getRcb s i).state = 3 then s
  else
    let s1 := failRcb s i t
    if rcbNoring (getRcb s i) then s1 else emitTile s1 ⟨i, tile, some (rcbTrap i t)⟩

/-- Every chunk of an RCB is complete: DONE, and RCBDONE to a Virga core (log 11). -/
def finishRcb (s : State) (i : Nat) : State :=
  let b := getRcb s i
  if b.state = 1 ∧ b.pend = 0 then
    postCore (modRcb s i fun b => { b with state := 2 }) (Config.recordCore 8 i % 8)
      (plainRecord s 8 (some (BitVec.ofNat 12 (rcbCtx b))) 0 (BitVec.ofNat 64 (rcbStream b i)))
  else s

/-- Write the pads of the clipped chunks of RCB i into a consumer that has become ready (R78). -/
def settlePads (s : State) (i : Nat) : State :=
  let b := getRcb s i
  match rcbReady s b with
  | none => s
  | some k =>
    if !b.padLater then s
    else
      foldIndex (fun s c =>
        if rcbClipped b c then
          match placeChunk s b k c none with
          | (s1, none) => s1
          | (s1, some t) => faultPlacement s1 i (c / rcbCpt b) t
        else s) (modRcb s i fun b => { b with padLater := false }) 0 b.nchk

/-- A cell has been placed: the RCBs that feed it learn its seat (R73), and pads that waited are written. -/
def rcbsPlaced (s : State) (k : Nat) : State :=
  let c := getCell s k
  s.net.rcbs.foldl (fun s e =>
    let b := getRcb s e.1
    if b.state != 0 && rcbCtx b == c.ctx && b.team == c.team && b.cell == c.cell then
      settlePads (modRcb s e.1 (rcbSeat s)) e.1
    else s) s

/-! ### Arrival (R70, R80 to R82) -/

/-- The number of an arrival bit. -/
def bitNo (b : Rcb) (c j : Nat) : Nat := c * rcbContribs b + j

/-- The wake condition of an RCB's ring (R148): 32 times the cell index plus the ring. -/
def ringWake (b : Rcb) : Wake := .rcb (b.cell * 32 + rcbRing b)

/-- An arrival refused because its consumer is swapped out wakes the team that waits on the RCB's ring (R82, R148). -/
def wakeConsumer (s : State) (b : Rcb) : State :=
  let k := teamKey (rcbCtx b) b.team
  if (getTeam s k).run = .swapped ∧ (getTeam s k).wakes.contains (ringWake b) then wakeTeam s k else s

/-- Receiver-not-ready, counted (R123, class 10). -/
def answerParked (s : State) (i : Nat) : State × Answer := (countSource s (0xA000 + rcbHome i) 1, .nack 3 0 0)

/-- What a chunk brings: stream ID, contributor, chunk index by the chunk size, payload, PSN, arrival port. -/
structure Chunk where
  sid : Nat
  contrib : Nat
  index : Nat → Nat
  data : List Byte
  psn : BitVec 32
  port : Nat

/-- A copy of a chunk that is already placed (R80, R81). -/
def dropDuplicate (s : State) (n i c : Nat) (x : Chunk) : State × Answer :=
  let s1 := modRcb s i fun b => { b with dups := if b.dups = 0xFFFFFF then b.dups else b.dups + 1 }
  let aux := BitVec.ofNat 64 (x.sid % 2 ^ 24 + c * 2 ^ 24 + x.contrib * 2 ^ 48)
  (postPdc (countSource s1 (0x5000 + rcbHome i) 1) n 7 x.psn 1 x.port aux, .ack none)

/-- Chunk c of RCB i has been placed for its last contributor (R80). -/
def completeChunk (s : State) (i c : Nat) : State :=
  let t := c / rcbCpt (getRcb s i)
  let s1 := modRcb s i fun b =>
    { b with pend := b.pend - 1, counters := tblSet 0 b.counters t (tblGet 0 b.counters t + 1) }
  let s2 := if tblGet 0 (getRcb s1 i).counters t = rcbCpt (getRcb s1 i) then completeTile s1 i t else s1
  finishRcb s2 i

/-- Claim and place a chunk that no test refused (R80, R83, R86). -/
def claimChunk (s : State) (i key c : Nat) (x : Chunk) : State × Answer :=
  let b := getRcb s i
  let whole := allIndex (fun j => j == x.contrib || tblGet false b.bitmap (bitNo b c j)) 0 (rcbContribs b)
  let last := whole && tblGet 0 b.counters (c / rcbCpt b) + 1 == rcbCpt b
  if last && decide (8192 ≤ queuedAt s (rcbHome i)) then answerParked s i
  else
    match placeChunk s b key c (some x.data) with
    | (s1, some t) => (faultPlacement s1 i (c / rcbCpt b) t, .nack 5 0 0)
    | (s1, none) =>
      let s2 := modRcb s1 i fun b => { b with bitmap := tblSet false b.bitmap (bitNo b c x.contrib) true }
      (if whole then completeChunk s2 i c else s2, .ack none)

/-- The handling of R80, on the receiver's PDC n. -/
def arriveChunk (s : State) (n : Nat) (x : Chunk) : State × Answer :=
  let i := x.sid % 2 ^ 14
  let b := getRcb s i
  let c := x.index (chunkBytes (rcbChsz b))
  if b.state = 0 ∨ b.gen.toNat ≠ bitsOf x.sid 23 14 then (s, .nack 4 0 0)
  else if b.state = 3 then (s, .nack 5 0 0)
  else if b.state = 4 then answerParked s i
  else if !bitOf (rcbModes b) (getPdc s n).mode.toNat ∨ rcbContribs b ≤ x.contrib ∨ b.nchk ≤ c
      ∨ x.data.length ≠ chunkBytes (rcbChsz b) then (s, .nack 5 0 0)
  else
    match rcbReady s b with
    | none => answerParked (wakeConsumer s b) i
    | some key =>
      let s1 := modPdc s n fun p => { p with feeds := if p.feeds.contains i then p.feeds else p.feeds ++ [i] }
      if tblGet false b.bitmap (bitNo b c x.contrib) then dropDuplicate s1 n i c x
      else claimChunk (settlePads s1 i) i key c x

/-- An RMA write that is not of kind window: one of kind stream is handled, another is refused (R69). -/
def arriveWrite (s : State) (n : Nat) (p : Packet) (port : Nat) : State × Answer :=
  let key := p.key.toNat
  let off := p.off.toNat
  if 2 ^ 24 ≤ key ∨ 2 ^ 28 ≤ off then (s, .nack 5 0 0)
  else arriveChunk s n ⟨key, bitsOf off 27 24, fun _ => bitsOf off 23 0, p.data, p.hd.psn, port⟩

/-- Is an RMA key of kind window (R69)? -/
def kindWindow (p : Packet) : Bool := bitsOf p.key.toNat 63 24 == 1

/-- R80: an RMA write arrives that is not of kind window. -/
def evRmaWriteStreamArrival (st : State) : State := 
  match arrivalOf st with
  | (s, .packet p, loop) =>
    if p.verb = .write ∧ !kindWindow p then receiveData s loop p fun s n => arriveWrite s n p (arrivalPort p.hd loop) else st
  | _ => st

/-- R80: one such event. -/
def execRmaWriteStreamArrival (st : State) : Host.Outcome State Fault Refusal := .next (evRmaWriteStreamArrival st)

/-- A packet of a tagged send (R70). -/
def arriveTagged (s : State) (n : Nat) (p : Packet) (port : Nat) : State × Answer :=
  let tag := p.key.toNat
  if bitsOf tag 35 24 ≠ 0 then (s, .nack 5 0 0)
  else
    arriveChunk s n ⟨bitsOf tag 63 40, bitsOf tag 39 36, fun size => bitsOf tag 23 0 + p.off.toNat / size, p.data, p.hd.psn,
      port⟩

/-- R70: a packet of a tagged send arrives. -/
def evTaggedSendArrival (st : State) : State := 
  match arrivalOf st with
  | (s, .packet p, loop) =>
    if p.verb = .tagged then receiveData s loop p fun s n => arriveTagged s n p (arrivalPort p.hd loop) else st
  | _ => st

/-- R70: one such event. -/
def execTaggedSendArrival (st : State) : Host.Outcome State Fault Refusal := .next (evTaggedSendArrival st)

/-- Produce the first entry of a home's queue that can be, in the order of each ring. -/
def drainProduction (s : State) (home : Nat) : List Production → List Production → State
  | _, [] => s
  | before, e :: rest =>
    let try_ := rcbHome e.rcb == home && !ringWaits s e.rcb before
    match (if try_ then produceTile s e else none) with
    | some s1 => { s1 with net := { s1.net with prod := before ++ rest } }
    | none => drainProduction s home (before ++ [e]) rest

/-- R86: a completion that waits in a home's production queue is produced. -/
def evProductionQueueDrain (st : State) : State := 
  match st.input with
  | .num home => drainProduction st home [] st.net.prod
  | _ => st

/-- R86: one such event. -/
def execProductionQueueDrain (st : State) : Host.Outcome State Fault Refusal := .next (evProductionQueueDrain st)

/-! ### RCBSET (R74 to R76, R93) -/

/-- The descriptor that a handle names in a context, read for the device (R182, R431). -/
def readDesc (s : State) (ctx : Nat) (h : BitVec 32) : State × Option Desc :=
  let slot := h.toNat % 4096
  let va := tdAddr s ctx slot
  let x := translate s .direct ctx va .read false false
  let s1 := x.eff s
  match x.res with
  | .error _ => (s1, none)
  | .ok l =>
    let pa := leafPa l va
    let d := BitVec.ofNat 512 (ofBytes (physBytes s1 pa 64))
    (s1, if physPoisoned s1 pa 64 || !handleGood h d then none else some d)

/-- Are TSHAPE, TCOUNT and LEXT 1, 1 and 0 above the descriptor's rank? -/
def rcbRankGood (b : Rcb) : Bool :=
  allIndex (fun i => decide (i < dRank b.desc) || (rcbTshape b i == 1 && rcbTcount b i == 1 && rcbLext b i == 0)) 0 4

/-- The geometry is refused with code 3 of R75. -/
def rcbShapeBad (b : Rcb) : Bool :=
  (List.range 4).any (fun i => rcbTshape b i == 0 || rcbTcount b i == 0) || !orderGood (rcbOrder b)
    || decide (8 * 262144 < rcbTileBits b) || (rcbChsz b != 3 && rcbTileBits b % (8 * chunkBytes (rcbChsz b)) != 0)
    || (rcbChsz b != 3 && decide (16777215 < rcbTiles b * rcbCpt b)) || !rcbRankGood b

/-- The modes are refused with code 4. -/
def rcbModeBad (b : Rcb) : Bool :=
  rcbChsz b == 3 || (rcbReduce b && (decide (3 < rcbRop b) || rcbPadfill b)) || (!rcbReduce b && rcbContribs b != 1)
    || rcbModes b == 0

/-- Does the allocation run past the store, or overlap that of another RCB that is not FREE (code 5)? -/
def rcbAllocBad (s : State) (i : Nat) (b : Rcb) : Bool :=
  decide (8388608 < rcbBase b + rcbAllocBytes b) ||
    (tblFind (fun j c => c.state != 0 && j != i && rcbHome j == rcbHome i
      && rangesMeet (rcbBase b) (rcbAllocBytes b) (rcbBase c) (rcbAllocBytes c)) s.net.rcbs).isSome

/-- The RCB of an image before its arrival state (R74): steps 1 to 4. -/
def rcbOfImage (s : State) (i : Nat) (image : BitVec 512) (d : Desc) (team cell : Nat) : Rcb :=
  let b : Rcb := { rcbEmpty with image := image &&& rcbRwMask, gen := (getRcb s i).gen, desc := d, team := team, cell := cell }
  rcbSeat s { b with
    nchk := rcbTiles b * rcbCpt b
    tpend := rcbTiles b
    closedAt := (getRcb s i).closedAt }

/-- Why an open is refused (R75). -/
def openRefusal (s : State) (i : Nat) (b : Rcb) (d : Option Desc) : Option Nat :=
  if (getRcb s i).state ≠ 0 then some 1
  else
    match d with
    | none => some 2
    | some d =>
      if 1 < dSpace d then some 2
      else if rcbShapeBad b then some 3
      else if rcbModeBad b then some 4
      else if rcbAllocBad s i b then some 5
      else none

/-- Pre-mark the clipped chunks (R78). -/
def markClipped (b : Rcb) : Rcb :=
  foldIndex (fun b c =>
    if rcbClipped b c then
      let t := c / rcbCpt b
      { b with
        bitmap := foldIndex (fun m j => tblSet false m (bitNo b c j) true) b.bitmap 0 (rcbContribs b)
        nclip := b.nclip + 1
        counters := tblSet 0 b.counters t (tblGet 0 b.counters t + 1) }
    else b) b 0 b.nchk

/-- Open RCB i (R74): the pads of clipped chunks are written, tiles that are wholly clipped are produced, and the RCB is left
OPEN even when every chunk is clipped (log 22). A destination in SPAD takes its pads when its consumer is ready (log 22). A pad
write that faults is taken as a placement fault of R83, and the command still completes, on which the spec is silent (DESIGN
CHOICE, log 22). -/
def openRcb (s : State) (i : Nat) (b : Rcb) : State :=
  let b1 := markClipped b
  let b2 := { b1 with pend := b1.nchk - b1.nclip, state := 1, padLater := rcbPadfill b1 && b1.nclip != 0 }
  let s1 := modRcb s i fun _ => b2
  let s2 := if dSpace b.desc = 0 then settlePads s1 i
    else if b2.padLater then
      foldIndex (fun s c =>
        if rcbClipped b2 c then
          match placeChunk s b2 0 c none with
          | (s1, none) => s1
          | (s1, some t) => faultPlacement s1 i (c / rcbCpt b2) t
        else s) (modRcb s1 i fun b => { b with padLater := false }) 0 b2.nchk
    else s1
  foldIndex (fun s t => if tblGet 0 b2.counters t = rcbCpt b2 then completeTile s i t else s) s2 0 (rcbTiles b2)

/-- Is an index within 1 ms of its last close (R76)? -/
def reopenWaits (s : State) (i : Nat) : Bool :=
  match (getRcb s i).closedAt with
  | some t => decide (now s < t + 1000000)
  | none => false

/-- The RCB index of a command. -/
def cmdRcb (c : Cmd) : Nat := cmdNat c.bytes 16 2

/-- RCBSET operation 0. -/
def rcbOpenCmd (s : State) (c : Cmd) : State :=
  let i := cmdRcb c
  let image := BitVec.ofNat 512 (physNat s (cmdNat c.bytes 24 8) 64)
  let (s1, d) := readDesc s (bitsOf image.toNat 228 217) (image.extractLsb' 480 32)
  let b := rcbOfImage s1 i image (d.getD 0) (cmdNat c.bytes 32 2) (cmdNat c.bytes 34 1)
  match openRefusal s1 i b d with
  | some code => cmdRefused s1 c code
  | none => if reopenWaits s1 i then s1 else cmdDone (openRcb s1 i b) c

/-- R74 to R76: RCBSET operation 0. -/
def evRcbsetOpen (st : State) : State :=  withCmd st 0x0A (some (18, 0)) (rcbOpenCmd st)

/-- R74 to R76: one such event. -/
def execRcbsetOpen (st : State) : Host.Outcome State Fault Refusal := .next (evRcbsetOpen st)

/-- Close RCB i (R76): what still waits to be produced for it goes. -/
def closeRcb (s : State) (i : Nat) : State :=
  let s1 := modRcb s i fun b => { b with state := 0, gen := b.gen + 1, closedAt := some (now s) }
  { s1 with net := { s1.net with prod := s1.net.prod.filter fun e => e.rcb != i } }

/-- R76: RCBSET operation 1. -/
def evRcbsetClose (st : State) : State :=  withCmd st 0x0A (some (18, 1)) fun c => cmdDone (closeRcb st (cmdRcb c)) c

/-- R76: one such event. -/
def execRcbsetClose (st : State) : Host.Outcome State Fault Refusal := .next (evRcbsetClose st)

/-- The allocation as bytes: bitmap, then 16-bit counters (R74). -/
def rcbAlloc (b : Rcb) : List Byte :=
  let bits := (List.range (rcbBitmapBytes b)).map fun k =>
    BitVec.ofNat 8 (maskOf (fun i => tblGet false b.bitmap (8 * k + i)) 8)
  bits ++ fitBytes ((List.range (rcbTiles b)).flatMap fun t => toBytes (tblGet 0 b.counters t) 2) (up64 (2 * rcbTiles b))

/-- The tiles of an RCB that wait in the production queue, in order. -/
def queuedTiles (s : State) (i : Nat) : List Nat := (s.net.prod.filter fun e => e.rcb == i).map Production.tile

/-- The bytes of an export (R93). -/
def exportBytes (s : State) (i : Nat) : List Byte :=
  let b := getRcb s i
  let l := queuedTiles s i
  toBytes (rcbWord b).toNat 64 ++ rcbAlloc b
    ++ fitBytes (toBytes l.length 4 ++ l.flatMap fun t => toBytes t 4) (up64 (4 + 4 * l.length))

/-- RCBSET operation 2. -/
def rcbExportCmd (s : State) (c : Cmd) : State :=
  let i := cmdRcb c
  let b := getRcb s i
  if !(b.state = 1 ∨ b.state = 2) ∨ (rcbReady s b).isSome then cmdRefused s c 6
  else
    let bs := exportBytes s i
    if cmdNat c.bytes 40 8 < bs.length then cmdRefused s c 7
    else
      let s1 := modRcb s i fun b => { b with state := 4 }
      let s2 := { s1 with net := { s1.net with prod := s1.net.prod.filter fun e => e.rcb != i } }
      cmdDone (deviceWrite s2 (cmdNat c.bytes 24 8) bs) c

/-- R93: RCBSET operation 2. -/
def evRcbsetExport (st : State) : State :=  withCmd st 0x0A (some (18, 2)) (rcbExportCmd st)

/-- R93: one such event. -/
def execRcbsetExport (st : State) : Host.Outcome State Fault Refusal := .next (evRcbsetExport st)

/-- Do the pads of an exported RCB's clipped chunks still wait for its consumer (R78, R93): they are for SPAD, and no chunk has
been placed; an export carries no mark of its own for it (DEDUCED, log 22). -/
def padsWait (b : Rcb) : Bool :=
  rcbPadfill b && b.nclip != 0 && dSpace b.desc == 0 && b.state == 1 && b.pend + b.nclip == b.nchk

/-- The RCB of an export at a physical address (R93): every field of the export, its bitmap and its counters. -/
def rcbOfExport (s : State) (i pa : Nat) (w : BitVec 512) (d : Desc) (team cell : Nat) : Rcb :=
  let f := fun (lo n : Nat) => (w.extractLsb' lo n).toNat
  let b0 : Rcb := { rcbEmpty with
    image := w &&& rcbRwMask
    state := if f 229 3 = 2 then 2 else 1
    core := w.extractLsb' 191 10
    slot := w.getLsbD 190
    gen := w.extractLsb' 175 10
    nchk := f 128 24
    pend := f 104 24
    nclip := f 80 24
    dups := w.extractLsb' 56 24
    tpend := f 32 24
    fcause := w.extractLsb' 24 8
    desc := d
    team := team
    cell := cell
    closedAt := (getRcb s i).closedAt }
  let bit := fun (k : Nat) => bitOf (physByte s (pa + 64 + k / 8)).toNat (k % 8)
  rcbSeat s { b0 with
    padLater := padsWait b0
    bitmap := foldIndex (fun m k => if bit k then tblSet false m k true else m) [] 0 (b0.nchk * rcbContribs b0)
    counters := foldIndex (fun m t => tblSet 0 m t (physNat s (pa + 64 + rcbBitmapBytes b0 + 2 * t) 2)) [] 0 (rcbTiles b0) }

/-- The tiles that an export lists (R93). -/
def exportTiles (s : State) (pa : Nat) (b : Rcb) : List Nat :=
  let at_ := pa + 64 + rcbAllocBytes b
  (List.range (physNat s at_ 4)).map fun k => physNat s (at_ + 4 + 4 * k) 4

/-- RCBSET operation 3. -/
def rcbImportCmd (s : State) (c : Cmd) : State :=
  let i := cmdRcb c
  let pa := cmdNat c.bytes 24 8
  let w := BitVec.ofNat 512 (physNat s pa 64)
  let (s1, d) := readDesc s (bitsOf w.toNat 228 217) (w.extractLsb' 480 32)
  let b := rcbOfExport s1 i pa w (d.getD 0) (cmdNat c.bytes 32 2) (cmdNat c.bytes 34 1)
  match openRefusal s1 i b d with
  | some code => cmdRefused s1 c code
  | none =>
    if reopenWaits s1 i then s1
    else
      let s2 := settlePads (modRcb s1 i fun _ => b) i
      cmdDone { s2 with net := { s2.net with prod := s2.net.prod ++ (exportTiles s1 pa b).map fun t => ⟨i, t, none⟩ } } c

/-- R93: RCBSET operation 3. -/
def evRcbsetImport (st : State) : State :=  withCmd st 0x0A (some (18, 3)) (rcbImportCmd st)

/-- R93: one such event. -/
def execRcbsetImport (st : State) : Host.Outcome State Fault Refusal := .next (evRcbsetImport st)

/-- R76: an RCBSET that waited for 1 ms after the last close of its index opens it. -/
def evRcbReopenDelayEnd (st : State) : State := 
  match st.input with
  | .pair q i =>
    match runningCmd st q (BitVec.ofNat 32 i) with
    | some c =>
      if cmdNat c.bytes 0 1 = 0x0A ∧ cmdNat c.bytes 18 1 = 0 then rcbOpenCmd st c
      else if cmdNat c.bytes 0 1 = 0x0A ∧ cmdNat c.bytes 18 1 = 3 then rcbImportCmd st c
      else st
    | none => st
  | _ => st

/-- R76: one such event. -/
def execRcbReopenDelayEnd (st : State) : Host.Outcome State Fault Refusal := .next (evRcbReopenDelayEnd st)

end Sys2Proof.Machine
end

