-- ==== Sys2Proof/Machine/Windows.lean ====
section
/-!
DEFINITION. Sys2Proof/Machine/Windows.lean: remote windows at the target (R95 to R102), peer entries, multicast lists and keys (R62, R91, R94, R119), path sets
(R48, R64)
-/
namespace Sys2Proof.Machine

/-! ### Checks (R97) -/

/-- BASEPN as a virtual address. -/
def winBase (w : Window) : Nat := (w.image.extractLsb' 220 36).toNat * 65536
/-- Bytes of a window. -/
def winBytes (w : Window) : Nat := (w.image.extractLsb' 200 20).toNat * 65536
/-- CTXID. -/
def winCtx (w : Window) : Nat := (w.image.extractLsb' 188 12).toNat
/-- RD. -/
def winRd (w : Window) : Bool := w.image.getLsbD 185
/-- WR. -/
def winWr (w : Window) : Bool := w.image.getLsbD 184
/-- AT. -/
def winAt (w : Window) : Bool := w.image.getLsbD 183
/-- PEERSEL. -/
def winPeersel (w : Window) : BitVec 16 := w.image.extractLsb' 128 16
/-- SDOM. -/
def winSdom (w : Window) : BitVec 8 := w.image.extractLsb' 56 8

/-- The window of an access. -/
def accWin (p : Packet) : Nat := p.key.toNat % 256

/-- Bytes of an atomic of R99: add I64 and compare-and-swap have 8. -/
def remoteSize (op : Nat) : Nat := if op = 1 ∨ op = 3 then 8 else 4

/-- Bytes of an access. -/
def accBytes (p : Packet) : Nat :=
  match p.verb with
  | .read => p.size
  | .atomic => if p.op < 4 then remoteSize p.op else p.size
  | _ => p.data.length

/-- The right code of an access (R97). -/
def rightCode (p : Packet) : Nat :=
  match p.verb with
  | .read => 1
  | .atomic => 4
  | _ => 2

/-- The kind of an access for the page check. -/
def accPageKind (p : Packet) : Kind :=
  match p.verb with
  | .read => .read
  | .atomic => .atomic
  | _ => .write

/-- The window's right for an access. -/
def winRight (w : Window) (p : Packet) : Bool :=
  match p.verb with
  | .read => winRd w
  | .atomic => winAt w
  | _ => winWr w

/-- Is an atomic one of R99, naturally aligned? -/
def atomicKnown (p : Packet) : Bool := decide (p.op < 4) && p.off.toNat % remoteSize p.op == 0

/-- Who accesses: the target itself, in the window's context. -/
def winAgent (w : Window) : Agent := ⟨0, winCtx w, false, 0, .direct, []⟩

/-- The checks of R97 in their order on PDC n: the places of the bytes, or the right code of the refusal. -/
def windowCheck (s : State) (n : Nat) (p : Packet) : State × Except Nat (List (Nat × BitVec 64)) :=
  let w := getWindow s (accWin p)
  let q := getPdc s n
  if w.state ≠ 1 then (s, .error (rightCode p))
  else if !(winPeersel w == 0xFFFF || winPeersel w == q.peer) || winSdom w != q.sdom then (s, .error (rightCode p))
  else if winBytes w < p.off.toNat + accBytes p then (s, .error (rightCode p))
  else if !winRight w p then (s, .error (rightCode p))
  else if p.verb == .atomic && !atomicKnown p then (s, .error 8)
  else
    match virtRun s (winAgent w) (accPageKind p) ((winBase w + p.off.toNat : Nat) : Int) (accBytes p) with
    | (s1, .error _) => (s1, .error (rightCode p))
    | (s1, .ok l) => (s1, .ok l)

/-- Refuse an access (R97): VIOLCNT saturates, VIOL goes to the owner of the PDC. -/
def refuseAccess (s : State) (n : Nat) (p : Packet) (right port : Nat) : State × Answer :=
  let s1 := modWindow s (accWin p) fun w => { w with violcnt := if w.violcnt = 0xFFFFFFFF then w.violcnt else w.violcnt + 1 }
  let aux := BitVec.ofNat 64 (accWin p + (getPdc s n).peer.toNat * 2 ^ 16 + right * 2 ^ 32)
  (postPdc s1 n 9 p.hd.psn 1 port aux, .nack 5 (accWin p) right)

/-- Have the key and offset of an access the form of R69? -/
def windowForm (p : Packet) : Bool :=
  kindWindow p && bitsOf p.key.toNat 23 8 == 0 && decide (p.off.toNat < 2 ^ 36)

/-! ### Performing (R99 to R101) -/

/-- The value that a read of places brings: what a poisoned one brings, no rule states (log 13). -/
def readPlaces (s : State) (l : List (Nat × BitVec 64)) : State × Answer :=
  if l.any fun p => physPoisoned s p.1 1 then
    ({ s with tick := s.tick + 1 }, .ack (some (BitVec.ofNat 64 (Config.unstated 96 s.tick))))
  else (s, .ack (some (BitVec.ofNat 64 (ofBytes (l.map fun p => physByte s p.1)))))

/-- The atomics of R99 as those of R346: add I32, I64 and F32, and compare-and-swap. -/
def remoteOp (op : Nat) : Nat := if op = 3 then 5 else op

/-- An atomic at its serialisation point (R99): the old value is its response. -/
def remoteAtomic (s : State) (pa : Nat) (p : Packet) : State × Answer :=
  let n := remoteSize p.op
  let old := physNat s pa n
  if physPoisoned s pa n then ({ s with tick := s.tick + 1 }, .ack (some (BitVec.ofNat 64 (Config.unstated 96 s.tick))))
  else
    (physWrite s pa (toBytes (amoNew (remoteOp p.op) old p.arg p.cmp) n) false noOwner, .ack (some (BitVec.ofNat 64 old)))

/-- An admitted access is performed. -/
def performWindow (s : State) (p : Packet) (l : List (Nat × BitVec 64)) : State × Answer :=
  match p.verb with
  | .read => readPlaces s l
  | .atomic =>
    match l with
    | (pa, _) :: _ => remoteAtomic s pa p
    | [] => (s, .ack none)
  | _ =>
    let w := getWindow s (accWin p)
    ((engWrite s (winAgent w) 1 ((winBase w + p.off.toNat : Nat) : Int) p.data false).1, .ack none)

/-- An access arrives at its window: it is admitted and performed at once, or refused whole (R97, R102). -/
def arriveAccess (s : State) (n : Nat) (p : Packet) (port : Nat) : State × Answer :=
  if !windowForm p then (s, .nack 5 0 0)
  else
    match windowCheck s n p with
    | (s1, .error right) => refuseAccess s1 n p right port
    | (s1, .ok l) => performWindow s1 p l

/-- R97: an RMA read arrives. -/
def evRemoteReadArrival (st : State) : State := 
  match arrivalOf st with
  | (s, .packet p, loop) =>
    if p.verb = .read then receiveData s loop p fun s n => arriveAccess s n p (arrivalPort p.hd loop) else st
  | _ => st

/-- R97: one such event. -/
def execRemoteReadArrival (st : State) : Host.Outcome State Fault Refusal := .next (evRemoteReadArrival st)

/-- R97: an RMA write of kind window arrives. -/
def evRemoteWriteArrival (st : State) : State := 
  match arrivalOf st with
  | (s, .packet p, loop) =>
    if p.verb = .write ∧ kindWindow p then receiveData s loop p fun s n => arriveAccess s n p (arrivalPort p.hd loop) else st
  | _ => st

/-- R97: one such event. -/
def execRemoteWriteArrival (st : State) : Host.Outcome State Fault Refusal := .next (evRemoteWriteArrival st)

/-- R97, R99: an atomic arrives. -/
def evRemoteAtomicArrival (st : State) : State := 
  match arrivalOf st with
  | (s, .packet p, loop) =>
    if p.verb = .atomic then receiveData s loop p fun s n => arriveAccess s n p (arrivalPort p.hd loop) else st
  | _ => st

/-- R97, R99: one such event. -/
def execRemoteAtomicArrival (st : State) : Host.Outcome State Fault Refusal := .next (evRemoteAtomicArrival st)

/-! ### WINSET and WINREVOKE (R95, R102) -/

/-- The window of a command. -/
def cmdWin (c : Cmd) : Nat := cmdNat c.bytes 16 1

/-- WINSET: a FREE entry takes the RW fields and opens; another is refused, with a code that no rule states (log 13). -/
def winsetCmd (s : State) (c : Cmd) : State :=
  let n := cmdWin c
  if (getWindow s n).state ≠ 0 then cmdRefused { s with tick := s.tick + 1 } c (Config.unstated 95 s.tick % 256)
  else
    let image := BitVec.ofNat 256 (physNat s (cmdNat c.bytes 24 8) 32)
    cmdDone (modWindow s n fun w => { w with image := image &&& windowRwMask, state := 1 }) c

/-- R95: WINSET. -/
def evWinset (st : State) : State :=  withCmd st 0x0D none (winsetCmd st)

/-- R95: one such event. -/
def execWinset (st : State) : Host.Outcome State Fault Refusal := .next (evWinset st)

/-- WINREVOKE: an OPEN window is CLOSING, and the command waits until it is FREE; a FREE one is there already. -/
def winrevokeCmd (s : State) (c : Cmd) : State :=
  let n := cmdWin c
  let st := (getWindow s n).state
  if st = 0 then cmdDone s c
  else if st = 1 then modWindow s n fun w => { w with state := 2 }
  else s

/-- The WINREVOKE commands that wait for a window are DONE. -/
def endRevokes (s : State) (n : Nat) : State :=
  (s.gafin.running.filter fun r => cmdNat r.cmd.bytes 0 1 == 0x0E && cmdWin r.cmd == n).foldl
    (fun s r => cmdDone s r.cmd) s

/-- A CLOSING window with nothing admitted is FREE; REVOKED goes to a Virga core (log 11). -/
def freeWindow (s : State) (n : Nat) : State :=
  let gen := (getWindow s n).gen + 1
  let s1 := modWindow s n fun w => { w with state := 0, gen := gen }
  let r := plainRecord s 10 none 0 (BitVec.ofNat 64 (n + 256 * gen.toNat))
  endRevokes (postCore s1 (Config.recordCore 10 n % 8) r) n

/-- R102: WINREVOKE. -/
def evWinrevoke (st : State) : State :=  withCmd st 0x0E none (winrevokeCmd st)

/-- R102: one such event. -/
def execWinrevoke (st : State) : Host.Outcome State Fault Refusal := .next (evWinrevoke st)

/-- R102: a CLOSING window has no admitted access left. -/
def evWindowRevokeComplete (st : State) : State := 
  match st.input with
  | .num n => if (getWindow st n).state = 2 ∧ (getWindow st n).admitted = 0 then freeWindow st n else st
  | _ => st

/-- R102: one such event. -/
def execWindowRevokeComplete (st : State) : Host.Outcome State Fault Refusal := .next (evWindowRevokeComplete st)

/-! ### PEERSET (R46, R62, R91, R94, R119) -/

/-- The RW bits of a peer entry (R119). -/
def peerRwMask : BitVec 512 := BitVec.ofNat 512 ((2 ^ 512 - 2 ^ 251) + (2 ^ 248 - 2 ^ 216))

/-- The peer index or list number of a command. -/
def cmdPeer (c : Cmd) : Nat := cmdNat c.bytes 16 2

/-- The peer entry that a command's address names. -/
def cmdEntry (s : State) (c : Cmd) : BitVec 512 := BitVec.ofNat 512 (physNat s (cmdNat c.bytes 24 8) 64) &&& peerRwMask

/-- Put a peer entry. -/
def setPeer (s : State) (n : Nat) (e : BitVec 512) : State :=
  { s with net := { s.net with peers := tblSet 0 s.net.peers n e } }

/-- Change every PDC that satisfies the test. -/
def modPdcs (s : State) (p : Pdc → Bool) (f : Pdc → Pdc) : State :=
  (tblKeys s.net.pdcs).foldl (fun s n => if p (getPdc s n) then modPdc s n f else s) s

/-- A peer entry is rewritten: open PDCs of the peer change only in their path set (R64, R119). -/
def rewritePeer (s : State) (n : Nat) (e : BitVec 512) : State :=
  settlePaths (modPdcs (setPeer s n e)
    (fun p => p.state != 0 && p.state != pdcFailed && p.peer == BitVec.ofNat 16 n && p.pset != peerPset e)
    fun p => { p with pset := peerPset e, ptr := 0 })

/-- R119: PEERSET operation 0. -/
def evPeersetEntry (st : State) : State := 
  withCmd st 0x0B (some (18, 0)) fun c => cmdDone (rewritePeer st (cmdPeer c) (cmdEntry st c)) c

/-- R119: one such event. -/
def execPeersetEntry (st : State) : Host.Outcome State Fault Refusal := .next (evPeersetEntry st)

/-- The entries of a multicast list at a physical address (R113). -/
def mcastAt (s : State) (pa n : Nat) : List (BitVec 64) :=
  (List.range n).map fun i => BitVec.ofNat 64 (physNat s (pa + 8 * i) 8) &&& 0xFFFFFFFFFFF00000#64

/-- R91: PEERSET operation 1. -/
def evPeersetMcastList (st : State) : State := 
  withCmd st 0x0B (some (18, 1)) fun c =>
    let l := mcastAt st (cmdNat c.bytes 24 8) (cmdNat c.bytes 32 1)
    cmdDone { st with net := { st.net with mcast := tblSet none st.net.mcast (cmdPeer c) (some l) } } c

/-- R91: one such event. -/
def execPeersetMcastList (st : State) : Host.Outcome State Fault Refusal := .next (evPeersetMcastList st)

/-- R62, R63: PEERSET operation 2: a next-epoch key and its switch time. -/
def evPeersetNextKey (st : State) : State := 
  withCmd st 0x0B (some (18, 2)) fun c =>
    let next := (BitVec.ofNat 16 (cmdNat c.bytes 34 2), BitVec.ofNat 64 (cmdNat c.bytes 40 8))
    cmdDone (modDomain st (cmdNat c.bytes 32 1) fun d => { d with next := some next }) c

/-- R62, R63: one such event. -/
def execPeersetNextKey (st : State) : Host.Outcome State Fault Refusal := .next (evPeersetNextKey st)

/-- The FAILED PDCs of a peer that PEERSET operation 3 names: of one context or of all (R46). -/
def failedNamed (c : Cmd) (p : Pdc) : Bool :=
  p.state == pdcFailed && p.peer == BitVec.ofNat 16 (cmdPeer c) && (bitOf (cmdNat c.bytes 19 1) 0 || p.ctx.toNat == cmdCtx c)

/-- Close the named PDCs. -/
def closeFailed (s : State) (c : Cmd) : State :=
  (tblKeys s.net.pdcs).foldl (fun s n => if failedNamed c (getPdc s n) then closePdc s n else s) s

/-- R46: PEERSET operation 3. -/
def evPeersetCloseFailed (st : State) : State :=  withCmd st 0x0B (some (18, 3)) fun c => cmdDone (closeFailed st c) c

/-- R46: one such event. -/
def execPeersetCloseFailed (st : State) : Host.Outcome State Fault Refusal := .next (evPeersetCloseFailed st)

/-- The request that sends every unacknowledged PSN of a PDC again (R94); a UUD packet is never retransmitted (R53). -/
def resendAll (p : Pdc) : List Retx :=
  let l := if p.mode = 3 then [] else (List.range (p.nextPsn - p.unaPsn).toNat).filter fun i => (outstanding p (p.unaPsn + BitVec.ofNat 32 i)).isSome
  if l.isEmpty then [] else [⟨p.unaPsn, l⟩]

/-- Bits of a peer entry that a re-point takes: ADDR, NEXTHOP, VLAN, VLANEN (R94). -/
def repointMask : BitVec 512 := BitVec.ofNat 512 (2 ^ 512 - 2 ^ 323)

/-- Re-point a PDC (R94). -/
def repointPdc (e : BitVec 512) (p : Pdc) : Pdc :=
  { p with
    entry := (p.entry &&& ~~~repointMask) ||| (e &&& repointMask)
    est := true
    retx := resendAll p ++ p.retx }

/-- Re-point every PDC of a peer that is not CLOSED or FAILED. -/
def repointPeer (s : State) (n : Nat) (e : BitVec 512) : State :=
  modPdcs (setPeer s n e) (fun p => p.state != 0 && p.state != pdcFailed && p.peer == BitVec.ofNat 16 n) (repointPdc e)

/-- R94: PEERSET operation 4. -/
def evPeersetRepoint (st : State) : State := 
  withCmd st 0x0B (some (18, 4)) fun c => cmdDone (repointPeer st (cmdPeer c) (cmdEntry st c)) c

/-- R94: one such event. -/
def execPeersetRepoint (st : State) : Host.Outcome State Fault Refusal := .next (evPeersetRepoint st)

/-! ### PATHSET (R48, R64) -/

/-- The entries of a path set at a physical address. -/
def pathsAt (s : State) (pa n : Nat) : List (BitVec 32) :=
  (List.range n).map fun i => BitVec.ofNat 32 (physNat s (pa + 4 * i) 4) &&& 0xFF00FFFF#32

/-- The port of a path set entry. -/
def entryPort (e : BitVec 32) : Nat := (e.extractLsb' 24 7).toNat

/-- Write a path set: the named ports whose link is up are admitted, PTR of every PDC of the set is 0 again. -/
def applyPathset (s : State) (n : Nat) (l : List (BitVec 32)) : State :=
  let s1 := l.foldl (fun s e => modPort s (entryPort e) fun p => { p with admitted := p.admitted || p.up }) s
  let s2 := { s1 with net := { s1.net with pathsets := tblSet [] s1.net.pathsets n l } }
  settlePaths (modPdcs s2 (fun p => p.state != 0 && p.pset.toNat == n) fun p => { p with ptr := 0 })

/-- PATHSET: DETAIL names the entries whose ports are left unadmitted (R115). -/
def pathsetCmd (s : State) (c : Cmd) : State :=
  let l := pathsAt s (cmdNat c.bytes 24 8) (cmdNat c.bytes 18 1)
  let left := maskOf (fun k => decide (k < l.length) && !(getPort s (entryPort (l.getD k 0))).up) 64
  finishCmd (applyPathset s (cmdNat c.bytes 16 2) l) c stDone 0 left

/-- R64: PATHSET. -/
def evPathset (st : State) : State :=  withCmd st 0x0C none (pathsetCmd st)

/-- R64: one such event. -/
def execPathset (st : State) : Host.Outcome State Fault Refusal := .next (evPathset st)

end Sys2Proof.Machine
end

