-- ==== Sys2Proof/Machine/HostRegs.lean ====
section
/-!
DEFINITION. Sys2Proof/Machine/HostRegs.lean: the host port (R32, R40, R103): the registers of BAR 0 (R104 to R110, R118, R120), BAR 2, configuration requests,
the fetch of commands (R109, R110), firmware and SPDM (R124, R125)
-/
namespace Sys2Proof.Machine

/-! ### Registers (R104, R105) -/

/-- The feature bits that the device offers (R107). -/
def devFeat : BitVec 256 := 0x1FF

/-- IDENT (R105). -/
def identWord : BitVec 64 := 0x640#12 ++ Config.stepping ++ Config.scanMap ++ 0x0100#16 ++ 0#16

/-- GCTL as read. -/
def gctlWord (g : Gafin) : BitVec 32 := BitVec.ofNat 32 (4 * bit01 g.even + 2 * bit01 g.en)

/-- GSTAT. -/
def gstatWord (g : Gafin) : BitVec 32 := BitVec.ofNat 32 (4 * bit01 g.ready + 2 * bit01 g.featerr + bit01 g.featok)

/-- QCFG as read (R108). -/
def qcfgWord (q : Queue) : BitVec 64 :=
  BitVec.ofNat 64 (bit01 q.en * 2 ^ 63 + bit01 q.halted * 2 ^ 62 + q.prio.toNat * 256 + q.log2sz.toNat)

/-- A register of a queue block by its offset in the block (R108). -/
def queueReg (q : Queue) (off : Nat) : BitVec 64 :=
  match off with
  | 0x00 => qcfgWord q
  | 0x08 => q.base
  | 0x10 => q.cbase
  | 0x18 => q.cons.setWidth 64
  | 0x20 => q.haltIndex ++ 0#24 ++ q.haltCause
  | _ => 0

/-- The eight bytes of BAR 0 at a multiple of 8, once start-up is complete. -/
def barWord (s : State) (off : Nat) : BitVec 64 :=
  let g := s.gafin
  if 0x10000 ≤ off ∧ off < 0x20000 then queueReg (getQueue s ((off - 0x10000) / 64)) (off % 64)
  else if 0x1000 ≤ off ∧ off < 0x1200 then tblGet 0 g.cnt ((off - 0x1000) / 8)
  else if 0x1200 ≤ off ∧ off < 0x1300 then
    let src := fun (k : Nat) => tblGet 0 g.cntsrc k &&& 0x3FFFF#32
    src ((off - 0x1200) / 4 + 1) ++ src ((off - 0x1200) / 4)
  else if 0x100 ≤ off ∧ off < 0x120 then devFeat.extractLsb' (8 * (off - 0x100)) 64
  else if 0x120 ≤ off ∧ off < 0x140 then g.drvfeat.extractLsb' (8 * (off - 0x120)) 64
  else
    match off with
    | 0x000 => identWord
    | 0x008 => Config.serial
    | 0x200 => (gctlWord g).setWidth 64
    | 0x208 => (gstatWord g).setWidth 64
    | 0x300 => g.evbase
    | 0x308 => g.evlog2.setWidth 64
    | 0x310 => g.evprod.setWidth 64
    | 0x318 => g.evcons.setWidth 64
    | 0x320 => g.evlost.setWidth 64
    | 0x400 => g.sembase
    | 0x408 => g.semcount.setWidth 64
    | _ => 0

/-- Until start-up is complete, IDENT and SERIAL alone read their values (R40, R105). -/
def barWordNow (s : State) (off : Nat) : BitVec 64 := if s.gafin.ready ∨ off = 0 ∨ off = 8 then barWord s off else 0

/-- Is an access of BAR 0 aligned and of 32 or 64 bits (R104)? -/
def barForm (off size : Nat) : Bool := (size == 4 || size == 8) && off % size == 0 && decide (off < 0x1000000)

/-- A read of BAR 0: any other access reads zero (R104). -/
def readBar (s : State) (off size : Nat) : BitVec 64 :=
  if !barForm off size then 0
  else if size = 8 then barWordNow s off
  else ((barWordNow s (off / 8 * 8)).extractLsb' (8 * (off % 8)) 32).setWidth 64

/-- Does the host reach BAR 0: the port completes requests from the end of phase 4 (R40)? -/
def barReached (s : State) : Bool := decide (5 ≤ s.pkg.phase)

/-- The host's data of an access of BAR 0 by 32-bit word: what a write of `size` bytes brings to the word at `w`. -/
def barData (off size : Nat) (v : BitVec 64) (w : Nat) : Option (BitVec 32) :=
  if w = off then some (v.setWidth 32) else if size = 8 ∧ w = off + 4 then some (v.extractLsb' 32 32) else none

/-- Does a write bring data to the word at `w`: it is well formed, and start-up is complete (R40, R104)? -/
def barWrites (s : State) (off size : Nat) (v : BitVec 64) (w : Nat) : Option (BitVec 32) :=
  if barReached s && s.gafin.ready && barForm off size then barData off size v w else none

/-- Replace one half of a 64-bit register. -/
def putHalf (x : BitVec 64) (high : Bool) (v : BitVec 32) : BitVec 64 :=
  if high then v ++ x.setWidth 32 else (x.extractLsb' 32 32) ++ v

/-- The low 12 bits of a 4 KiB aligned address are 0. -/
def pageBase (x : BitVec 64) : BitVec 64 := x &&& 0xFFFFFFFFFFFFF000#64

/-- Write a word of a queue block: base addresses and the PRIO and LOG2SZ fields, while the queue is disabled (R108). -/
def putQueueWord (s : State) (n off : Nat) (v : BitVec 32) : State :=
  modQueue s n fun q =>
    if q.en then q
    else
      match off with
      | 0x00 => { q with prio := v.extractLsb' 8 3, log2sz := v.extractLsb' 0 5 }
      | 0x08 => { q with base := pageBase (putHalf q.base false v) }
      | 0x0C => { q with base := putHalf q.base true v }
      | 0x10 => { q with cbase := pageBase (putHalf q.cbase false v) }
      | 0x14 => { q with cbase := putHalf q.cbase true v }
      | _ => q

/-- Write DRVFEAT k: read-only once FEATOK is set (R106). -/
def putFeature (g : Gafin) (k : Nat) (v : BitVec 32) : Gafin :=
  if g.featok then g
  else
    let m := BitVec.ofNat 256 (0xFFFFFFFF * 2 ^ (32 * k))
    { g with drvfeat := (g.drvfeat &&& ~~~m) ||| (v.setWidth 256 <<< (32 * k)) }

/-- Write a word of BAR 0 that has no behaviour of its own. -/
def putWord (s : State) (w : Nat) (v : BitVec 32) : State :=
  let g := s.gafin
  let put := fun (g : Gafin) => { s with gafin := g }
  if 0x10000 ≤ w ∧ w < 0x20000 then putQueueWord s ((w - 0x10000) / 64) (w % 64) v
  else if 0x120 ≤ w ∧ w < 0x140 then put (putFeature g ((w - 0x120) / 4) v)
  else
    match w with
    | 0x300 => put { g with evbase := pageBase (putHalf g.evbase false v) }
    | 0x304 => put { g with evbase := putHalf g.evbase true v }
    | 0x308 => put { g with evlog2 := v }
    | 0x320 => put { g with evlost := g.evlost &&& ~~~v }
    | 0x400 => put { g with sembase := pageBase (putHalf g.sembase false v) }
    | 0x404 => put { g with sembase := putHalf g.sembase true v }
    | 0x408 => put { g with semcount := v }
    | _ => s

/-- A write of BAR 0 as what it does to the words without behaviour. -/
def writeBar (s : State) (off size : Nat) (v : BitVec 64) : State :=
  let one := fun (s : State) (w : Nat) =>
    match barWrites s off size v w with
    | some x => putWord s w x
    | none => s
  one (one s off) (off + 4)

/-- Note bytes that the host has read. -/
def answerHost (s : State) (bs : List Byte) : State := { s with gafin := { s.gafin with reads := s.gafin.reads ++ [bs] } }

/-- R104: the host writes a register of BAR 0 (offset, size, value), or reads one (offset, size). -/
def evRegisterWrite (st : State) : State := 
  match st.input with
  | .triple off size v => writeBar st off size (BitVec.ofNat 64 v)
  | .pair off size => if barReached st then answerHost st (toBytes (readBar st off size).toNat size) else st
  | _ => st

/-- R104: one such event. -/
def execRegisterWrite (st : State) : Host.Outcome State Fault Refusal := .next (evRegisterWrite st)

/-- The word that a write of the host (offset, size, value) brings to a register. -/
def inputWord (s : State) (w : Nat) : Option (BitVec 32) :=
  match s.input with
  | .triple off size v => barWrites s off size (BitVec.ofNat 64 v) w
  | _ => none

/-! ### Global control (R105, R106, R120) -/

/-- FEAT: the submission is accepted when bit 0 is set and no bit that DEVFEAT lacks. -/
def submitFeatures (g : Gafin) : Gafin :=
  if g.drvfeat.getLsbD 0 ∧ g.drvfeat &&& ~~~devFeat = 0 then { g with featok := true, featerr := false }
  else { g with featerr := true }

/-- R106: a write of GCTL with FEAT = 1. -/
def evGctlFeat (st : State) : State := 
  match inputWord st 0x200 with
  | some v => if v.getLsbD 0 then { st with gafin := submitFeatures st.gafin } else st
  | none => st

/-- R106: one such event. -/
def execGctlFeat (st : State) : Host.Outcome State Fault Refusal := .next (evGctlFeat st)

/-- R105: the EN field of a write of GCTL: 1 takes only while FEATOK is set. -/
def evGctlEn (st : State) : State := 
  match inputWord st 0x200 with
  | some v => { st with gafin := { st.gafin with en := v.getLsbD 1 && (st.gafin.featok || st.gafin.en) } }
  | none => st

/-- R105: one such event. -/
def execGctlEn (st : State) : Host.Outcome State Fault Refusal := .next (evGctlEn st)

/-- Enabling the event ring begins its counts anew (R104, R121). -/
def enableRing (g : Gafin) : Gafin := { g with even := true, evprod := 0, evseq := 0, evovf := false, evbuf := [] }

/-- R120: the EVEN field of a write of GCTL. -/
def evGctlEven (st : State) : State := 
  match inputWord st 0x200 with
  | some v =>
    if !v.getLsbD 2 then { st with gafin := { st.gafin with even := false } }
    else if st.gafin.even then st
    else { st with gafin := enableRing st.gafin }
  | none => st

/-- R120: one such event. -/
def execGctlEven (st : State) : Host.Outcome State Fault Refusal := .next (evGctlEven st)

/-- R120: a write of EVCONS frees room for buffered records. -/
def evEvconsWrite (st : State) : State := 
  match inputWord st 0x318 with
  | some v =>
    let s1 := { st with gafin := { st.gafin with evcons := v } }
    if s1.gafin.even then drainRecords s1 256 else s1
  | none => st

/-- R120: one such event. -/
def execEvconsWrite (st : State) : Host.Outcome State Fault Refusal := .next (evEvconsWrite st)

/-- The waiters of one semaphore that are met (R118). -/
def pokeSem (s : State) (n : Nat) : State :=
  (s.gafin.running.filter fun r => cmdNat r.cmd.bytes 0 1 == 4 && cmdNat r.cmd.bytes 16 2 == n).foldl
    (fun s r => if waitMet s r then finishCmd s r.cmd stDone 0 0 else s) s

/-- R118: a write of SEMPOKE. -/
def evSempoke (st : State) : State := 
  match inputWord st 0x410 with
  | some v => pokeSem st v.toNat
  | none => st

/-- R118: one such event. -/
def execSempoke (st : State) : Host.Outcome State Fault Refusal := .next (evSempoke st)

/-! ### Queues (R108 to R110) -/

/-- The queue whose register at an offset of its block a 32-bit word of a write reaches, with the word. -/
def inputQueue (s : State) (reg : Nat) : Option (Nat × BitVec 32) :=
  match s.input with
  | .triple off size v =>
    let n := (off - 0x10000) / 64
    if 0x10000 ≤ off ∧ off < 0x20000 then (barWrites s off size (BitVec.ofNat 64 v) (0x10000 + 64 * n + reg)).map fun x => (n, x)
    else none
  | _ => none

/-- The producer index that a notify makes available: at most 2^n commands (R109). -/
def notifyQueue (v : BitVec 32) (q : Queue) : Queue :=
  { q with notified := if 2 ^ q.log2sz.toNat < (v - q.cons).toNat then q.cons + BitVec.ofNat 32 (2 ^ q.log2sz.toNat) else v }

/-- R109: a 32-bit write of QNOTIFY. -/
def evQnotify (st : State) : State := 
  match st.input with
  | .triple off 4 v =>
    let n := (off - 0x400000) / 4096
    if 0x400000 ≤ off ∧ off < 0x800000 ∧ off % 4096 = 0 ∧ (barWrites st off 4 (BitVec.ofNat 64 v) off).isSome then
      modQueue st n (notifyQueue (BitVec.ofNat 32 v))
    else st
  | _ => st

/-- R109: one such event. -/
def execQnotify (st : State) : Host.Outcome State Fault Refusal := .next (evQnotify st)

/-- Enable a queue: QCONS and the expected index are 0 again; LOG2SZ must be 4 to 16 (R108). -/
def enableQueue (q : Queue) : Queue :=
  if q.en ∨ q.log2sz.toNat < 4 ∨ 16 < q.log2sz.toNat then q
  else
    { q with
      en := true
      halted := false
      cons := 0
      haltCause := 0
      haltIndex := 0
      notified := 0
      tries := 0
      retryAt := 0 }

/-- Clear HALTED and fetch the halted command afresh (R108, R110): after a wait timeout that is the WAITSEM itself. -/
def resumeQueue (q : Queue) : Queue :=
  if q.halted then { q with halted := false, cons := q.haltIndex, haltCause := 0, haltIndex := 0, tries := 0, retryAt := 0 }
  else q

/-- R106, R108: a write of QCFG with EN = 1; a queue stays disabled while no submission of features has been accepted. -/
def evQcfgEnable (st : State) : State := 
  match inputQueue st 4 with
  | some (n, v) => if v.getLsbD 31 && st.gafin.featok then modQueue st n enableQueue else st
  | none => st

/-- R108: one such event. -/
def execQcfgEnable (st : State) : Host.Outcome State Fault Refusal := .next (evQcfgEnable st)

/-- R108: a write of QCFG with EN = 0. -/
def evQcfgDisable (st : State) : State := 
  match inputQueue st 4 with
  | some (n, v) => if v.getLsbD 31 then st else modQueue st n fun q => { q with en := false }
  | none => st

/-- R108: one such event. -/
def execQcfgDisable (st : State) : Host.Outcome State Fault Refusal := .next (evQcfgDisable st)

/-- R110: a write of QCFG with RESUME = 1. -/
def evQcfgResume (st : State) : State := 
  match inputQueue st 4 with
  | some (n, v) => if v.getLsbD 29 then modQueue st n resumeQueue else st
  | none => st

/-- R110: one such event. -/
def execQcfgResume (st : State) : Host.Outcome State Fault Refusal := .next (evQcfgResume st)

/-- The lap of a command index (R108). -/
def lapOf (q : Queue) (i : BitVec 32) : Nat := i.toNat / 2 ^ q.log2sz.toNat % 65536

/-- Does a WAITSEM hold a queue: one accepted that has not completed (R118, log 32)? -/
def heldByWait (s : State) (n : Nat) : Bool :=
  (s.gafin.accepted ++ s.gafin.running.map fun r => r.cmd).any fun c => c.queue == n && cmdNat c.bytes 0 1 == 4

/-- Has a queue a command to fetch? -/
def canFetch (s : State) (n : Nat) : Bool :=
  let q := getQueue s n
  s.gafin.ready && s.gafin.en && q.en && !q.halted && q.cons != q.notified && !heldByWait s n

/-- QSTAMP (R122). -/
def stampBody (n : Nat) (i : BitVec 32) (seen lap : Nat) : List Byte :=
  toBytes n 2 ++ zeroBytes 2 ++ toBytes i.toNat 4 ++ toBytes seen 2 ++ toBytes lap 2

/-- Fetch the next command of a queue (R110): accepted when its stamp is the lap; the ninth mismatch halts the queue. -/
def fetchCommand (s : State) (n : Nat) : State :=
  let q := getQueue s n
  let i := q.cons
  let bs := physBytes s (hostAddr (q.base.toNat + 64 * (i.toNat % 2 ^ q.log2sz.toNat))) 64
  let seen := cmdNat bs 2 2
  if seen = lapOf q i then
    let s1 := modQueue s n fun q => { q with cons := i + 1, tries := 0, retryAt := 0 }
    { s1 with gafin := { s1.gafin with accepted := s1.gafin.accepted ++ [⟨n, i, BitVec.ofNat 16 seen, bs, false⟩] } }
  else if q.tries < 8 then modQueue s n fun q => { q with tries := q.tries + 1, retryAt := now s + 1000 }
  else
    postHost (modQueue s n fun q => { q with halted := true, haltCause := 1, haltIndex := i, tries := 0 })
      ⟨0x0030, 0, none, stampBody n i seen (lapOf q i)⟩

/-- R110: the device fetches the next command of a queue. -/
def evCommandFetch (st : State) : State := 
  match st.input with
  | .num n => if canFetch st n ∧ (getQueue st n).tries = 0 then fetchCommand st n else st
  | _ => st

/-- R110: one such event. -/
def execCommandFetch (st : State) : Host.Outcome State Fault Refusal := .next (evCommandFetch st)

/-- R110: 1 µs after a mismatch the slot is fetched again. -/
def evStampRefetch (st : State) : State := 
  match st.input with
  | .num n =>
    let q := getQueue st n
    if canFetch st n ∧ q.tries ≠ 0 ∧ q.retryAt ≤ now st then fetchCommand st n else st
  | _ => st

/-- R110: one such event. -/
def execStampRefetch (st : State) : Host.Outcome State Fault Refusal := .next (evStampRefetch st)

/-! ### Configuration space, BAR 2 and the host's own memory (R40, R103) -/

/-- The dwords of configuration space that the manual gives; another holds what no rule states (log 13). -/
def configWord (s : State) (off : Nat) : BitVec 32 :=
  let bar := fun (k : Nat) => tblGet 0 s.gafin.bars k
  match off with
  | 0x08 => 0x120000#24 ++ BitVec.ofNat 8 (Config.unstated 103 0)
  | 0x10 => (bar 0).setWidth 32 ||| 0x4#32
  | 0x14 => (bar 0).extractLsb' 32 32
  | 0x18 => (bar 1).setWidth 32 ||| 0xC#32
  | 0x1C => (bar 1).extractLsb' 32 32
  | _ => BitVec.ofNat 32 (Config.unstated 103 off)

/-- Bytes of BAR 2: 256 MiB times a power of two that the host selects, up to 512 GiB (R103). -/
def bar2Bytes (s : State) : Nat := 2 ^ (28 + (tblGet 0 s.gafin.bars 2).toNat)

/-- A write of a BAR register: address bits below the size are 0. -/
def writeConfig (s : State) (off : Nat) (v : BitVec 32) : State :=
  let put := fun (k : Nat) (x : BitVec 64) => { s with gafin := { s.gafin with bars := tblSet 0 s.gafin.bars k x } }
  let bar := fun (k : Nat) => tblGet 0 s.gafin.bars k
  match off with
  | 0x10 => put 0 (putHalf (bar 0) false v &&& 0xFFFFFFFFFF000000#64)
  | 0x14 => put 0 (putHalf (bar 0) true v)
  | 0x18 => put 1 (putHalf (bar 1) false v &&& ~~~(BitVec.ofNat 64 (bar2Bytes s - 1)))
  | 0x1C => put 1 (putHalf (bar 1) true v &&& ~~~(BitVec.ofNat 64 (bar2Bytes s - 1)))
  | _ => s

/-- Select the size of BAR 2 (R103). -/
def resizeBar (s : State) (k : Nat) : State :=
  if k ≤ 11 then { s with gafin := { s.gafin with bars := tblSet 0 s.gafin.bars 2 (BitVec.ofNat 64 k) } } else s

/-- Note an answer to a configuration request. -/
def answerConfig (s : State) (a : ConfigAnswer) : State :=
  { s with gafin := { s.gafin with config := s.gafin.config ++ [a] } }

/-- A configuration request (R40): no link before the end of phase 2, then retry status until phase 4 is complete. -/
def configAccess (s : State) (off : Nat) (v : Option (BitVec 32)) : State :=
  if s.pkg.phase < 3 then s
  else if s.pkg.phase < 5 then answerConfig s .retry
  else
    match v with
    | none => answerConfig s (.value (configWord s off))
    | some x => answerConfig (writeConfig s off x) .written

/-- R40, R103: a configuration read (offset), a write (offset, data), or the choice of a BAR 2 size (0, 0, log2 of its multiple of 256 MiB). -/
def evConfigRequest (st : State) : State := 
  match st.input with
  | .num off => configAccess st off none
  | .pair off v => configAccess st off (some (BitVec.ofNat 32 v))
  | .triple 0 0 k => if 5 ≤ st.pkg.phase then answerConfig (resizeBar st k) .written else configAccess st 0 none
  | _ => st

/-- R40, R103: one such event. -/
def execConfigRequest (st : State) : Host.Outcome State Fault Refusal := .next (evConfigRequest st)

/-- A byte of BAR 2: above the memory there is no backing, and a poisoned byte reads as no rule states (log 13). -/
def bar2Byte (s : State) (off : Nat) : Byte :=
  if hbmTop ≤ off then 0xFF
  else if physPoisoned s off 1 then BitVec.ofNat 8 (Config.unstated 104 off)
  else physByte s off

/-- A write through BAR 2: bytes above the memory are discarded. -/
def bar2Write (s : State) (off : Nat) (bs : List Byte) : State :=
  let bs1 := bs.take (hbmTop - off)
  if bs1.isEmpty then s else deviceWrite s off bs1

/-- R103: the host reads bytes through BAR 2 (offset, count), or writes them. R40 limits BAR 0 alone before phase 5 completes;
BAR 2 is served from the end of phase 4 on (DESIGN CHOICE, log 39). -/
def evBar2Access (st : State) : State := 
  match st.input with
  | .pair off n =>
    if barReached st ∧ off + n ≤ bar2Bytes st then answerHost st ((List.range n).map fun i => bar2Byte st (off + i)) else st
  | .bytes off bs => if barReached st ∧ off + bs.length ≤ bar2Bytes st then bar2Write st off bs else st
  | _ => st

/-- R103: one such event. -/
def execBar2Access (st : State) : Host.Outcome State Fault Refusal := .next (evBar2Access st)

/-- The host stores into its own memory (R30): the device sees it at its next read. -/
def hostStore (s : State) (bus : Nat) (bs : List Byte) : State :=
  if bus + bs.length ≤ hostBase then deviceWrite s (hostAddr bus) bs else s

/-! ### Firmware and attestation (R124, R125) -/

/-- R124: the host writes a firmware image into the persistent store over the management sideband. -/
def evSidebandFirmwareWrite (st : State) : State := 
  match st.input with
  | .bytes _ bs => { st with pkg := { st.pkg with firmware := bs } }
  | _ => st

/-- R124: one such event. -/
def execSidebandFirmwareWrite (st : State) : Host.Outcome State Fault Refusal := .next (evSidebandFirmwareWrite st)

/-- FWLOAD: a good image goes to the persistent store, another is refused with code 1. -/
def fwloadCmd (s : State) (c : Cmd) : State :=
  let bs := physBytes s (cmdNat c.bytes 16 8) (cmdNat c.bytes 24 8)
  if Config.firmwareGood bs then cmdDone { s with pkg := { s.pkg with firmware := bs } } c else cmdRefused s c 1

/-- R124: FWLOAD. -/
def evFwload (st : State) : State :=  withCmd st 0x11 none (fwloadCmd st)

/-- R124: one such event. -/
def execFwload (st : State) : Host.Outcome State Fault Refusal := .next (evFwload st)

/-- The firmware image that runs: the one that start-up verified (R39, R124). -/
def runningImage (s : State) : List Byte := (getVirga s 0).image.getD s.pkg.firmware

/-- Measurements 1 to 4 (R125). -/
def measurements (s : State) : List (Nat × List Byte) :=
  let i := runningImage s
  [(1, Config.measurement 1 i), (2, Config.measurement 2 i), (3, Config.measurement 3 i),
    (4, toBytes (identWord.toNat / 2 ^ 32) 4)]

/-- Answer an SPDM request over DOE, once configuration requests are completed (R40, R125): the message is of DMTF SPDM 1.2,
and what the manual fixes of it are the measurements. -/
def answerSpdm (s : State) (code : Nat) (values : List (Nat × List Byte)) : State :=
  match s.input with
  | .bytes _ bs =>
    if s.pkg.phase < 5 then s
    else
      let a : SpdmAnswer := ⟨BitVec.ofNat 8 code, Config.spdmAnswer code bs s.pkg.spdmState, values⟩
      { s with pkg := { s.pkg with spdm := s.pkg.spdm ++ [a], spdmState := s.pkg.spdmState + 1 } }
  | _ => s

/-- R125: GET_VERSION. -/
def evSpdmGetVersion (st : State) : State :=  answerSpdm st 0x84 []

/-- R125: one such event. -/
def execSpdmGetVersion (st : State) : Host.Outcome State Fault Refusal := .next (evSpdmGetVersion st)

/-- R125: GET_CAPABILITIES. -/
def evSpdmGetCapabilities (st : State) : State :=  answerSpdm st 0xE1 []

/-- R125: one such event. -/
def execSpdmGetCapabilities (st : State) : Host.Outcome State Fault Refusal := .next (evSpdmGetCapabilities st)

/-- R125: NEGOTIATE_ALGORITHMS. -/
def evSpdmNegotiateAlgorithms (st : State) : State :=  answerSpdm st 0xE3 []

/-- R125: one such event. -/
def execSpdmNegotiateAlgorithms (st : State) : Host.Outcome State Fault Refusal := .next (evSpdmNegotiateAlgorithms st)

/-- R125: GET_DIGESTS. -/
def evSpdmGetDigests (st : State) : State :=  answerSpdm st 0x81 []

/-- R125: one such event. -/
def execSpdmGetDigests (st : State) : Host.Outcome State Fault Refusal := .next (evSpdmGetDigests st)

/-- R125: GET_CERTIFICATE. -/
def evSpdmGetCertificate (st : State) : State :=  answerSpdm st 0x82 []

/-- R125: one such event. -/
def execSpdmGetCertificate (st : State) : Host.Outcome State Fault Refusal := .next (evSpdmGetCertificate st)

/-- R125: CHALLENGE. -/
def evSpdmChallenge (st : State) : State :=  answerSpdm st 0x83 []

/-- R125: one such event. -/
def execSpdmChallenge (st : State) : Host.Outcome State Fault Refusal := .next (evSpdmChallenge st)

/-- R125: GET_MEASUREMENTS. -/
def evSpdmGetMeasurements (st : State) : State :=  answerSpdm st 0xE0 (measurements st)

/-- R125: one such event. -/
def execSpdmGetMeasurements (st : State) : Host.Outcome State Fault Refusal := .next (evSpdmGetMeasurements st)

end Sys2Proof.Machine
end

