-- ==== Sys2Proof/Machine/HostCmd.lean ====
section
/-!
DEFINITION. Sys2Proof/Machine/HostCmd.lean: commands that act on contexts, memory, semaphores, features and counters (R113 to R118, R123, R190, R197), and CXL
ports (R29)
-/
namespace Sys2Proof.Machine

/-! ### HCOPY (R113, R115, R432) -/

/-- Does an HCOPY use virtual addresses? -/
def hcopyVirtual (c : Cmd) : Bool := bitOf (cmdNat c.bytes 40 1) 0

/-- The physical addresses of n bytes of an HCOPY: its own, or translated in its context with the device's own right. -/
def hcopyPlaces (s : State) (c : Cmd) (k : Kind) (a n : Nat) : State × Except TrapInfo (List (Nat × BitVec 64)) :=
  if hcopyVirtual c then virtRun s ⟨0, cmdCtx c, false, 0, .direct, []⟩ k (a : Int) n
  else (s, .ok ((List.range n).map fun i => (a + i, 0)))

/-- Copy n bytes from offset `off`; poison goes with them (R260). -/
def hcopyBlock (s : State) (c : Cmd) (off n : Nat) : State × Except TrapInfo Unit :=
  match hcopyPlaces s c .read (cmdNat c.bytes 16 8 + off) n with
  | (s1, .error t) => (s1, .error t)
  | (s1, .ok src) =>
    match hcopyPlaces s1 c .write (cmdNat c.bytes 24 8 + off) n with
    | (s2, .error t) => (s2, .error t)
    | (s2, .ok dst) =>
      let bad := src.any fun p => physPoisoned s2 p.1 1
      let pa := (dst.headD (0, 0)).1
      let s3 := deviceWrite s2 pa (src.map fun p => physByte s2 p.1)
      (if bad && !physLost s3 pa then poisonWords s3 pa n else s3, .ok ())

/-- Bytes of the next block: up to the end of a word of the destination, fewer where the copy ends. -/
def hcopySpan (c : Cmd) (off left : Nat) : Nat := min left (8 - (cmdNat c.bytes 24 8 + off) % 8)

/-- The end of an HCOPY at a faulting page: FAULTED with code 1, the virtual address in DETAIL. -/
def hcopyFault (s : State) (c : Cmd) (t : TrapInfo) : State := finishCmd s c stFaulted 1 t.addr.toNat

/-- Copy blocks from offset `off` while `n` of them and bytes are left; a block that faults is copied byte by byte, so that
every byte before the fault is written. -/
def hcopyRun (s : State) (c : Cmd) (off : Nat) (small : Bool) : Nat → State
  | 0 => modRunning s c fun r => { r with doneTo := off }
  | n + 1 =>
    let left := cmdNat c.bytes 32 8 - off
    if left = 0 then cmdDone s c
    else
      let k := if small then 1 else hcopySpan c off left
      match hcopyBlock s c off k with
      | (s1, .ok _) => hcopyRun s1 c (off + k) small n
      | (s1, .error t) => if k = 1 then hcopyFault s1 c t else hcopyRun s1 c off true n

/-- The running HCOPY of a queue and index, with the offset that it has reached. -/
def runningCopy (s : State) (q i : Nat) : Option (Cmd × Nat) :=
  match runningCmd s q (BitVec.ofNat 32 i) with
  | some c => if cmdNat c.bytes 0 1 = 2 then (runningOf s c).map fun r => (c, r.doneTo) else none
  | none => none

/-- R113: HCOPY starts: nothing of it has been copied. -/
def evHcopy (st : State) : State := 
  withCmd st 0x02 none fun c => modRunning st c fun r => { r with doneTo := 0 }

/-- R113: one such event. -/
def execHcopy (st : State) : Host.Outcome State Fault Refusal := .next (evHcopy st)

/-- R115, R432: an HCOPY copies its last byte or stops at a faulting page; or copies some blocks more (queue, index, blocks). -/
def evHcopyComplete (st : State) : State := 
  match st.input with
  | .pair q i =>
    match runningCopy st q i with
    | some (c, off) => hcopyRun st c off false (cmdNat c.bytes 32 8 + 9)
    | none => st
  | .triple q i n =>
    match runningCopy st q i with
    | some (c, off) => hcopyRun st c off false n
    | none => st
  | _ => st

/-- R115, R432: one such event. -/
def execHcopyComplete (st : State) : Host.Outcome State Fault Refusal := .next (evHcopyComplete st)

/-! ### Semaphores (R117, R118) -/

/-- R117: SIGNAL. -/
def evSignal (st : State) : State := 
  withCmd st 0x03 none fun c => cmdDone (signalSem st (cmdNat c.bytes 16 2) (cmdNat c.bytes 24 8)) c

/-- R117: one such event. -/
def execSignal (st : State) : Host.Outcome State Fault Refusal := .next (evSignal st)

/-- A WAITSEM whose semaphore has reached its value is DONE; another goes on waiting. -/
def tryWait (s : State) (c : Cmd) : State :=
  if cmdNat c.bytes 24 8 ≤ semValue s (cmdNat c.bytes 16 2) then cmdDone s c else s

/-- The running WAITSEM of a queue and index. -/
def runningWait (s : State) (q i : Nat) : Option Cmd :=
  match runningCmd s q (BitVec.ofNat 32 i) with
  | some c => if cmdNat c.bytes 0 1 = 4 then some c else none
  | none => none

/-- R118: WAITSEM starts. -/
def evWaitsem (st : State) : State :=  withCmd st 0x04 none (tryWait st)

/-- R118: one such event. -/
def execWaitsem (st : State) : Host.Outcome State Fault Refusal := .next (evWaitsem st)

/-- R118: a waiting WAITSEM reads its semaphore again. -/
def evWaitsemReevaluate (st : State) : State := 
  match st.input with
  | .pair q i =>
    match runningWait st q i with
    | some c => tryWait st c
    | none => st
  | _ => st

/-- R118: one such event. -/
def execWaitsemReevaluate (st : State) : Host.Outcome State Fault Refusal := .next (evWaitsemReevaluate st)

/-- Has the timeout of a WAITSEM passed? -/
def waitExpired (s : State) (c : Cmd) : Bool :=
  let t := cmdNat c.bytes 32 4
  match runningOf s c with
  | some r => t != 0 && decide (r.since + 1000 * t ≤ now s)
  | none => false

/-- A WAITSEM times out: its queue halts with cause 2. -/
def expireWait (s : State) (c : Cmd) : State :=
  finishCmd (modQueue s c.queue fun q => { q with halted := true, haltCause := 2, haltIndex := c.index }) c stTimeout 0 0

/-- R118: the timeout of a WAITSEM expires. -/
def evWaitsemTimeout (st : State) : State := 
  match st.input with
  | .pair q i =>
    match runningWait st q i with
    | some c => if waitExpired st c then expireWait st c else st
    | none => st
  | _ => st

/-- R118: one such event. -/
def execWaitsemTimeout (st : State) : Host.Outcome State Fault Refusal := .next (evWaitsemTimeout st)

/-! ### Contexts and translations (R114, R190, R197, R256) -/

/-- The context that CTXNEW makes; a protected one gets its key (R256). -/
def newContext (s : State) (c : Cmd) : Context :=
  let prot := bitOf (cmdNat c.bytes 32 1) 0
  { ctxEmpty with
    live := true
    prot := prot
    root := BitVec.ofNat 52 (cmdNat c.bytes 16 8)
    tdt := BitVec.ofNat 52 (cmdNat c.bytes 24 8)
    key := if prot then Config.contextKey (cmdCtx c) s.tick else 0 }

/-- R114, R256: CTXNEW. -/
def evCtxnew (st : State) : State := 
  withCmd st 0x05 none fun c =>
    if (getCtx st (cmdCtx c)).live then cmdRefused st c 1
    else cmdDone { modCtx st (cmdCtx c) (fun _ => newContext st c) with tick := st.tick + 1 } c

/-- R114, R256: one such event. -/
def execCtxnew (st : State) : Host.Outcome State Fault Refusal := .next (evCtxnew st)

/-- Keep the entries of a TLB that a test admits, on every core and every layout unit. -/
def filterTlbs (s : State) (p : TlbEntry → Bool) : State :=
  { s with
    cores := s.cores.foldl (fun t e => tblSet coreEmpty t e.1 { e.2 with tlb := e.2.tlb.filter p }) s.cores
    dies := s.dies.foldl (fun t e => tblSet dieEmpty t e.1 { e.2 with tlb := e.2.tlb.filter p }) s.dies }

/-- Keep the entries of every fault buffer that a test on context and page admits (R198). -/
def filterFaults (s : State) (p : Nat → Nat → Bool) : State :=
  { s with dies := s.dies.foldl (fun t e =>
      tblSet dieEmpty t e.1 { e.2 with faults := e.2.faults.filter fun f => p f.1 f.2.1 }) s.dies }

/-- Does a TLB entry translate an address of the 64 KiB pages [first, first + count) of a context? -/
def entryWithin (ctx first count : Nat) (e : TlbEntry) : Bool :=
  e.ctx == ctx && rangesMeet (e.page * 2 ^ e.size) (2 ^ e.size) (first * 65536) (count * 65536)

/-- Does a range of pages cover one with X set (R265)? -/
def coversCode (s : State) (ctx first count : Nat) : Bool :=
  (firstIndex (fun page =>
    match walk s (getCtx s ctx).root.toNat (page * 65536) with
    | some l => l.bits.getLsbD 2
    | none => false) first count).isSome

/-- Invalidate a context's lines of every instruction cache (R265). -/
def dropCode (s : State) (ctx : Nat) : State :=
  { s with cores := s.cores.foldl (fun t e => tblSet coreEmpty t e.1 (dropLines ctx e.2)) s.cores }

/-- Remove the translations of a range (R197). -/
def invalidateRange (s : State) (ctx first count : Nat) : State :=
  let s1 := filterFaults (filterTlbs s fun e => !entryWithin ctx first count e) fun c page =>
    !(c == ctx && decide (first ≤ page) && decide (page < first + count))
  if coversCode s ctx first count then dropCode s1 ctx else s1

/-- Remove every translation of a context, and its lines of the instruction caches (R197, R265). -/
def invalidateAll (s : State) (ctx : Nat) : State :=
  dropCode (filterFaults (filterTlbs s fun e => e.ctx != ctx) fun c _ => c != ctx) ctx

/-- R197: MAPSET operation 0. -/
def evMapsetInvalidate (st : State) : State := 
  withCmd st 0x09 (some (32, 0)) fun c =>
    cmdDone (invalidateRange st (cmdCtx c) (cmdNat c.bytes 16 8 / 65536) (cmdNat c.bytes 24 8)) c

/-- R197: one such event. -/
def execMapsetInvalidate (st : State) : Host.Outcome State Fault Refusal := .next (evMapsetInvalidate st)

/-- R190: MAPSET operation 1. -/
def evMapsetReplaceRoot (st : State) : State := 
  withCmd st 0x09 (some (32, 1)) fun c =>
    let s1 := modCtx st (cmdCtx c) fun x => { x with root := BitVec.ofNat 52 (cmdNat c.bytes 40 8) }
    cmdDone (invalidateAll s1 (cmdCtx c)) c

/-- R190: one such event. -/
def execMapsetReplaceRoot (st : State) : Host.Outcome State Fault Refusal := .next (evMapsetReplaceRoot st)

/-! ### FEATURE (R113) -/

/-- The FEATURE command of a parameter that the input names: its value. -/
def featureCmd (s : State) (param : Nat) (f : Cmd → Nat → State) : State :=
  withCmd s 0x0F none fun c => if cmdNat c.bytes 16 2 = param then f c (cmdNat c.bytes 24 8) else s

/-- R113: parameter 1, the package power limit in W. -/
def evFeaturePowerLimit (st : State) : State := 
  featureCmd st 1 fun c v => cmdDone { st with pkg := { st.pkg with powerLimit := BitVec.ofNat 64 v } } c

/-- R113: one such event. -/
def execFeaturePowerLimit (st : State) : Host.Outcome State Fault Refusal := .next (evFeaturePowerLimit st)

/-- PTP follows the Ethernet port that the host selects; a rate that is held goes on being held until another port than the
dark one is selected (R36). -/
def selectPtp (v : Nat) (p : Package) : Package :=
  { p with ptpPort := BitVec.ofNat 64 v, ptp := if p.ptp = .hold ∧ p.ptpPort.toNat = v then .hold else .follow }

/-- R36, R113: parameter 2, the Ethernet port of PTP. -/
def evFeaturePtpPort (st : State) : State := 
  featureCmd st 2 fun c v => cmdDone { st with pkg := selectPtp v st.pkg } c

/-- R36, R113: one such event. -/
def execFeaturePtpPort (st : State) : Host.Outcome State Fault Refusal := .next (evFeaturePtpPort st)

/-- R42, R113: parameter 3, the UDP destination port of the transport. -/
def evFeatureUdpPort (st : State) : State := 
  featureCmd st 3 fun c v => cmdDone { st with pkg := { st.pkg with udpPort := BitVec.ofNat 16 v } } c

/-- R42, R113: one such event. -/
def execFeatureUdpPort (st : State) : Host.Outcome State Fault Refusal := .next (evFeatureUdpPort st)

/-- R113, R259: parameter 4, the period of the hang watchdog in µs. -/
def evFeatureWatchdog (st : State) : State := 
  featureCmd st 4 fun c v => cmdDone { st with pkg := { st.pkg with watchdog := BitVec.ofNat 64 v } } c

/-- R113, R259: one such event. -/
def execFeatureWatchdog (st : State) : Host.Outcome State Fault Refusal := .next (evFeatureWatchdog st)

/-- R29, R113: parameter 5: a CXL port is reset, and the command waits for it. -/
def evFeatureCxlReset (st : State) : State := 
  featureCmd st 5 fun c v => modCxl st v fun p =>
    { p with resetting := true, resetCmds := p.resetCmds ++ [(c.queue, c.index)] }

/-- R29, R113: one such event. -/
def execFeatureCxlReset (st : State) : Host.Outcome State Fault Refusal := .next (evFeatureCxlReset st)

/-- R261, R113: parameter 6: the row-remap table of a base die is reloaded. -/
def evFeatureRemapReload (st : State) : State := 
  featureCmd st 6 fun c v => cmdDone (modDie st v fun d => { d with badChannels := 0 }) c

/-- R261, R113: one such event. -/
def execFeatureRemapReload (st : State) : Host.Outcome State Fault Refusal := .next (evFeatureRemapReload st)

/-- The port after its reset. One that cannot retrain stays lost: its range keeps the old capacity, so that the addresses
remain those of a lost range and no holes, and no second MEM_UE follows (R29 is silent there, DESIGN CHOICE, log 34). -/
def cxlAfterReset (ok : Bool) (capacity : Nat) (p : CxlPort) : CxlPort :=
  { p with
    up := ok
    resetting := false
    requests := []
    resetCmds := []
    capacity := if ok then capacity else p.capacity
    reported := !ok }

/-- A CXL port has retrained and found its expander, or could not (R29, R115). What was issued to its range before is
answered as lost first. -/
def cxlReturned (s : State) (port : Nat) : State :=
  let p := getCxl s port
  let ok := Config.cxlTrains port s.tick
  let s1 := modCxl (loseRequests s port) port (cxlAfterReset ok (Config.cxlCapacity port s.tick))
  p.resetCmds.foldl (fun s c => finishAt s c.1 c.2 (if ok then stDone else stFaulted) (if ok then 0 else 1) 0)
    { s1 with tick := s.tick + 1 }

/-- R29: the reset of a CXL port completes. -/
def evCxlResetComplete (st : State) : State := 
  match st.input with
  | .num port => if (getCxl st port).resetting then cxlReturned st port else st
  | _ => st

/-- R29: one such event. -/
def execCxlResetComplete (st : State) : Host.Outcome State Fault Refusal := .next (evCxlResetComplete st)

/-- R29: the link of a CXL port goes down: MEM_UE is posted once, with the start of its range. -/
def evCxlLinkDown (st : State) : State := 
  match st.input with
  | .num port =>
    if (getCxl st port).up && decide (port < 8) then
      let s1 := modCxl st port fun p => { p with up := false, reported := true }
      if (getCxl st port).reported then s1 else postMemUe s1 2 (cxlBase + port * 0x20000000000) port
    else st
  | _ => st

/-- R29: one such event. -/
def execCxlLinkDown (st : State) : Host.Outcome State Fault Refusal := .next (evCxlLinkDown st)

/-! ### Counters (R123) -/

/-- R123: CNTSET. -/
def evCntset (st : State) : State := 
  withCmd st 0x10 none fun c =>
    let k := cmdNat c.bytes 16 1
    let ctl := cmdNat c.bytes 20 1
    let src := BitVec.ofNat 32 (cmdNat c.bytes 18 2 + ctl * 65536)
    let g := st.gafin
    let cnt := if bitOf ctl 0 then tblSet 0 g.cnt k 0 else g.cnt
    cmdDone { st with gafin := { g with cnt := cnt, cntsrc := tblSet 0 g.cntsrc k src } } c

/-- R123: one such event. -/
def execCntset (st : State) : Host.Outcome State Fault Refusal := .next (evCntset st)

/-- R123: an armed counter has wrapped. -/
def evCounterWrap (st : State) : State := 
  match st.input with
  | .num k =>
    let w := tblGet 0 st.gafin.cntsrc k
    if w.getLsbD 18 then
      postHost { st with gafin := { st.gafin with cntsrc := tblSet 0 st.gafin.cntsrc k (w &&& ~~~0x40000#32) } }
        ⟨0x0050, 0, none, toBytes k 1⟩
    else st
  | _ => st

/-- R123: one such event. -/
def execCounterWrap (st : State) : Host.Outcome State Fault Refusal := .next (evCounterWrap st)

end Sys2Proof.Machine
end

