-- ==== Sys2Proof/Machine/Place.lean ====
section
/-!
DEFINITION. Sys2Proof/Machine/Place.lean: placement of teams (R127 to R130, R137 to R139): what a cell needs, where it fits, the state in which it starts, the
slots that a team holds, and the stopping and restarting of tiles (R170, R249).
-/
namespace Sys2Proof.Machine

/-! ### What a cell of a launch needs (R131, R132, R137) -/

/-- A field of a launch descriptor: n bytes at an offset. -/
def descNat (d : List Byte) (off n : Nat) : Nat := ofBytes ((d.drop off).take n)

/-- The code of a logical bank in BANKMAP. -/
def bankCode (d : List Byte) (b : Nat) : Nat := descNat d 128 8 / 4 ^ b % 4

/-- The mode of a code of BANKMAP or BANKCFG. -/
def modeOfCode (n : Nat) : BankMode :=
  match n with
  | 0 => .off
  | 1 => .spad
  | 2 => .cache
  | _ => .plane

/-- Banks, accumulator tiles and plane regions: of a launch's cell, or held in a slot. -/
structure Need where
  banks : Nat
  nacc : Nat
  planes : Nat

/-- What each cell of a launch needs. -/
def needOf (d : List Byte) : Need :=
  ⟨((List.range 32).filter fun b => bankCode d b != 0).length, descNat d 44 1,
    ((List.range 8).filter fun j => bankCode d (2 * j) == 3).length⟩

/-- What the cell of a slot holds; plane state follows the modes that BANKCFG has given. -/
def heldBy (c : Cell) : Need :=
  ⟨((List.range 32).filter fun b => (getBank c b).alloc).length, c.nacc,
    ((List.range 8).filter fun j => (getBank c (2 * j)).mode == .plane).length⟩

/-- Does a team hold the slot? -/
def slotTaken (s : State) (k : Nat) : Bool := s.teams.any fun e => e.2.seats.contains k

/-- The slot that a core offers, foreground first. -/
def freeSlotOf (s : State) (core : Nat) : Option Nat :=
  if !slotTaken s (2 * core) then some (2 * core)
  else if !slotTaken s (2 * core + 1) then some (2 * core + 1)
  else none

/-- Does a core fit a cell (R137)? A fenced core takes none (R262). -/
def coreFits (s : State) (core : Nat) (need : Need) : Bool :=
  let a := heldBy (getCell s (2 * core))
  let b := heldBy (getCell s (2 * core + 1))
  !(getCore s core).fenced && (freeSlotOf s core).isSome && decide (a.banks + b.banks + need.banks ≤ 32)
    && decide (a.nacc + b.nacc + need.nacc ≤ 48) && decide (a.planes + b.planes + need.planes ≤ 8)

/-- The slots of a cluster that fit a cell: cores with a free foreground slot first, each group ascending (R138). -/
def usableSlots (s : State) (cluster : Nat) (need : Need) : List Nat :=
  let l := ((stride (16 * cluster) 1 16).filter fun g => coreFits s g need).filterMap (freeSlotOf s)
  (l.filter fun k => k % 2 == 0) ++ l.filter fun k => k % 2 == 1

/-- Does CLMASK admit a cluster? -/
def clusterAdmitted (d : List Byte) (cluster : Nat) : Bool := descNat d 48 8 == 0 || bitOf (descNat d 48 8) cluster

/-- The plane regions that a cell of a team needs: as many as it held when its image was written, else those of the launch. -/
def cellPlanes (t : Team) (d : List Byte) (i : Nat) : Nat := (tblGet none t.planes i).getD (needOf d).planes

/-- What each cell of a team needs: a core that hosts one of a saved team's cells could host the one with the most plane regions
(R137, DEDUCED, log 7). -/
def teamNeed (t : Team) (d : List Byte) : Need :=
  { needOf d with planes := (List.range (descNat d 42 1)).foldl (fun m i => max m (cellPlanes t d i)) 0 }

/-- The slots that a team would take on a cluster: cell i the i-th. -/
def fitCluster (s : State) (d : List Byte) (need : Need) (cluster : Nat) : Option (List Nat) :=
  let l := usableSlots s cluster need
  let n := descNat d 42 1
  if clusterAdmitted d cluster && decide (n ≤ l.length) then some (l.take n) else none

/-- Free foreground slots of a cluster. -/
def freeForeground (s : State) (cluster : Nat) : Nat :=
  ((stride (16 * cluster) 1 16).filter fun g => !slotTaken s (2 * g) && !(getCore s g).fenced).length

/-- On a die: the fitting cluster with the most free foreground slots, the lower one among equals. -/
def fitDie (s : State) (d : List Byte) (need : Need) (die : Nat) : Option (List Nat) :=
  ((stride (5 * die) 1 5).foldl (fun (b : Option (Nat × List Nat)) cl =>
    match fitCluster s d need cl with
    | none => b
    | some l =>
      match b with
      | some (n, _) => if n < freeForeground s cl then some (freeForeground s cl, l) else b
      | none => some (freeForeground s cl, l)) none).map Prod.snd

/-- The slots that a team takes: on the first die with a fitting cluster (R138). -/
def fitTeam (s : State) (d : List Byte) (t : Team) : Option (List Nat) :=
  (List.range 8).findSome? (fitDie s d (teamNeed t d))

/-- The slots of a restore that names the core of one cell (R151): that core for its cell, for the others the order of
R138. -/
def fitTarget (s : State) (d : List Byte) (t : Team) (cell core : Nat) : Option (List Nat) :=
  let l := usableSlots s (core / 16) (teamNeed t d)
  let rest := (l.filter fun k => keyCore k != core).take (descNat d 42 1 - 1)
  match l.find? fun k => keyCore k == core with
  | some k =>
    if clusterAdmitted d (core / 16) && rest.length == descNat d 42 1 - 1 then some (rest.take cell ++ k :: rest.drop cell)
    else none
  | none => none

/-! ### The start of a cell (R137, R139) -/

/-- The logical banks of a cell in the order in which they take physical banks: paired banks, then single ones (R137). -/
def bankOrder (alloc : Nat → Bool) : List Nat :=
  let both := fun (k : Nat) => alloc (2 * k) && alloc (2 * k + 1)
  (List.range 8).flatMap (fun k => if both k then [2 * k, 2 * k + 1] else [])
    ++ (List.range 32).filter fun b => alloc b && !(decide (b < 16) && both (b / 2))

/-- The physical bank of a logical bank of the cell in slot `k` (R137): from bank 0 upward in slot F, from bank 31 downward
in slot B, a pair on one physical pair. -/
def physicalBank (k : Nat) (c : Cell) (b : Nat) : Option Nat :=
  let alloc := fun (b : Nat) => (getBank c b).alloc
  let l := bankOrder alloc
  let paired := decide (b < 16) && alloc (2 * (b / 2)) && alloc (2 * (b / 2) + 1)
  (l.findIdx? fun x => x == b).map fun i =>
    if k % 2 = 0 then i else if paired then 30 - i / 2 * 2 + i % 2 else 31 - i

/-- The ring of an entry of the ring table (R361). -/
def ringOfEntry (w : BitVec 128) : Ring :=
  let kind := w.extractLsb' 73 3
  let log2n := (w.extractLsb' 76 4).toNat
  if kind = 0 ∨ 4 < kind.toNat ∨ 8 < log2n then Ring.unset
  else ⟨kind, w.extractLsb' 96 32, (w.extractLsb' 80 16).toNat, log2n, 0, 0, []⟩

/-- Entry j of a table of 16-byte entries. -/
def entryAt (t : List Byte) (j : Nat) : BitVec 128 := BitVec.ofNat 128 (descNat t (16 * j) 16)

/-- The bank of a code of BANKMAP at the start (R139). -/
def startBank (code : Nat) : Bank := ⟨code != 0, modeOfCode code, if code = 1 ∨ code = 3 then 16 else 0, none⟩

/-- The banks of a cell at the start. -/
def startBanks (d : List Byte) : Tbl Bank :=
  foldIndex (fun t b => tblSet Bank.none t b (startBank (bankCode d b))) [] 0 32

/-- The plane regions of a cell at the start. -/
def startRegions (d : List Byte) : Tbl (Option Region) :=
  foldIndex (fun t j =>
    let r := descNat d (136 + j) 1
    if bankCode d (2 * j) = 3 then tblSet none t j (some ⟨BitVec.ofNat 3 r, BitVec.ofNat 3 (r / 8)⟩) else t) [] 0 8

/-- The stage of a cell index. -/
def cellStage (d : List Byte) (i : Nat) : Nat := descNat d 56 8 / 16 ^ i % 16

/-- A cell as it starts at its first placement (R128, R139). -/
def startCell (l : Launch) (ctx team i : Nat) : Cell :=
  let d := l.desc
  let fmt := fmtctlRead (BitVec.ofNat 64 (descNat d 192 8))
  { Cell.empty with
    live := true
    ctx := ctx
    team := team
    cell := i
    stage := cellStage d i
    pc := BitVec.ofNat 64 ((descNat d 0 8 + descNat d (64 + 4 * cellStage d i) 4) % 2 ^ 52)
    s := tblSet 0 [] 1 (BitVec.ofNat 64 (descNat d 8 8))
    fmtctl := fmt
    gens := seedGens (fmtctlSeed fmt) team i
    thresh := l.thresh
    banks := startBanks d
    regions := startRegions d
    rings := foldIndex (fun t j => tblSet Ring.unset t j (ringOfEntry (entryAt l.rings j))) [] 0 32
    nacc := descNat d 44 1 }

/-- The allocated pairs of banks that hold the plane state of n regions reserved for a cell. -/
def reservedPairs (d : List Byte) (n : Nat) : List Nat :=
  ((List.range 8).filter fun j => bankCode d (2 * j) != 0 && bankCode d (2 * j + 1) != 0).take n

/-- The banks of a reserved slot: those that the launch allocates, with as many plane regions as its cell will hold. -/
def reservedBanks (d : List Byte) (n : Nat) : Tbl Bank :=
  foldIndex (fun t b =>
    let code := if bankCode d b = 0 then 0 else if (reservedPairs d n).contains (b / 2) && decide (b < 16) then 3 else 1
    tblSet Bank.none t b (startBank code)) [] 0 32

/-- What a reserved slot holds until its cell is restored (R137, R151): the resources, and no resident cell. -/
def reservedCell (l : Launch) (t : Team) (ctx team i : Nat) : Cell :=
  { Cell.empty with
    ctx := ctx
    team := team
    cell := i
    run := .stopped
    banks := reservedBanks l.desc (cellPlanes t l.desc i)
    nacc := descNat l.desc 44 1 }

/-- Put a cell into each of the slots, with its index. -/
def seatCells (s : State) (f : Nat → Cell) (i : Nat) : List Nat → State
  | [] => s
  | k :: ks => seatCells (setCell s k (f i)) f (i + 1) ks

/-- The placement of cells on cores invalidates the context's lines of their instruction caches (R265). -/
def freshCode (s : State) (ctx : Nat) (seats : List Nat) : State :=
  seats.foldl (fun s k => modCore s (keyCore k) (dropLines ctx)) s

/-- Place a team that has never been placed (R138, R139). -/
def placeNew (s : State) (l : Launch) (ctx team : Nat) (seats : List Nat) : State :=
  let s1 := freshCode (seatCells s (startCell l ctx team) 0 seats) ctx seats
  let s2 := modTeam s1 (teamKey ctx team) fun t =>
    { t with run := .placed, seats := seats, started := true, halted := 0, barriers := [], steps := [], stepBeat := [],
             planes := [] }
  seats.foldl rcbsPlaced s2

/-- Reserve slots for a team whose cells are to be restored (R151, R257). -/
def reserveTeam (s : State) (l : Launch) (ctx team : Nat) (seats : List Nat) : State :=
  let t := getTeam s (teamKey ctx team)
  modTeam (seatCells s (reservedCell l t ctx team) 0 seats) (teamKey ctx team) fun t => { t with seats := seats, restored := 0 }

/-- The slot of a cell of a team, resident or reserved. -/
def seatFor (s : State) (ctx team cell : Nat) : Option Nat :=
  (getTeam s (teamKey ctx team)).seats.find? fun k => (getCell s k).cell == cell

/-! ### Stopping and restarting a tile (R170, R249, R257) -/

/-- Does a save hold a core's tile stopped: that of a cell not yet written, or of one that is lost (R255)? -/
def saveHolds (s : State) (core : Nat) (j : SaveJob) : Bool :=
  j.grace.isNone && (j.left ++ j.lost).any fun i =>
    match seatFor s j.ctx j.team i with
    | some k => keyCore k == core && (getCell s k).run != .stopped
    | none => false

/-- Does a restore hold a core's tile stopped (R257)? -/
def restoreHolds (s : State) (core : Nat) (j : RestoreJob) : Bool :=
  match seatFor s j.ctx j.team j.cell with
  | some k => keyCore k == core
  | none => false

/-- Is a core's tile held stopped? -/
def tileHeld (s : State) (core : Nat) : Bool := s.saves.any (saveHolds s core) || s.restores.any (restoreHolds s core)

/-- The step flips that the shell held take effect (R170). -/
def applyFlips (c : Cell) : Cell := { (c.heldFlips.foldl flipRegion c) with heldFlips := [] }

/-- A cell as its tile restarts: held flips take effect, and what had left the tile before the stop is as any other access. -/
def resumedSlot (c : Cell) : Cell :=
  let c1 := applyFlips c
  { c1 with accesses := c1.accesses.map fun a => { a with out := false } }

/-- A slot's tile has restarted: held flips, caught latches, the events of collided sends, what waits to be produced, and the pads
that RCBs hold back take effect before its first issue (R170, R173, R175, R250). -/
def resumeSlot (s : State) (k : Nat) : State :=
  if (getCell s k).live && tileRuns s k then
    let s1 := modCell s k resumedSlot
    rcbsPlaced (settleProducers (settleDeferred (settleLatches s1 k (getCell s1 k).latches.length) k) k) k
  else s

/-- Is an access a near one, not performed, to a slot of a core? -/
def headsFor (s : State) (k core : Nat) (a : Access) : Bool :=
  unperformed a && match a.place with
    | .near addr => match nearPlace s k addr with
      | some (j, _, _) => keyCore j == core
      | none => false
    | _ => false

/-- Must an access have left its tile: it is sent on its PDC, stands in the queue of a CXL port, or is on its way to a tile that
has stopped? -/
def hasLeft (s : State) (k : Nat) (a : Access) : Bool :=
  a.drains || (match a.place with
    | .window _ _ _ sent => sent
    | _ => false) || s.cxl.any fun e => e.2.requests.contains (k, a.id)

/-- Can an access leave its tile at all: it goes neither through the core cache nor to the tile's own banks? -/
def mayLeave (s : State) (k : Nat) (a : Access) : Bool :=
  match a.place with
  | .phys _ clvl _ _ => !throughCache (getCell s k) clvl
  | .near addr => !ownNear (addr.setWidth 64) && !nearHeld s k a
  | .window .. => false

/-- The accesses of a cell that can have left its tile, less those that one still inside must precede, and so on. -/
def closeLeft (s : State) (c : Cell) (must : Access → Bool) (l : List Access) : Nat → List Access
  | 0 => l
  | n + 1 =>
    closeLeft s c must (l.filter fun a => must a || c.accesses.all fun b =>
      !(unperformed b && b.id != a.id && precedes c b a) || l.any fun x => x.id == b.id) n

/-- The accesses of a slot's cell that had left its tile as the tile stops (R250): a free choice among those that may have, in
an order that they perform in (log 7). Those of a cell that has yielded all go on (R149). -/
def leftAccesses (s : State) (k : Nat) : List Access :=
  let c := getCell s k
  let l := c.accesses.filter unperformed
  if c.run = .stopped then l
  else
    let free := fun (a : Access) => mayLeave s k a && Config.choose (s.tick * 65536 + a.id) 2 % 2 == 0
    closeLeft s c (hasLeft s k) (l.filter fun a => hasLeft s k a || free a) l.length

/-- Mark what has left a slot's tile as it stops. -/
def markLeft (s : State) (k : Nat) : State :=
  let l := (leftAccesses s k).map Access.id
  modCell s k fun c => { c with accesses := c.accesses.map fun a => { a with out := l.contains a.id } }

/-- Mark the accesses of a slot's cell that head for a core; those inside a stopped tile of their own are not on their way. -/
def markAccesses (s : State) (k core : Nat) (c : Cell) : Cell :=
  let mark := fun (a : Access) => if headsFor s k core a && accessRuns s k a then { a with drains := true } else a
  { c with accesses := c.accesses.map mark }

/-- The near accesses on their way to a core as its tile stops are delivered (R250). -/
def markDrains (s : State) (core : Nat) : State :=
  (tblKeys s.cells).foldl (fun r k => modCell r k (markAccesses s k core)) s

/-- Is such an access still on its way? -/
def drainsLeft (s : State) (core : Nat) : Bool :=
  s.cells.any fun e => e.2.accesses.any fun a => a.drains && headsFor s e.1 core a

/-- Stop or restart a core's tile by what holds it. -/
def settleTile (s : State) (core : Nat) : State :=
  let held := tileHeld s core
  if held = (getCore s core).stopped then s
  else
    let stop := fun (s : State) => modCore s core fun u => { u with stopped := held }
    if held then
      let s1 := markLeft (markLeft { s with tick := s.tick + 1 } (2 * core)) (2 * core + 1)
      markDrains (stop s1) core
    else
      let s1 := stop s
      resumeSlot (resumeSlot s1 (2 * core)) (2 * core + 1)

/-- Settle the tiles of the slots listed. -/
def settleTiles (s : State) (seats : List Nat) : State := seats.foldl (fun s k => settleTile s (keyCore k)) s

/-- The arrays that a slot's commands hold are free. -/
def dropArrays (s : State) (k : Nat) : State :=
  let other := fun (a : Option (Nat × BitVec 16)) => match a with
    | some (j, _) => if j = k then none else a
    | none => none
  modCore s (keyCore k) fun u => { u with arrayX := other u.arrayX, arrayY := other u.arrayY }

/-- The send buffer of a saved cell stays in the shell of its core: a BCAST committed before the stop is sent on its beat
(R175). -/
def shelveSends (s : State) (k : Nat) : State :=
  let c := getCell s k
  modCore s (keyCore k) fun u => { u with shell := u.shell ++ c.sends.map fun x => ⟨c.ctx, c.team, c.cell, x⟩ }

/-- A team gives up the slot of a saved cell, scrubbed (R263). -/
def vacate (s : State) (ctx team k : Nat) : State :=
  modTeam (freeSlot (dropArrays (shelveSends s k) k) k) (teamKey ctx team) fun t =>
    { t with seats := t.seats.filter fun j => j != k }

/-- Credit is granted again to the senders of the RCBs that a slot's cell consumes (R258, kind 2). -/
def regrantSeat (s : State) (k : Nat) : State :=
  (tblKeys s.net.rcbs).foldl (fun s i =>
    let b := getRcb s i
    if b.state != 0 && rcbReady s b == some k then regrantRcb s i else s) s

/-- A restored cell as its team runs again: one whose arrival at a barrier or step its team's block holds waits there, one that
had yielded in the group of its arrival too (R143, R150). -/
def releasedSeat (s : State) (c : Cell) : Cell :=
  let c1 := { c with held := false, waitSince := now s }
  if c1.run == .run && stillAwaits s c1 then { c1 with run := .wait, arrived := true } else c1

/-- Every cell of a team runs: its cells leave STOPPED on one beat, it is PLACED, and its counter record goes (R151, R256,
R257). -/
def releaseTeam (s : State) (ctx team : Nat) : State :=
  let tk := teamKey ctx team
  let seats := (getTeam s tk).seats
  let s1 := seats.foldl (fun s k => modCell s k (releasedSeat s)) s
  let halted := seats.foldl (fun m k => if (getCell s1 k).run = .halted then m ||| 2 ^ (getCell s1 k).cell else m) 0
  let s2 := modTeam s1 tk fun t =>
    { t with run := .placed, counter := none, restored := 0, halted := halted, planes := [] }
  settleTeam (seats.foldl regrantSeat (seats.foldl resumeSlot s2)) ctx team

end Sys2Proof.Machine
end

