-- ==== Sys2Proof/Machine/Image.lean ====
section
/-!
DEFINITION. Sys2Proof/Machine/Image.lean: scan images (R251 to R254, R258, R260): the bytes of an image, and the cell that an image holds. The contents of FLOPS,
SHELL and TEAM are not architected; what a save of this package put there is kept beside the image's bytes (log 20).
-/
namespace Sys2Proof.Machine

/-! ### Registers and banks as bytes (R252, R253) -/

/-- A section: its type, index and content. -/
structure Section where
  type : Nat
  index : Nat
  data : List Byte

/-- A section whose content the scan map defines. -/
def scanSection (type tag n : Nat) : Section := ⟨type, 0, (List.range n).map (Config.scanByte type tag)⟩

/-- Several numbers of n bytes each. -/
def numBytes (l : List Nat) (n : Nat) : List Byte := l.flatMap fun x => toBytes x n

/-- VRF: vector registers, masks, generators; a poisoned register is written as zero. -/
def vrfBytes (c : Cell) : List Byte :=
  numBytes ((List.range 4096).map fun i => if tblGet false c.poisonV (i / 64) then 0 else (tblGet 0 c.v i).toNat) 4
    ++ numBytes ((List.range 16).map fun n => (rdM c n).toNat) 8
    ++ numBytes ((List.range 64).map fun l => (tblGet 0 c.gens l).toNat) 4

/-- SWAPCTL (R146). -/
def swapctl (c : Cell) : Nat := bit01 c.yreq * 2 ^ 63 + c.thresh.toNat

/-- The scalars named by YREGS (R131). -/
def yregs (d : List Byte) : List Nat := ((List.range 8).map fun j => descNat d (184 + j) 1 % 64).filter fun n => n != 0

/-- A scalar as an image carries it. -/
def scalarWord (c : Cell) (n : Nat) : Nat := if n = 0 ∨ tblGet false c.poisonS n then 0 else (tblGet 0 c.s n).toNat

/-- SRF (R253). -/
def srfBytes (c : Cell) : List Byte :=
  numBytes ((List.range 64).map (scalarWord c)) 8 ++ toBytes (maskOf (rdP c) 16) 2 ++ toBytes c.cq.length 1 ++ zeroBytes 1
    ++ toBytes (maskOf (fun i => c.cq.getD i false) 16) 2 ++ zeroBytes 2
    ++ numBytes ((List.range 4).map fun n => (tblGet 0 c.lc n).toNat) 8
    ++ numBytes ((List.range 8).map fun n => (tblGet 0 c.mp n).toNat) 8
    ++ numBytes ((List.range 8).map fun n => (tblGet 0 c.xp n).toNat) 8
    ++ toBytes c.pc.toNat 8 ++ toBytes (bit01 c.super) 1 ++ zeroBytes 7
    ++ numBytes [(fmtctlRead c.fmtctl).toNat, c.stepcnt.toNat, swapctl c, c.tvec.toNat, c.trappc.toNat, (trapcause c).toNat,
        c.trapslot.toNat, c.trapaddr.toNat, c.trapaux.toNat, (latstat c).toNat, c.evsel.toNat] 8
    ++ numBytes ((List.range 16).map fun n => (tblGet 0 c.evcnt n).toNat) 8 ++ numBytes [c.watcha.toNat, c.watchc.toNat] 8
    ++ zeroBytes 96

/-- SRF of a yield record: the program counter and the scalars of YREGS, the rest zero (R252). -/
def yieldBytes (d : List Byte) (c : Cell) : List Byte :=
  numBytes ((List.range 64).map fun n => if (yregs d).contains n then scalarWord c n else 0) 8 ++ zeroBytes 168
    ++ toBytes c.pc.toNat 8 ++ zeroBytes 336

/-- The first n bytes of a bank; a poisoned word is written as zero (R260). -/
def bankBytes (c : Cell) (b n : Nat) : List Byte :=
  (List.range n).map fun o => if nearPoisoned c b o 1 then 0 else bankByte c b o

/-- The word state of n words of region j. -/
def wordState (c : Cell) (j n : Nat) : List Byte :=
  (List.range n).map fun w =>
    let mark := tblGet 0 c.writer (16384 * j + w)
    BitVec.ofNat 8 (bit01 (presentOdd c j w) + 2 * bit01 (mark != 0) + 4 * (mark - 1))

/-- The recency rank of a line among the cache's ways: how many ways of its set are older. -/
def rankInSet (c : Cell) (set : Nat) (l : CacheLine) : Nat :=
  ((cacheWays c).filter fun w => match getLine c w set with
    | some x => decide (x.rank < l.rank)
    | none => false).length

/-- The line state of a set of a CACHE bank. -/
def lineState (c : Cell) (b set : Nat) : Nat :=
  match getLine c b set with
  | some l => l.tag % 2 ^ 36 + l.valid.toNat * 2 ^ 36 + l.dirty.toNat * 2 ^ 44 + l.evp.toNat * 2 ^ 52 + rankInSet c set l * 2 ^ 54
  | none => 0

/-- The data of a line of a CACHE bank. -/
def lineBytes (c : Cell) (b set : Nat) : List Byte :=
  match getLine c b set with
  | some l => fitBytes l.data 128
  | none => bankBytes c b 0 ++ zeroBytes 128

/-- The BANK section of a logical bank, where it has one. -/
def bankSection (c : Cell) (b : Nat) : Option Section :=
  let k := getBank c b
  let n := 4096 * k.extent
  if !k.alloc then none
  else
    match k.mode with
    | .plane =>
      if b % 2 = 1 then none else some ⟨4, b, bankBytes c b n ++ bankBytes c (b + 1) n ++ wordState c (b / 2) (n / 4)⟩
    | .cache => some ⟨4, b, (List.range 512).flatMap (lineBytes c b) ++ numBytes ((List.range 512).map (lineState c b)) 8⟩
    | _ => some ⟨4, b, bankBytes c b n⟩

/-- The ACC section of a tile. -/
def accSection (c : Cell) (t : Nat) : Section :=
  ⟨5, t, numBytes ((List.range 4096).map fun n =>
    if accPoisoned c t (n / 64) (n % 64) then 0 else (rdA c t (n / 64) (n % 64)).toNat) 4⟩

/-- MUCODE. -/
def mucodeBytes (c : Cell) : List Byte :=
  numBytes ((List.range 4096).map fun n => (storeWord c n).toNat) 8
    ++ numBytes ((List.range 256).map fun n => (routineEntry c n).toNat) 4

/-! ### Reconciliation (R258) -/

/-- An entry of RECON: kind, object, consumed count, produced count, slot count or depth. -/
def reconEntry (kind obj consumed produced depth : Nat) : List Byte :=
  toBytes kind 1 ++ toBytes obj 1 ++ zeroBytes 2 ++ toBytes consumed 4 ++ toBytes produced 4 ++ toBytes depth 4

/-- The pair of a ring under a kind. -/
def ringPair (kind obj : Nat) (r : Ring) : List Byte := reconEntry kind obj r.rp.toNat r.wp.toNat (ringSlots r)

/-- The rings of a cell that are set, and satisfy a test. -/
def setRings (c : Cell) (p : Ring → Bool) : List Nat :=
  (List.range 32).filter fun n => (getRing c n).kind != 0 && p (getRing c n)

/-- The local channels that a cell receives, with their rings. -/
def localChannels (s : State) (c : Cell) : List (Nat × Nat) :=
  (List.range (launchField s c.ctx 40 2)).filterMap fun n =>
    match chanEntry s c.ctx n with
    | some e => if chKind e = 1 ∧ chRcell e = c.cell ∧ (getRing c (chRing e)).kind ≠ 0 then some (n, chRing e) else none
    | none => none

/-- An entry for a pair that was ever used: RECON of a cell that used no latch and no copy engine has none (worked example
of R254). -/
def usedEntry (kind depth : Nat) (consumed produced : BitVec 32) : List Byte :=
  if consumed = 0 ∧ produced = 0 then [] else reconEntry kind 0 consumed.toNat produced.toNat depth

/-- RECON: an entry per pair. -/
def reconBytes (s : State) (c : Cell) : List Byte :=
  (setRings c fun _ => true).flatMap (fun n => ringPair 1 n (getRing c n))
    ++ (setRings c fun r => r.kind == 2).flatMap (fun n => ringPair 2 n (getRing c n))
    ++ (localChannels s c).flatMap (fun x => ringPair 3 x.1 (getRing c x.2))
    ++ usedEntry 4 8 c.recon.latchArmed c.recon.latchDone
    ++ usedEntry 5 64 c.recon.copyEnq c.recon.copyDone

/-! ### An image (R251, R252, R254) -/

/-- Length of SHELL: a 64-byte record for each caught response, latch and send-buffer entry, then the poison list, whose
length no rule states (log 13). -/
def shellLength (c : Cell) : Nat :=
  let poisoned := c.poisonBank.length + c.poisonAcc.length + c.poisonS.length + c.poisonV.length + c.poisonR.length
  64 * (c.accesses.length + c.latches.length + c.sends.length)
    + if poisoned = 0 then 0 else Config.unstated 252 poisoned % 65536

/-- Length of FLOPS (R252): 458,752 bytes at scan-map version 1; no rule gives it for another version. -/
def flopsBytes : Nat := if Config.scanMap = 1 then 458752 else Config.flopsLength

/-- The sections of an image in their order; a yield record has SRF and, for cell 0, TEAM. -/
def sectionsOf (s : State) (c : Cell) (yielded : Bool) : List Section :=
  let d := ((getCtx s c.ctx).launch.map Launch.desc).getD []
  let team := if c.cell = 0 then [scanSection 9 s.tick 2048] else []
  if yielded then ⟨3, 0, yieldBytes d c⟩ :: team
  else
    [scanSection 1 s.tick flopsBytes, ⟨2, 0, vrfBytes c⟩, ⟨3, 0, srfBytes c⟩]
      ++ (List.range 32).filterMap (bankSection c) ++ (List.range c.nacc).map (accSection c)
      ++ [⟨6, 0, mucodeBytes c⟩, scanSection 7 s.tick (shellLength c), ⟨8, 0, reconBytes s c⟩] ++ team

/-- The section table and the sections with their padding, from an offset of the image on. -/
def layOut (pos : Nat) : List Section → List Byte × List Byte
  | [] => ([], [])
  | x :: xs =>
    let start := up64 pos
    let rest := layOut (start + x.data.length) xs
    (toBytes x.type 2 ++ toBytes x.index 2 ++ zeroBytes 4 ++ toBytes start 4 ++ toBytes x.data.length 4 ++ rest.1,
      zeroBytes (start - pos) ++ x.data ++ rest.2)

/-- The revision of the tiles: IDENT[63:32] (R251). -/
def tileRevision : Nat := 0x640 * 2 ^ 20 + Config.stepping.toNat * 2 ^ 12 + Config.scanMap.toNat

/-- The key of a context's images (R254). -/
def imageKey (s : State) (ctx : Nat) : BitVec 256 := if (getCtx s ctx).prot then (getCtx s ctx).key else 0

/-- The sections encrypted or decrypted: of a context that is not protected they are in clear. -/
def cryptBytes (s : State) (ctx : Nat) (nonce bs : List Byte) : List Byte :=
  if (getCtx s ctx).prot then bs.mapIdx fun i b => b ^^^ Config.gcmByte (imageKey s ctx) nonce i else bs

/-- The nonce of a header: CTXID, SAVECNT, TILE. -/
def imageNonce (header : List Byte) : List Byte :=
  (header.drop 16).take 2 ++ (header.drop 24).take 8 ++ (header.drop 20).take 2

/-- The image of the cell in a slot, with the counter of its save. -/
def imageOf (s : State) (k : Nat) (savecnt : BitVec 64) (yielded : Bool) : List Byte :=
  let c := getCell s k
  let l := sectionsOf s c yielded
  let (table, body) := layOut (64 + 16 * l.length) l
  let flags := bit01 (ctxProt s c.ctx) + 2 * bit01 yielded + 4 * (k % 2) + 8 * bit01 (c.cell == 0)
  let tile := keyCore k + 1024 * (k % 2)
  let length := 64 + table.length + body.length + 16
  let header := toBytes 0x314E414353564E44 8 ++ toBytes 1 4 ++ toBytes tileRevision 4 ++ toBytes c.ctx 2 ++ toBytes flags 2
    ++ toBytes tile 2 ++ toBytes l.length 2 ++ toBytes savecnt.toNat 8 ++ toBytes (cellId k c).toNat 8
    ++ toBytes c.stopBeat.toNat 8 ++ toBytes c.stopTime.toNat 8 ++ toBytes length 4 ++ zeroBytes 4
  let nonce := imageNonce header
  let sealed := cryptBytes s c.ctx nonce body
  header ++ table ++ sealed ++ fitBytes (Config.gcmTag (imageKey s c.ctx) nonce (header ++ table) sealed) 16

/-! ### Reading an image (R257, R258, R427) -/

/-- Bytes of header and section table. -/
def clearBytes (img : List Byte) : Nat := 64 + 16 * descNat img 22 2

/-- Does the tag hold over the whole image (R257)? -/
def tagGood (s : State) (ctx : Nat) (img : List Byte) : Bool :=
  let n := clearBytes img
  let aad := img.take n
  let body := (img.drop n).take (img.length - n - 16)
  decide (n + 16 ≤ img.length)
    && fitBytes (Config.gcmTag (imageKey s ctx) (imageNonce img) aad body) 16 == img.drop (img.length - 16)

/-- The content of a section, when the image has it. -/
def sectionAt (s : State) (ctx : Nat) (img : List Byte) (type index : Nat) : Option (List Byte) :=
  let n := clearBytes img
  let body := cryptBytes s ctx (imageNonce img) ((img.drop n).take (img.length - n - 16))
  (List.range (descNat img 22 2)).findSome? fun i =>
    let e := 64 + 16 * i
    if descNat img e 2 = type ∧ descNat img (e + 2) 2 = index then
      some ((body.drop (descNat img (e + 8) 4 - n)).take (descNat img (e + 12) 4))
    else none

/-- Is the fill of every ring and channel within its slot count (R258)? -/
def reconGood (r : List Byte) : Bool :=
  (List.range (r.length / 16)).all fun i =>
    let e := 16 * i
    let kind := descNat r e 1
    !(kind == 1 || kind == 3)
      || decide ((descNat r (e + 8) 4 + 2 ^ 32 - descNat r (e + 4) 4) % 2 ^ 32 ≤ descNat r (e + 12) 4)

/-- The verdict of R257 on an image: 0 good, 2 TAG, 3 REVISION; a poisoned image byte is refused as TAG (R260). -/
def verdictOf (s : State) (ctx : Nat) (img : List Byte) (poisoned : Bool) : Nat :=
  if poisoned || !tagGood s ctx img then 2
  else if descNat img 12 4 ≠ tileRevision then 3
  else if !reconGood ((sectionAt s ctx img 8 0).getD []) then 2
  else 0

/-- Is the image a yield record? -/
def imageYielded (img : List Byte) : Bool := bitOf (descNat img 18 2) 1

/-- Numbers of n bytes each, from an offset of a section on. -/
def numsAt (d : List Byte) (off n count : Nat) : List Nat := (List.range count).map fun i => descNat d (off + n * i) n

/-- A table of 64-bit registers from a section. -/
def regsAt (d : List Byte) (off count : Nat) : Tbl (BitVec 64) :=
  tblSetList 0 [] 0 ((numsAt d off 8 count).map (BitVec.ofNat 64))

/-- A cell with SRF loaded (R253). -/
def loadSrf (d : List Byte) (c : Cell) : Cell :=
  let w := fun (i : Nat) => BitVec.ofNat 64 (descNat d (696 + 8 * i) 8)
  { c with
    s := tblErase (regsAt d 0 64) 0
    p := foldIndex (fun t n => tblSet false t n (bitOf (descNat d 512 2) n)) [] 1 15
    cq := (List.range (descNat d 514 1)).map (bitOf (descNat d 516 2))
    lc := regsAt d 520 4
    mp := regsAt d 552 8
    xp := regsAt d 616 8
    pc := BitVec.ofNat 64 (descNat d 680 8)
    super := bitOf (descNat d 688 1) 0
    fmtctl := w 0
    stepcnt := w 1
    yreq := (w 2).getLsbD 63
    thresh := (w 2).setWidth 32
    tvec := w 3
    trappc := w 4
    busy := (w 5).getLsbD 62
    pm := (w 5).getLsbD 61
    defer := (w 5).getLsbD 60
    engine := (w 5).getLsbD 59
    cause := (w 5).setWidth 8
    trapslot := (w 6).setWidth 8
    trapaddr := w 7
    trapaux := w 8
    latFilled := (w 9).getLsbD 0
    latColl := (w 9).getLsbD 2
    latBeat := (w 9).extractLsb' 32 16
    evsel := w 10
    evcnt := regsAt d 784 16
    watcha := BitVec.ofNat 64 (descNat d 912 8)
    watchc := BitVec.ofNat 64 (descNat d 920 8) }

/-- A cell with VRF loaded. -/
def loadVrf (d : List Byte) (c : Cell) : Cell :=
  { c with
    v := tblSetList 0 [] 0 ((numsAt d 0 4 4096).map (BitVec.ofNat 32))
    m := tblErase (regsAt d 16384 16) 0
    gens := tblSetList 0 [] 0 ((numsAt d 16512 4 64).map (BitVec.ofNat 32)) }

/-- The first bytes of a bank from a section. -/
def putBank (b : Nat) (bs : List Byte) (c : Cell) : Cell :=
  { c with bytes := tblSetList 0 (tblFilter (fun w _ => w / 65536 != b) c.bytes) (65536 * b) bs }

/-- The word state of region j from a section. -/
def putWordState (j : Nat) (bs : List Byte) (c : Cell) : Cell :=
  let st := fun (w : Nat) => (bs.getD w 0).toNat
  { c with
    selOdd := foldIndex (fun t w => tblSet false t (16384 * j + w) (bitOf (st w) 0)) c.selOdd 0 bs.length
    writer := foldIndex (fun t w => tblSet 0 t (16384 * j + w) (if bitOf (st w) 1 then st w / 4 % 16 + 1 else 0)) c.writer 0
      bs.length }

/-- The line of a set of a CACHE bank from a section. -/
def putLine (b : Nat) (d : List Byte) (c : Cell) (set : Nat) : Cell :=
  let w := BitVec.ofNat 64 (descNat d (65536 + 8 * set) 8)
  setLine c b set (if w.extractLsb' 36 8 = 0#8 then none
    else some ⟨(w.extractLsb' 0 36).toNat, w.extractLsb' 36 8, w.extractLsb' 44 8, w.extractLsb' 52 2,
      (w.extractLsb' 54 5).toNat, (d.drop (128 * set)).take 128⟩)

/-- A cell with the BANK section of a bank loaded. -/
def loadBank (b : Nat) (d : List Byte) (c : Cell) : Cell :=
  match (getBank c b).mode with
  | .plane =>
    let n := 4096 * (getBank c b).extent
    putWordState (b / 2) (d.drop (2 * n)) (putBank (b + 1) ((d.drop n).take n) (putBank b (d.take n) c))
  | .cache => foldIndex (putLine b d) c 0 512
  | _ => putBank b d c

/-- A cell with the ACC section of a tile loaded. -/
def loadAcc (t : Nat) (d : List Byte) (c : Cell) : Cell :=
  { c with a := tblSetList 0 (tblFilter (fun w _ => w / 4096 != t) c.a) (4096 * t) ((numsAt d 0 4 4096).map (BitVec.ofNat 32)) }

/-- A cell with MUCODE loaded. -/
def loadMucode (d : List Byte) (c : Cell) : Cell :=
  { c with
    mucode := tblSetList none [] 0 ((numsAt d 0 8 4096).map fun x => some (BitVec.ofNat 64 x))
    routines := tblSetList none [] 0 ((numsAt d 32768 4 256).map fun x => some (BitVec.ofNat 32 x)) }

/-- The consumed and produced counts of a ring from RECON. -/
def loadRecon (d : List Byte) (c : Cell) : Cell :=
  foldIndex (fun c i =>
    let e := 16 * i
    let x := BitVec.ofNat 32 (descNat d (e + 4) 4)
    let y := BitVec.ofNat 32 (descNat d (e + 8) 4)
    let n := descNat d (e + 1) 1
    match descNat d e 1 with
    | 1 => setRing c n { getRing c n with rp := x, wp := y }
    | 4 => { c with recon := { c.recon with latchArmed := x, latchDone := y } }
    | 5 => { c with recon := { c.recon with copyEnq := x, copyDone := y } }
    | _ => c) { c with recon := ⟨0, 0, 0, 0⟩ } 0 (d.length / 16)

/-- A section applied when the image has it. -/
def withSection (x : Option (List Byte)) (f : List Byte → Cell → Cell) (c : Cell) : Cell :=
  match x with
  | some d => f d c
  | none => c

/-- The cell of an image that another package saved: what its scan map holds is not architected and free (log 20), the
architected sections are loaded over it. -/
def foreignCell (s : State) (ctx : Nat) (img : List Byte) : Cell :=
  let at_ := sectionAt s ctx img
  let c0 := (Config.imageCell img).getD Cell.empty
  let c1 := withSection (at_ 8 0) loadRecon (withSection (at_ 6 0) loadMucode
    (withSection (at_ 3 0) loadSrf (withSection (at_ 2 0) loadVrf c0)))
  let c2 := foldIndex (fun c b => withSection (at_ 4 b) (loadBank b) c) c1 0 32
  foldIndex (fun c t => withSection (at_ 5 t) (loadAcc t) c) c2 0 c2.nacc

/-- The cell and the team state block that an image holds. -/
def imageParts (s : State) (ctx : Nat) (img : List Byte) : Cell × Option Team :=
  match s.images.find? fun r => r.bytes == img with
  | some r => (r.cell, r.team)
  | none => (foreignCell s ctx img, Config.imageTeam img)

/-- The word state of a plane pair after a restore: that of the words below the live extent (R157). -/
def trimWords (j words : Nat) (c : Cell) : Cell :=
  let keep := fun (i : Nat) => i / 16384 != j || decide (i % 16384 < words)
  { c with selOdd := tblFilter (fun i _ => keep i) c.selOdd, writer := tblFilter (fun i _ => keep i) c.writer }

/-- The bytes of a bank after a restore: those below the live extent, zero above (R157), and of a plane pair the word state of
the words below it; poisoned words are zero (R260). -/
def trimBank (c : Cell) (b : Nat) : Cell :=
  let k := getBank c b
  if k.mode = .cache then c
  else
    let keep := bankBytes c b (4096 * k.extent)
    let bad := fun (w : Nat) (_ : Bool) => w / 8192 != b || decide (w % 8192 < 512 * k.extent)
    let c1 := putBank b keep { modBank c b (fun k => { k with stale := none }) with poisonBank := tblFilter bad c.poisonBank }
    if k.mode = .plane ∧ b % 2 = 0 then trimWords (b / 2) (1024 * k.extent) c1 else c1

/-- A latch whose beat has passed meets nothing (R175). -/
def passLatch (beat : BitVec 64) (l : Latch) : Latch :=
  if l.caught.isNone && decide (l.beat.toNat ≤ beat.toNat) then { l with caught := some .nothing } else l

/-- Does an entry of a shell belong to a cell? -/
def shellOf (ctx team i : Nat) (e : ShellSend) : Bool := e.ctx == ctx && e.team == team && e.cell == i

/-- The entries of a cell's send buffer that the shells of this package still hold. -/
def shelled (s : State) (ctx team i : Nat) : List Send :=
  (s.cores.flatMap fun e => e.2.shell.filter (shellOf ctx team i)).map ShellSend.send

/-- The shells give up the entries of a cell. -/
def dropShelled (s : State) (p : ShellSend → Bool) : State :=
  (tblKeys s.cores).foldl (fun s g => modCore s g fun u => { u with shell := u.shell.filter fun e => !p e }) s

/-- The send buffer of a restored cell: the entries of its image whose beats are ahead, and those whose beat passed in a collision
while a shell held them (R173, R175). -/
def resumedSends (s : State) (ctx team i : Nat) (l : List Send) : List Send :=
  (l.filter fun y => decide (s.pkg.beat.toNat < y.beat.toNat)) ++ (shelled s ctx team i).filter fun y => y.clash

/-- A scanned cell as it is restored: trimmed banks, commands without an array, send entries of passed beats gone, held step
flips applied (R157, R175, R257, R391). -/
def resumedCell (s : State) (ctx team i : Nat) (x : Cell) : Cell :=
  let c := foldIndex trimBank x 0 32
  applyFlips { c with
    cmds := c.cmds.map fun m => { m with array := none }
    latches := c.latches.map (passLatch s.pkg.beat)
    sends := resumedSends s ctx team i c.sends
    accesses := c.accesses.map fun a => { a with out := false, drains := false } }

/-- A yielded cell as it is restored (R150): the start of R139 with the group after its YIELD, the scalars of YREGS, and
STEPCNT. -/
def yieldedCell (s : State) (l : Launch) (ctx team i : Nat) (img : List Byte) (x : Cell) : Cell :=
  let d := (sectionAt s ctx img 3 0).getD []
  let c := startCell l ctx team i
  { c with
    pc := BitVec.ofNat 64 (descNat d 680 8)
    s := (yregs l.desc).foldl (fun t n => tblSet 0 t n (BitVec.ofNat 64 (descNat d (8 * n) 8))) c.s
    stepcnt := x.stepcnt }

/-- The cell that a restore puts into its slot: live, and held until its team runs. -/
def restoredCell (s : State) (l : Launch) (ctx team i : Nat) (img : List Byte) : Cell :=
  let x := (imageParts s ctx img).1
  let c := if imageYielded img then yieldedCell s l ctx team i img x else resumedCell s ctx team i x
  { c with live := true, held := true, ctx := ctx, team := team, cell := i, stage := cellStage l.desc i }

end Sys2Proof.Machine
end

