-- ==== Sys2Proof/Machine/Scan.lean ====
section
/-!
DEFINITION. Sys2Proof/Machine/Scan.lean: pre-emption, saves and restores (R149 to R151, R255 to R258, R427).
-/
namespace Sys2Proof.Machine

/-! ### Records of the host (R122, R259) -/

/-- The launch of a context. -/
def launchOf (s : State) (ctx : Nat) : Option Launch := (getCtx s ctx).launch

/-- IMAGE_SAVED. -/
def postSaved (s : State) (ctx core sub : Nat) (savecnt addr length : Nat) : State :=
  postHost s ⟨0x0003, BitVec.ofNat 16 sub, some ctx,
    toBytes core 4 ++ zeroBytes 4 ++ toBytes savecnt 8 ++ toBytes addr 8 ++ toBytes length 4⟩

/-- IMAGE_REFUSED: 1 STALE with the current counter, 2 TAG, 3 REVISION with the tile's. -/
def postRefused (s : State) (ctx core sub savecnt other : Nat) : State :=
  postHost s ⟨0x0004, BitVec.ofNat 16 sub, some ctx,
    toBytes core 4 ++ zeroBytes 4 ++ toBytes savecnt 8 ++ toBytes other 8⟩

/-- CTX_HANG: a core of the team (log 7), its index, and the time without progress in µs. -/
def postHang (s : State) (ctx team : Nat) : State :=
  let t := getTeam s (teamKey ctx team)
  let core := keyCore (t.seats.getD (Config.choose s.tick t.seats.length % max 1 t.seats.length) 0)
  postHost { s with tick := s.tick + 1 } ⟨0x0002, 0, some ctx,
    toBytes core 4 ++ toBytes team 2 ++ zeroBytes 2 ++ toBytes (t.idle / 1000) 8⟩

/-! ### Saves (R149, R255, R256) -/

/-- The save in progress of a team. -/
def saveOf (s : State) (ctx team : Nat) : Option SaveJob := s.saves.find? fun j => j.ctx == ctx && j.team == team

/-- Change the save of a team. -/
def modSave (s : State) (ctx team : Nat) (f : SaveJob → SaveJob) : State :=
  { s with saves := s.saves.map fun j => if j.ctx == ctx && j.team == team then f j else j }

/-- The save of a team is over. -/
def endSave (s : State) (ctx team : Nat) : State :=
  { s with saves := s.saves.filter fun j => !(j.ctx == ctx && j.team == team) }

/-- A cell as its tile stops on beat S; the request for a yield ends. -/
def stopCell (s : State) (c : Cell) : Cell :=
  if c.run = .stopped then c else { c with yreq := false, stopBeat := s.pkg.beat, stopTime := s.pkg.gtime }

/-- All tiles of a team stop on one beat (R255). -/
def stopTeam (s : State) (ctx team : Nat) : State :=
  let seats := (getTeam s (teamKey ctx team)).seats
  settleTiles (seats.foldl (fun r k => modCell r k (stopCell s)) s) seats

/-- A save of a team begins: at once, or with a grace window. -/
def startSave (s : State) (j : SaveJob) : State :=
  let s1 := modTeam { s with saves := s.saves ++ [j] } (teamKey j.ctx j.team) fun t =>
    { t with run := match j.kind with
        | .swap => .swapping
        | .preempt => .saving }
  if j.grace.isNone then stopTeam s1 j.ctx j.team else s1

/-- Counter records in use (R256). -/
def recordsUsed (s : State) : Nat := (s.teams.filter fun e => e.2.counter.isSome).length

/-- Are there records for the teams of a context that a save event names? -/
def recordsFree (s : State) (ctx : Nat) (teams : List Nat) : Bool :=
  let fresh := (teams.filter fun t => (getTeam s (teamKey ctx t)).counter.isNone).length
  !(getCtx s ctx).prot || decide (recordsUsed s + fresh ≤ 65536)

/-- A save event takes the next counter of its context, and a protected context's teams are recorded under it (R256). -/
def takeCounter (s : State) (ctx : Nat) (teams : List Nat) : State × BitVec 64 :=
  let n := (getCtx s ctx).savecnt + 1
  let s1 := modCtx s ctx fun c => { c with savecnt := n }
  (if (getCtx s ctx).prot then
    teams.foldl (fun s t => modTeam s (teamKey ctx t) fun t => { t with counter := some n }) s1
  else s1, n)

/-- The cells of a team. -/
def cellsOf (s : State) (ctx team : Nat) : List Nat :=
  (getTeam s (teamKey ctx team)).seats.map fun k => (getCell s k).cell

/-- Bytes between two images (R147, R149). -/
def imageSpan : Nat := 0x400000

/-- The teams that CTXPREEMPT names. -/
def namedTeams (l : Launch) (team : Nat) : List Nat := if team = 0xFFFF then List.range l.teams else [team]

/-- CTXPREEMPT: the saves of the named teams that are PLACED begin, with the grace window given. -/
def preemptCmd (s : State) (c : Cmd) (grace : Launch → Option Nat) (ask : Bool) : State :=
  let ctx := cmdCtx c
  let team := cmdNat c.bytes 32 2
  match launchOf s ctx with
  | none => finishCmd s c stMalformed 2 0
  | some l =>
    let named := namedTeams l team
    if (team ≠ 0xFFFF ∧ l.teams ≤ team) ∨ cmdNat c.bytes 24 8 < imageSpan * 16 * named.length then
      finishCmd s c stMalformed 2 0
    else
      let acted := named.filter fun t => (getTeam s (teamKey ctx t)).run == .placed
      if acted.isEmpty then cmdDone s c
      else if !recordsFree s ctx acted then finishCmd s c stFaulted 2 0
      else
        let (s1, n) := takeCounter s ctx acted
        let first := named.headD 0
        acted.foldl (fun s t =>
          let seats := (getTeam s (teamKey ctx t)).seats
          let s2 := if ask then seats.foldl (fun s k => modCell s k fun x => { x with yreq := true }) s else s
          startSave s2 ⟨ctx, t, .preempt, cmdNat c.bytes 16 8 + 16 * (t - first) * imageSpan, n, cellsOf s ctx t, [], [],
            grace l, c.queue, c.index⟩) s1

/-- R149: CTXPREEMPT mode 0: cells are asked to yield, and the grace window of the launch starts. -/
def evCtxpreemptYield (st : State) : State := 
  withCmd st 0x07 (some (34, 0)) fun c => preemptCmd st c (fun l => some (now st + 1000 * l.grace)) true

/-- R149: one such event. -/
def execCtxpreemptYield (st : State) : Host.Outcome State Fault Refusal := .next (evCtxpreemptYield st)

/-- R149: CTXPREEMPT mode 1: every cell is scanned at once. -/
def evCtxpreemptScan (st : State) : State := 
  withCmd st 0x07 (some (34, 1)) fun c => preemptCmd st c (fun _ => none) false

/-- R149: one such event. -/
def execCtxpreemptScan (st : State) : Host.Outcome State Fault Refusal := .next (evCtxpreemptScan st)

/-- Does the grace window of a save end now? -/
def graceOver (s : State) (q i : Nat) (j : SaveJob) : Bool :=
  j.kind == .preempt && j.queue == q && j.index.toNat == i && match j.grace with
    | some t => decide (t ≤ now s)
    | none => false

/-- R149: the grace window of a CTXPREEMPT ends: every cell that has not yielded is scanned. -/
def evGraceWindowEnd (st : State) : State := 
  match st.input with
  | .pair q i =>
    (st.saves.filter (graceOver st q i)).foldl (fun s j =>
      stopTeam (modSave s j.ctx j.team fun j => { j with grace := none }) j.ctx j.team) st
  | _ => st

/-- R149: one such event. -/
def execGraceWindowEnd (st : State) : Host.Outcome State Fault Refusal := .next (evGraceWindowEnd st)

/-- Have the requests that a cell issued before its tile stopped been answered (R250, R255, step 5)? What had not left the tile
stays in the image. -/
def responsesIn (s : State) (k : Nat) : Bool :=
  let c := getCell s k
  c.accesses.all (fun a => !(unperformed a && accessRuns s k a)) && c.copies.all fun o => o.unacked == 0

/-- May the images that carry what the team shares close: no cell of the team runs, and the requests of each are answered, so
that every arrival has counted in the state block (R143)? -/
def teamClosed (s : State) (j : SaveJob) : Bool :=
  (getTeam s (teamKey j.ctx j.team)).seats.all fun k =>
    responsesIn s k && ((getCell s k).run == .stopped || j.grace.isNone)

/-- May the image of a slot's cell be complete now: a yield record once its requests are answered, and for cell 0, whose image
carries the state block, and for every cell that was scanned, once the whole team's are, within 2 ms of beat S (R255)? -/
def saveReady (s : State) (j : SaveJob) (k : Nat) : Bool :=
  let c := getCell s k
  if c.run == .stopped then responsesIn s k && (c.cell != 0 || teamClosed s j)
  else
    teamClosed s j && j.grace.isNone && decide (c.stopBeat.toNat + 64 ≤ s.pkg.beat.toNat) && !drainsLeft s (keyCore k)
      && decide (now s ≤ c.stopTime.toNat + 2000000)

/-- The plane regions that a cell's image holds, kept for the placement unit (R137); a yield record holds none. -/
def notePlanes (c : Cell) (yielded : Bool) (t : Team) : Team :=
  { t with planes := tblSet none t.planes c.cell (if yielded then none else some (heldBy c).planes) }

/-- Where the device reaches an image: at physical addresses, or for a swap in the launch's context (R131, R147). -/
def imagePlaces (s : State) (ctx : Nat) (swap : Bool) (k : Kind) (base n : Nat) : State × Option (List Nat) :=
  if swap then
    match virtRun s ⟨0, ctx, false, 0, .direct, []⟩ k (base : Int) n with
    | (s1, .ok l) => (s1, some (l.map Prod.fst))
    | (s1, .error _) => (s1, none)
  else (s, some ((List.range n).map fun i => base + i))

/-- Write bytes at the places given. -/
def writePlaces (s : State) (l : List (Nat × Byte)) : State := l.foldl (fun s p => deviceWrite s p.1 [p.2]) s

/-- What an image's record keeps: the cell, and for cell 0 the team state block. -/
def recordOf (s : State) (k : Nat) (img : List Byte) : ImageRecord :=
  let c := getCell s k
  ⟨img, c, if c.cell = 0 then some (getTeam s (teamKey c.ctx c.team)) else none⟩

/-- The image of a cell is written and IMAGE_SAVED posted (R255, step 7). -/
def saveCell (s : State) (j : SaveJob) (k : Nat) : State :=
  let c := getCell s k
  let yielded := c.run == .stopped
  let img := imageOf s k j.savecnt yielded
  let base := j.base + c.cell * imageSpan
  match imagePlaces s j.ctx (j.kind == .swap) .write base img.length with
  | (s1, none) => s1
  | (s1, some l) =>
    let s2 := drainOwned (writePlaces s1 (l.zip img)) k
    let s3 := { s2 with images := s2.images ++ [recordOf s k img], tick := s2.tick + 1 }
    let s4 := postSaved s3 j.ctx (keyCore k) (bit01 (!yielded)) j.savecnt.toNat base img.length
    modSave (modTeam s4 (teamKey j.ctx j.team) (notePlanes c yielded)) j.ctx j.team fun j => { j with left := j.left.erase c.cell, written := j.written ++ [c.cell] }

/-- The slots of cells whose images are written are freed once no cell of the team runs (R255, step 7). -/
def freeWritten (s : State) (j : SaveJob) : State :=
  let seats := (getTeam s (teamKey j.ctx j.team)).seats
  if j.grace.isNone || seats.all fun k => (getCell s k).run == .stopped then
    let gone := j.written.filterMap (seatFor s j.ctx j.team)
    let s1 := gone.foldl (fun s k => vacate s j.ctx j.team k) s
    settleTiles (modSave s1 j.ctx j.team fun j => { j with written := [] }) gone
  else s

/-- The saves of a command that still run. -/
def savesOf (s : State) (j : SaveJob) : List SaveJob :=
  s.saves.filter fun x => x.kind == .preempt && x.queue == j.queue && x.index == j.index

/-- A team is SAVED; the last team of its command completes it, with the number of teams saved (R115). -/
def endPreempt (s : State) (j : SaveJob) : State :=
  let s1 := modTeam (endSave s j.ctx j.team) (teamKey j.ctx j.team) fun t => { t with run := .saved, restored := 0 }
  match runningCmd s1 j.queue j.index with
  | none => s1
  | some c =>
    let s2 := modRunning s1 c fun r => { r with saved := r.saved + 1 }
    let n := ((runningOf s2 c).map Running.saved).getD 0
    if (savesOf s2 j).isEmpty then finishCmd s2 c stDone 0 n else s2

/-- A hang that fell into the save is posted as it completes (R259). -/
def postLatched (s : State) (ctx team : Nat) : State :=
  let tk := teamKey ctx team
  if (getTeam s tk).hangLatched then modTeam (postHang s ctx team) tk fun t => { t with hangLatched := false } else s

/-- What follows once an image is written or lost. -/
def settleSave (s : State) (ctx team : Nat) : State :=
  match saveOf s ctx team with
  | none => s
  | some j =>
    let ended := j.left.isEmpty && j.lost.isEmpty
    let s1 := freeWritten (if ended then postLatched s ctx team else s) j
    if ended && j.kind == .preempt then endPreempt s1 j else s1

/-- The slot of a cell whose image a save has still to write. -/
def savedSlot (s : State) (ctx team cell : Nat) : Option (SaveJob × Nat) :=
  match saveOf s ctx team, seatFor s ctx team cell with
  | some j, some k => if j.left.contains cell then some (j, k) else none
  | _, _ => none

/-- R255: the last byte of the image of a cell has performed. -/
def evSaveComplete (st : State) : State := 
  match st.input with
  | .triple ctx team cell =>
    match savedSlot st ctx team cell with
    | some (j, k) => if saveReady st j k then settleSave (saveCell st j k) ctx team else st
    | none => st
  | _ => st

/-- R255: one such event. -/
def execSaveComplete (st : State) : Host.Outcome State Fault Refusal := .next (evSaveComplete st)

/-- A save of a cell is lost: reported, its tile stays stopped, and CTXPREEMPT is FAULTED with code 1 (R255). -/
def loseSave (s : State) (j : SaveJob) (k : Nat) : State :=
  let c := getCell s k
  let s1 := postHost s ⟨0x0001, causeSavelost.setWidth 16, some j.ctx, ctxFaultBody (keyCore k) j.team c.cell c.pc 0 0⟩
  let s2 := modTeam (modSave s1 j.ctx j.team fun j => { j with left := j.left.erase c.cell, lost := j.lost ++ [c.cell] })
    (teamKey j.ctx j.team) fun t => { t with hangLatched := false }
  settleSave (if j.kind == .preempt then finishAt s2 j.queue j.index stFaulted 1 0 else s2) j.ctx j.team

/-- R255: more than 2 ms after beat S the image of a cell is not complete. -/
def evSaveTimeout (st : State) : State := 
  match st.input with
  | .triple ctx team cell =>
    match savedSlot st ctx team cell with
    | some (j, k) =>
      let c := getCell st k
      if j.grace.isNone && c.run != .stopped && decide (c.stopTime.toNat + 2000000 < now st) then loseSave st j k else st
    | none => st
  | _ => st

/-- R255: one such event. -/
def execSaveTimeout (st : State) : Host.Outcome State Fault Refusal := .next (evSaveTimeout st)

/-! ### Restores (R151, R256 to R258, R427) -/

/-- A restore of a cell into its reserved slot begins: the tile stops (R257). -/
def startRestore (s : State) (j : RestoreJob) : State :=
  settleTiles { s with restores := s.restores ++ [j] } (seatFor s j.ctx j.team j.cell).toList

/-- A restore is over. -/
def endRestore (s : State) (j : RestoreJob) : State :=
  settleTiles { s with restores := s.restores.filter fun x => !(x.ctx == j.ctx && x.team == j.team && x.cell == j.cell) }
    (seatFor s j.ctx j.team j.cell).toList

/-- Is the image's counter not the current one of its team, in a protected context (R256, R257)? -/
def staleImage (s : State) (ctx team : Nat) (savecnt : Nat) : Bool :=
  (getCtx s ctx).prot && (getTeam s (teamKey ctx team)).counter != some (BitVec.ofNat 64 savecnt)

/-- The current counter of a team; 0 without a record. -/
def currentCounter (s : State) (ctx team : Nat) : Nat := ((getTeam s (teamKey ctx team)).counter.getD 0).toNat

/-- SAVECNT of a header. -/
def headerCount (h : List Byte) : Nat := descNat h 24 8

/-- Does a header identify a cell of the launch (R427, check 1): the team and cell of its CELLID? -/
def headerCell (l : Launch) (ctx length : Nat) (h : List Byte) : Option (Nat × Nat) :=
  let team := descNat h 32 2
  let cell := descNat h 34 1 % 16
  if 64 ≤ length ∧ descNat h 56 4 = length ∧ descNat h 0 8 = 0x314E414353564E44 ∧ descNat h 8 4 = 1
      ∧ descNat h 16 2 = ctx ∧ team < l.teams ∧ cell < descNat l.desc 42 1 then some (team, cell)
  else none

/-- The first IMGRESTORE of a team reserves its slots (R151); none where no cluster can hold it. -/
def reserveFirst (s : State) (l : Launch) (ctx team cell target : Nat) : Option State :=
  let tk := teamKey ctx team
  if (getTeam s tk).run = .restoring then some s
  else
    let t := getTeam s tk
    (if target = 0xFFFFFFFF then fitTeam s l.desc t else fitTarget s l.desc t cell target).map fun seats =>
      modTeam (reserveTeam s l ctx team seats) tk fun t => { t with run := .restoring }

/-- Is a cell restored since its save, or about to be? -/
def alreadyRestored (s : State) (ctx team cell : Nat) : Bool :=
  bitOf (getTeam s (teamKey ctx team)).restored cell
    || s.restores.any fun j => j.ctx == ctx && j.team == team && j.cell == cell

/-- IMGRESTORE refused as STALE: the target core is the reserved one, or the one that the command names. -/
def refuseStale (s : State) (c : Cmd) (ctx team cell count target : Nat) : State :=
  let core := ((seatFor s ctx team cell).map keyCore).getD target
  finishCmd (postRefused s ctx core 1 count (currentCounter s ctx team)) c stRefused 1 0

/-- The checks 3 to 5 of R427 for a cell of a SAVED or RESTORING team. -/
def restoreCheck (s : State) (c : Cmd) (l : Launch) (team cell : Nat) (h : List Byte) : State :=
  let ctx := cmdCtx c
  let target := cmdNat c.bytes 32 4
  let stale := staleImage s ctx team (headerCount h)
  match reserveFirst s l ctx team cell target with
  | none => if stale then refuseStale s c ctx team cell (headerCount h) target else cmdRefused s c 4
  | some s1 =>
    if stale then refuseStale s1 c ctx team cell (headerCount h) target
    else
      let core := ((seatFor s1 ctx team cell).map keyCore).getD 0
      if (target ≠ 0xFFFFFFFF ∧ target ≠ core) ∨ alreadyRestored s1 ctx team cell then finishCmd s1 c stMalformed 2 0
      else startRestore s1 ⟨ctx, team, cell, cmdNat c.bytes 16 8, cmdNat c.bytes 24 8, h, c.queue, c.index, false⟩

/-- IMGRESTORE. -/
def restoreCmd (s : State) (c : Cmd) : State :=
  let ctx := cmdCtx c
  let length := cmdNat c.bytes 24 8
  let h := if 64 ≤ length then physBytes s (cmdNat c.bytes 16 8) 64 else []
  match launchOf s ctx with
  | none => finishCmd s c stMalformed 2 0
  | some l =>
    match headerCell l ctx length h with
    | none => finishCmd s c stMalformed 2 0
    | some (team, cell) =>
      let run := (getTeam s (teamKey ctx team)).run
      if run = .saved ∨ run = .restoring then restoreCheck s c l team cell h else finishCmd s c stMalformed 2 0

/-- R427, R151: IMGRESTORE: the checks in their order, the reservation, and the start of the restore. -/
def evImgrestore (st : State) : State :=  withCmd st 0x08 none (restoreCmd st)

/-- R427, R151: one such event. -/
def execImgrestore (st : State) : Host.Outcome State Fault Refusal := .next (evImgrestore st)

/-- The image of a restore: the header as it was read at the start and the rest as it stands, and is a byte poisoned? None
while it cannot be reached. -/
def restoreImage (s : State) (j : RestoreJob) : State × Option (List Byte × Bool) :=
  match imagePlaces s j.ctx j.swap .read (j.base + 64) (j.length - 64) with
  | (s1, none) => (s1, none)
  | (s1, some l) => (s1, some (j.header ++ l.map (physByte s1), l.any fun a => physPoisoned s1 a 1))

/-- The barriers and steps of a saved team state block (R143). -/
def withBlock (b t : Team) : Team := { t with barriers := b.barriers, steps := b.steps, stepBeat := b.stepBeat }

/-- Are all cells of a team restored? -/
def teamRestored (s : State) (ctx team : Nat) : Bool :=
  allIndex (fun i => bitOf (getTeam s (teamKey ctx team)).restored i) 0 (ncell s ctx)

/-- A good image: the cell stands in its slot, the team's block is restored, RCBs learn the seat, the tile restarts, and
with the last cell the team runs (R257, steps 5 to 7). -/
def acceptImage (s : State) (j : RestoreJob) (l : Launch) (k : Nat) (img : List Byte) : State :=
  let tk := teamKey j.ctx j.team
  let s1 := dropShelled (setCell s k (restoredCell s l j.ctx j.team j.cell img)) (shellOf j.ctx j.team j.cell)
  let s2 := modTeam s1 tk fun t =>
    let t1 := match (imageParts s j.ctx img).2 with
      | some b => if j.cell = 0 then withBlock b t else t
      | none => t
    { t1 with restored := t1.restored ||| 2 ^ j.cell }
  let s3 := freshCode (rcbsPlaced (endRestore s2 j) k) j.ctx [k]
  let s4 := if j.swap then s3 else finishAt s3 j.queue j.index stDone 0 0
  if teamRestored s4 j.ctx j.team then releaseTeam s4 j.ctx j.team else s4

/-- A refused image: the slot is scrubbed and stays reserved, IMAGE_REFUSED is posted (R151, R257). -/
def refuseImage (s : State) (j : RestoreJob) (l : Launch) (k code : Nat) : State :=
  let other := if code = 3 then tileRevision else 0
  let s1 := endRestore (setCell s k (reservedCell l (getTeam s (teamKey j.ctx j.team)) j.ctx j.team j.cell)) j
  let s2 := postRefused s1 j.ctx (keyCore k) code (headerCount j.header) other
  if j.swap then s2 else finishAt s2 j.queue j.index stRefused code 0

/-- A restore ends. -/
def finishRestore (s : State) (j : RestoreJob) : State :=
  match launchOf s j.ctx, seatFor s j.ctx j.team j.cell with
  | some l, some k =>
    match restoreImage s j with
    | (s1, none) => s1
    | (s1, some (img, bad)) =>
      match verdictOf s1 j.ctx img bad with
      | 0 => acceptImage s1 j l k img
      | code => refuseImage s1 j l k code
  | _, _ => s

/-- R257: a restore has streamed its sections: the image is verified and applied, or refused. -/
def evRestoreComplete (st : State) : State := 
  match st.input with
  | .triple ctx team cell =>
    match st.restores.find? fun j => j.ctx == ctx && j.team == team && j.cell == cell with
    | some j => finishRestore st j
    | none => st
  | _ => st

/-- R257: one such event. -/
def execRestoreComplete (st : State) : Host.Outcome State Fault Refusal := .next (evRestoreComplete st)

/-- What another root of trust transfers (R256): a context key, and a team's current counter. -/
def takeTransfer (s : State) (ctx : Nat) (bs : List Byte) : State :=
  let team := descNat bs 32 2
  let n := BitVec.ofNat 64 (descNat bs 34 8)
  if (getCtx s ctx).live && (getCtx s ctx).prot && recordsFree s ctx [team] then
    modTeam (modCtx s ctx fun c => { c with key := BitVec.ofNat 256 (descNat bs 0 32) }) (teamKey ctx team) fun t =>
      { t with counter := some n }
  else s

/-- R256: a sealed key and counter arrive over the secured session: key in bytes 0 to 31, team in 32 and 33, counter in 34 to 41 of what was sealed. -/
def evContextKeyTransfer (st : State) : State := 
  match st.input with
  | .bytes ctx bs => if st.pkg.spdmState = 0 then st else takeTransfer st ctx bs
  | _ => st

/-- R256: one such event. -/
def execContextKeyTransfer (st : State) : Host.Outcome State Fault Refusal := .next (evContextKeyTransfer st)

end Sys2Proof.Machine
end

