-- ==== Sys2Proof/Machine/Sched.lean ====
section
/-!
DEFINITION. Sys2Proof/Machine/Sched.lean: launches, placement, throttling, swapping and the hang watchdog (R127 to R148, R152, R259).
-/
namespace Sys2Proof.Machine

/-! ### LAUNCH (R127, R131 to R134) -/

/-- The bytes of a table in a context, read with the checks of global_read and the device's own right (R131, R432). -/
def readTable (s : State) (ctx va n : Nat) : State × Option (List Byte) :=
  if va % 16 ≠ 0 then (s, none)
  else
    match virtRun s ⟨0, ctx, false, 0, .direct, []⟩ .read (va : Int) n with
    | (s1, .ok l) => (s1, some (l.map fun p => physByte s1 p.1))
    | (s1, .error _) => (s1, none)

/-- A table that the descriptor leaves out is empty. -/
def readLaunchTable (s : State) (ctx va n : Nat) (absent : Bool) : State × Option (List Byte) :=
  if absent then (s, some []) else readTable s ctx va n

/-- Does STAGEMAP break R133? -/
def stagesBad (d : List Byte) : Bool :=
  let n := descNat d 42 1
  let ns := descNat d 43 1
  !(List.range n).all (fun i => decide (cellStage d i < ns))
    || !(List.range ns).all fun st => ((List.range n).filter fun i => cellStage d i == st).length == n / ns

/-- Does BANKMAP break R132? -/
def banksBad (d : List Byte) : Bool :=
  (List.range 16).any fun j =>
    let x := bankCode d (2 * j) == 3
    (x != (bankCode d (2 * j + 1) == 3)) || (x && decide (8 ≤ j))

/-- Do REGIONS break R131 or R132? -/
def regionsBad (d : List Byte) : Bool :=
  (List.range 8).any fun j =>
    let r := descNat d (136 + j) 1
    decide (64 ≤ r) || decide (4 < r % 8) || (r != 0 && bankCode d (2 * j) != 3)

/-- Is entry STRING of the ring table a ring in allocated SPAD banks (R133)? -/
def stringGood (d rings : List Byte) : Bool :=
  let r := ringOfEntry (entryAt rings (descNat d 45 1))
  let first := r.base.toNat / 65536
  let last := (r.base.toNat + r.slotSz * ringSlots r - 1) / 65536
  descNat d 24 8 != 0 && r.kind != 0
    && (List.range (last + 1 - first)).all fun i => decide (first + i < 32) && bankCode d (first + i) == 1

/-- Does STRING break R131 or R133? -/
def stringBad (d : List Byte) (rings : Option (List Byte)) : Bool :=
  let n := descNat d 45 1
  if descNat d 43 1 = 1 then n != 0 else decide (30 < n) || !stringGood d (rings.getD [])

/-- The byte offsets of the fields of a descriptor with the breaches of R133, in ascending order. -/
def launchTests (d : List Byte) (rings chans : Option (List Byte)) : List (Nat × Bool) :=
  let n := descNat d 42 1
  let ns := descNat d 43 1
  [(0, descNat d 0 8 % 4096 != 0), (16, descNat d 16 8 % 0x400000 != 0), (24, rings.isNone), (32, chans.isNone),
    (40, decide (256 < descNat d 40 2)), (42, n == 0 || decide (16 < n)), (43, ns == 0 || decide (16 < ns) || n % ns != 0),
    (44, decide (48 < descNat d 44 1)), (45, stringBad d rings), (46, descNat d 46 2 != 0),
    (48, decide (2 ^ 40 ≤ descNat d 48 8)), (56, stagesBad d)]
    ++ (List.range 16).map (fun i => (64 + 4 * i, descNat d (64 + 4 * i) 4 % 4 != 0))
    ++ [(128, banksBad d), (136, regionsBad d),
      (184, (List.range 8).any fun j => decide (64 ≤ descNat d (184 + j) 1)), (200, descNat d 200 56 != 0)]

/-- The offset of the first offending field. -/
def launchBad (d : List Byte) (rings chans : Option (List Byte)) : Option Nat :=
  ((launchTests d rings chans).find? fun t => t.2).map Prod.fst

/-- The teams of a new launch, QUEUED in the order of their indices; what stood under the context's indices goes. -/
def createTeams (s : State) (ctx n : Nat) : State :=
  let old := tblFilter (fun k _ => k / 65536 != ctx) s.teams
  { s with
    teams := foldIndex (fun t i =>
      tblSet teamEmpty t (teamKey ctx i) { teamEmpty with run := .queued, queuedAt := s.launchSeq + i }) old 0 n
    launchSeq := s.launchSeq + n }

/-- LAUNCH. -/
def launchCmd (s : State) (c : Cmd) : State :=
  let ctx := cmdCtx c
  if (launchOf s ctx).isSome then cmdRefused s c 3
  else
    let d := physBytes s (cmdNat c.bytes 16 8) 256
    let n := descNat d 40 2
    let (s1, rings) := readLaunchTable s ctx (descNat d 24 8) 512 (descNat d 24 8 == 0)
    let (s2, chans) := readLaunchTable s1 ctx (descNat d 32 8) (16 * min n 256) (n == 0)
    match launchBad d rings chans with
    | some off => finishCmd s2 c stRefused 2 off
    | none =>
      let teams := cmdNat c.bytes 24 2
      let l : Launch := ⟨d, rings.getD [], chans.getD [], teams, BitVec.ofNat 3 (cmdNat c.bytes 26 1), cmdNat c.bytes 27 1,
        BitVec.ofNat 32 (cmdNat c.bytes 28 4), cmdNat c.bytes 32 4, c.queue, c.index⟩
      createTeams (modCtx s2 ctx fun x => { x with launch := some l }) ctx teams

/-- R131, R133: LAUNCH: the descriptor and its tables are read, and the teams created or the launch refused. -/
def evLaunch (st : State) : State :=  withCmd st 0x01 none (launchCmd st)

/-- R131, R133: one such event. -/
def execLaunch (st : State) : Host.Outcome State Fault Refusal := .next (evLaunch st)

/-! ### Placement (R138) -/

/-- Priority of a team. -/
def teamPrio (s : State) (key : Nat) : Nat :=
  match launchOf s (key / 65536) with
  | some l => l.prio.toNat
  | none => 0

/-- Does team `a` stand ahead of team `b` in the launch queue? -/
def aheadOf (s : State) (a b : Nat × Team) : Bool :=
  let p := teamPrio s a.1
  let q := teamPrio s b.1
  decide (q < p) || (p == q &&
    ((a.2.started && !b.2.started) || (a.2.started == b.2.started && decide (a.2.queuedAt < b.2.queuedAt))))

/-- The head of the launch queue; a team whose cells are being restored has left it. -/
def headTeam (s : State) : Option (Nat × Team) :=
  s.teams.foldl (fun (h : Option (Nat × Team)) e =>
    if e.2.run = .queued ∧ e.2.seats = [] then
      match h with
      | some x => if aheadOf s e x then some e else h
      | none => some e
    else h) none

/-- A swapped team's cells are restored from its swap area into reserved slots (R147, R257); one whose counter is not the current
one is refused as STALE before its tile stops, and its slot stays reserved. -/
def placeSwapped (s : State) (l : Launch) (ctx team : Nat) (seats : List Nat) : State :=
  let base := descNat l.desc 16 8 + 16 * team * imageSpan
  foldIndex (fun s i =>
    match imagePlaces s ctx true .read (base + i * imageSpan) 64 with
    | (s1, some a) =>
      let h := a.map (physByte s1)
      if staleImage s1 ctx team (headerCount h) then
        postRefused s1 ctx (((seatFor s1 ctx team i).map keyCore).getD 0) 1 (headerCount h) (currentCounter s1 ctx team)
      else startRestore s1 ⟨ctx, team, i, base + i * imageSpan, descNat h 56 4, h, 0, 0, true⟩
    | (s1, none) => s1) (reserveTeam s l ctx team seats) 0 (descNat l.desc 42 1)

/-- Place the head of the launch queue, when a cluster fits it. -/
def placeHead (s : State) : State :=
  match headTeam s with
  | none => s
  | some (key, t) =>
    match launchOf s (key / 65536) with
    | none => s
    | some l =>
      match fitTeam s l.desc t with
      | none => s
      | some seats =>
        if t.started then placeSwapped s l (key / 65536) (key % 65536) seats
        else placeNew s l (key / 65536) (key % 65536) seats

/-- R138: the head of the launch queue is placed. -/
def evTeamPlace (st : State) : State :=  placeHead st

/-- R138: one such event. -/
def execTeamPlace (st : State) : Host.Outcome State Fault Refusal := .next (evTeamPlace st)

/-! ### Swapping (R147, R148) -/

/-- The wake condition of a wait on a ring: one for an RCB-produced ring that is empty. -/
def ringCondition (c : Cell) (n : Nat) : Option Wake :=
  let r := getRing c n
  if r.kind = 2 ∧ ringFill r = 0 then some (.rcb (32 * c.cell + n)) else none

/-- The wake condition of an operation that waits on a ring. -/
def opCondition (s : State) (c : Cell) (i : Instr) : Option Wake :=
  if !guardTrue c i then none
  else
    match i with
    | .rwait _ _ n => ringCondition c n.toNat
    | .chrecv _ _ r =>
      match chanEntry s c.ctx ((rdS c r).toNat % 256) with
      | some e => ringCondition c (chRing e)
      | none => none
    | _ => none

/-- The wake condition of a waiting cell, where one can be tested (R148): a word of global memory, or an RCB's ring. -/
def conditionOf (s : State) (k : Nat) : Option Wake :=
  let c := getCell s k
  match c.waitWord with
  | some (a, glob, cc, v) =>
    if glob then
      match (lookup s .direct c.ctx a.toNat .read (!c.super) false).res with
      | .ok l => some (.word c.ctx (leafPa l a.toNat) cc v)
      | .error _ => none
    else none
  | none =>
    if c.arrived then none
    else
      match (fetchGroup s k).2 with
      | .ok (l, _) => l.findSome? fun x => match x.dec with
        | .ok i => opCondition s c i
        | .error _ => none
      | .error _ => none

/-- Is an access outstanding to global memory or a peer? -/
def globalAccess (a : Access) : Bool :=
  match a.place with
  | .near _ => false
  | _ => true

/-- Has a cell that is not halted waited its threshold, with engines and accesses idle (R147)? -/
def cellIdle (s : State) (c : Cell) : Bool :=
  c.run == .wait && c.thresh != 0 && decide (c.waitSince + 1000 * c.thresh.toNat ≤ now s) && c.copies.isEmpty
    && !cmdsLive c && !c.accesses.any globalAccess

/-- Conditions that a die's wait monitor holds. -/
def monitorLoad (s : State) (die : Nat) : Nat :=
  (s.teams.map fun e => if e.2.wakeDie = die then e.2.wakes.length else 0).foldl (· + ·) 0

/-- Would the head of the launch queue fit on a cluster without the seats of a team? -/
def headWouldFit (s : State) (key cluster : Nat) (seats : List Nat) : Bool :=
  let s1 := modTeam (seats.foldl freeSlot s) key fun t => { t with seats := [] }
  match headTeam s with
  | some (h, _) =>
    match launchOf s (h / 65536) with
    | some l => (fitCluster s1 l.desc (teamNeed (getTeam s h) l.desc) cluster).isSome
    | none => false
  | none => false

/-- The conditions under which an eligible team is swapped (R147). -/
def swapConditions (s : State) (ctx team : Nat) : Option (List Wake) :=
  let key := teamKey ctx team
  let t := getTeam s key
  let active := t.seats.filter fun k => (getCell s k).run != .halted
  let wakes := active.filterMap (conditionOf s)
  let k := t.seats.headD 0
  if t.run = .placed ∧ launchField s ctx 16 8 ≠ 0 ∧ active.all (fun k => cellIdle s (getCell s k)) ∧ wakes ≠ []
      ∧ headWouldFit s key (keyCluster k) t.seats ∧ monitorLoad s (keyDie k) + wakes.length ≤ 4096
      ∧ recordsFree s ctx [team] then some wakes
  else none

/-- Begin to swap a team. -/
def startSwap (s : State) (ctx team : Nat) (wakes : List Wake) : State :=
  let (s1, n) := takeCounter s ctx [team]
  let key := teamKey ctx team
  let s2 := modTeam s1 key fun t => { t with wakes := wakes, wakeDie := keyDie (t.seats.headD 0) }
  startSave s2 ⟨ctx, team, .swap, launchField s ctx 16 8 + 16 * team * imageSpan, n, cellsOf s ctx team, [], [], none, 0, 0⟩

/-- R147: the scheduler tests a team, and swaps it when it is eligible. -/
def evSwapTest (st : State) : State := 
  match st.input with
  | .pair ctx team =>
    match swapConditions st ctx team with
    | some w => startSwap st ctx team w
    | none => st
  | _ => st

/-- R147: one such event. -/
def execSwapTest (st : State) : Host.Outcome State Fault Refusal := .next (evSwapTest st)

/-- Has every image of a swapping team been written, and every slot freed? -/
def swapWritten (s : State) (ctx team : Nat) : Bool :=
  match saveOf s ctx team with
  | some j => j.kind == .swap && j.left.isEmpty && j.lost.isEmpty && j.written.isEmpty
  | none => false

/-- R147, R148: every image of a swapping team is written: it is SWAPPED, under its wake conditions. -/
def evSwapComplete (st : State) : State := 
  match st.input with
  | .pair ctx team =>
    if swapWritten st ctx team then
      modTeam (endSave st ctx team) (teamKey ctx team) fun t => { t with run := .swapped, restored := 0 }
    else st
  | _ => st

/-- R147, R148: one such event. -/
def execSwapComplete (st : State) : Host.Outcome State Fault Refusal := .next (evSwapComplete st)

/-- Is a condition on a word met as the word stands (R148)? -/
def wakeMet (s : State) : Wake → Bool
  | .word _ a cc v => cmpWord cc (BitVec.ofNat 64 (physNat s a 8)) v
  | .rcb _ => false

/-- R148: the wait monitor tests the words of a swapped team again. -/
def evWaitMonitorPoll (st : State) : State := 
  match st.input with
  | .pair ctx team =>
    let t := getTeam st (teamKey ctx team)
    if t.run = .swapped ∧ t.wakes.any (wakeMet st) then wakeTeam st (teamKey ctx team) else st
  | _ => st

/-- R148: one such event. -/
def execWaitMonitorPoll (st : State) : Host.Outcome State Fault Refusal := .next (evWaitMonitorPoll st)

/-! ### The hang watchdog (R259) -/

/-- Has a team's count reached the period, with no report since a cell committed? -/
def hangDue (s : State) (t : Team) : Bool :=
  s.pkg.watchdog != 0 && !t.hung && decide (1000 * s.pkg.watchdog.toNat ≤ t.idle)

/-- R259: the count of a team reaches P; during a save the report is latched. -/
def evCtxHang (st : State) : State := 
  match st.input with
  | .pair ctx team =>
    let key := teamKey ctx team
    let t := getTeam st key
    if !hangDue st t then st
    else if t.run = .placed then modTeam (postHang st ctx team) key fun t => { t with hung := true }
    else if t.run = .saving ∨ t.run = .swapping then modTeam st key fun t => { t with hung := true, hangLatched := true }
    else st
  | _ => st

/-- R259: one such event. -/
def execCtxHang (st : State) : Host.Outcome State Fault Refusal := .next (evCtxHang st)

/-! ### Throttling (R144, R145) -/

/-- Power class of a team. -/
def powerClass (s : State) (key : Nat) : Nat :=
  match launchOf s (key / 65536) with
  | some l => l.powerClass
  | none => 0

/-- The teams on a die whose duty can still change in a direction. -/
def throttled (s : State) (die : Nat) (lower : Bool) : List Nat :=
  (s.teams.filter fun e => (e.2.seats.any fun k => keyDie k == die)
    && (if lower then decide (1 < e.2.dutyNext) else decide (e.2.dutyNext < 16))).map Prod.fst

/-- The power class that a step acts on: the highest for a lowering, the lowest for a raising. -/
def stepClass (s : State) (l : List Nat) (lower : Bool) : Nat :=
  l.foldl (fun m k => if lower then max m (powerClass s k) else min m (powerClass s k)) (if lower then 0 else 3)

/-- One team's duty changes by 1/16, and THROTTLE is posted. -/
def changeDuty (s : State) (die sub key : Nat) : State :=
  let d := (getTeam s key).dutyNext
  let n := if sub = 3 then d + 1 else d - 1
  postHost (modTeam s key fun t => { t with dutyNext := n })
    ⟨0x0040, BitVec.ofNat 16 sub, some (key / 65536), toBytes die 1 ++ toBytes n 1 ++ zeroBytes 2 ++ toBytes (key % 65536) 2⟩

/-- One step of a die's power manager: `cond` is the limit exceeded, 1 power or 2 temperature, or 0 when neither is. -/
def throttleStep (s : State) (die cond : Nat) : State :=
  if now s < (getDie s die).lastThrottle + 10000 then s
  else
    let lower := cond != 0
    let l := throttled s die lower
    let cls := stepClass s l lower
    if l.isEmpty then s
    else
      (l.filter fun k => powerClass s k == cls).foldl (fun s k => changeDuty s die (if lower then min cond 2 else 3) k)
        (modDie s die fun d => { d with lastThrottle := now s })

/-- R145: a step of the power manager of a die (die, limit exceeded). -/
def evThrottleStep (st : State) : State := 
  match st.input with
  | .pair die cond => throttleStep st die cond
  | _ => st

/-- R145: one such event. -/
def execThrottleStep (st : State) : Host.Outcome State Fault Refusal := .next (evThrottleStep st)

end Sys2Proof.Machine
end

