-- ==== Sys2Proof/Machine/Kill.lean ====
section
/-!
DEFINITION. Sys2Proof/Machine/Kill.lean: the removal of a context (R262, R263): CTXKILL, its seven stages and CTX_REMOVE_STUCK.
-/
namespace Sys2Proof.Machine

/-- The slots that the teams of a context hold. -/
def ctxSeats (s : State) (ctx : Nat) : List Nat :=
  s.teams.flatMap fun e => if e.1 / 65536 = ctx then e.2.seats else []

/-- Has a stage of the removal of a slot's own context fenced its tile? Its cell is held there; on a tile that another removal has
fenced a cell lives on. -/
def seatFenced (s : State) (k : Nat) : Bool := (getCore s (keyCore k)).fenced && (getCell s k).held

/-- The slots of a context that its removal still acts on. -/
def killSeats (s : State) (ctx : Nat) : List Nat := (ctxSeats s ctx).filter fun k => !seatFenced s k

/-- Change the cell of every slot of a context. -/
def modSeats (s : State) (ctx : Nat) (f : Cell → Cell) : State := (killSeats s ctx).foldl (fun s k => modCell s k f) s

/-- Does a command act in the context that its header names (R114)? -/
def actsInContext (c : Cmd) : Bool := !([5, 0x0F, 0x10, 0x11, 0x0B, 0x0C].contains (cmdNat c.bytes 0 1))

/-- The started commands of a context but one complete CANCELLED (R115). -/
def cancelCommands (s : State) (ctx : Nat) (but : Cmd) : State :=
  let l := s.gafin.running.filter fun r => actsInContext r.cmd && cmdCtx r.cmd == ctx && !sameCmd but r
  l.foldl (fun s r => finishCmd s r.cmd stCancelled 0 0) s

/-- Saves and restores of a context are abandoned (R255, R262). -/
def abandonSaves (s : State) (ctx : Nat) : State :=
  settleTiles { s with
    saves := s.saves.filter fun j => j.ctx != ctx
    restores := s.restores.filter fun j => j.ctx != ctx } (ctxSeats s ctx)

/-- Every team of a context that is not DONE is KILLED (R134). -/
def killTeams (s : State) (ctx : Nat) : State :=
  let mark := fun (t : Team) => if t.run = .done ∨ t.run = .absent then t else { t with run := .killed, wakes := [] }
  { s with teams := s.teams.foldl (fun t e => if e.1 / 65536 = ctx then tblSet teamEmpty t e.1 (mark e.2) else t) s.teams }

/-- Is a command CTXNEW of a context? -/
def makesContext (ctx : Nat) (c : Cmd) : Bool := cmdNat c.bytes 0 1 == 5 && cmdCtx c == ctx

/-- The accepted commands of a removed context are CANCELLED when their turn comes (R115); what stands in a queue behind a CTXNEW
of it is of the new context. -/
def doomCmds (ctx : Nat) (renewed : List Nat) : List Cmd → List Cmd
  | [] => []
  | c :: l =>
    if makesContext ctx c then c :: doomCmds ctx (c.queue :: renewed) l
    else if actsInContext c && cmdCtx c == ctx && !renewed.contains c.queue then { c with doomed := true } :: doomCmds ctx renewed l
    else c :: doomCmds ctx renewed l

/-- Stage 1: cells stop at their group boundary, saves and restores are abandoned. -/
def killStage1 (s : State) (c : Cmd) : State :=
  let ctx := cmdCtx c
  let s1 := cancelCommands s ctx c
  let s2 := modCtx s1 ctx fun x => { x with killing := some (1, now s), killCmd := some (c.queue, c.index) }
  let s3 := killTeams (abandonSaves s2 ctx) ctx
  (ctxSeats s3 ctx).foldl (fun s k => modCell s k fun c => { c with issueStopped := true, held := false }) s3

/-- Does a command on an array run on in stage 2 (R262, R391, log 28)? -/
def cmdRunsOn (m : MatCmd) : Bool := killRetires && m.run == .running

/-- Stage 2: WAITING commands of the matrix sequencers are discarded; those on the arrays run to retirement, or have ended
their micro-operation (R262, R391, log 28). -/
def killStage2 (s : State) (ctx : Nat) : State :=
  let s1 := if killRetires then s else (killSeats s ctx).foldl dropArrays s
  modSeats s1 ctx fun c => { c with cmds := c.cmds.filter cmdRunsOn }

/-- Is an operation one whose requests are still being answered: started, local, not yet finished? -/
def copyInFlight (o : CopyOp) : Bool := o.started && !copyRemote o && o.finished.isNone

/-- Stage 3: no command is left; queued copies are discarded; rings are not produced (R369). -/
def killStage3 (s : State) (ctx : Nat) : State :=
  modSeats ((killSeats s ctx).foldl dropArrays s) ctx fun c =>
    { c with copies := c.copies.filter copyInFlight, pubs := [], cmds := [], fring := [] }

/-- The operations of a PDC of a removed context are cancelled, and it closes (R46). -/
def killPdc (s : State) (n : Nat) : State :=
  let p := getPdc s n
  if p.state = pdcFailed then closePdc s n
  else if p.state = pdcOpen ∨ p.state = pdcNopath then
    quiescePdc (modPdc (dropFrames s n) n fun p =>
      { p with sent := [], retx := [], timer := none, parking := false, outbox := [], acks := [] }) n
  else s

/-- A window of a removed context is CLOSING; once nothing is admitted it is FREE (R102). -/
def killWindow (s : State) (n : Nat) : State :=
  let w := getWindow s n
  if w.state = 0 then s
  else
    let s1 := modWindow s n fun w => { w with state := 2 }
    if w.admitted = 0 then freeWindow s1 n else s1

/-- The windows of a context. -/
def windowsOf (s : State) (ctx : Nat) : List Nat :=
  (s.net.windows.filter fun e => winCtx e.2 == ctx && e.2.state != 0).map Prod.fst

/-- Stage 4: RCBs closed, PDC operations cancelled, windows set CLOSING and drained. -/
def killStage4 (s : State) (ctx : Nat) : State :=
  let s1 := modSeats s ctx fun c => { c with copies := [], accesses := [], fences := [] }
  let rcbs := (s1.net.rcbs.filter fun e => rcbCtx e.2 == ctx && e.2.state != 0).map Prod.fst
  let pdcs := (s1.net.pdcs.filter fun e => e.2.ctx.toNat == ctx).map Prod.fst
  (windowsOf s1 ctx).foldl killWindow (pdcs.foldl killPdc (rcbs.foldl closeRcb s1))

/-- Stage 5: lines that hold the context's writes are drained, whichever unit wrote them (R188). -/
def killStage5 (s : State) (ctx : Nat) : State := drainAll s fun l => l.owners.any fun o => o.ctx == some ctx

/-- A team of the context gives up its slots, those on tiles that are not fenced scrubbed (R263). -/
def scrubTeam (s : State) (key : Nat) : State :=
  let seats := (getTeam s key).seats
  let open_ := seats.filter fun k => !seatFenced s k
  modTeam (open_.foldl (fun s k => freeSlot (dropArrays s k) k) s) key fun t => { t with seats := [], counter := none }

/-- Stage 7: every slot of the context is scrubbed. -/
def killStage7 (s : State) (ctx : Nat) : State :=
  ((s.teams.filter fun e => e.1 / 65536 == ctx).map Prod.fst).foldl scrubTeam s

/-- The work of a removal stage as it begins. -/
def killWork (s : State) (ctx stage : Nat) : State :=
  match stage with
  | 2 => killStage2 s ctx
  | 3 => killStage3 s ctx
  | 4 => killStage4 s ctx
  | 5 => killStage5 s ctx
  | 6 => invalidateAll s ctx
  | _ => killStage7 s ctx

/-- The removal is complete: CTXKILL is DONE, the context is gone, and what of it was accepted is CANCELLED in its turn (R115). -/
def killDone (s : State) (ctx : Nat) : State :=
  let c := getCtx s ctx
  let s0 := dropShelled (modCtx s ctx fun _ => ctxEmpty) fun e => e.ctx == ctx
  let s1 := { s0 with gafin := { s0.gafin with accepted := doomCmds ctx [] s0.gafin.accepted } }
  match c.killCmd with
  | some (q, i) => finishAt s1 q i stDone 0 0
  | none => s1

/-- The next stage begins, or the removal is complete. -/
def killNext (s : State) (ctx stage : Nat) : State :=
  if stage = 7 then killDone s ctx
  else killWork (modCtx s ctx fun x => { x with killing := some (stage + 1, now s) }) ctx (stage + 1)

/-- What of a cell a stage waits for: accesses that may still perform, commands on the arrays, or copies being answered. -/
def cellInFlight (c : Cell) (stage : Nat) : Nat :=
  match stage with
  | 1 => (c.accesses.filter fun a => unperformed a && !accWindow a && mayPerform c a).length
  | 2 => (c.cmds.filter cmdRunsOn).length
  | 3 => c.copies.length
  | _ => 0

/-- The count of a stage's requests in flight: of its cells, or the accesses that its windows have admitted. -/
def killCount (s : State) (ctx stage : Nat) : Nat :=
  if stage = 4 then ((windowsOf s ctx).map fun n => (getWindow s n).admitted.toNat).sum
  else ((killSeats s ctx).map fun k => cellInFlight (getCell s k) stage).sum

/-- R262: CTXKILL starts; of a context that is being removed already it is CANCELLED (R115). -/
def evCtxkill (st : State) : State := 
  withCmd st 0x06 none fun c =>
    if (getCtx st (cmdCtx c)).killing.isSome then finishCmd st c stCancelled 0 0 else killStage1 st c

/-- R262: one such event. -/
def execCtxkill (st : State) : Host.Outcome State Fault Refusal := .next (evCtxkill st)

/-- R262: a stage of a removal has nothing in flight: the next one begins. -/
def evCtxkillStageDrained (st : State) : State := 
  match st.input with
  | .num ctx =>
    match (getCtx st ctx).killing with
    | some (stage, _) => if killCount st ctx stage = 0 then killNext st ctx stage else st
    | none => st
  | _ => st

/-- R262: one such event. -/
def execCtxkillStageDrained (st : State) : Host.Outcome State Fault Refusal := .next (evCtxkillStageDrained st)

/-- The tiles that a stage waits for. -/
def waitedCores (s : State) (ctx stage : Nat) : List Nat :=
  ((killSeats s ctx).filter fun k => cellInFlight (getCell s k) stage != 0).map keyCore

/-- A tile is fenced (R262); the removed context's cell on it does nothing more. -/
def fenceCore (ctx : Nat) (s : State) (core : Nat) : State :=
  let hold := fun (c : Cell) => if c.ctx = ctx then { c with held := true } else c
  modCore (modCell (modCell s (2 * core) hold) (2 * core + 1) hold) core fun u => { u with fenced := true }

/-- A stage is stuck: it is reported, with one of its tiles (log 7), they are fenced, and the next stage begins. -/
def killStuck (s : State) (ctx stage : Nat) : State :=
  let l := waitedCores s ctx stage
  let core := l.getD (Config.choose s.tick l.length % max 1 l.length) 0xFFFFFFFF
  let s1 := postHost { s with tick := s.tick + 1 } ⟨0x0005, BitVec.ofNat 16 stage, some ctx,
    toBytes core 4 ++ zeroBytes 4 ++ toBytes (killCount s ctx stage) 8⟩
  killNext (l.foldl (fenceCore ctx) s1) ctx stage

/-- R262: a stage has not drained 10 ms after it began. -/
def evCtxRemoveStuck (st : State) : State := 
  match st.input with
  | .num ctx =>
    match (getCtx st ctx).killing with
    | some (stage, since) =>
      if killCount st ctx stage ≠ 0 ∧ since + 10000000 ≤ now st then killStuck st ctx stage else st
    | none => st
  | _ => st

/-- R262: one such event. -/
def execCtxRemoveStuck (st : State) : Host.Outcome State Fault Refusal := .next (evCtxRemoveStuck st)

end Sys2Proof.Machine
end

