-- ==== Sys2Proof/Machine/VirgaOps.lean ====
section
/-!
DEFINITION. Sys2Proof/Machine/VirgaOps.lean: registers, memories, branches and faults of a Virga core (R392 to R405), and
the shared reads of transport state (R406 to R414). The core that runs is State.iss.virga.
-/
namespace Sys2Proof.Machine

/-- The core that runs. -/
def vself (s : State) : Virga := getVirga s s.iss.virga

/-- Change the core that runs. -/
def vmod (s : State) (f : Virga → Virga) : State := modVirga s s.iss.virga f

/-- A general register; g0 reads 0 (R395). -/
def vreg (v : Virga) (r : BitVec 5) : BitVec 64 := if r = 0 then 0 else tblGet 0 v.g r.toNat

/-- Write a general register; g0 ignores writes (R395). -/
def vput (v : Virga) (r : BitVec 5) (x : BitVec 64) : Virga :=
  if r = 0 then v else { v with g := tblSet 0 v.g r.toNat x }

/-- Write consecutive registers from `r` on (R395). -/
def vputs (v : Virga) (r : BitVec 5) : List (BitVec 64) → Virga
  | [] => v
  | x :: xs => vputs (vput v r x) (r + 1) xs

/-- The instruction is complete: the next one follows (R392). -/
def vnext (v : Virga) : Virga := { v with pc := v.pc + 4, run := .run }

/-- The instruction waits and issues again. -/
def vstall (v : Virga) : Virga := { v with run := .wait }

/-- Complete with no register written. -/
def vdone (s : State) : State := vmod s vnext

/-- Complete with one register written. -/
def vwrite (s : State) (d : BitVec 5) (x : BitVec 64) : State := vmod s fun v => vnext (vput v d x)

/-- Complete with several registers written. -/
def vwrites (s : State) (d : BitVec 5) (xs : List (BitVec 64)) : State := vmod s fun v => vnext (vputs v d xs)

/-- Word k of a wide entry: bits [64k + 63 : 64k]. -/
def vwords {n : Nat} (x : BitVec n) (count : Nat) : List (BitVec 64) :=
  (List.range count).map fun k => x.extractLsb' (64 * k) 64

/-! ### Faults (R397, R404, R405) -/

/-- ILLOP. -/
def vIllop : BitVec 8 := 0x01
/-- ALIGN. -/
def vAlign : BitVec 8 := 0x10
/-- BOUND. -/
def vBound : BitVec 8 := 0x11
/-- OWNER. -/
def vOwner : BitVec 8 := 0x20
/-- RANGE. -/
def vRange : BitVec 8 := 0x21
/-- POISON. -/
def vPoison : BitVec 8 := 0x31

/-- Stop a core and post CTX_FAULT (R405). -/
def vstop (s : State) (n : Nat) (cause : BitVec 8) : State :=
  let body := toBytes (0xFFFFFF00 + n) 4 ++ zeroBytes 4 ++ toBytes (getVirga s n).pc 8
  postHost (modVirga s n fun v => { v with run := .stopped }) ⟨0x0001, cause.setWidth 16, none, body⟩

/-- The core after a fault has vectored (R404). -/
def vvectored (v : Virga) (cause : BitVec 8) (val : BitVec 64) : Virga :=
  { v with
    vepc := BitVec.ofNat 64 (v.pc % 0x20000)
    vcause := 0x100#64 ||| cause.setWidth 64
    vtval := val
    pc := (v.vtvec &&& 0x1FFFC#64).toNat
    run := .run }

/-- Take a fault (R404). -/
def vfault (s : State) (cause : BitVec 8) (val : BitVec 64) : State :=
  let v := vself s
  if !v.vtvec.getLsbD 0 || v.vcause.getLsbD 8 then vstop s s.iss.virga cause
  else vmod s fun v => vvectored v cause val

/-- Greatest IMEM address (R393). -/
def imemTop : Nat := 0x20000

/-- Greatest DMEM address plus one (R393). -/
def dmemTop : Nat := 0x40000

/-- Branch to a target (R403): beyond IMEM it faults; `f` is what the branch writes. -/
def vjump (s : State) (target : BitVec 64) (f : Virga → Virga) : State :=
  if imemTop ≤ target.toNat then vfault s vBound target
  else vmod s fun v => { f v with pc := target.toNat, run := .run }

/-- The target of a branch or jump: own address + offset × 4 (R398). -/
def vtarget (v : Virga) (off : Int) : BitVec 64 := BitVec.ofInt 64 ((v.pc : Int) + 4 * off)

/-- A conditional branch (R403). -/
def vbranch (s : State) (take : Bool) (o : BitVec 16) : State :=
  if take then vjump s (vtarget (vself s) o.toInt) id else vdone s

/-! ### DMEM and IMEM (R393, R394, R402) -/

/-- What the loaded image gives a DMEM byte; 0 before any image is loaded. -/
def dmemImage (v : Virga) (n off : Nat) : Byte :=
  match v.image with
  | some i => Config.firmwareDmem i n off
  | none => 0

/-- A byte of DMEM. -/
def dmemByte (v : Virga) (n off : Nat) : Byte := tblGet (dmemImage v n off) v.dmem off

/-- Bytes of DMEM. -/
def dmemBytes (v : Virga) (n off : Nat) : Nat → List Byte
  | 0 => []
  | k + 1 => dmemByte v n off :: dmemBytes v n (off + 1) k

/-- Write bytes of DMEM. -/
def setDmem (v : Virga) (n off : Nat) : List Byte → Virga
  | [] => v
  | b :: bs => setDmem { v with dmem := tblSet (dmemImage v n off) v.dmem off b } n (off + 1) bs

/-- A word of IMEM by its byte address; 0, the NOP, before any image is loaded. -/
def imemWord (v : Virga) (n addr : Nat) : BitVec 32 :=
  let d : BitVec 32 := match v.image with
    | some i => Config.firmwareImem i n (addr / 4)
    | none => 0
  tblGet d v.imem (addr / 4)

/-- The address of a load or store, checked: ALIGN first, then BOUND (R402). -/
def vaddr (s : State) (base : BitVec 5) (imm : BitVec 16) (size : Nat) (f : Nat → State) : State :=
  let a := vreg (vself s) base + imm.signExtend 64
  if a.toNat % size ≠ 0 then vfault s vAlign a
  else if dmemTop < a.toNat + size then vfault s vBound a
  else f a.toNat

/-! ### System registers (R396, R397) -/

/-- VSTAT. -/
def vstat (v : Virga) : BitVec 64 :=
  BitVec.ofNat 64 (maskOf (fun i => timerQueued v i) 16 * 65536 + v.queue.length % 2048)

/-- The value of a system register of core n, or none for a number that is no register. -/
def vsys (s : State) (n : Nat) (num : BitVec 12) : Option (BitVec 64) :=
  let v := getVirga s n
  match num.toNat with
  | 0x000 => some (BitVec.ofNat 64 (n / 4 * 8 + n % 4))
  | 0x001 => some (vstat v)
  | 0x002 => some s.pkg.gtime
  | 0x003 => some v.vcyc
  | 0x004 => some v.vtvec
  | 0x005 => some v.vepc
  | 0x006 => some v.vcause
  | 0x007 => some v.vtval
  | 0x008 => some (BitVec.ofNat 64 (v.clrMask.toNat * 65536 + v.ovfw.toNat))
  | 0x00C => some (v.losMask.setWidth 64)
  | 0x00D => some (v.losMask.extractLsb' 64 64)
  | 0x010 => some (s.pkg.gtrate.setWidth 64)
  | 0x011 => some (if n = 0 then s.pkg.ptpofs else 0)
  | 0x012 => some (if n = 0 then s.pkg.ptpseq.setWidth 64 else 0)
  | 0x013 => some 0
  | _ => none

/-- RATE held within ±500 ppm (R397). -/
def clampRate (x : BitVec 32) : BitVec 32 :=
  if x.toInt < -2147483 then BitVec.ofInt 32 (-2147483) else if 2147483 < x.toInt then BitVec.ofInt 32 2147483 else x

/-- A write to GTSTEP on core 0: the first positive one steps GTIME forward, later ones are ignored (R36, R397). A value with
bit 63 set is no v > 0: it would move GTIME back, which R35 forbids (DEDUCED, log 40). -/
def writeGtstep (s : State) (v : BitVec 64) : State :=
  if s.pkg.gtstepDone ∨ v.toInt ≤ 0 then s
  else { s with pkg := { s.pkg with gtime := s.pkg.gtime + v, gtstepDone := true } }

/-- A write to GTRATE on core 0 (R397); while the selected port is dark the rate is held (R36, DEDUCED, log 40). -/
def writeGtrate (s : State) (v : BitVec 64) : State :=
  if s.pkg.ptp = .hold then s else { s with pkg := { s.pkg with gtrate := clampRate (v.setWidth 32) } }

/-- An MTV of a number that is a register: its writable fields take the value, read-only ones stand (R396). -/
def vsysWrite (s : State) (num : BitVec 12) (x : BitVec 64) : State :=
  match num.toNat with
  | 0x004 => vmod s fun v => { v with vtvec := x &&& 0x1FFFD#64 }
  | 0x005 => vmod s fun v => { v with vepc := x &&& 0x1FFFC#64 }
  | 0x006 => vmod s fun v => { v with vcause := x &&& 0x1FF#64 }
  | 0x007 => vmod s fun v => { v with vtval := x }
  | 0x010 => if s.iss.virga = 0 then writeGtrate s x else s
  | 0x013 => if s.iss.virga = 0 then writeGtstep s x else s
  | _ => s

/-! ### Timers (R407) -/

/-- A timer. -/
def getTimer (v : Virga) (n : Nat) : VTimer := tblGet ⟨0, 0, 0⟩ v.timers n

/-- Put a timer. -/
def setTimer (v : Virga) (n : Nat) (t : VTimer) : Virga := { v with timers := tblSet ⟨0, 0, 0⟩ v.timers n t }

/-- Has GTIME reached the deadline? -/
def timerDue (s : State) (t : VTimer) : Bool := t.deadline != 0 && t.deadline.ule s.pkg.gtime

/-- The timer after every deadline that GTIME has passed: each is an expiry; a periodic timer advances to the first
deadline after GTIME, another is disabled. -/
def timerAfter (now : BitVec 64) (t : VTimer) : VTimer :=
  if t.period = 0 then { t with deadline := 0, expiries := t.expiries + 1 }
  else
    let k := (now - t.deadline).toNat / t.period.toNat + 1
    { t with deadline := t.deadline + BitVec.ofNat 64 k * t.period, expiries := t.expiries + k }

/-- Expire a timer that is due: a record is posted unless one stands in the queue. -/
def expireTimer (s : State) (core n : Nat) : State :=
  let t := getTimer (getVirga s core) n
  if timerDue s t then
    let s1 := modVirga s core fun v => setTimer v n (timerAfter s.pkg.gtime t)
    if timerQueued (getVirga s core) n then s1 else postCore s1 core (plainRecord s 13 none 0 (BitVec.ofNat 64 n))
  else s

/-! ### Transport state (R408 to R413) -/

/-- Check an index against its range: RANGE holds the index in VTVAL (R408). -/
def vrange (s : State) (x : BitVec 64) (n : Nat) (f : Nat → State) : State :=
  if n ≤ x.toNat then vfault s vRange x else f x.toNat

/-- A PDC of the core's own: OWNER otherwise, and nothing changes (R408). -/
def vowned (s : State) (x : BitVec 64) (f : Nat → State) : State :=
  vrange s x 65536 fun k => if k % 8 = s.iss.virga then f k else vfault s vOwner x

/-- RTOUS as PDCWR writes it (R119, R409): 0 is taken as 1, and what is above the RTOMAX of the peer's entry as that; it is never
0 (R45). -/
def clampRto (x : BitVec 64) (rtomax : BitVec 16) : BitVec 16 := BitVec.ofNat 16 (max 1 (min x.toNat rtomax.toNat))

/-- A field of a PDC after PDCWR (R409), by the RTOMAX of its peer's entry. -/
def pdcField (rtomax : BitVec 16) (f : BitVec 3) (x : BitVec 64) (p : Pdc) : Pdc :=
  match f.toNat with
  | 0 => { p with cwnd := BitVec.ofNat 16 (min 65535 (max 16 x.toNat)) }
  | 1 => { p with rtous := clampRto x rtomax }
  | 2 => { p with ccacks := BitVec.ofNat 8 (min 255 x.toNat) }
  | 3 => { p with ccus := BitVec.ofNat 8 (min 255 x.toNat) }
  | _ => { p with
      evpend := p.evpend &&& ~~~(x.setWidth 16)
      events := tblFilter (fun k _ => !bitOf x.toNat k) p.events }

/-- May a PDC take requests for retransmission: OPEN or NOPATH, or QUIESCE before it closes (R410)? -/
def retxAllowed (p : Pdc) : Bool := p.state == pdcOpen || p.state == pdcNopath || p.state == pdcQuiesce

/-- Queue a retransmission request (R410): a queue of 16 is full and the core waits; a PDC that is closed or failed
discards it. -/
def vretx (s : State) (k : Nat) (r : Retx) : State :=
  let p := getPdc s k
  if r.left.isEmpty || !retxAllowed p then vdone s
  else if 16 ≤ p.retx.length then vmod s vstall
  else vdone (modPdc s k fun p => { p with retx := p.retx ++ [r] })

/-- Did the latest copy of a PSN leave on the port, and is it unacknowledged (R51, R411)? -/
def leftOn (p : Pdc) (port : Nat) (psn : BitVec 32) : Bool :=
  match tblGet none p.sent psn.toNat with
  | some x => !x.acked && x.port == some port
  | none => false

/-- The lowest such PSN at or after an offset from UNAPSN. -/
def leftFrom (p : Pdc) (port from_ : Nat) : Option (BitVec 32) :=
  (firstIndex (fun o => leftOn p port (p.unaPsn + BitVec.ofNat 32 o)) from_ (1024 - from_)).map fun o =>
    p.unaPsn + BitVec.ofNat 32 o

/-- Where the scan of a PDC begins under the cursor (R411). -/
def scanFrom (p : Pdc) (k : Nat) : Option (Nat × BitVec 32) → Nat
  | none => 0
  | some (c, psn) => if k = c then ((psn - p.unaPsn).toInt).toNat else 0

/-- The lowest-indexed owned PDC with such a PSN at or after the cursor (R411). -/
def losFind (s : State) (core port : Nat) (cur : Option (Nat × BitVec 32)) : Option (Nat × BitVec 32) :=
  s.net.pdcs.findSome? fun e =>
    let start : Bool := match cur with
      | some (c, _) => decide (c ≤ e.1)
      | none => true
    if pdcOwner e.1 == core && start then (leftFrom e.2 port (scanFrom e.2 e.1 cur)).map fun b => (e.1, b) else none

/-- Usable entries of a path set (R49). -/
def usableCount (s : State) (l : List (BitVec 32)) : Nat := (l.filter fun e => entryUsable s e).length

/-- A bit of an RCB's arrival bitmap as BMRD reads it (R413). -/
def bitmapBit (b : Rcb) (i : Nat) : Bool :=
  b.state != 0 && decide (i < b.nchk * ((b.image.extractLsb' 207 4).toNat + 1)) && tblGet false b.bitmap i

end Sys2Proof.Machine
end

