-- ==== Sys2Proof/Machine/Package.lean ====
section
/-!
DEFINITION. Sys2Proof/Machine/Package.lean: reset and start-up (R39, R40, R394), power and time (R35 to R38, R397, R407), and
errors of memories and logic (R188, R260, R261).
-/
namespace Sys2Proof.Machine

/-! ### Reset and start-up -/

/-- PERST# is asserted and released (R39): everything is as State.reset has it, but the persistent store (R124) and the
memory behind the ports (R28, R30, log 4); what waits on the agenda goes on (log 1). -/
def resetPackage (s : State) : State :=
  { State.reset with
    mem := s.mem
    poison := s.poison
    pkg := { Package.reset with firmware := s.pkg.firmware }
    images := s.images
    agenda := s.agenda
    tick := s.tick }

/-- Is a start-up phase the next one? -/
def phaseNext (s : State) (n : Nat) : Bool := s.pkg.phase == n && !s.pkg.failed

/-- The next phase is due. -/
def phaseDone (s : State) (n : Nat) : State := { s with pkg := { s.pkg with phase := n + 1 } }

/-- Phase 1: a firmware image that fails verification stops the package (R38, R40). -/
def verifyFirmware (s : State) : State :=
  if Config.firmwareGood s.pkg.firmware then phaseDone s 1 else { s with pkg := { s.pkg with failed := true } }

/-- A Virga core at the start of phase 2: images loaded, all else clear, at IMEM address 0 (R394). -/
def freshVirga (image : List Byte) (v : Virga) : Virga :=
  { virgaEmpty with run := .run, image := some image, vcyc := v.vcyc }

/-- Phase 2: every Virga core loads its images. -/
def startVirgas (s : State) : State := foldIndex (fun s n => modVirga s n (freshVirga s.pkg.firmware)) s 0 8

/-- Phase 3: HBM is trained, row-remap tables are loaded, and the write-combining store is clear. -/
def startBaseDies (s : State) : State := { s with dies := [] }

/-- Phase 4: compute dies leave reset, beats count from 0, banks and accumulators are scrubbed. -/
def startCores (s : State) : State := { s with cells := [], cores := [], pkg := { s.pkg with beat := 0 } }

/-- A CXL port trains, or does not; an expander that it finds gives it its range (R28, R39). -/
def trainCxl (s : State) (port : Nat) : State :=
  if Config.cxlTrains port s.tick then
    modCxl s port fun p => { p with up := true, capacity := Config.cxlCapacity port s.tick }
  else s

/-- An Ethernet port trains, or stays down and is reported as LOS to every Virga core (R24, R50); no port is admitted (R40,
R48). -/
def trainPort (s : State) (port : Nat) : State :=
  if Config.etherTrains port s.tick then modPort s port fun p => { p with up := true }
  else foldIndex (fun s n => postCore s n (plainRecord s 5 none port 0)) s 0 8

/-- Phase 5: ports train, and GSTAT.READY is set. -/
def startPorts (s : State) : State :=
  let s1 := foldIndex trainPort (foldIndex trainCxl s 0 8) 0 128
  { s1 with gafin := { s1.gafin with ready := true }, tick := s1.tick + 1 }

/-- R39: PERST# resets the package, and start-up begins at phase 1. -/
def evPerstAssert (st : State) : State := resetPackage st

/-- R39: one such event. -/
def execPerstAssert (st : State) : Host.Outcome State Fault Refusal := .next (evPerstAssert st)

/-- R39, R40: the root of trust verifies the firmware image. -/
def evStartupPhase1 (st : State) : State := if phaseNext st 1 then verifyFirmware st else st

/-- R39, R40: one such event. -/
def execStartupPhase1 (st : State) : Host.Outcome State Fault Refusal := .next (evStartupPhase1 st)

/-- R39, R394: Virga cores load their firmware; the host port trains. -/
def evStartupPhase2 (st : State) : State := if phaseNext st 2 then phaseDone (startVirgas st) 2 else st

/-- R39, R394: one such event. -/
def execStartupPhase2 (st : State) : Host.Outcome State Fault Refusal := .next (evStartupPhase2 st)

/-- R39: base dies train HBM, load row-remap tables and clear the write-combining store. -/
def evStartupPhase3 (st : State) : State := if phaseNext st 3 then phaseDone (startBaseDies st) 3 else st

/-- R39: one such event. -/
def execStartupPhase3 (st : State) : Host.Outcome State Fault Refusal := .next (evStartupPhase3 st)

/-- R39: compute dies leave reset. -/
def evStartupPhase4 (st : State) : State := if phaseNext st 4 then phaseDone (startCores st) 4 else st

/-- R39: one such event. -/
def execStartupPhase4 (st : State) : Host.Outcome State Fault Refusal := .next (evStartupPhase4 st)

/-- R39, R40: CXL and Ethernet ports train; READY is set. -/
def evStartupPhase5 (st : State) : State := if phaseNext st 5 then phaseDone (startPorts st) 5 else st

/-- R39, R40: one such event. -/
def execStartupPhase5 (st : State) : Host.Outcome State Fault Refusal := .next (evStartupPhase5 st)

/-! ### Power and time -/

/-- R38: one of the eighteen dies (R18) reaches 115 °C: issue stops on every core. -/
def evThermtrip (st : State) : State := 
  match st.input with
  | .num die => if die < 18 then { st with pkg := { st.pkg with thermtrip := true } } else st
  | _ => st

/-- R38: one such event. -/
def execThermtrip (st : State) : Host.Outcome State Fault Refusal := .next (evThermtrip st)

/-- An exchange ends with an offset: PTPOFS and PTPSEQ change together (R397). -/
def endExchange (s : State) (ofs : Nat) : State :=
  { s with pkg := { s.pkg with ptpofs := BitVec.ofNat 64 ofs, ptpseq := s.pkg.ptpseq + 1 } }

/-- Can an exchange complete: the driver has accepted PTP (R106, R107), and the Ethernet port that the host has selected is
followed and up (R36)? -/
def ptpRuns (s : State) : Bool := feature s 8 && s.pkg.ptp == .follow && (getPort s s.pkg.ptpPort.toNat).up

/-- R36, R397: the PTP message engine completes an exchange on the selected Ethernet port. -/
def evPtpExchangeComplete (st : State) : State := 
  match st.input with
  | .num ofs => if ptpRuns st then endExchange st ofs else st
  | _ => st

/-- R36, R397: one such event. -/
def execPtpExchangeComplete (st : State) : Host.Outcome State Fault Refusal := .next (evPtpExchangeComplete st)

/-- R36, R397: a write to GTSTEP on core 0: the first positive one steps GTIME forward. -/
def evGtstepWrite (st : State) : State := 
  match st.input with
  | .num v => writeGtstep st (BitVec.ofNat 64 v)
  | _ => st

/-- R36, R397: one such event. -/
def execGtstepWrite (st : State) : Host.Outcome State Fault Refusal := .next (evGtstepWrite st)

/-- R397: a write to GTRATE on core 0 sets the rate correction. -/
def evGtrateWrite (st : State) : State := 
  match st.input with
  | .num v => writeGtrate st (BitVec.ofNat 64 v)
  | _ => st

/-- R397: one such event. -/
def execGtrateWrite (st : State) : Host.Outcome State Fault Refusal := .next (evGtrateWrite st)

/-- R407: a timer of a Virga core has reached its deadline (core, timer). -/
def evVirgaTimerExpiry (st : State) : State := 
  match st.input with
  | .pair core n => if core < 8 ∧ n < 16 then expireTimer st core n else st
  | _ => st

/-- R407: one such event. -/
def execVirgaTimerExpiry (st : State) : Host.Outcome State Fault Refusal := .next (evVirgaTimerExpiry st)

/-! ### Errors -/

/-- A poisoned word of HBM, reported (R188, R260). -/
def poisonHbm (s : State) (pa : Nat) : State :=
  if pa < hbmTop then postMemUe (poisonWords s (pa / 8 * 8) 8) 1 (pa / 8 * 8) (stackOf pa) else s

/-- Is a register one of p, m, mp, lc or xp that an instruction can write, by the number of R271? -/
def otherReg (n : Nat) : Bool :=
  (decide (64 < n) && decide (n < 80)) || (decide (80 < n) && decide (n < 96)) || (decide (224 ≤ n) && decide (n < 244))

/-- An uncorrectable error of a memory (R188, R260, R393): 0 HBM, by address; 1 a bank, by slot and near address; 2 the
accumulators, by slot and word; 3 the write-combining store, by address: its line drains; 4 a memory of a Virga core; 5 and 6
the scalar and vector registers of a slot; 7 its other register files, by the number of R271. -/
def uncorrectable (s : State) (unit a b : Nat) : State :=
  match unit with
  | 0 => poisonHbm s a
  | 1 => modCell s a fun c => if c.live ∧ b < 32 * 65536 then poisonNear c (b / 65536) (b % 65536 / 8 * 8) 8 else c
  | 2 => modCell s a fun c => if c.live ∧ b < 48 * 2048 then { c with poisonAcc := tblSet false c.poisonAcc b true } else c
  | 3 => if a < hbmTop then poisonHbm (drainLine s (stackOf a) (a / 256)) a else s
  | 4 => if a < 8 ∧ (getVirga s a).run ≠ .stopped then vstop s a vPoison else s
  | 5 => modCell s a fun c => if c.live ∧ b < 64 then { c with poisonS := tblSet false c.poisonS b true } else c
  | 6 => modCell s a fun c => if c.live ∧ b < 64 then { c with poisonV := tblSet false c.poisonV b true } else c
  | 7 => modCell s a fun c => if c.live && otherReg b then { c with poisonR := tblSet false c.poisonR b true } else c
  | _ => s

/-- R260: an uncorrectable error poisons a word (unit, place). -/
def evEccUncorrectable (st : State) : State := 
  match st.input with
  | .triple unit a b => uncorrectable st unit a b
  | _ => st

/-- R260: one such event. -/
def execEccUncorrectable (st : State) : Host.Outcome State Fault Refusal := .next (evEccUncorrectable st)

/-- The first compute die of the IO die of a Virga core (R18, R393). -/
def virgaComputeDie (n : Nat) : Nat := n / 4 * 4

/-- R123, R260, R393: a corrected error is counted: of HBM, a bank or an accumulator in class 6 or 7 (class, instance), of the
IMEM or DMEM of a Virga core in class 7 under the first compute die of its IO die (core). -/
def evEccCorrected (st : State) : State := 
  match st.input with
  | .pair cls n => if (cls = 6 ∨ cls = 7) ∧ n < 8 then countSource st (cls * 4096 + n) 1 else st
  | .num n => if n < 8 then countSource st (7 * 4096 + virgaComputeDie n) 1 else st
  | _ => st

/-- R123, R260, R393: one such event. -/
def execEccCorrected (st : State) : Host.Outcome State Fault Refusal := .next (evEccCorrected st)

/-- POISON goes to the host from a cell that has not halted. -/
def parityTrap (s : State) (k : Nat) : State :=
  let c := getCell s k
  if c.live ∧ c.run ≠ .halted then toHost s k causePoison (groupStart s k) 0 0 else s

/-- A parity error on a tile (R260): its cells issue nothing more. -/
def parityError (s : State) (core : Nat) : State :=
  parityTrap (parityTrap (modCore s core fun u => { u with parity := true }) (2 * core)) (2 * core + 1)

/-- R260: a parity error stops issue of the cells of a tile. -/
def evParityError (st : State) : State := 
  match st.input with
  | .num core => if core < 640 then parityError st core else st
  | _ => st

/-- R260: one such event. -/
def execParityError (st : State) : Host.Outcome State Fault Refusal := .next (evParityError st)

/-- R261: an uncorrectable error in the row-remap table of a base die (die, channel). -/
def evRemapTableUe (st : State) : State := 
  match st.input with
  | .pair die ch =>
    if die < 8 ∧ ch < 32 then
      postHost (modDie st die fun d => { d with badChannels := d.badChannels ||| 2 ^ ch })
        ⟨0x0021, 0, none, toBytes die 1 ++ toBytes ch 1⟩
    else st
  | _ => st

/-- R261: one such event. -/
def execRemapTableUe (st : State) : Host.Outcome State Fault Refusal := .next (evRemapTableUe st)

end Sys2Proof.Machine
end

