-- ==== Sys2Proof/Machine/VirgaFamily.lean ====
section
/-!
DEFINITION. Sys2Proof/Machine/VirgaFamily.lean: the meanings of the Virga instructions (R399 to R414).
-/
namespace Sys2Proof.Machine

/-- R399: NOP. -/
def execVirgaNop (s : State) : Host.Outcome State Fault Refusal := .next (vdone s)

/-- R399: a word that is no instruction raises ILLOP. -/
def execVirgaUnassignedOpcode (s : State) : Host.Outcome State Fault Refusal := .next (vfault s vIllop 0)

/-! ### Arithmetic (R401) -/

/-- R401: the result of ADD. -/
def virgaAddValue (x y : BitVec 64) : BitVec 64 := x + y

/-- R401: ADD. -/
def execVirgaAdd (d r t : BitVec 5) (s : State) : Host.Outcome State Fault Refusal :=
  .next (vwrite s d (virgaAddValue (vreg (vself s) r) (vreg (vself s) t)))

/-- R401: the result of SUB. -/
def virgaSubValue (x y : BitVec 64) : BitVec 64 := x - y

/-- R401: SUB. -/
def execVirgaSub (d r t : BitVec 5) (s : State) : Host.Outcome State Fault Refusal :=
  .next (vwrite s d (virgaSubValue (vreg (vself s) r) (vreg (vself s) t)))

/-- R401: the result of MUL. -/
def virgaMulValue (x y : BitVec 64) : BitVec 64 := x * y

/-- R401: MUL. -/
def execVirgaMul (d r t : BitVec 5) (s : State) : Host.Outcome State Fault Refusal :=
  .next (vwrite s d (virgaMulValue (vreg (vself s) r) (vreg (vself s) t)))

/-- R401: the result of AND. -/
def virgaAndValue (x y : BitVec 64) : BitVec 64 := x &&& y

/-- R401: AND. -/
def execVirgaAnd (d r t : BitVec 5) (s : State) : Host.Outcome State Fault Refusal :=
  .next (vwrite s d (virgaAndValue (vreg (vself s) r) (vreg (vself s) t)))

/-- R401: the result of OR. -/
def virgaOrValue (x y : BitVec 64) : BitVec 64 := x ||| y

/-- R401: OR. -/
def execVirgaOr (d r t : BitVec 5) (s : State) : Host.Outcome State Fault Refusal :=
  .next (vwrite s d (virgaOrValue (vreg (vself s) r) (vreg (vself s) t)))

/-- R401: the result of XOR. -/
def virgaXorValue (x y : BitVec 64) : BitVec 64 := x ^^^ y

/-- R401: XOR. -/
def execVirgaXor (d r t : BitVec 5) (s : State) : Host.Outcome State Fault Refusal :=
  .next (vwrite s d (virgaXorValue (vreg (vself s) r) (vreg (vself s) t)))

/-- R401: the result of SHL. -/
def virgaShlValue (x y : BitVec 64) : BitVec 64 := x <<< (y.toNat % 64)

/-- R401: SHL. -/
def execVirgaShl (d r t : BitVec 5) (s : State) : Host.Outcome State Fault Refusal :=
  .next (vwrite s d (virgaShlValue (vreg (vself s) r) (vreg (vself s) t)))

/-- R401: the result of SHR. -/
def virgaShrValue (x y : BitVec 64) : BitVec 64 := x >>> (y.toNat % 64)

/-- R401: SHR. -/
def execVirgaShr (d r t : BitVec 5) (s : State) : Host.Outcome State Fault Refusal :=
  .next (vwrite s d (virgaShrValue (vreg (vself s) r) (vreg (vself s) t)))

/-- R401: the result of SRA. -/
def virgaSraValue (x y : BitVec 64) : BitVec 64 := x.sshiftRight (y.toNat % 64)

/-- R401: SRA. -/
def execVirgaSra (d r t : BitVec 5) (s : State) : Host.Outcome State Fault Refusal :=
  .next (vwrite s d (virgaSraValue (vreg (vself s) r) (vreg (vself s) t)))

/-- R401: the result of SLT. -/
def virgaSltValue (x y : BitVec 64) : BitVec 64 := if x.slt y then 1 else 0

/-- R401: SLT. -/
def execVirgaSlt (d r t : BitVec 5) (s : State) : Host.Outcome State Fault Refusal :=
  .next (vwrite s d (virgaSltValue (vreg (vself s) r) (vreg (vself s) t)))

/-- R401: the result of SLTU. -/
def virgaSltuValue (x y : BitVec 64) : BitVec 64 := if x.ult y then 1 else 0

/-- R401: SLTU. -/
def execVirgaSltu (d r t : BitVec 5) (s : State) : Host.Outcome State Fault Refusal :=
  .next (vwrite s d (virgaSltuValue (vreg (vself s) r) (vreg (vself s) t)))

/-- R401: ADDI. -/
def execVirgaAddi (d r : BitVec 5) (i : BitVec 16) (s : State) : Host.Outcome State Fault Refusal :=
  .next (vwrite s d (virgaAddValue (vreg (vself s) r) (i.signExtend 64)))

/-- R401: ANDI. -/
def execVirgaAndi (d r : BitVec 5) (i : BitVec 16) (s : State) : Host.Outcome State Fault Refusal :=
  .next (vwrite s d (virgaAndValue (vreg (vself s) r) (i.setWidth 64)))

/-- R401: ORI. -/
def execVirgaOri (d r : BitVec 5) (i : BitVec 16) (s : State) : Host.Outcome State Fault Refusal :=
  .next (vwrite s d (virgaOrValue (vreg (vself s) r) (i.setWidth 64)))

/-- R401: XORI. -/
def execVirgaXori (d r : BitVec 5) (i : BitVec 16) (s : State) : Host.Outcome State Fault Refusal :=
  .next (vwrite s d (virgaXorValue (vreg (vself s) r) (i.setWidth 64)))

/-- R401: SLTI. -/
def execVirgaSlti (d r : BitVec 5) (i : BitVec 16) (s : State) : Host.Outcome State Fault Refusal :=
  .next (vwrite s d (virgaSltValue (vreg (vself s) r) (i.signExtend 64)))

/-- R401: SHLI; the shift amount is the six low bits of imm, the others are zero. -/
def execVirgaShli (d r : BitVec 5) (i : BitVec 6) (s : State) : Host.Outcome State Fault Refusal :=
  .next (vwrite s d (virgaShlValue (vreg (vself s) r) (i.setWidth 64)))

/-- R401: SHRI; the shift amount is the six low bits of imm, the others are zero. -/
def execVirgaShri (d r : BitVec 5) (i : BitVec 6) (s : State) : Host.Outcome State Fault Refusal :=
  .next (vwrite s d (virgaShrValue (vreg (vself s) r) (i.setWidth 64)))

/-- R401: SRAI; the shift amount is the six low bits of imm, the others are zero. -/
def execVirgaSrai (d r : BitVec 5) (i : BitVec 6) (s : State) : Host.Outcome State Fault Refusal :=
  .next (vwrite s d (virgaSraValue (vreg (vself s) r) (i.setWidth 64)))

/-- R401: LIS shifts gd left by 16 and inserts imm. -/
def execVirgaLis (d : BitVec 5) (i : BitVec 16) (s : State) : Host.Outcome State Fault Refusal :=
  .next (vwrite s d (vreg (vself s) d * 65536 + i.setWidth 64))

/-! ### DMEM (R402) -/

/-- R402: LD. -/
def execVirgaLd (d r : BitVec 5) (i : BitVec 16) (s : State) : Host.Outcome State Fault Refusal :=
  .next (vaddr s r i 8 fun a =>
    vwrite s d (BitVec.ofNat 64 (ofBytes (dmemBytes (vself s) s.iss.virga a 8))))

/-- R402: LW. -/
def execVirgaLw (d r : BitVec 5) (i : BitVec 16) (s : State) : Host.Outcome State Fault Refusal :=
  .next (vaddr s r i 4 fun a =>
    vwrite s d (BitVec.ofNat 64 (ofBytes (dmemBytes (vself s) s.iss.virga a 4))))

/-- R402: ST. -/
def execVirgaSt (d r : BitVec 5) (i : BitVec 16) (s : State) : Host.Outcome State Fault Refusal :=
  .next (vaddr s r i 8 fun a =>
    vmod s fun v => vnext (setDmem v s.iss.virga a (toBytes (vreg v d).toNat 8)))

/-- R402: SW. -/
def execVirgaSw (d r : BitVec 5) (i : BitVec 16) (s : State) : Host.Outcome State Fault Refusal :=
  .next (vaddr s r i 4 fun a =>
    vmod s fun v => vnext (setDmem v s.iss.virga a (toBytes (vreg v d).toNat 4)))

/-! ### Branches (R403) -/

/-- R403: the condition of BEQ. -/
def virgaBeqTaken (x y : BitVec 64) : Bool := x == y

/-- R403: BEQ. -/
def execVirgaBeq (r t : BitVec 5) (o : BitVec 16) (s : State) : Host.Outcome State Fault Refusal :=
  .next (vbranch s (virgaBeqTaken (vreg (vself s) r) (vreg (vself s) t)) o)

/-- R403: the condition of BNE. -/
def virgaBneTaken (x y : BitVec 64) : Bool := x != y

/-- R403: BNE. -/
def execVirgaBne (r t : BitVec 5) (o : BitVec 16) (s : State) : Host.Outcome State Fault Refusal :=
  .next (vbranch s (virgaBneTaken (vreg (vself s) r) (vreg (vself s) t)) o)

/-- R403: the condition of BLT. -/
def virgaBltTaken (x y : BitVec 64) : Bool := x.slt y

/-- R403: BLT. -/
def execVirgaBlt (r t : BitVec 5) (o : BitVec 16) (s : State) : Host.Outcome State Fault Refusal :=
  .next (vbranch s (virgaBltTaken (vreg (vself s) r) (vreg (vself s) t)) o)

/-- R403: the condition of BGE. -/
def virgaBgeTaken (x y : BitVec 64) : Bool := !x.slt y

/-- R403: BGE. -/
def execVirgaBge (r t : BitVec 5) (o : BitVec 16) (s : State) : Host.Outcome State Fault Refusal :=
  .next (vbranch s (virgaBgeTaken (vreg (vself s) r) (vreg (vself s) t)) o)

/-- R403: the condition of BLTU. -/
def virgaBltuTaken (x y : BitVec 64) : Bool := x.ult y

/-- R403: BLTU. -/
def execVirgaBltu (r t : BitVec 5) (o : BitVec 16) (s : State) : Host.Outcome State Fault Refusal :=
  .next (vbranch s (virgaBltuTaken (vreg (vself s) r) (vreg (vself s) t)) o)

/-- R403: the condition of BGEU. -/
def virgaBgeuTaken (x y : BitVec 64) : Bool := !x.ult y

/-- R403: BGEU. -/
def execVirgaBgeu (r t : BitVec 5) (o : BitVec 16) (s : State) : Host.Outcome State Fault Refusal :=
  .next (vbranch s (virgaBgeuTaken (vreg (vself s) r) (vreg (vself s) t)) o)

/-- R403: J. -/
def execVirgaJ (o : BitVec 26) (s : State) : Host.Outcome State Fault Refusal :=
  .next (vjump s (vtarget (vself s) o.toInt) id)

/-- R403: JAL writes its return address to g31. -/
def execVirgaJal (o : BitVec 26) (s : State) : Host.Outcome State Fault Refusal :=
  .next (vjump s (vtarget (vself s) o.toInt) fun v => vput v 31 (BitVec.ofNat 64 (v.pc + 4)))

/-- R403: JR; a target that is no multiple of 4 raises ALIGN. -/
def execVirgaJr (r : BitVec 5) (s : State) : Host.Outcome State Fault Refusal :=
  let t := vreg (vself s) r
  .next (if t.toNat % 4 ≠ 0 then vfault s vAlign t else vjump s t id)

/-! ### System registers and faults (R396, R404) -/

/-- R404: MFV; a number that is no register raises ILLOP (R396). -/
def execVirgaMfv (d : BitVec 5) (n : BitVec 12) (s : State) : Host.Outcome State Fault Refusal :=
  .next (match vsys s s.iss.virga n with
    | some x => vwrite s d x
    | none => vfault s vIllop 0)

/-- R404: MTV; a number that is no register raises ILLOP (R396). -/
def execVirgaMtv (r : BitVec 5) (n : BitVec 12) (s : State) : Host.Outcome State Fault Refusal :=
  .next (match vsys s s.iss.virga n with
    | some _ => vdone (vsysWrite s n (vreg (vself s) r))
    | none => vfault s vIllop 0)

/-- R404: VRET branches to VEPC and clears BUSY. -/
def execVirgaVret (s : State) : Host.Outcome State Fault Refusal :=
  .next (vjump s (vself s).vepc fun v => { v with vcause := v.vcause &&& 0xFF#64 })

/-! ### Events and timers (R406, R407) -/

/-- The record as EVTAKE delivers it: OVF when the queue overflowed, and for a TIMER the expiries since the last take. -/
def takenRecord (v : Virga) (r : EventRec) : EventRec :=
  let r1 := { r with ovf := v.ovf }
  if r.code = 13 then { r1 with count := BitVec.ofNat 32 (getTimer v r.aux.toNat).expiries } else r1

/-- The core after its head record is taken. -/
def afterTake (v : Virga) (r : EventRec) (rest : List EventRec) : Virga :=
  let v1 := { v with queue := rest, ovf := false }
  if r.code = 13 then setTimer v1 r.aux.toNat { getTimer v1 r.aux.toNat with expiries := 0 } else v1

/-- R406: EVTAKE takes the head record; an empty queue waits with W = 1 and gives zeros with W = 0. -/
def execVirgaEvtake (d : BitVec 5) (w : Bool) (s : State) : Host.Outcome State Fault Refusal :=
  let v := vself s
  match v.queue with
  | [] => .next (if w then vmod s vstall else vwrites s d [0, 0, 0, 0])
  | r :: rest =>
    let s1 := vmod s fun v => vnext (vputs (afterTake v r rest) d (vwords (recordWord (takenRecord v r)) 4))
    .next (drainEvents s1 s.iss.virga 64)

/-- R407: TMSET; the expiries that GTIME has already reached come first. -/
def execVirgaTmset (p n t : BitVec 5) (s : State) : Host.Outcome State Fault Refusal :=
  let v := vself s
  let k := vreg v n
  .next (if 15 < k.toNat then vfault s vRange k
    else vdone (vmod (expireTimer s s.iss.virga k.toNat) fun u =>
      setTimer u k.toNat { getTimer u k.toNat with deadline := vreg v t, period := vreg v p }))

/-! ### Transport state (R408 to R413) -/

/-- R409: PDCRD. -/
def execVirgaPdcrd (d r : BitVec 5) (s : State) : Host.Outcome State Fault Refusal :=
  .next (vrange s (vreg (vself s) r) 65536 fun k => vwrites s d (vwords (pdcWord (getPdc s k)) 4))

/-- R409: PDCWR; field codes 5 to 7 raise ILLOP. -/
def execVirgaPdcwr (r t : BitVec 5) (f : BitVec 3) (s : State) : Host.Outcome State Fault Refusal :=
  let v := vself s
  .next (if 5 ≤ f.toNat then vfault s vIllop 0
    else vowned s (vreg v r) fun k => vdone (modPdc s k
      (pdcField (peerRtomax (getPeer s (getPdc s k).peer.toNat)) f (vreg v t))))

/-- R409: PDCFAIL writes the STATE before, and moves an open PDC to FAILED (R46). -/
def execVirgaPdcfail (d r : BitVec 5) (s : State) : Host.Outcome State Fault Refusal :=
  .next (vowned s (vreg (vself s) r) fun k =>
    let p := getPdc s k
    vwrite (if retxAllowed p then failPdc s k else s) d (p.state.setWidth 64))

/-- R410: RETX; a count above 1,024 raises RANGE. -/
def execVirgaRetx (c r t : BitVec 5) (s : State) : Host.Outcome State Fault Refusal :=
  let v := vself s
  let n := vreg v c
  .next (vowned s (vreg v r) fun k =>
    if 1024 < n.toNat then vfault s vRange n
    else vretx s k ⟨(vreg v t).setWidth 32, List.range n.toNat⟩)

/-- R410: RETXM. -/
def execVirgaRetxm (m r t : BitVec 5) (s : State) : Host.Outcome State Fault Refusal :=
  let v := vself s
  let mask := vreg v m
  .next (vowned s (vreg v r) fun k =>
    vretx s k ⟨(vreg v t).setWidth 32, (List.range 64).filter fun i => mask.getLsbD i⟩)

/-- R411: LOSNEXT. -/
def execVirgaLosnext (d r : BitVec 5) (restart : Bool) (s : State) : Host.Outcome State Fault Refusal :=
  let n := s.iss.virga
  .next (vrange s (vreg (vself s) r) 128 fun port =>
    let cur := if restart then none else tblGet none (vself s).cursors port
    match losFind s n port cur with
    | some (k, b) =>
      let p := getPdc s k
      let mask := maskOf (fun i => leftOn p port (b + BitVec.ofNat 32 i)) 64
      vmod s fun v => vnext (vputs { v with cursors := tblSet none v.cursors port (some (k, b + 64)) } d
        [BitVec.ofNat 64 (k * 2 ^ 32 + b.toNat), BitVec.ofNat 64 mask])
    | none =>
      vmod s fun v => vnext (vputs { v with cursors := tblSet none v.cursors port cur } d [BitVec.allOnes 64, 0]))

/-- R412: PSRD. What bits [33:32] hold for an entry that the set does not have is not stated (log 13). -/
def execVirgaPsrd (d r t : BitVec 5) (s : State) : Host.Outcome State Fault Refusal :=
  let v := vself s
  .next (vrange s (vreg v r) 4096 fun ps => vrange s (vreg v t) 64 fun i =>
    let l := getPathset s ps
    let e := l.getD i 0
    let p := getPort s (e.extractLsb' 24 7).toNat
    vwrite s d (if i < l.length then
        BitVec.ofNat 64 (e.toNat + bit01 p.admitted * 2 ^ 32 + bit01 p.up * 2 ^ 33)
      else BitVec.ofNat 64 (2 ^ 34 + Config.unstated 1 s.tick % 4 * 2 ^ 32)))

/-- R412: PSDIS clears EN of an entry. -/
def execVirgaPsdis (r t : BitVec 5) (s : State) : Host.Outcome State Fault Refusal :=
  let v := vself s
  .next (vrange s (vreg v r) 4096 fun ps => vrange s (vreg v t) 64 fun i =>
    let l := getPathset s ps
    vdone (settlePaths { s with net := { s.net with
      pathsets := tblSet [] s.net.pathsets ps (setAt l i (l.getD i 0 &&& 0x7FFFFFFF#32)) } }))

/-- R412: PSCNT. -/
def execVirgaPscnt (d r : BitVec 5) (s : State) : Host.Outcome State Fault Refusal :=
  .next (vrange s (vreg (vself s) r) 4096 fun ps =>
    let l := getPathset s ps
    vwrite s d (BitVec.ofNat 64 (usableCount s l + 256 * l.length)))

/-- R413: RCBRD. -/
def execVirgaRcbrd (d r : BitVec 5) (s : State) : Host.Outcome State Fault Refusal :=
  .next (vrange s (vreg (vself s) r) 16384 fun k => vwrites s d (vwords (rcbWord (getRcb s k)) 8))

/-- R413: BMRD; an offset that is no multiple of 64 raises ALIGN. -/
def execVirgaBmrd (d r t : BitVec 5) (s : State) : Host.Outcome State Fault Refusal :=
  let o := vreg (vself s) t
  .next (vrange s (vreg (vself s) r) 16384 fun k =>
    if o.toNat % 64 ≠ 0 then vfault s vAlign o
    else vwrite s d (BitVec.ofNat 64 (maskOf (fun i => bitmapBit (getRcb s k) (o.toNat + i)) 64)))

/-- R413: WINRD. -/
def execVirgaWinrd (d r : BitVec 5) (s : State) : Host.Outcome State Fault Refusal :=
  .next (vrange s (vreg (vself s) r) 256 fun k => vwrites s d (vwords (windowWord (getWindow s k)) 4))

/-- R413: PEERRD. -/
def execVirgaPeerrd (d r : BitVec 5) (s : State) : Host.Outcome State Fault Refusal :=
  .next (vrange s (vreg (vself s) r) 65536 fun k => vwrites s d (vwords (getPeer s k) 8))

/-- R413: EPRD. -/
def execVirgaEprd (d r : BitVec 5) (s : State) : Host.Outcome State Fault Refusal :=
  .next (vrange s (vreg (vself s) r) 256 fun k =>
    let m := getDomain s k
    vwrite s d (match m.next with
      | some (e, _) => BitVec.ofNat 64 (m.epoch.toNat + 65536 + e.toNat * 2 ^ 32)
      | none => m.epoch.setWidth 64))

/-- R414: HEV. -/
def execVirgaHev (h a : BitVec 5) (s : State) : Host.Outcome State Fault Refusal :=
  let v := vself s
  let x := vreg v h
  let p := vreg v a
  let type := x.setWidth 16
  .next (if bitsOf x.toNat 63 45 ≠ 0 then vfault s vRange x
    else if type ≠ 0x0010#16 ∧ type ≠ 0x0011#16 ∧ type ≠ 0x0012#16 then vfault s vRange x
    else if p.toNat % 8 ≠ 0 then vfault s vAlign p
    else if dmemTop < p.toNat + 40 then vfault s vBound p
    else
      let ctx := if x.getLsbD 44 then some (bitsOf x.toNat 43 32) else none
      vdone (postHost s ⟨type, x.extractLsb' 16 16, ctx, dmemBytes v s.iss.virga p.toNat 40⟩))

end Sys2Proof.Machine
end

