-- ==== Sys2Proof/Machine/Dispatch.lean ====
section
/-!
DEFINITION. Sys2Proof/Machine/Dispatch.lean: one arm per row of spec/opcode_table.json.
-/
namespace Sys2Proof.Machine

/-- The meaning of an instruction or event where State.iss and State.input place it. -/
def exec (i : Instr) (s : State) : Host.Outcome State Fault Refusal :=
  match i with
  | .nop g => Sys2Proof.Machine.execNop g s
  | .add g d sr t => Sys2Proof.Machine.execAdd g d sr t s
  | .sub g d sr t => Sys2Proof.Machine.execSub g d sr t s
  | .mul g d sr t => Sys2Proof.Machine.execMul g d sr t s
  | .mulhI64 g d sr t => Sys2Proof.Machine.execMulhI64 g d sr t s
  | .mulhN64 g d sr t => Sys2Proof.Machine.execMulhN64 g d sr t s
  | .divI64 g d sr t => Sys2Proof.Machine.execDivI64 g d sr t s
  | .divN64 g d sr t => Sys2Proof.Machine.execDivN64 g d sr t s
  | .remI64 g d sr t => Sys2Proof.Machine.execRemI64 g d sr t s
  | .remN64 g d sr t => Sys2Proof.Machine.execRemN64 g d sr t s
  | .and g d sr t => Sys2Proof.Machine.execAnd g d sr t s
  | .or g d sr t => Sys2Proof.Machine.execOr g d sr t s
  | .xor g d sr t => Sys2Proof.Machine.execXor g d sr t s
  | .shl g d sr t => Sys2Proof.Machine.execShl g d sr t s
  | .shrI64 g d sr t => Sys2Proof.Machine.execShrI64 g d sr t s
  | .shrN64 g d sr t => Sys2Proof.Machine.execShrN64 g d sr t s
  | .minI64 g d sr t => Sys2Proof.Machine.execMinI64 g d sr t s
  | .minN64 g d sr t => Sys2Proof.Machine.execMinN64 g d sr t s
  | .maxI64 g d sr t => Sys2Proof.Machine.execMaxI64 g d sr t s
  | .maxN64 g d sr t => Sys2Proof.Machine.execMaxN64 g d sr t s
  | .addI64S g d sr t => Sys2Proof.Machine.execAddI64S g d sr t s
  | .addN64S g d sr t => Sys2Proof.Machine.execAddN64S g d sr t s
  | .subI64S g d sr t => Sys2Proof.Machine.execSubI64S g d sr t s
  | .subN64S g d sr t => Sys2Proof.Machine.execSubN64S g d sr t s
  | .addi g d sr imm => Sys2Proof.Machine.execAddi g d sr imm s
  | .andi g d sr imm => Sys2Proof.Machine.execAndi g d sr imm s
  | .ori g d sr imm => Sys2Proof.Machine.execOri g d sr imm s
  | .xori g d sr imm => Sys2Proof.Machine.execXori g d sr imm s
  | .shli g d sr n => Sys2Proof.Machine.execShli g d sr n s
  | .shriI64 g d sr n => Sys2Proof.Machine.execShriI64 g d sr n s
  | .shriN64 g d sr n => Sys2Proof.Machine.execShriN64 g d sr n s
  | .li g d imm => Sys2Proof.Machine.execLi g d imm s
  | .lis g d imm => Sys2Proof.Machine.execLis g d imm s
  | .sel g d sr t k => Sys2Proof.Machine.execSel g d sr t k s
  | .cmp g cond pair sr t => Sys2Proof.Machine.execCmp g cond pair sr t s
  | .cmpi g cond pair sr imm => Sys2Proof.Machine.execCmpi g cond pair sr imm s
  | .cmpq g cond sr t => Sys2Proof.Machine.execCmpq g cond sr t s
  | .fadd g d sr t => Sys2Proof.Machine.execFadd g d sr t s
  | .fsub g d sr t => Sys2Proof.Machine.execFsub g d sr t s
  | .fmul g d sr t => Sys2Proof.Machine.execFmul g d sr t s
  | .fdiv g d sr t => Sys2Proof.Machine.execFdiv g d sr t s
  | .fmin g d sr t => Sys2Proof.Machine.execFmin g d sr t s
  | .fmax g d sr t => Sys2Proof.Machine.execFmax g d sr t s
  | .fma g d sr t q => Sys2Proof.Machine.execFma g d sr t q s
  | .fcmp g cond pair sr t => Sys2Proof.Machine.execFcmp g cond pair sr t s
  | .fcmpq g cond sr t => Sys2Proof.Machine.execFcmpq g cond sr t s
  | .fcvt g d sr src dst => Sys2Proof.Machine.execFcvt g d sr src dst s
  | .clz g d sr => Sys2Proof.Machine.execClz g d sr s
  | .popc g d sr => Sys2Proof.Machine.execPopc g d sr s
  | .pand g d sr t => Sys2Proof.Machine.execPand g d sr t s
  | .por g d sr t => Sys2Proof.Machine.execPor g d sr t s
  | .pxor g d sr t => Sys2Proof.Machine.execPxor g d sr t s
  | .pandn g d sr t => Sys2Proof.Machine.execPandn g d sr t s
  | .sext g d sr n => Sys2Proof.Machine.execSext g d sr n s
  | .zext g d sr n => Sys2Proof.Machine.execZext g d sr n s
  | .br g off => Sys2Proof.Machine.execBr g off s
  | .call g off => Sys2Proof.Machine.execCall g off s
  | .brq g off => Sys2Proof.Machine.execBrq g off s
  | .brqn g off => Sys2Proof.Machine.execBrqn g off s
  | .brr g sr => Sys2Proof.Machine.execBrr g sr s
  | .callr g sr => Sys2Proof.Machine.execCallr g sr s
  | .loop g n off => Sys2Proof.Machine.execLoop g n off s
  | .lcset g n sr => Sys2Proof.Machine.execLcset g n sr s
  | .barw g b => Sys2Proof.Machine.execBarw g b s
  | .yield g => Sys2Proof.Machine.execYield g s
  | .halt g => Sys2Proof.Machine.execHalt g s
  | .eret g => Sys2Proof.Machine.execEret g s
  | .cqclr g => Sys2Proof.Machine.execCqclr g s
  | .syscall g code => Sys2Proof.Machine.execSyscall g code s
  | .mfsr g d num => Sys2Proof.Machine.execMfsr g d num s
  | .mtsr g sr num => Sys2Proof.Machine.execMtsr g sr num s
  | .mtsrTrapcauseHost g sr => Sys2Proof.Machine.execMtsrTrapcauseHost g sr s
  | .mtsrFmtctlSeedw g sr => Sys2Proof.Machine.execMtsrFmtctlSeedw g sr s
  | .tdset g d sr t => Sys2Proof.Machine.execTdset g d sr t s
  | .tdget g d sr t => Sys2Proof.Machine.execTdget g d sr t s
  | .tdinv g d sr => Sys2Proof.Machine.execTdinv g d sr s
  | .vadd g d sr t ty k => Sys2Proof.Machine.execVadd g d sr t ty k s
  | .vsub g d sr t ty k => Sys2Proof.Machine.execVsub g d sr t ty k s
  | .vmul g d sr t ty k => Sys2Proof.Machine.execVmul g d sr t ty k s
  | .vdiv g d sr t ty k => Sys2Proof.Machine.execVdiv g d sr t ty k s
  | .vmin g d sr t ty k => Sys2Proof.Machine.execVmin g d sr t ty k s
  | .vmax g d sr t ty k => Sys2Proof.Machine.execVmax g d sr t ty k s
  | .vaddS g d sr t ty k => Sys2Proof.Machine.execVaddS g d sr t ty k s
  | .vsubS g d sr t ty k => Sys2Proof.Machine.execVsubS g d sr t ty k s
  | .vand g d sr t ty k => Sys2Proof.Machine.execVand g d sr t ty k s
  | .vor g d sr t ty k => Sys2Proof.Machine.execVor g d sr t ty k s
  | .vxor g d sr t ty k => Sys2Proof.Machine.execVxor g d sr t ty k s
  | .vshl g d sr t ty k => Sys2Proof.Machine.execVshl g d sr t ty k s
  | .vshr g d sr t ty k => Sys2Proof.Machine.execVshr g d sr t ty k s
  | .vabs g d sr ty k => Sys2Proof.Machine.execVabs g d sr ty k s
  | .vneg g d sr ty k => Sys2Proof.Machine.execVneg g d sr ty k s
  | .vmov g d sr ty k => Sys2Proof.Machine.execVmov g d sr ty k s
  | .vfmaF32 g d sr t q k => Sys2Proof.Machine.execVfmaF32 g d sr t q k s
  | .vfmaBf16 g d sr t q k => Sys2Proof.Machine.execVfmaBf16 g d sr t q k s
  | .vsel g d sr t ty k => Sys2Proof.Machine.execVsel g d sr t ty k s
  | .vcmp g cond pair sr t ty k => Sys2Proof.Machine.execVcmp g cond pair sr t ty k s
  | .vcmpq g cond sr t ty k => Sys2Proof.Machine.execVcmpq g cond sr t ty k s
  | .vbcast g d sr ty k => Sys2Proof.Machine.execVbcast g d sr ty k s
  | .vget g d sr t ty => Sys2Proof.Machine.execVget g d sr t ty s
  | .vset g d sr t ty k => Sys2Proof.Machine.execVset g d sr t ty k s
  | .mand g d sr t => Sys2Proof.Machine.execMand g d sr t s
  | .mor g d sr t => Sys2Proof.Machine.execMor g d sr t s
  | .mxor g d sr t => Sys2Proof.Machine.execMxor g d sr t s
  | .mandn g d sr t => Sys2Proof.Machine.execMandn g d sr t s
  | .vcvt g d sr dst src k => Sys2Proof.Machine.execVcvt g d sr dst src k s
  | .vqnt g d sr t ty k => Sys2Proof.Machine.execVqnt g d sr t ty k s
  | .vdqnt g d sr t ty k => Sys2Proof.Machine.execVdqnt g d sr t ty k s
  | .vbamax g d sr t ty k => Sys2Proof.Machine.execVbamax g d sr t ty k s
  | .vrsum g d sr ty k => Sys2Proof.Machine.execVrsum g d sr ty k s
  | .vrmax g d sr ty k => Sys2Proof.Machine.execVrmax g d sr ty k s
  | .vrmin g d sr ty k => Sys2Proof.Machine.execVrmin g d sr ty k s
  | .vscan g d sr ty k => Sys2Proof.Machine.execVscan g d sr ty k s
  | .vperm g d sr t ty k => Sys2Proof.Machine.execVperm g d sr t ty k s
  | .vrot g d sr t ty k => Sys2Proof.Machine.execVrot g d sr t ty k s
  | .vexp2 g d sr ty k => Sys2Proof.Machine.execVexp2 g d sr ty k s
  | .vlog2 g d sr ty k => Sys2Proof.Machine.execVlog2 g d sr ty k s
  | .vrcp g d sr ty k => Sys2Proof.Machine.execVrcp g d sr ty k s
  | .vrsqrt g d sr ty k => Sys2Proof.Machine.execVrsqrt g d sr ty k s
  | .vsqrt g d sr ty k => Sys2Proof.Machine.execVsqrt g d sr ty k s
  | .vtanh g d sr ty k => Sys2Proof.Machine.execVtanh g d sr ty k s
  | .mcall g d p q r => Sys2Proof.Machine.execMcall g d p q r s
  | .mwait g sr => Sys2Proof.Machine.execMwait g sr s
  | .mstat g d sr => Sys2Proof.Machine.execMstat g d sr s
  | .mpset g n sr => Sys2Proof.Machine.execMpset g n sr s
  | .mpget g d n => Sys2Proof.Machine.execMpget g d n s
  | .mucw g im v => Sys2Proof.Machine.execMucw g im v s
  | .mucwT g im v => Sys2Proof.Machine.execMucwT g im v s
  | .mav g d tile r => Sys2Proof.Machine.execMav g d tile r s
  | .mva g tile sr r => Sys2Proof.Machine.execMva g tile sr r s
  | .ldN g r a cls sz off => Sys2Proof.Machine.execLdN g r a cls sz off s
  | .ldI g r a cls sz off => Sys2Proof.Machine.execLdI g r a cls sz off s
  | .st g r a cls sz off => Sys2Proof.Machine.execSt g r a cls sz off s
  | .ldnN g r a cls sz off => Sys2Proof.Machine.execLdnN g r a cls sz off s
  | .ldnI g r a cls sz off => Sys2Proof.Machine.execLdnI g r a cls sz off s
  | .stn g r a cls sz off => Sys2Proof.Machine.execStn g r a cls sz off s
  | .vld g v a cls off k => Sys2Proof.Machine.execVld g v a cls off k s
  | .vst g v a cls off k => Sys2Proof.Machine.execVst g v a cls off k s
  | .vldn g v a cls off k => Sys2Proof.Machine.execVldn g v a cls off k s
  | .vstn g v a cls off k => Sys2Proof.Machine.execVstn g v a cls off k s
  | .vlds g v a x cls k => Sys2Proof.Machine.execVlds g v a x cls k s
  | .vsts g v a x cls k => Sys2Proof.Machine.execVsts g v a x cls k s
  | .vgth g v a x cls k => Sys2Proof.Machine.execVgth g v a x cls k s
  | .vsct g v a x cls k => Sys2Proof.Machine.execVsct g v a x cls k s
  | .vgthn g v a x cls k => Sys2Proof.Machine.execVgthn g v a x cls k s
  | .vsctn g v a x cls k => Sys2Proof.Machine.execVsctn g v a x cls k s
  | .vldx g v a x cls k => Sys2Proof.Machine.execVldx g v a x cls k s
  | .aaddI32 g d a t cls near => Sys2Proof.Machine.execAaddI32 g d a t cls near s
  | .aaddI64 g d a t cls near => Sys2Proof.Machine.execAaddI64 g d a t cls near s
  | .aaddF32 g d a t cls near => Sys2Proof.Machine.execAaddF32 g d a t cls near s
  | .amaxI32 g d a t cls near => Sys2Proof.Machine.execAmaxI32 g d a t cls near s
  | .amaxF32 g d a t cls near => Sys2Proof.Machine.execAmaxF32 g d a t cls near s
  | .acas g d a t cls near => Sys2Proof.Machine.execAcas g d a t cls near s
  | .amaxrrI32 g d a t cls near => Sys2Proof.Machine.execAmaxrrI32 g d a t cls near s
  | .amaxrrF32 g d a t cls near => Sys2Proof.Machine.execAmaxrrF32 g d a t cls near s
  | .fence g scope wb inv mask => Sys2Proof.Machine.execFence g scope wb inv mask s
  | .cpy g h x y cls ring => Sys2Proof.Machine.execCpy g h x y cls ring s
  | .cpyf g h x y cls ring => Sys2Proof.Machine.execCpyf g h x y cls ring s
  | .rwait g d n => Sys2Proof.Machine.execRwait g d n s
  | .rrel g n => Sys2Proof.Machine.execRrel g n s
  | .rpub g n sr => Sys2Proof.Machine.execRpub g n sr s
  | .chsend g c x cls => Sys2Proof.Machine.execChsend g c x cls s
  | .chrecv g d c => Sys2Proof.Machine.execChrecv g d c s
  | .waita g d a v cls glob cc => Sys2Proof.Machine.execWaita g d a v cls glob cc s
  | .bankcfg g sr => Sys2Proof.Machine.execBankcfg g sr s
  | .gstep g n => Sys2Proof.Machine.execGstep g n s
  | .bcast g b a => Sys2Proof.Machine.execBcast g b a s
  | .latch g b a => Sys2Proof.Machine.execLatch g b a s
  | .deadl g sr => Sys2Proof.Machine.execDeadl g sr s
  | .deadlF g sr => Sys2Proof.Machine.execDeadlF g sr s
  | .deadlXp g sr j => Sys2Proof.Machine.execDeadlXp g sr j s
  | .uopMma ha hb f1 f2 t tr keepB => Sys2Proof.Machine.execUopMma ha hb f1 f2 t tr keepB s
  | .uopLdb hb f2 => Sys2Proof.Machine.execUopLdb hb f2 s
  | .uopZacc t tr => Sys2Proof.Machine.execUopZacc t tr s
  | .uopStacc ha f1 t tr z => Sys2Proof.Machine.execUopStacc ha f1 t tr z s
  | .uopScale f1 imm => Sys2Proof.Machine.execUopScale f1 imm s
  | .uopSetc f1 f2 j v => Sys2Proof.Machine.execUopSetc f1 f2 j v s
  | .uopAddc f1 f2 f3 => Sys2Proof.Machine.execUopAddc f1 f2 f3 s
  | .uopAddci f1 j v => Sys2Proof.Machine.execUopAddci f1 j v s
  | .uopLoop n f2 r count target => Sys2Proof.Machine.execUopLoop n f2 r count target s
  | .uopWtile f1 ring => Sys2Proof.Machine.execUopWtile f1 ring s
  | .uopWflag f1 f2 cc => Sys2Proof.Machine.execUopWflag f1 f2 cc s
  | .uopSignal f1 f2 kind ring => Sys2Proof.Machine.execUopSignal f1 f2 kind ring s
  | .virgaAdd d sr t => Sys2Proof.Machine.execVirgaAdd d sr t s
  | .virgaSub d sr t => Sys2Proof.Machine.execVirgaSub d sr t s
  | .virgaMul d sr t => Sys2Proof.Machine.execVirgaMul d sr t s
  | .virgaAnd d sr t => Sys2Proof.Machine.execVirgaAnd d sr t s
  | .virgaOr d sr t => Sys2Proof.Machine.execVirgaOr d sr t s
  | .virgaXor d sr t => Sys2Proof.Machine.execVirgaXor d sr t s
  | .virgaShl d sr t => Sys2Proof.Machine.execVirgaShl d sr t s
  | .virgaShr d sr t => Sys2Proof.Machine.execVirgaShr d sr t s
  | .virgaSra d sr t => Sys2Proof.Machine.execVirgaSra d sr t s
  | .virgaSlt d sr t => Sys2Proof.Machine.execVirgaSlt d sr t s
  | .virgaSltu d sr t => Sys2Proof.Machine.execVirgaSltu d sr t s
  | .virgaAddi d sr im => Sys2Proof.Machine.execVirgaAddi d sr im s
  | .virgaAndi d sr im => Sys2Proof.Machine.execVirgaAndi d sr im s
  | .virgaOri d sr im => Sys2Proof.Machine.execVirgaOri d sr im s
  | .virgaXori d sr im => Sys2Proof.Machine.execVirgaXori d sr im s
  | .virgaShli d sr im => Sys2Proof.Machine.execVirgaShli d sr im s
  | .virgaShri d sr im => Sys2Proof.Machine.execVirgaShri d sr im s
  | .virgaSrai d sr im => Sys2Proof.Machine.execVirgaSrai d sr im s
  | .virgaSlti d sr im => Sys2Proof.Machine.execVirgaSlti d sr im s
  | .virgaLis d im => Sys2Proof.Machine.execVirgaLis d im s
  | .virgaLd d sr im => Sys2Proof.Machine.execVirgaLd d sr im s
  | .virgaLw d sr im => Sys2Proof.Machine.execVirgaLw d sr im s
  | .virgaSt d sr im => Sys2Proof.Machine.execVirgaSt d sr im s
  | .virgaSw d sr im => Sys2Proof.Machine.execVirgaSw d sr im s
  | .virgaBeq sr t o => Sys2Proof.Machine.execVirgaBeq sr t o s
  | .virgaBne sr t o => Sys2Proof.Machine.execVirgaBne sr t o s
  | .virgaBlt sr t o => Sys2Proof.Machine.execVirgaBlt sr t o s
  | .virgaBge sr t o => Sys2Proof.Machine.execVirgaBge sr t o s
  | .virgaBltu sr t o => Sys2Proof.Machine.execVirgaBltu sr t o s
  | .virgaBgeu sr t o => Sys2Proof.Machine.execVirgaBgeu sr t o s
  | .virgaJ o => Sys2Proof.Machine.execVirgaJ o s
  | .virgaJal o => Sys2Proof.Machine.execVirgaJal o s
  | .virgaJr sr => Sys2Proof.Machine.execVirgaJr sr s
  | .virgaMfv d n => Sys2Proof.Machine.execVirgaMfv d n s
  | .virgaMtv sr n => Sys2Proof.Machine.execVirgaMtv sr n s
  | .virgaEvtake d w => Sys2Proof.Machine.execVirgaEvtake d w s
  | .virgaTmset p n t => Sys2Proof.Machine.execVirgaTmset p n t s
  | .virgaPdcrd d sr => Sys2Proof.Machine.execVirgaPdcrd d sr s
  | .virgaPdcwr sr t f => Sys2Proof.Machine.execVirgaPdcwr sr t f s
  | .virgaPdcfail d sr => Sys2Proof.Machine.execVirgaPdcfail d sr s
  | .virgaRetx c sr t => Sys2Proof.Machine.execVirgaRetx c sr t s
  | .virgaRetxm m sr t => Sys2Proof.Machine.execVirgaRetxm m sr t s
  | .virgaLosnext d sr r => Sys2Proof.Machine.execVirgaLosnext d sr r s
  | .virgaPsrd d sr t => Sys2Proof.Machine.execVirgaPsrd d sr t s
  | .virgaPsdis sr t => Sys2Proof.Machine.execVirgaPsdis sr t s
  | .virgaPscnt d sr => Sys2Proof.Machine.execVirgaPscnt d sr s
  | .virgaRcbrd d sr => Sys2Proof.Machine.execVirgaRcbrd d sr s
  | .virgaBmrd d sr t => Sys2Proof.Machine.execVirgaBmrd d sr t s
  | .virgaWinrd d sr => Sys2Proof.Machine.execVirgaWinrd d sr s
  | .virgaPeerrd d sr => Sys2Proof.Machine.execVirgaPeerrd d sr s
  | .virgaEprd d sr => Sys2Proof.Machine.execVirgaEprd d sr s
  | .virgaHev sr t => Sys2Proof.Machine.execVirgaHev sr t s
  | .perstAssert => Sys2Proof.Machine.execPerstAssert s
  | .startupPhase1 => Sys2Proof.Machine.execStartupPhase1 s
  | .startupPhase2 => Sys2Proof.Machine.execStartupPhase2 s
  | .startupPhase3 => Sys2Proof.Machine.execStartupPhase3 s
  | .startupPhase4 => Sys2Proof.Machine.execStartupPhase4 s
  | .startupPhase5 => Sys2Proof.Machine.execStartupPhase5 s
  | .configRequest => Sys2Proof.Machine.execConfigRequest s
  | .sidebandFirmwareWrite => Sys2Proof.Machine.execSidebandFirmwareWrite s
  | .thermtrip => Sys2Proof.Machine.execThermtrip s
  | .throttleStep => Sys2Proof.Machine.execThrottleStep s
  | .cxlLinkDown => Sys2Proof.Machine.execCxlLinkDown s
  | .cxlResetComplete => Sys2Proof.Machine.execCxlResetComplete s
  | .lossOfLight => Sys2Proof.Machine.execLossOfLight s
  | .linkRetrained => Sys2Proof.Machine.execLinkRetrained s
  | .ptpExchangeComplete => Sys2Proof.Machine.execPtpExchangeComplete s
  | .pauseFrameReceived => Sys2Proof.Machine.execPauseFrameReceived s
  | .rmaWriteStreamArrival => Sys2Proof.Machine.execRmaWriteStreamArrival s
  | .taggedSendArrival => Sys2Proof.Machine.execTaggedSendArrival s
  | .productionQueueDrain => Sys2Proof.Machine.execProductionQueueDrain s
  | .remoteReadArrival => Sys2Proof.Machine.execRemoteReadArrival s
  | .remoteWriteArrival => Sys2Proof.Machine.execRemoteWriteArrival s
  | .remoteAtomicArrival => Sys2Proof.Machine.execRemoteAtomicArrival s
  | .ackReceived => Sys2Proof.Machine.execAckReceived s
  | .nackReceived => Sys2Proof.Machine.execNackReceived s
  | .pdcCloseAckReceived => Sys2Proof.Machine.execPdcCloseAckReceived s
  | .ackCoalesceTimeout => Sys2Proof.Machine.execAckCoalesceTimeout s
  | .rtoExpiry => Sys2Proof.Machine.execRtoExpiry s
  | .parkedBackoffExpiry => Sys2Proof.Machine.execParkedBackoffExpiry s
  | .ccsigTimer => Sys2Proof.Machine.execCcsigTimer s
  | .packetTransmit => Sys2Proof.Machine.execPacketTransmit s
  | .retxSend => Sys2Proof.Machine.execRetxSend s
  | .pdcIdleTimeout => Sys2Proof.Machine.execPdcIdleTimeout s
  | .pdcCloseTimeout => Sys2Proof.Machine.execPdcCloseTimeout s
  | .keyEpochSwitch => Sys2Proof.Machine.execKeyEpochSwitch s
  | .keyEpochGraceEnd => Sys2Proof.Machine.execKeyEpochGraceEnd s
  | .rcbReopenDelayEnd => Sys2Proof.Machine.execRcbReopenDelayEnd s
  | .windowRevokeComplete => Sys2Proof.Machine.execWindowRevokeComplete s
  | .registerWrite => Sys2Proof.Machine.execRegisterWrite s
  | .gctlFeat => Sys2Proof.Machine.execGctlFeat s
  | .gctlEn => Sys2Proof.Machine.execGctlEn s
  | .gctlEven => Sys2Proof.Machine.execGctlEven s
  | .evconsWrite => Sys2Proof.Machine.execEvconsWrite s
  | .sempoke => Sys2Proof.Machine.execSempoke s
  | .qnotify => Sys2Proof.Machine.execQnotify s
  | .qcfgEnable => Sys2Proof.Machine.execQcfgEnable s
  | .qcfgDisable => Sys2Proof.Machine.execQcfgDisable s
  | .qcfgResume => Sys2Proof.Machine.execQcfgResume s
  | .commandFetch => Sys2Proof.Machine.execCommandFetch s
  | .stampRefetch => Sys2Proof.Machine.execStampRefetch s
  | .bar2Access => Sys2Proof.Machine.execBar2Access s
  | .spdmGetVersion => Sys2Proof.Machine.execSpdmGetVersion s
  | .spdmGetCapabilities => Sys2Proof.Machine.execSpdmGetCapabilities s
  | .spdmNegotiateAlgorithms => Sys2Proof.Machine.execSpdmNegotiateAlgorithms s
  | .spdmGetDigests => Sys2Proof.Machine.execSpdmGetDigests s
  | .spdmGetCertificate => Sys2Proof.Machine.execSpdmGetCertificate s
  | .spdmChallenge => Sys2Proof.Machine.execSpdmChallenge s
  | .spdmGetMeasurements => Sys2Proof.Machine.execSpdmGetMeasurements s
  | .launch => Sys2Proof.Machine.execLaunch s
  | .hcopy => Sys2Proof.Machine.execHcopy s
  | .signal => Sys2Proof.Machine.execSignal s
  | .waitsem => Sys2Proof.Machine.execWaitsem s
  | .waitsemReevaluate => Sys2Proof.Machine.execWaitsemReevaluate s
  | .waitsemTimeout => Sys2Proof.Machine.execWaitsemTimeout s
  | .ctxnew => Sys2Proof.Machine.execCtxnew s
  | .ctxkill => Sys2Proof.Machine.execCtxkill s
  | .ctxkillStageDrained => Sys2Proof.Machine.execCtxkillStageDrained s
  | .ctxRemoveStuck => Sys2Proof.Machine.execCtxRemoveStuck s
  | .ctxpreemptYield => Sys2Proof.Machine.execCtxpreemptYield s
  | .ctxpreemptScan => Sys2Proof.Machine.execCtxpreemptScan s
  | .graceWindowEnd => Sys2Proof.Machine.execGraceWindowEnd s
  | .saveComplete => Sys2Proof.Machine.execSaveComplete s
  | .saveTimeout => Sys2Proof.Machine.execSaveTimeout s
  | .imgrestore => Sys2Proof.Machine.execImgrestore s
  | .restoreComplete => Sys2Proof.Machine.execRestoreComplete s
  | .mapsetInvalidate => Sys2Proof.Machine.execMapsetInvalidate s
  | .mapsetReplaceRoot => Sys2Proof.Machine.execMapsetReplaceRoot s
  | .rcbsetOpen => Sys2Proof.Machine.execRcbsetOpen s
  | .rcbsetClose => Sys2Proof.Machine.execRcbsetClose s
  | .rcbsetExport => Sys2Proof.Machine.execRcbsetExport s
  | .rcbsetImport => Sys2Proof.Machine.execRcbsetImport s
  | .peersetEntry => Sys2Proof.Machine.execPeersetEntry s
  | .peersetMcastList => Sys2Proof.Machine.execPeersetMcastList s
  | .peersetNextKey => Sys2Proof.Machine.execPeersetNextKey s
  | .peersetCloseFailed => Sys2Proof.Machine.execPeersetCloseFailed s
  | .peersetRepoint => Sys2Proof.Machine.execPeersetRepoint s
  | .pathset => Sys2Proof.Machine.execPathset s
  | .winset => Sys2Proof.Machine.execWinset s
  | .winrevoke => Sys2Proof.Machine.execWinrevoke s
  | .featurePowerLimit => Sys2Proof.Machine.execFeaturePowerLimit s
  | .featurePtpPort => Sys2Proof.Machine.execFeaturePtpPort s
  | .featureUdpPort => Sys2Proof.Machine.execFeatureUdpPort s
  | .featureWatchdog => Sys2Proof.Machine.execFeatureWatchdog s
  | .featureCxlReset => Sys2Proof.Machine.execFeatureCxlReset s
  | .featureRemapReload => Sys2Proof.Machine.execFeatureRemapReload s
  | .cntset => Sys2Proof.Machine.execCntset s
  | .fwload => Sys2Proof.Machine.execFwload s
  | .counterWrap => Sys2Proof.Machine.execCounterWrap s
  | .ctxHang => Sys2Proof.Machine.execCtxHang s
  | .teamPlace => Sys2Proof.Machine.execTeamPlace s
  | .swapTest => Sys2Proof.Machine.execSwapTest s
  | .swapComplete => Sys2Proof.Machine.execSwapComplete s
  | .waitMonitorPoll => Sys2Proof.Machine.execWaitMonitorPoll s
  | .gstepComplete => Sys2Proof.Machine.execGstepComplete s
  | .broadcastBeat => Sys2Proof.Machine.execBroadcastBeat s
  | .latchComplete => Sys2Proof.Machine.execLatchComplete s
  | .wcsLineDrainTimeout => Sys2Proof.Machine.execWcsLineDrainTimeout s
  | .copyStart => Sys2Proof.Machine.execCopyStart s
  | .copyComplete => Sys2Proof.Machine.execCopyComplete s
  | .matrixCommandStart => Sys2Proof.Machine.execMatrixCommandStart s
  | .stalledGroupCommit => Sys2Proof.Machine.execStalledGroupCommit s
  | .deferredTrap => Sys2Proof.Machine.execDeferredTrap s
  | .eccUncorrectable => Sys2Proof.Machine.execEccUncorrectable s
  | .eccCorrected => Sys2Proof.Machine.execEccCorrected s
  | .parityError => Sys2Proof.Machine.execParityError s
  | .remapTableUe => Sys2Proof.Machine.execRemapTableUe s
  | .virgaTimerExpiry => Sys2Proof.Machine.execVirgaTimerExpiry s
  | .gtstepWrite => Sys2Proof.Machine.execGtstepWrite s
  | .gtrateWrite => Sys2Proof.Machine.execGtrateWrite s
  | .uopRet => Sys2Proof.Machine.execUopRet s
  | .uopMnop => Sys2Proof.Machine.execUopMnop s
  | .virgaNop => Sys2Proof.Machine.execVirgaNop s
  | .virgaVret => Sys2Proof.Machine.execVirgaVret s
  | .accessResponseReturn => Sys2Proof.Machine.execAccessResponseReturn s
  | .hcopyComplete => Sys2Proof.Machine.execHcopyComplete s
  | .pdcCloseRequestReceived => Sys2Proof.Machine.execPdcCloseRequestReceived s
  | .contextKeyTransfer => Sys2Proof.Machine.execContextKeyTransfer s
  | .unassignedOpcode => Sys2Proof.Machine.execUnassignedOpcode s
  | .virgaUnassignedOpcode => Sys2Proof.Machine.execVirgaUnassignedOpcode s

end Sys2Proof.Machine
end

