-- ==== Sys2Proof/Machine/Processor.lean ====
section
/-!
DEFINITION. Sys2Proof/Machine/Processor.lean: the command processor (R111, R112, R114): which accepted command starts next, the
tests that make it MALFORMED, and the row of the opcode table that it is.
-/
namespace Sys2Proof.Machine

/-! ### The form of a command (R112 to R114) -/

/-- The payload bytes that R113 names for a command code, with the named bits of each. -/
def cmdFields (code : Nat) : List (Nat × Nat × Nat) :=
  match code with
  | 0x01 => [(16, 25, 255), (26, 26, 7), (27, 35, 255)]
  | 0x02 => [(16, 39, 255), (40, 40, 1)]
  | 0x03 => [(16, 17, 255), (24, 31, 255)]
  | 0x04 => [(16, 17, 255), (24, 35, 255)]
  | 0x05 => [(16, 31, 255), (32, 32, 1)]
  | 0x07 => [(16, 34, 255)]
  | 0x08 => [(16, 35, 255)]
  | 0x09 => [(16, 32, 255), (40, 47, 255)]
  | 0x0A => [(16, 18, 255), (24, 34, 255), (40, 47, 255)]
  | 0x0B => [(16, 18, 255), (19, 19, 1), (24, 32, 255), (34, 35, 255), (40, 47, 255)]
  | 0x0C => [(16, 18, 255), (24, 31, 255)]
  | 0x0D => [(16, 16, 255), (24, 31, 255)]
  | 0x0E => [(16, 16, 255)]
  | 0x0F => [(16, 17, 255), (24, 31, 255)]
  | 0x10 => [(16, 16, 255), (18, 19, 255), (20, 20, 3)]
  | 0x11 => [(16, 31, 255)]
  | _ => []

/-- The named bits of payload byte `i`. -/
def cmdMask (code i : Nat) : Nat :=
  match (cmdFields code).find? fun f => decide (f.1 ≤ i) && decide (i ≤ f.2.1) with
  | some f => f.2.2
  | none => 0

/-- Code 1: a code outside the table, or a reserved bit or byte that is not zero. -/
def cmdReserved (bs : List Byte) : Bool :=
  let code := cmdNat bs 0 1
  code == 0 || decide (0x11 < code) || decide (4 ≤ cmdNat bs 1 1) || decide (0x1000 ≤ cmdNat bs 4 2)
    || (List.range 48).any fun i => cmdNat bs (16 + i) 1 &&& (255 - cmdMask code (16 + i)) != 0

/-- The value of a FEATURE parameter is outside its range. -/
def featureRange (param value : Nat) : Bool :=
  match param with
  | 1 => false
  | 2 => decide (128 ≤ value)
  | 3 => decide (65536 ≤ value)
  | 4 => false
  | 5 => decide (8 ≤ value)
  | 6 => decide (8 ≤ value)
  | _ => true

/-- The objects at physical addresses that a command names (R113): the address and the bytes of each. -/
def cmdObjects (bs : List Byte) : List (Nat × Nat) :=
  let at_ := fun (off n : Nat) => [(cmdNat bs off 8, n)]
  match cmdNat bs 0 1 with
  | 0x01 => at_ 16 256
  | 0x02 => if bitOf (cmdNat bs 40 1) 0 then [] else at_ 16 (cmdNat bs 32 8) ++ at_ 24 (cmdNat bs 32 8)
  | 0x05 => at_ 16 4096
  | 0x07 => at_ 16 (cmdNat bs 24 8)
  | 0x08 => at_ 16 (cmdNat bs 24 8)
  | 0x09 => if cmdNat bs 32 1 = 1 then at_ 40 4096 else []
  | 0x0A => match cmdNat bs 18 1 with
    | 0 => at_ 24 64
    | 2 => at_ 24 (cmdNat bs 40 8)
    | 3 => at_ 24 64
    | _ => []
  | 0x0B => match cmdNat bs 18 1 with
    | 0 => at_ 24 64
    | 1 => at_ 24 (8 * cmdNat bs 32 1)
    | 4 => at_ 24 64
    | _ => []
  | 0x0C => at_ 24 (4 * cmdNat bs 18 1)
  | 0x0D => at_ 24 32
  | 0x11 => at_ 16 (cmdNat bs 24 8)
  | _ => []

/-- Does an object lie outside the ranges of R30: in a hole, or at 2^52 or above? -/
def objectBad (s : State) (x : Nat × Nat) : Bool := !mapHolds s x.1 (max 1 x.2)

/-- Does an object stand in CXL memory? -/
def objectCxl (s : State) (x : Nat × Nat) : Bool :=
  match mapKind s x.1 with
  | .cxl _ => true
  | _ => false

/-- Is a field outside the range that R113 states for it? -/
def fieldBad (bs : List Byte) : Bool :=
  match cmdNat bs 0 1 with
  | 0x01 => cmdNat bs 16 8 % 256 != 0 || cmdNat bs 24 2 == 0 || decide (3 < cmdNat bs 27 1)
  | 0x02 => cmdNat bs 32 8 == 0 || decide (2 ^ 40 < cmdNat bs 32 8)
  | 0x05 => cmdNat bs 16 8 % 4096 != 0
  | 0x07 => decide (1 < cmdNat bs 34 1)
  | 0x08 => decide (640 ≤ cmdNat bs 32 4) && cmdNat bs 32 4 != 0xFFFFFFFF
  | 0x09 =>
    cmdNat bs 16 8 % 65536 != 0 || decide (1 < cmdNat bs 32 1) || (cmdNat bs 32 1 == 1 && cmdNat bs 40 8 % 4096 != 0)
  | 0x0A => decide (16384 ≤ cmdNat bs 16 2) || decide (3 < cmdNat bs 18 1) || decide (16 ≤ cmdNat bs 34 1)
  | 0x0B =>
    decide (4 < cmdNat bs 18 1)
      || (cmdNat bs 18 1 == 1 && (decide (2048 ≤ cmdNat bs 16 2) || cmdNat bs 32 1 == 0 || decide (16 < cmdNat bs 32 1)))
  | 0x0C => decide (4096 ≤ cmdNat bs 16 2) || cmdNat bs 18 1 == 0 || decide (64 < cmdNat bs 18 1)
  | 0x0F => featureRange (cmdNat bs 16 2) (cmdNat bs 24 8)
  | 0x10 => decide (64 ≤ cmdNat bs 16 1)
  | _ => false

/-- Code 2: a field outside the range that R113 states, an address outside the physical ranges of R30 among them; a launch
descriptor stands in HBM or host memory (R131). -/
def cmdRange (s : State) (bs : List Byte) : Bool :=
  fieldBad bs || (cmdObjects bs).any (objectBad s) || (cmdNat bs 0 1 == 1 && (cmdObjects bs).any (objectCxl s))

/-- Code 3: a function of R107 that was not accepted; an object in CXL memory needs the CXL capacity tier. -/
def cmdFeature (s : State) (bs : List Byte) : Bool :=
  ((cmdObjects bs).any (objectCxl s) && !feature s 2) || match cmdNat bs 0 1 with
  | 0x05 => bitOf (cmdNat bs 32 1) 0 && !feature s 1
  | 0x0B =>
    let op := cmdNat bs 18 1
    (op == 0 || op == 4) && peerRccc (BitVec.ofNat 512 (physNat s (cmdNat bs 24 8) 64)) && !feature s 3
  | 0x0F =>
    let param := cmdNat bs 16 2
    (param == 5 && !feature s 2) || (param == 2 && !feature s 8)
  | 0x10 => bitOf (cmdNat bs 20 1) 1 && !feature s 7
  | _ => false

/-- Code 4: no live context, for a command that acts in one; one of a context that CTXKILL has removed is CANCELLED instead
(R115). -/
def cmdNoContext (s : State) (c : Cmd) : Bool :=
  cmdNat c.bytes 0 1 != 5 && actsInContext c && !c.doomed && !(getCtx s (cmdCtx c)).live

/-- Code 5: a semaphore index of SEMCOUNT or more, in the header or the payload. -/
def cmdNoSem (s : State) (bs : List Byte) : Bool :=
  let n := s.gafin.semcount.toNat
  (bitOf (cmdNat bs 1 1) 1 && decide (n ≤ cmdNat bs 6 2))
    || ((cmdNat bs 0 1 == 3 || cmdNat bs 0 1 == 4) && decide (n ≤ cmdNat bs 16 2))

/-- The code with which a command is MALFORMED. -/
def cmdBad (s : State) (c : Cmd) : Option Nat :=
  if cmdReserved c.bytes then some 1
  else if cmdRange s c.bytes then some 2
  else if cmdFeature s c.bytes then some 3
  else if cmdNoContext s c then some 4
  else if cmdNoSem s c.bytes then some 5
  else none

/-- The row of the opcode table that a command is. -/
def cmdRow (bs : List Byte) : Option Instr :=
  match cmdNat bs 0 1 with
  | 0x01 => some .launch
  | 0x02 => some .hcopy
  | 0x03 => some .signal
  | 0x04 => some .waitsem
  | 0x05 => some .ctxnew
  | 0x06 => some .ctxkill
  | 0x07 => some (if cmdNat bs 34 1 = 0 then .ctxpreemptYield else .ctxpreemptScan)
  | 0x08 => some .imgrestore
  | 0x09 => some (if cmdNat bs 32 1 = 0 then .mapsetInvalidate else .mapsetReplaceRoot)
  | 0x0A => match cmdNat bs 18 1 with
    | 0 => some .rcbsetOpen
    | 1 => some .rcbsetClose
    | 2 => some .rcbsetExport
    | _ => some .rcbsetImport
  | 0x0B => match cmdNat bs 18 1 with
    | 0 => some .peersetEntry
    | 1 => some .peersetMcastList
    | 2 => some .peersetNextKey
    | 3 => some .peersetCloseFailed
    | _ => some .peersetRepoint
  | 0x0C => some .pathset
  | 0x0D => some .winset
  | 0x0E => some .winrevoke
  | 0x0F => match cmdNat bs 16 2 with
    | 1 => some .featurePowerLimit
    | 2 => some .featurePtpPort
    | 3 => some .featureUdpPort
    | 4 => some .featureWatchdog
    | 5 => some .featureCxlReset
    | _ => some .featureRemapReload
  | 0x10 => some .cntset
  | 0x11 => some .fwload
  | _ => none

/-! ### Which command starts (R111) -/

/-- The first accepted command of every queue. -/
def headCmds : List Cmd → List Cmd
  | [] => []
  | c :: r => c :: (headCmds r).filter fun d => d.queue != c.queue

/-- May a command start: no WAITSEM holds its queue (R118), and a SERIAL one waits for every earlier command of it. -/
def cmdReady (s : State) (c : Cmd) : Bool :=
  !(s.gafin.running.any fun r => r.cmd.queue == c.queue && (cmdNat r.cmd.bytes 0 1 == 4 || bitOf (cmdNat c.bytes 1 1) 0))

/-- The priority of a command's queue. -/
def cmdPrio (s : State) (c : Cmd) : Nat := (getQueue s c.queue).prio.toNat

/-- How far a queue is from the one after the queue last served at its priority. -/
def cmdTurn (s : State) (c : Cmd) : Nat := (c.queue + 1024 - tblGet 0 s.gafin.rr (cmdPrio s c)) % 1024

/-- Does a command start before another? -/
def cmdFirst (s : State) (c d : Cmd) : Bool :=
  decide (cmdPrio s d < cmdPrio s c) || (cmdPrio s c == cmdPrio s d && decide (cmdTurn s c < cmdTurn s d))

/-- The command that starts next. -/
def nextCmd (s : State) : Option Cmd :=
  ((headCmds s.gafin.accepted).filter (cmdReady s)).foldl (fun (b : Option Cmd) c =>
    match b with
    | some d => if cmdFirst s c d then some c else b
    | none => some c) none

/-- A command has started: it is no longer accepted but runs, and its queue is the one last served. -/
def beginCmd (s : State) (c : Cmd) : State :=
  let g := s.gafin
  { s with gafin := { g with
      accepted := g.accepted.erase c
      running := g.running ++ [⟨c, now s, 0, 0⟩]
      rr := tblSet 0 g.rr (cmdPrio s c) ((c.queue + 1) % 1024) } }

/-- Is the context of a command being removed, or has it been since the command was accepted (R115)? -/
def cmdKilled (s : State) (c : Cmd) : Bool :=
  c.doomed || (cmdNat c.bytes 0 1 != 5 && actsInContext c && (getCtx s (cmdCtx c)).killing.isSome)

/-- The next command starts: CANCELLED, MALFORMED, or with the meaning of its row. -/
def runCommand (s : State) : Host.Outcome State Fault Refusal :=
  match nextCmd s with
  | none => .next s
  | some c =>
    let s1 := beginCmd s c
    match cmdBad s c with
    | some code => .next (finishCmd s1 c stMalformed code 0)
    | none =>
      if cmdKilled s c then .next (finishCmd s1 c stCancelled 0 0)
      else
        match cmdRow c.bytes with
        | some i => exec i { s1 with input := .command c.queue c.index c.bytes }
        | none => .next s1

end Sys2Proof.Machine
end

