-- ==== Sys2Proof/Machine/Turn.lean ====
section
/-!
DEFINITION. Sys2Proof/Machine/Turn.lean: what happens in one turn (log 1): a cell's group, a Virga instruction, a
micro-operation, a command, an event, the passing of time; and which turn a package with an empty agenda takes.
-/
namespace Sys2Proof.Machine

/-- What an agent does, or a fault where the package has no such agent. -/
def onAgent (n limit : Nat) (o : Host.Outcome State Fault Refusal) : Host.Outcome State Fault Refusal :=
  if n < limit then o else .fault (.noAgent n)

/-! ### Instructions -/

/-- A cell's turn. -/
def cellTurn (s : State) (k : Nat) : Host.Outcome State Fault Refusal :=
  match prepareCell s k with
  | .over s1 => .next s1
  | .one i s1 => exec i s1
  | .many xs s1 => .next (issueGroup s1 xs)

/-- The word at a Virga core's program counter as an instruction; a word that is none is the row of R399. -/
def fetchVirga (s : State) (n : Nat) : Instr :=
  let v := getVirga s n
  match decodeVirga (imemWord v n v.pc) with
  | .ok i => i
  | .error _ => .virgaUnassignedOpcode

/-- Where the instruction of a Virga core stands. -/
def onVirga (s : State) (n : Nat) : State := { s with iss := { s.iss with virga := n } }

/-- A Virga core's turn (R392): it runs once phase 2 is complete (R394); past the end of IMEM the fetch is refused as a branch
there would be (R403, log 15). -/
def virgaTurn (s : State) (n : Nat) : Host.Outcome State Fault Refusal :=
  let v := getVirga s n
  if s.pkg.phase < 3 ∨ v.run = .stopped then .next s
  else if imemTop ≤ v.pc then .next (vfault (onVirga s n) vBound (BitVec.ofNat 64 v.pc))
  else exec (fetchVirga s n) (onVirga s n)

/-- A micro-operation of a command that runs on an array (R383). -/
def uopTurn (s : State) (k : Nat) (id : BitVec 16) : Host.Outcome State Fault Refusal :=
  let s1 := { s with iss := { s.iss with key := k, cmd := id } }
  match findCmd (getCell s k) id with
  | none => .next s
  | some m =>
    match fetchMicro (getCell s k) m with
    | some i => exec i s1
    | none => .next (badMicro s1)

/-- Is a row of the opcode table an event: it has no encoding, and stands for no word that is none? -/
def isEvent (i : Instr) : Bool :=
  (encodeSlot i).isNone && (encodeVirgaFields i).isNone && (encodeUopFields i).isNone
    && i != .unassignedOpcode && i != .virgaUnassignedOpcode

/-- An event with its data. -/
def eventTurn (s : State) (i : Instr) (x : Input) : Host.Outcome State Fault Refusal :=
  if isEvent i then exec i { s with input := x } else .next s

/-! ### Time (R33 to R36, R144, R259, R281) -/

/-- Is there a group that the merge stage is to take on this beat (R140)? -/
def mergeOwed (s : State) : Bool :=
  (tblKeys s.cells).any fun k => !mergeSpent s (keyCore k) && slotReady s k

/-- May that many beats pass: none goes by on which something is to happen on a bus, no group that is ready is left out of its
core's cycle (R140), beats pass singly while a cell may issue (R152), and a change of duty comes at their end (R144)? -/
def mayElapse (s : State) (beats : Nat) : Bool :=
  let b := s.pkg.beat.toNat
  ((beatsDue s).all fun t => decide (b < t) && decide (b + beats ≤ t))
    && (beats == 0 || !mergeOwed s)
    && (decide (beats ≤ 1) || !(tblKeys s.cells).any (canIssue s))
    && (decide (b % 16 + beats ≤ 16) || s.teams.all fun e => e.2.duty == e.2.dutyNext)

/-- GTIME after some ns (R397): (1 + RATE × 2^−32) ns per ns. -/
def passTime (p : Package) (ns : Nat) : Package :=
  let x := p.gtimeFrac + ns * ((2 ^ 32 : Int) + p.gtrate.toInt).toNat
  { p with gtime := p.gtime + BitVec.ofNat 64 (x / 2 ^ 32), gtimeFrac := x % 2 ^ 32 }

/-- Does no tile of a team stand stopped? -/
def teamRuns (s : State) (t : Team) : Bool := t.seats.all fun k => !(getCore s (keyCore k)).stopped

/-- A team after some time: its count of the watchdog advances (R259); a change of duty comes into force with a window of 16
cycles (R144). -/
def teamPasses (s : State) (beats ns : Nat) (t : Team) : Team :=
  let b := s.pkg.beat.toNat
  let counts : Bool := (t.run == .placed || t.run == .saving || t.run == .swapping) && teamRuns s t
  { t with
    idle := if counts then t.idle + ns else t.idle
    duty := if (b + beats) / 16 = b / 16 then t.duty else t.dutyNext }

/-- How many of the first n beats a duty does not permit (R144). -/
def beatsBarred (duty n : Nat) : Nat := n / 16 * (16 - duty) + (n % 16 - duty)

/-- A cell after some cycles (R281): it counts cycles, those its duty does not permit and those in WAIT, and LATSTAT shows the
latches that have completed (R174). -/
def cellPasses (s : State) (k beats : Nat) (c : Cell) : Cell :=
  if c.live && tileRuns s k then
    let b := s.pkg.beat.toNat
    let duty := (teamOf s c).duty
    let c1 := countEv (countEv c 1 beats) 14 (beatsBarred duty (b + beats) - beatsBarred duty b)
    let c2 := if c.run = .wait then countEv c1 15 beats else c1
    latchesAt (b + beats) c2
  else c

/-- Does a cluster hold a cell of a team whose duty is not full (R123, class 8)? -/
def clusterThrottled (s : State) (n : Nat) : Bool :=
  (clusterSlots n).any fun k =>
    let c := getCell s k
    c.live && decide ((teamOf s c).duty < 16)

/-- Count the cycles with a team throttled (R123, class 8). -/
def countThrottled (s : State) (beats : Nat) : State :=
  foldIndex (fun r n => if clusterThrottled s n then countSource r (0x8000 + n) beats else r) s 0 40

/-- Virga cycles in some beats: three to two (R33, R34). -/
def virgaCycles (s : State) (beats : Nat) : Nat :=
  let b := s.pkg.beat.toNat
  3 * (b + beats) / 2 - 3 * b / 2

/-- Time passes without a look at what is due; CBEAT counts once the compute dies have left reset (R33, R39). -/
def passBeats (s : State) (beats ns : Nat) : State :=
  let n := if 5 ≤ s.pkg.phase then beats else 0
  let cycles := BitVec.ofNat 64 (virgaCycles s beats)
  let pkg := passTime s.pkg ns
  { countThrottled s n with
    pkg := { pkg with beat := pkg.beat + BitVec.ofNat 64 n }
    teams := tblMapAll teamEmpty (fun _ => teamPasses s n ns) s.teams
    cells := tblMapAll Cell.empty (fun k => cellPasses s k n) s.cells
    virga := foldIndex (fun t n =>
      let v := getVirga s n
      tblSet virgaEmpty t n { v with vcyc := v.vcyc + cycles }) s.virga 0 8 }

/-- Beats and ns pass, where they may. -/
def elapse (s : State) (beats ns : Nat) : State := if mayElapse s beats then passBeats s beats ns else s

/-! ### Other turns -/

/-- One cycle of a core's merge stage (R140), one on each beat: BLK changes, and the slots that issue are next on the
agenda. -/
def mergeTurn (s : State) (core : Nat) : State :=
  if mergeSpent s core then s
  else
    let s1 := beginCycle s core
    { s1 with agenda := (mergePlan s core).1.map Turn.cell ++ s1.agenda }

/-- The n-th translation leaves a core's TLB (R197). -/
def dropTlb (s : State) (core n : Nat) : State := modCore s core fun u => { u with tlb := u.tlb.eraseIdx n }

/-- The n-th translation leaves a layout unit's TLB (R197). -/
def dropLayoutTlb (s : State) (die n : Nat) : State := modDie s die fun d => { d with tlb := d.tlb.eraseIdx n }

/-- The n-th entry leaves a core's descriptor cache (R176). -/
def dropDesc (s : State) (core n : Nat) : State := modCore s core fun u => { u with dcache := u.dcache.eraseIdx n }

/-- The n-th line leaves a core's instruction cache (R265). -/
def dropCodeLine (s : State) (core n : Nat) : State := modCore s core fun u => { u with icache := u.icache.eraseIdx n }

/-- Before a cell's first group the device runtime sets TVEC to its trap entry with EN = 1 (R422, log 23). -/
def runtimeEntry (s : State) (k : Nat) (entry : BitVec 64) : State :=
  let c := getCell s k
  if c.live && decide (c.groupNo = 0) then setCell s k { c with tvec := pcBits entry ||| 1 } else s

/-- One turn. -/
def runTurn (t : Turn) (s : State) : Host.Outcome State Fault Refusal :=
  match t with
  | .cell k => onAgent k 1280 (cellTurn s k)
  | .virga n => onAgent n 8 (virgaTurn s n)
  | .uop k id => onAgent k 1280 (uopTurn s k id)
  | .command => runCommand s
  | .event i x => eventTurn s i x
  | .elapse beats ns => .next (elapse s beats ns)
  | .hostStore bus bs => .next (hostStore s bus bs)
  | .merge core => onAgent core 640 (.next (mergeTurn s core))
  | .element k order n => onAgent k 1280 (.next (performElem s k order n))
  | .dropTlb core n => onAgent core 640 (.next (dropTlb s core n))
  | .dropLayoutTlb die n => onAgent die 8 (.next (dropLayoutTlb s die n))
  | .dropDesc core n => onAgent core 640 (.next (dropDesc s core n))
  | .dropCode core n => onAgent core 640 (.next (dropCodeLine s core n))
  | .runtime k entry => onAgent k 1280 (.next (runtimeEntry s k entry))
  | .ahead k order n j => onAgent k 1280 (.next (fetchPart s k order n j))
  | .near k id a word => onAgent k 1280 (.next (fetchNear s k id a word))
  | .stored k id n => onAgent k 1280 (.next (storeAhead s k id n))

/-! ### The turn of an empty agenda (log 1) -/

/-- The events that the package brings about by itself. -/
def ownEvents : List Instr :=
  [.accessResponseReturn, .copyStart, .copyComplete, .matrixCommandStart, .stalledGroupCommit, .deferredTrap, .gstepComplete,
    .broadcastBeat, .latchComplete, .wcsLineDrainTimeout, .teamPlace, .swapTest, .swapComplete, .waitMonitorPoll, .ctxHang]
  ++ [.graceWindowEnd, .saveComplete, .saveTimeout, .restoreComplete, .ctxkillStageDrained, .ctxRemoveStuck, .counterWrap,
    .hcopyComplete, .waitsemReevaluate, .waitsemTimeout, .commandFetch, .stampRefetch, .cxlResetComplete,
    .virgaTimerExpiry]
  ++ [.packetTransmit, .retxSend, .rtoExpiry, .ackCoalesceTimeout, .parkedBackoffExpiry, .ccsigTimer, .pdcIdleTimeout,
    .pdcCloseTimeout, .keyEpochSwitch, .keyEpochGraceEnd, .rcbReopenDelayEnd, .windowRevokeComplete, .productionQueueDrain]
  ++ [.rmaWriteStreamArrival, .taggedSendArrival, .remoteReadArrival, .remoteWriteArrival, .remoteAtomicArrival,
    .ackReceived, .nackReceived, .pdcCloseAckReceived, .pdcCloseRequestReceived]

/-- The data that such an event brings: numbers, or what is looped back. -/
def ownInput (c : Nat) : Input :=
  let x := c / 4
  match c % 4 with
  | 0 => .num x
  | 1 => .pair (x % 2 ^ 32) (x / 2 ^ 32)
  | 2 => .triple (x % 2 ^ 32) (x / 2 ^ 32 % 2 ^ 32) (x / 2 ^ 64)
  | _ => .loop x

/-- The turn of a code. A cell's group comes by its core's merge stage alone (R140). -/
def turnOf (c : Nat) : Turn :=
  let x := c / 14
  match c % 14 with
  | 0 => .merge (x % 640)
  | 1 => .virga (x % 8)
  | 2 => .uop (x % 1280) (BitVec.ofNat 16 (x / 1280))
  | 3 => .command
  | 4 => .event (ownEvents.getD (x % ownEvents.length) .copyStart) (ownInput (x / ownEvents.length))
  | 5 => .elapse (x % 2 ^ 32) (x / 2 ^ 32)
  | 6 => .ahead (x % 1280) (x / 1280 % 2 ^ 32) (x / 1280 / 2 ^ 32 % 2 ^ 32) (x / 1280 / 2 ^ 64)
  | 7 => .element (x % 1280) (x / 1280 % 2 ^ 32) (x / 1280 / 2 ^ 32)
  | 8 => .dropTlb (x % 640) (x / 640)
  | 9 => .dropLayoutTlb (x % 8) (x / 8)
  | 10 => .dropDesc (x % 640) (x / 640)
  | 11 => .dropCode (x % 640) (x / 640)
  | 12 => .near (x % 1280) (BitVec.ofNat 16 (x / 1280)) (x / 1280 / 2 ^ 17) (x / 1280 / 2 ^ 16 % 2 == 1)
  | _ => .stored (x % 1280) (BitVec.ofNat 16 (x / 1280)) (x / 1280 / 2 ^ 16)

/-- The start-up phase that is due (R39). -/
def phaseEvent (s : State) : Option Instr :=
  if s.pkg.failed then none
  else
    match s.pkg.phase with
    | 1 => some .startupPhase1
    | 2 => some .startupPhase2
    | 3 => some .startupPhase3
    | 4 => some .startupPhase4
    | 5 => some .startupPhase5
    | _ => none

/-- The turn that an empty agenda leaves to the package: start-up, then a free choice. -/
def ownTurn (s : State) : Turn :=
  match phaseEvent s with
  | some i => .event i .none
  | none => turnOf (Config.turnCode s.tick)

end Sys2Proof.Machine
end

