-- ==== Sys2Proof/Machine/Step.lean ====
section
/-!
DEFINITION. Sys2Proof/Machine/Step.lean: one step of the package, and the placing of one instruction where the next step
fetches it.
-/
namespace Sys2Proof.Machine

/-- One step (log 1): the head of the agenda moves; with an empty agenda the package chooses. Every step advances the counter
that the free values depend on (log 7, log 13). -/
def step (s : State) : Host.Outcome State Fault Refusal :=
  match s.agenda with
  | t :: rest => runTurn t { s with agenda := rest, tick := s.tick + 1 }
  | [] => runTurn (ownTurn s) { s with tick := s.tick + 1 }

/-- A word stored where Virga core 0 fetches its next instruction (R392). -/
def placeWord (v : Virga) (w : BitVec 32) : Virga :=
  let v1 := { v with run := .run, pc := if imemTop ≤ v.pc then 0 else v.pc }
  let d : BitVec 32 := match v1.image with
    | some i => Config.firmwareImem i 0 (v1.pc / 4)
    | none => 0
  { v1 with imem := tblSet d v1.imem (v1.pc / 4) w }

/-- The state with an instruction of the opcode table's bits placed for the next step (log 1): the rows with bits are those of
the Virga core, so it goes into the IMEM of core 0, which runs, past start-up phase 2, and moves next. -/
def State.withFetchWord (s : State) (nbits w : Nat) : State :=
  { modVirga s 0 (fun v => placeWord v (BitVec.ofNat 32 (w % 2 ^ nbits))) with
    pkg := { s.pkg with phase := max 3 s.pkg.phase }
    agenda := .virga 0 :: s.agenda }

end Sys2Proof.Machine
end

