-- ==== Sys2Proof/Safety.lean ====
section
/-!
DEFINITION. Sys2Proof/Safety.lean: the terms in which claims are stated: the canonical form of memory, when an operation issues
and commits as a group of its own, the state after its commit, and what counts as a safe run.
-/
namespace Sys2Proof.Machine

/-! ### Memory -/

/-- Memory in its canonical form: addresses strictly rising, and no entry equal to what an unlisted address reads as. -/
def Memory.wf (m : List Host.Cell) : Bool := tblWf (0 : Byte) m

/-- What every reachable state keeps: the canonical form of memory. -/
def CanonicalMemory (s : State) : Prop := Memory.wf s.mem = true

/-! ### A group of one operation (R15, R260, R273, R274) -/

/-- The scalar that the operation of the cell at State.iss reads. -/
def sv (s : State) (r : BitVec 6) : BitVec 64 := rdS (self s) r

/-- The operation issues and takes effect: its guard is true, no register it reads or writes waits for a value, and none it
reads is poisoned. -/
def ready (i : Instr) (s : State) : Bool :=
  guardTrue (self s) i && !scoreBlocked (self s) i && (poisonRead (self s) i).isNone

/-- The state after a group of one operation has committed with an effect: the next group follows, the effect happens, and
the issue is counted (R273, R281); the watchdog of the team starts again (R259). -/
def commitEff (s : State) (f : State → State) : State :=
  modCell (f (modCell (petWatchdog s s.iss.key) s.iss.key (committed s.iss.next))) s.iss.key (counted 1)

/-- The same with an effect on the issuing cell alone. -/
def commitCell (s : State) (f : Cell → Cell) : State := commitEff s fun t => modCell t s.iss.key f

/-- The same with a scalar written. -/
def commitS (s : State) (d : BitVec 6) (v : BitVec 64) : State := commitCell s fun c => wrS c d v

/-- The instruction, where it may issue, has an effect as a group of its own, and nothing else happens. -/
def hasEffect (i : Instr) (s : State) (f : State → State) : Prop := ready i s = true → exec i s = .next (commitEff s f)

/-- The instruction, where it may issue, changes its cell alone. -/
def changesCell (i : Instr) (s : State) (f : Cell → Cell) : Prop := ready i s = true → exec i s = .next (commitCell s f)

/-- The instruction, where it may issue, writes a scalar and nothing else. -/
def writesScalar (i : Instr) (s : State) (d : BitVec 6) (v : BitVec 64) : Prop :=
  ready i s = true → exec i s = .next (commitS s d v)

/-- The state after a group of one operation has taken a trap (R15, R245): TRAPPC names the group, TRAPSLOT the operation. -/
def trapped (s : State) (t : TrapInfo) : State := takeTrap s s.iss.key t s.iss.group (trapMask [s.iss.idx]) false

/-- The instruction, where it may issue, traps instead, and has no effect. -/
def raisesTrap (i : Instr) (s : State) (t : TrapInfo) : Prop := ready i s = true → exec i s = .next (trapped s t)

/-! ### Frames -/

/-- A cell without what an instruction of classes 1, 3 and 4 may change: its registers, queue, FMTCTL and generators, its
counters, and where it goes on. -/
def cellBackdrop (c : Cell) : Cell :=
  { c with
    s := []
    p := []
    v := []
    m := []
    poisonS := []
    poisonV := []
    poisonR := []
    cq := []
    fmtctl := 0
    gens := []
    evcnt := []
    pc := 0
    branched := false
    watchSkip := false
    run := .run
    waitWord := none
    groupNo := 0 }

/-- Does an instruction push on the condition queue (R275)? -/
def pushesBit : Instr → Bool
  | .cmpq .. => true
  | .fcmpq .. => true
  | .vcmpq .. => true
  | _ => false

/-- Is a type code that of an integer (R285)? -/
def intType (t : BitVec 4) : Bool :=
  match vecType t with
  | .int _ => true
  | .flt _ => false

/-- Does an instruction of classes 1, 3 and 4 leave the flags of FMTCTL alone: it is no F32 instruction and no conversion, and
its vector type, where that matters, is an integer (R231, R297, R300, R319)? -/
def leavesFlags : Instr → Bool
  | .fadd .. => false
  | .fsub .. => false
  | .fmul .. => false
  | .fdiv .. => false
  | .fma .. => false
  | .fmin .. => false
  | .fmax .. => false
  | .fcmp .. => false
  | .fcmpq .. => false
  | .fcvt .. => false
  | .vadd _ _ _ _ ty _ => intType ty
  | .vsub _ _ _ _ ty _ => intType ty
  | .vmul _ _ _ _ ty _ => intType ty
  | .vdiv _ _ _ _ ty _ => intType ty
  | .vmin _ _ _ _ ty _ => intType ty
  | .vmax _ _ _ _ ty _ => intType ty
  | .vabs _ _ _ ty _ => intType ty
  | .vneg _ _ _ ty _ => intType ty
  | .vrsum _ _ _ ty _ => intType ty
  | .vrmax _ _ _ ty _ => intType ty
  | .vrmin _ _ _ ty _ => intType ty
  | .vscan _ _ _ ty _ => intType ty
  | .vcmp _ _ _ _ _ ty _ => intType ty
  | .vcmpq _ _ _ _ ty _ => intType ty
  | .vfmaF32 .. => false
  | .vfmaBf16 .. => false
  | .vcvt .. => false
  | .vqnt .. => false
  | .vdqnt .. => false
  | .vbamax .. => false
  | .vexp2 .. => false
  | .vlog2 .. => false
  | .vrcp .. => false
  | .vrsqrt .. => false
  | .vsqrt .. => false
  | .vtanh .. => false
  | _ => true

/-! ### Safe runs -/

/-- A run is safe over some steps when the machine never stops with a fault: no turn names an agent that the package does not
have. -/
def safeFor : Nat → State → Prop
  | 0, _ => True
  | n + 1, s => ∃ t, step s = .next t ∧ safeFor n t

end Sys2Proof.Machine
end

