-- ==== Sys2Proof/Certificates/Slice0/Obligations.lean ====
section
/-!
DEFINITION. Sys2Proof/Certificates/Slice0/Obligations.lean: what is claimed of the model.
-/
section

open Sys2Proof Sys2Proof.Machine

/-! ### Encodings -/

/-- Words written out from the encodings of the manual decode to the instructions they stand for (R264, R266, R291, R316,
R338, R339, R370, R382, R384, R398, R399). -/
def Obligations.DecodeOfWrittenWords : Prop :=
  -- ADD s1, s2, s3; S = 1, class 1, guard p0
  decodeSikan 0b10010000000001000001000010000011#32 0 = .ok (.add 0 1 2 3)
  -- @p5 BR -1 in class 2: off = 0x3FFFFFF lies in L:A:B:C
  ∧ decodeSikan 0b10100101000000111111111111111111#32 0xFF = .ok (.br 5 0x3FFFFFF)
  -- VADD.i32 v7, v8, v9 under m2: T = 2 and k = 2 in L
  ∧ decodeSikan 0b10110000000000000111001000001001#32 0b00100010 = .ok (.vadd 0 7 8 9 2 2)
  -- VRSUM.f32 v1, v2 in class 4
  ∧ decodeSikan 0b11000000000100000001000010000000#32 0 = .ok (.vrsum 0 1 2 0 0)
  -- MCALL s4, s5, s6, 9 in class 5: the routine is L
  ∧ decodeSikan 0b11010000000000000100000101000110#32 9 = .ok (.mcall 0 4 5 6 9)
  -- LD.n32 of class 3 in class 6, address s8, offset 2 * 4: C = K:size
  ∧ decodeSikan 0b11100000000000000111001000001110#32 2 = .ok (.ldN 0 7 8 3 2 2)
  -- GSTEP 5 in class 7
  ∧ decodeSikan 0b11110000001001000101000000000000#32 0 = .ok (.gstep 0 5)
  -- the Virga word of ADDI g1, g2, -1
  ∧ decodeVirga 0b00110000001000101111111111111111#32 = .ok (.virgaAddi 1 2 0xFFFF)
  -- the micro-operation ADDC c1 := c2 + c3
  ∧ decodeUop 0x1C048C0000000000#64 = .ok (.uopAddc 1 2 3)
  -- a reserved bit set in a register form, an unassigned opcode of class 1, and a header in place of an operation
  ∧ decodeSikan 0b10010000000001000001000010000011#32 1 = .error .reservedField
  ∧ decodeSikan 0b10010000111111000001000010000011#32 0 = .error .unassignedOpcode
  ∧ decodeSikan 0b00000000000000000000000000000000#32 0 = .error .header

/-- Decoding the bits that the encoder gives a well-formed instruction gives the instruction back, with every operand at every
value that its encoding admits: Sikan slots with their lent byte, Virga words and micro-operations. -/
def Obligations.DecodeOfEncodeIsIdentity : Prop :=
  ∀ (i : Instr) (n w : Nat), i.wf = true → encode i = some (n, w) → decodeTableWord n w = some i

/-- What a decoder accepts is a well-formed instruction, so no operand value that its format excludes comes through. -/
def Obligations.DecodedInstructionsAreWellFormed : Prop :=
  (∀ w l i, decodeSikan w l = .ok i → i.wf = true)
  ∧ (∀ w i, decodeVirga w = .ok i → i.wf = true)
  ∧ (∀ w i, decodeUop w = .ok i → i.wf = true)

/-! ### A step runs the decoded instruction -/

/-- A turn runs exactly the instruction that stands at the program counter: a Virga core the word it fetches from IMEM; a
cell the group of one slot that it fetches, whose checks pass; a cell a group of several slots, all at once; a command on an
array the micro-operation at its index. A cycle of a core's merge stage puts the turns of the slots that issue on the
agenda, once on each beat (R140; log 1).
A turn that brings an event runs its row with its data, and the command processor runs the row of the next accepted command,
which is then running, unless it is malformed or its context is being removed. -/
def Obligations.StepRunsDecodedInstruction : Prop :=
  (
  (∀ (s : State) (rest : List Turn) (n : Nat) (i : Instr), s.agenda = .virga n :: rest → n < 8 → 3 ≤ s.pkg.phase →
    (getVirga s n).run ≠ .stopped → (getVirga s n).pc < imemTop →
    decodeVirga (imemWord (getVirga s n) n (getVirga s n).pc) = .ok i →
    step s = exec i { s with agenda := rest, tick := s.tick + 1, iss := { s.iss with virga := n } })
  ∧ (∀ (s : State) (rest : List Turn) (n : Nat) (e : Reject), s.agenda = .virga n :: rest → n < 8 → 3 ≤ s.pkg.phase →
    (getVirga s n).run ≠ .stopped → (getVirga s n).pc < imemTop →
    decodeVirga (imemWord (getVirga s n) n (getVirga s n).pc) = .error e →
    step s = exec .virgaUnassignedOpcode { s with agenda := rest, tick := s.tick + 1, iss := { s.iss with virga := n } })
  ∧ (∀ (s s1 s2 : State) (rest : List Turn) (k : Nat) (x : Scanned) (stop : Bool) (i : Instr) (next : BitVec 64)
      (nf : Option TrapInfo), s.agenda = .cell k :: rest → k < 1280 →
    canIssue { s with agenda := rest, tick := s.tick + 1 } k = true → dutyPermits { s with agenda := rest, tick := s.tick + 1 } k = true →
    (getCell s k).deferred = [] → fetchGroup { s with agenda := rest, tick := s.tick + 1 } k = (s1, .ok ([x], stop)) →
    structuralCauses [] stop [x] = [] → fetchHits (getCell s1 k) [] [x] = [] → x.dec = .ok i →
    nextGroup s1 k x.addr (needsNext [x]) = (s2, next, nf) →
    step s = exec i { s2 with iss := ⟨k, BitVec.ofNat 64 x.addr, BitVec.ofNat 64 x.addr, next, x.word, 0, nf, 0,
      s1.iss.virga⟩ })
  ∧ (∀ (s s1 s2 : State) (rest : List Turn) (k : Nat) (x y : Scanned) (l : List Scanned) (stop : Bool) (next : BitVec 64)
      (nf : Option TrapInfo), s.agenda = .cell k :: rest → k < 1280 →
    canIssue { s with agenda := rest, tick := s.tick + 1 } k = true → dutyPermits { s with agenda := rest, tick := s.tick + 1 } k = true →
    (getCell s k).deferred = [] → fetchGroup { s with agenda := rest, tick := s.tick + 1 } k = (s1, .ok (x :: y :: l, stop)) →
    structuralCauses [] stop (x :: y :: l) = [] → fetchHits (getCell s1 k) [] (x :: y :: l) = [] →
    nextGroup s1 k ((y :: l).getLast (by simp)).addr (needsNext (x :: y :: l)) = (s2, next, nf) →
    let base : Iss := ⟨k, BitVec.ofNat 64 x.addr, BitVec.ofNat 64 x.addr, next, ((y :: l).getLast (by simp)).word, 0, nf, 0,
      s1.iss.virga⟩
    2 ≤ (groupIssues base 0 (x :: y :: l)).length →
    step s = .next (issueGroup { s2 with iss := base } (groupIssues base 0 (x :: y :: l))))
  ∧ (∀ (s : State) (rest : List Turn) (k : Nat) (id : BitVec 16) (m : MatCmd) (i : Instr),
    s.agenda = .uop k id :: rest → k < 1280 → findCmd (getCell s k) id = some m →
    fetchMicro (getCell s k) m = some i →
    step s = exec i { s with agenda := rest, tick := s.tick + 1, iss := { s.iss with key := k, cmd := id } })
  ∧ (∀ (s : State) (rest : List Turn) (core : Nat), s.agenda = .merge core :: rest → core < 640 →
    let s1 : State := { s with agenda := rest, tick := s.tick + 1 }
    (mergeSpent s1 core = true → step s = .next s1)
    ∧ (mergeSpent s1 core = false →
      step s = .next { beginCycle s1 core with agenda := (mergePlan s1 core).1.map Turn.cell ++ rest })))
  ∧ (
  (∀ (s : State) (rest : List Turn) (i : Instr) (x : Input), s.agenda = .event i x :: rest → isEvent i = true →
    step s = exec i { s with agenda := rest, tick := s.tick + 1, input := x })
  ∧ (∀ (s : State) (rest : List Turn) (c : Cmd) (i : Instr), s.agenda = .command :: rest →
    nextCmd { s with agenda := rest, tick := s.tick + 1 } = some c → cmdBad { s with agenda := rest, tick := s.tick + 1 } c = none →
    cmdKilled { s with agenda := rest, tick := s.tick + 1 } c = false → cmdRow c.bytes = some i →
    step s = exec i { beginCmd { s with agenda := rest, tick := s.tick + 1 } c with input := .command c.queue c.index c.bytes })
  ∧ (∀ (s : State) (rest : List Turn) (c : Cmd) (code : Nat), s.agenda = .command :: rest →
    nextCmd { s with agenda := rest, tick := s.tick + 1 } = some c → cmdBad { s with agenda := rest, tick := s.tick + 1 } c = some code →
    step s = .next (finishCmd (beginCmd { s with agenda := rest, tick := s.tick + 1 } c) c stMalformed code 0)))

/-! ### Reset and the invariant -/

/-- After reset every cell, core, die, CXL port, context, team, queue, window, RCB, PDC, port, peer entry, path set, security
domain and Virga core holds its reset value, whole; no semaphore table, event ring or counter is set up; memory lists
nothing and no word is poisoned; CBEAT and GTIME are 0, and start-up phase 1 is next. The values that the manual does not give
are the model's (log 5), PTP's free mode among them (log 40).
The invariant holds at reset: memory stands in its canonical form. -/
def Obligations.ResetHoldsResetValuesAndInvariant : Prop :=
  (
  (∀ k, getCell State.reset k = Cell.empty)
  ∧ (∀ n, getCore State.reset n = coreEmpty ∧ getDie State.reset n = dieEmpty ∧ getCxl State.reset n = cxlEmpty)
  ∧ (∀ pa, memByte State.reset pa = 0 ∧ pendingByte State.reset pa = none ∧ tblGet false State.reset.poison pa = false)
  ∧ (∀ n, getQueue State.reset n = queueEmpty)
  ∧ (∀ n, getCtx State.reset n = ctxEmpty ∧ getTeam State.reset n = teamEmpty)
  ∧ (∀ n, getRcb State.reset n = rcbEmpty ∧ getWindow State.reset n = windowEmpty ∧ getPort State.reset n = portEmpty)
  ∧ (∀ n, getPdc State.reset n = pdcEmpty ∧ getPeer State.reset n = 0 ∧ getPathset State.reset n = []
    ∧ getDomain State.reset n = domainEmpty)
  ∧ (∀ n, getVirga State.reset n = virgaEmpty)
  ∧ (Cell.empty.live = false ∧ ctxEmpty.live = false ∧ teamEmpty.run = .absent ∧ rcbEmpty.state = 0 ∧ windowEmpty.state = 0
    ∧ pdcEmpty.state = 0 ∧ portEmpty = ⟨false, false⟩ ∧ queueEmpty.en = false ∧ virgaEmpty.run = .stopped ∧ coreEmpty.blk = 0)
  ∧ State.reset.pkg = Package.reset ∧ Package.reset.phase = 1 ∧ Package.reset.ptp = .free
  ∧ State.reset.pkg.beat = 0 ∧ State.reset.pkg.gtime = 0
  ∧ State.reset.gafin = Gafin.reset
  ∧ Gafin.reset.en = false ∧ Gafin.reset.even = false ∧ Gafin.reset.evprod = 0 ∧ Gafin.reset.evcons = 0
  ∧ Gafin.reset.evlost = 0 ∧ Gafin.reset.sembase = 0 ∧ Gafin.reset.semcount = 0 ∧ Gafin.reset.cnt = []
  ∧ ownTurn State.reset = .event .startupPhase1 .none)
  ∧ (
  CanonicalMemory State.reset)

/-- Every step keeps the invariant: whatever moves, memory stays in its canonical form. -/
def Obligations.EveryStepKeepsInvariant : Prop := ∀ s t : State, CanonicalMemory s → step s = .next t → CanonicalMemory t

/-! ### Class 1: scalars, predicates and the condition queue -/

/-- The register forms of the integer instructions (R292): each writes its result, and nothing but its group's commit happens
besides.
The immediate forms (R293), LI and LIS (R294). -/
def Obligations.IntegerFormResults : Prop :=
  (
  ∀ (s : State) (g : BitVec 4) (d a b : BitVec 6),
    let x := sv s a
    let y := sv s b
    let sat := fun (lo hi v : Int) => BitVec.ofInt 64 (max lo (min hi v))
    writesScalar (.add g d a b) s d (BitVec.ofNat 64 (x.toNat + y.toNat))
    ∧ writesScalar (.sub g d a b) s d (BitVec.ofInt 64 (x.toNat - y.toNat))
    ∧ writesScalar (.mul g d a b) s d (BitVec.ofNat 64 (x.toNat * y.toNat))
    ∧ writesScalar (.mulhI64 g d a b) s d (BitVec.ofInt 64 (x.toInt * y.toInt / 2 ^ 64))
    ∧ writesScalar (.mulhN64 g d a b) s d (BitVec.ofNat 64 (x.toNat * y.toNat / 2 ^ 64))
    ∧ writesScalar (.divI64 g d a b) s d (BitVec.ofInt 64
        (if y = 0 then if 0 ≤ x.toInt then 2 ^ 63 - 1 else -2 ^ 63 else x.toInt.tdiv y.toInt))
    ∧ writesScalar (.divN64 g d a b) s d (if y = 0 then BitVec.allOnes 64 else BitVec.ofNat 64 (x.toNat / y.toNat))
    ∧ writesScalar (.remI64 g d a b) s d (if y = 0 then x else BitVec.ofInt 64 (x.toInt.tmod y.toInt))
    ∧ writesScalar (.remN64 g d a b) s d (if y = 0 then x else BitVec.ofNat 64 (x.toNat % y.toNat))
    ∧ writesScalar (.and g d a b) s d (x &&& y)
    ∧ writesScalar (.or g d a b) s d (x ||| y)
    ∧ writesScalar (.xor g d a b) s d (x ^^^ y)
    ∧ writesScalar (.shl g d a b) s d (BitVec.ofNat 64 (x.toNat * 2 ^ (y.toNat % 64)))
    ∧ writesScalar (.shrI64 g d a b) s d (BitVec.ofInt 64 (x.toInt / 2 ^ (y.toNat % 64)))
    ∧ writesScalar (.shrN64 g d a b) s d (BitVec.ofNat 64 (x.toNat / 2 ^ (y.toNat % 64)))
    ∧ writesScalar (.minI64 g d a b) s d (if x.toInt ≤ y.toInt then x else y)
    ∧ writesScalar (.minN64 g d a b) s d (if x.toNat ≤ y.toNat then x else y)
    ∧ writesScalar (.maxI64 g d a b) s d (if x.toInt ≤ y.toInt then y else x)
    ∧ writesScalar (.maxN64 g d a b) s d (if x.toNat ≤ y.toNat then y else x)
    ∧ writesScalar (.addI64S g d a b) s d (sat (-2 ^ 63) (2 ^ 63 - 1) (x.toInt + y.toInt))
    ∧ writesScalar (.addN64S g d a b) s d (sat 0 (2 ^ 64 - 1) (x.toNat + y.toNat))
    ∧ writesScalar (.subI64S g d a b) s d (sat (-2 ^ 63) (2 ^ 63 - 1) (x.toInt - y.toInt))
    ∧ writesScalar (.subN64S g d a b) s d (sat 0 (2 ^ 64 - 1) (x.toNat - y.toNat)))
  ∧ (
  ∀ (s : State) (g : BitVec 4) (d a n : BitVec 6) (imm : BitVec 14) (long : BitVec 20) (half : BitVec 16),
    let x := sv s a
    writesScalar (.addi g d a imm) s d (BitVec.ofInt 64 (x.toNat + imm.toInt))
    ∧ writesScalar (.andi g d a imm) s d (x &&& BitVec.ofInt 64 imm.toInt)
    ∧ writesScalar (.ori g d a imm) s d (x ||| BitVec.ofInt 64 imm.toInt)
    ∧ writesScalar (.xori g d a imm) s d (x ^^^ BitVec.ofInt 64 imm.toInt)
    ∧ writesScalar (.shli g d a n) s d (BitVec.ofNat 64 (x.toNat * 2 ^ n.toNat))
    ∧ writesScalar (.shriI64 g d a n) s d (BitVec.ofInt 64 (x.toInt / 2 ^ n.toNat))
    ∧ writesScalar (.shriN64 g d a n) s d (BitVec.ofNat 64 (x.toNat / 2 ^ n.toNat))
    ∧ writesScalar (.li g d long) s d (BitVec.ofInt 64 long.toInt)
    ∧ writesScalar (.lis g d half) s d (BitVec.ofNat 64 ((sv s d).toNat * 65536 + half.toNat)))

/-- CLZ, POPC, SEXT, ZEXT, SEL and NOP (R295): the leading zeros and the ones are counted bit by bit, an extension keeps n bits
of the operand and repeats its sign or zeros above them. -/
def Obligations.BitAndSelectResults : Prop :=
  ∀ (s : State) (g : BitVec 4) (d a b : BitVec 6) (n : BitVec 7) (k : BitVec 4),
    let x := sv s a
    (x = 0 → writesScalar (.clz g d a) s d 64)
    ∧ (∀ z, z < 64 → x.getLsbD (63 - z) = true → (∀ j, j < z → x.getLsbD (63 - j) = false) →
        writesScalar (.clz g d a) s d (BitVec.ofNat 64 z))
    ∧ writesScalar (.popc g d a) s d (BitVec.ofNat 64 ((List.range 64).filter fun j => x.getLsbD j).length)
    ∧ (1 ≤ n.toNat → n.toNat ≤ 64 → ready (.sext g d a n) s = true →
        ∃ v : BitVec 64, exec (.sext g d a n) s = .next (commitS s d v)
          ∧ ∀ j, j < 64 → v.getLsbD j = x.getLsbD (if j < n.toNat then j else n.toNat - 1))
    ∧ (1 ≤ n.toNat → n.toNat ≤ 64 → ready (.zext g d a n) s = true →
        ∃ v : BitVec 64, exec (.zext g d a n) s = .next (commitS s d v)
          ∧ ∀ j, j < 64 → v.getLsbD j = (decide (j < n.toNat) && x.getLsbD j))
    ∧ writesScalar (.sel g d a b k) s d (if rdP (self s) k.toNat then x else sv s b)
    ∧ hasEffect (.nop g) s id

/-- A compare of each condition code writes the pair its condition and the complement, pair 0 only p1, or pushes one bit at the
tail of the condition queue, which must have room (R276, R296); predicate logic writes one predicate (R299); CQCLR empties
the queue (R298). -/
def Obligations.CompareAndPredicateResults : Prop :=
  ∀ (s : State) (g : BitVec 4) (cond pair : BitVec 3) (a b : BitVec 6) (imm : BitVec 14) (p q r : BitVec 4),
    let holds := fun (x y : BitVec 64) =>
      match cond.toNat with
      | 0 => decide (x = y)
      | 1 => decide (x ≠ y)
      | 2 => decide (x.toInt < y.toInt)
      | 3 => decide (y.toInt ≤ x.toInt)
      | 4 => decide (x.toNat < y.toNat)
      | _ => decide (y.toNat ≤ x.toNat)
    let writes := fun (v : Bool) (c : Cell) =>
      if pair = 0 then wrP c 1 (!v) else wrP (wrP c (2 * pair.toNat) v) (2 * pair.toNat + 1) (!v)
    cond.toNat ≤ 5 →
    changesCell (.cmp g cond pair a b) s (writes (holds (sv s a) (sv s b)))
    ∧ changesCell (.cmpi g cond pair a imm) s (writes (holds (sv s a) (BitVec.ofInt 64 imm.toInt)))
    ∧ ((self s).cq.length < 16 →
        changesCell (.cmpq g cond a b) s fun c => { c with cq := c.cq ++ [holds (sv s a) (sv s b)] })
    ∧ (16 ≤ (self s).cq.length → ready (.cmpq g cond a b) s = true → exec (.cmpq g cond a b) s = .next s)
    ∧ changesCell (.pand g p q r) s (fun c => wrP c p.toNat (rdP (self s) q.toNat && rdP (self s) r.toNat))
    ∧ changesCell (.por g p q r) s (fun c => wrP c p.toNat (rdP (self s) q.toNat || rdP (self s) r.toNat))
    ∧ changesCell (.pxor g p q r) s (fun c => wrP c p.toNat (rdP (self s) q.toNat != rdP (self s) r.toNat))
    ∧ changesCell (.pandn g p q r) s (fun c => wrP c p.toNat (rdP (self s) q.toNat && !rdP (self s) r.toNat))
    ∧ changesCell (.cqclr g) s fun c => { c with cq := [] }

/-- The F32 instructions and FCVT (R297, R300, R301): the result of the exact value rounded under FMTCTL as it stood before the
group fills the low bits; its flags are ORed into FMTCTL, and in mode RSR the generator of lane 0 steps once for a rounding
(R231, R234). A compare sets NV for a NaN, and writes its pair or pushes its bit as CMP does; with the
queue full FCMPQ waits and changes nothing. -/
def Obligations.FloatScalarResults : Prop :=
  ∀ (s : State) (g : BitVec 4) (d a b q : BitVec 6) (cond pair src dst : BitVec 3),
    let c0 := self s
    let gen := genStep (tblGet 0 c0.gens 0)
    let ctl := fmtctlCtl c0.fmtctl (genDraw gen)
    let code := fun (r : BitVec 6) => (sv s r).toNat % 2 ^ 32
    let val := fun (r : BitVec 6) => ffRead .f32 ctl.ftz (code r)
    let gives := fun (i : Instr) (r : FpRes) (v : BitVec 64) => changesCell i s fun c =>
      wrS { c with
        gens := if r.rounded && decide (ctl.rm = .rsr) then tblSet 0 c0.gens 0 gen else c0.gens
        fmtctl := fmtctlOr c.fmtctl r.flags } d v
    let word := fun (i : Instr) (r : FpRes) => gives i r (BitVec.ofNat 64 r.code)
    let cmp := fcmpVal cond.toNat (val a) (val b)
    word (.fadd g d a b) (addVal .f32 ctl (val a) (val b))
    ∧ word (.fsub g d a b) (addVal .f32 ctl (val a) (negVal (val b)))
    ∧ word (.fmul g d a b) (mulVal .f32 ctl (val a) (val b))
    ∧ word (.fdiv g d a b) (divVal .f32 ctl (val a) (val b))
    ∧ word (.fma g d a b q) (fmaVal .f32 ctl (val a) (val b) (val q))
    ∧ word (.fmin g d a b) (minMaxCode .f32 ctl.ftz false (code a) (code b))
    ∧ word (.fmax g d a b) (minMaxCode .f32 ctl.ftz true (code a) (code b))
    ∧ (convScalar src dst = true →
        let r := convertCode (cvtType src) (cvtType dst) ctl ((sv s a).toNat % 2 ^ fmtBits (cvtType src))
        gives (.fcvt g d a src dst) r
          (if dst = 4 then (BitVec.ofNat 32 r.code).signExtend 64 else BitVec.ofNat 64 r.code))
    ∧ (cond.toNat ≤ 6 → changesCell (.fcmp g cond pair a b) s fun c =>
        wrPair { c with fmtctl := fmtctlOr c.fmtctl cmp.2 } pair cmp.1)
    ∧ (cond.toNat ≤ 6 → c0.cq.length < 16 → changesCell (.fcmpq g cond a b) s fun c =>
        { c with fmtctl := fmtctlOr c.fmtctl cmp.2, cq := c.cq ++ [cmp.1] })
    ∧ (16 ≤ c0.cq.length → ready (.fcmpq g cond a b) s = true → exec (.fcmpq g cond a b) s = .next s)

/-! ### Class 2: control -/

/-- A branch to a target inside the 52-bit space: BR, CALL with its return address in s63, BRR and CALLR, which reads its
register before it writes s63, LOOP on its counter and LCSET (R302, R303, R304).
The target of a branch that is taken, outside the 52-bit space, raises PAGE of kind fetch with TRAPADDR the target: of BR,
CALL, BRR, CALLR, LOOP, BRQ and BRQN; a register target whose low bits are not zero raises ALIGN with INFO 4; a fault of the
fetch of the next bundle is raised by CALL and CALLR; in no case does the group commit (R283, R302, R303, R304). -/
def Obligations.BranchAndLoopResults : Prop :=
  (
  ∀ (s : State) (g : BitVec 4) (off : BitVec 26) (a : BitVec 6) (n : BitVec 2) (loff : BitVec 24),
    let jump := fun (pc : BitVec 64) (c : Cell) => { c with pc := pc, branched := true }
    let near := s.iss.addr + BitVec.ofInt 64 (off.toInt * 4)
    let nearLoop := s.iss.addr + BitVec.ofInt 64 (loff.toInt * 4)
    let x := sv s a
    let v := rdLc (self s) n
    (near.toNat < 2 ^ 52 → changesCell (.br g off) s (jump near))
    ∧ (near.toNat < 2 ^ 52 → s.iss.nextFault = none →
        changesCell (.call g off) s fun c => jump near (wrS c 63 s.iss.next))
    ∧ (x.toNat < 2 ^ 52 → x.toNat % 4 = 0 → changesCell (.brr g a) s (jump x))
    ∧ (x.toNat < 2 ^ 52 → x.toNat % 4 = 0 → s.iss.nextFault = none →
        changesCell (.callr g a) s fun c => jump x (wrS c 63 s.iss.next))
    ∧ (1 < v.toNat → nearLoop.toNat < 2 ^ 52 →
        changesCell (.loop g n loff) s fun c => jump nearLoop (wrLc c n (BitVec.ofNat 64 (v.toNat - 1))))
    ∧ (v.toNat ≤ 1 → changesCell (.loop g n loff) s fun c => wrLc c n 0)
    ∧ changesCell (.lcset g n a) s (fun c => wrLc c n x))
  ∧ (
  ∀ (s : State) (g : BitVec 4) (off : BitVec 26) (a : BitVec 6) (n : BitVec 2) (loff : BitVec 24),
    let near := s.iss.addr + BitVec.ofInt 64 (off.toInt * 4)
    let nearLoop := s.iss.addr + BitVec.ofInt 64 (loff.toInt * 4)
    let x := sv s a
    (2 ^ 52 ≤ near.toNat → raisesTrap (.br g off) s ⟨0x12, near, 0, 0, 3, false⟩)
    ∧ (2 ^ 52 ≤ near.toNat → s.iss.nextFault = none → raisesTrap (.call g off) s ⟨0x12, near, 0, 0, 3, false⟩)
    ∧ (x.toNat % 4 ≠ 0 → raisesTrap (.brr g a) s ⟨0x10, x, 0, 0, 4, false⟩)
    ∧ (x.toNat % 4 ≠ 0 → raisesTrap (.callr g a) s ⟨0x10, x, 0, 0, 4, false⟩)
    ∧ (x.toNat % 4 = 0 → 2 ^ 52 ≤ x.toNat → raisesTrap (.brr g a) s ⟨0x12, x, 0, 0, 3, false⟩)
    ∧ (x.toNat % 4 = 0 → 2 ^ 52 ≤ x.toNat → raisesTrap (.callr g a) s ⟨0x12, x, 0, 0, 3, false⟩)
    ∧ (1 < (rdLc (self s) n).toNat → 2 ^ 52 ≤ nearLoop.toNat → raisesTrap (.loop g n loff) s ⟨0x12, nearLoop, 0, 0, 3, false⟩)
    ∧ (∀ r, (self s).cq = true :: r → 2 ^ 52 ≤ near.toNat → raisesTrap (.brq g off) s ⟨0x12, near, 0, 0, 3, false⟩)
    ∧ (∀ r, (self s).cq = false :: r → 2 ^ 52 ≤ near.toNat → raisesTrap (.brqn g off) s ⟨0x12, near, 0, 0, 3, false⟩)
    ∧ (∀ t, s.iss.nextFault = some t → raisesTrap (.call g off) s t)
    ∧ (∀ t, s.iss.nextFault = some t → x.toNat % 4 = 0 → x.toNat < 2 ^ 52 → raisesTrap (.callr g a) s t))

/-- BRQ and BRQN pop the head of the condition queue and branch where it is 1 or 0, to a target inside the 52-bit space; a branch
that is not taken looks at no target; on an empty queue the cell enters WAIT and the group issues later (R135, R276, R302). -/
def Obligations.QueueBranchResults : Prop :=
  ∀ (s : State) (g : BitVec 4) (off : BitVec 26) (h : Bool) (r : List Bool),
    let near := s.iss.addr + BitVec.ofInt 64 (off.toInt * 4)
    let popped := fun (taken : Bool) (c : Cell) =>
      if taken then { c with cq := r, pc := near, branched := true } else { c with cq := r }
    ((self s).cq = h :: r → (h = true → near.toNat < 2 ^ 52) → changesCell (.brq g off) s (popped h))
    ∧ ((self s).cq = h :: r → (h = false → near.toNat < 2 ^ 52) → changesCell (.brqn g off) s (popped !h))
    ∧ ((self s).cq = [] → ready (.brq g off) s = true →
        exec (.brq g off) s = .next (modCell s s.iss.key (enterWait s.pkg.gtime.toNat none)))
    ∧ ((self s).cq = [] → ready (.brqn g off) s = true →
        exec (.brqn g off) s = .next (modCell s s.iss.key (enterWait s.pkg.gtime.toNat none)))

/-- A member of a barrier arrives at it when its group commits: it waits, and its arrival stands while another member is
missing; the last arrival completes the barrier, whose arrivals are cleared, and every member that waits there and nowhere else
runs again; a cell that is no member raises ILLOP with the barrier's number (R142, R305). An arrival follows the cell's own
pending accesses (log 43): here it has none. -/
def Obligations.BarrierArrival : Prop :=
  ∀ (s : State) (g : BitVec 4) (b : BitVec 3) (i : Nat),
    let c := self s
    let team := teamKey c.ctx c.team
    ready (.barw g b) s = true →
    (isMember s c.ctx (144 + 2 * b.toNat) c.cell = true → c.accesses = [] → c.run = .run → c.arriving = [] →
      i < 16 → bitOf (barrierMembers s c.ctx c.team b.toNat) i = true → i ≠ c.cell →
      bitOf (tblGet 0 (getTeam s team).barriers b.toNat) i = false →
      ∃ t, exec (.barw g b) s = .next t ∧ (self t).run = .wait ∧ (self t).arrived = true ∧ (self t).pc = s.iss.next
        ∧ tblGet 0 (getTeam t team).barriers b.toNat = tblGet 0 (getTeam s team).barriers b.toNat ||| 2 ^ c.cell)
    ∧ (∀ m, isMember s c.ctx (144 + 2 * b.toNat) c.cell = true → c.accesses = [] → c.run = .run → c.arriving = [] →
      (getTeam s team).barriers = tblSet 0 [] b.toNat m → (getTeam s team).steps = [] →
      (∀ j, j < 16 → bitOf (barrierMembers s c.ctx c.team b.toNat) j = true → j = c.cell ∨ bitOf m j = true) →
      ∃ t, exec (.barw g b) s = .next t ∧ tblGet 0 (getTeam t team).barriers b.toNat = 0
        ∧ ∀ k ∈ (getTeam s team).seats, (k = s.iss.key ∨ (bitOf m (getCell s k).cell = true ∧ (getCell s k).run = .wait
            ∧ (getCell s k).ctx = c.ctx ∧ (getCell s k).team = c.team ∧ (getCell s k).arriving = [])) →
          (getCell t k).run = .run ∧ (getCell t k).arrived = false)
    ∧ (isMember s c.ctx (144 + 2 * b.toNat) c.cell = false →
      exec (.barw g b) s = .next (trapped s ⟨0x01, 0, 0, 0, BitVec.ofNat 32 b.toNat, false⟩))

/-- YIELD does nothing unless one is asked for and no trap is being handled; otherwise it waits for the cell's engines, commits,
and stops the cell at the group after it (R306). HALT raises what has faulted, engine operations in issue order, each once
every earlier one has completed (of the other deferred traps R307 states no place among them: they come first, log 10), waits
until everything of the cell has completed and nothing is pending, then commits and halts the cell: its run becomes HALTED and
its bit of the team is set, while another cell of the team has not halted (R135, R136, R307). -/
def Obligations.YieldAndHaltResults : Prop :=
  ∀ (s : State) (g : BitVec 4),
    let c := self s
    let k := s.iss.key
    (c.yreq = false ∨ c.busy = true → hasEffect (.yield g) s id)
    ∧ (c.yreq = true → c.busy = false → c.copies = [] → c.pubs = [] → cmdsLive c = false → ready (.yield g) s = true →
        exec (.yield g) s = .next (modCell (commitEff s id) k fun c =>
          { c with run := .stopped, stopBeat := s.pkg.beat, stopTime := s.pkg.gtime }))
    ∧ (c.yreq = true → c.busy = false → (c.copies ≠ [] ∨ c.pubs ≠ [] ∨ cmdsLive c = true) → ready (.yield g) s = true →
        exec (.yield g) s = .next s)
    ∧ (firstEvent k c = none → firstUnraised s k = none → cellDrained c = true → ready (.halt g) s = true →
        exec (.halt g) s = .next (haltCell (commitEff s id) k)
        ∧ (∀ i, i < ncell s c.ctx → i ≠ c.cell → bitOf (getTeam s (teamKey c.ctx c.team)).halted i = false →
          let t := haltCell (commitEff s id) k
          (getCell t k).run = .halted ∧ bitOf (getTeam t (teamKey c.ctx c.team)).halted c.cell = true))
    ∧ (firstEvent k c = none → firstUnraised s k = none → cellDrained c = false → ready (.halt g) s = true →
        exec (.halt g) s = .next s)
    ∧ (∀ u, firstEvent k c = some u → ready (.halt g) s = true →
        exec (.halt g) s = .next (u.clear (takeTrap s k u.trap s.iss.group 0 true)))
    ∧ (∀ u, firstEvent k c = none → firstUnraised s k = some u → ready (.halt g) s = true →
        (earlierLive c u.order = false → exec (.halt g) s = .next (u.clear (takeTrap s k u.trap s.iss.group 0 true)))
        ∧ (earlierLive c u.order = true → exec (.halt g) s = .next s))
    ∧ (∀ u, firstUnraised s k = some u →
        ∀ v ∈ c.rings.flatMap (fun e => ringUnraised k e.1 e.2) ++ cmdUnraised k c ++ queueUnraised k c ++ copyUnraised s k,
          u.order ≤ v.order)

/-- SYSCALL commits its group and takes a SYSCALL trap whose TRAPPC names the next group and whose INFO is the code (R308).
ERET in supervisor mode returns to the mode PM and the address in TRAPPC and clears BUSY; the other trap registers keep
their values (R309).
ERET in user mode, and MFSR or MTSR of a register that the mode does not allow, raise PRIV with the slot word; MTSR to CTXID,
CELLID, CBEAT, GTIME and CQSTAT raises it in either mode (R278, R309, R310). -/
def Obligations.SyscallReturnAndPrivilegeTraps : Prop :=
  (
  (
  ∀ (s : State) (g : BitVec 4) (code : BitVec 20), ready (.syscall g code) s = true → s.iss.nextFault = none →
    exec (.syscall g code) s =
      .next (takeTrap (commitEff s id) s.iss.key ⟨0x3F, 0, 0, 0, code.setWidth 32, false⟩ s.iss.next
        (trapMask [s.iss.idx]) false))
  ∧ (
  ∀ (s : State) (g : BitVec 4), ready (.eret g) s = true → (self s).super = true →
    ∃ t, exec (.eret g) s = .next t ∧ (self t).super = (self s).pm ∧ (self t).busy = false
      ∧ (self t).pc = (self s).trappc &&& 0x000FFFFFFFFFFFFC#64
      ∧ (self t).watchSkip = decide ((self s).cause = 0x38)
      ∧ (self t).trappc = (self s).trappc ∧ (self t).trapslot = (self s).trapslot ∧ (self t).trapaddr = (self s).trapaddr
      ∧ (self t).trapaux = (self s).trapaux ∧ (self t).cause = (self s).cause ∧ (self t).pm = (self s).pm
      ∧ (self t).s = (self s).s ∧ (self t).p = (self s).p ∧ t.mem = s.mem))
  ∧ (
  ∀ (s : State) (g : BitVec 4) (d : BitVec 6) (num : BitVec 12),
    let priv : TrapInfo := ⟨0x05, 0, 0, 0, s.iss.word, false⟩
    let user := (self s).super = false
    (user → raisesTrap (.eret g) s priv)
    ∧ (user → 0x020 ≤ num.toNat → raisesTrap (.mfsr g d num) s priv)
    ∧ (num.toNat = 0x000 ∨ num.toNat = 0x001 ∨ num.toNat = 0x006 ∨ num.toNat = 0x007 ∨ num.toNat = 0x009 →
        raisesTrap (.mtsr g d num) s priv)
    ∧ (user → num.toNat = 0x002 ∨ num.toNat = 0x004 ∨ 0x010 ≤ num.toNat → raisesTrap (.mtsr g d num) s priv)
    ∧ (user → raisesTrap (.mtsrTrapcauseHost g d) s priv))

/-- Taking a trap with TVEC.EN set and BUSY clear saves the group's address, the slot, the address, AUX and the cause, moves the
mode to PM, sets BUSY, enters supervisor mode at TVEC.ADDR, and leaves the register files, the
condition queue, FMTCTL, TVEC, the bank bytes, the rings, memory and every other cell alone (R242, R243, R245).
With TVEC.EN clear, or with BUSY set, a trap goes to the host: CTX_FAULT is posted with the registers that the trap would
have set, the cell issues nothing more, and its registers stay (R245). -/
def Obligations.TrapEntryResults : Prop :=
  (
  ∀ (s : State) (k : Nat) (t : TrapInfo) (pc : BitVec 64) (mask : BitVec 8) (deferred : Bool),
    let c := getCell s k
    let d := getCell (takeTrap s k t pc mask deferred) k
    c.tvec.getLsbD 0 = true → c.busy = false →
    d.trappc = pc &&& 0x000FFFFFFFFFFFFC#64 ∧ d.trapslot = mask ∧ d.trapaddr = t.addr ∧ d.cause = t.cause
    ∧ d.trapaux = BitVec.ofNat 64 (t.src.toNat * 2 ^ 60 + t.opid.toNat * 2 ^ 32 + t.info.toNat)
    ∧ d.defer = deferred ∧ d.engine = t.engine ∧ d.pm = c.super ∧ d.busy = true ∧ d.super = true
    ∧ d.pc = c.tvec &&& 0x000FFFFFFFFFFFFC#64
    ∧ d.s = c.s ∧ d.p = c.p ∧ d.v = c.v ∧ d.m = c.m ∧ d.a = c.a ∧ d.mp = c.mp ∧ d.lc = c.lc ∧ d.xp = c.xp
    ∧ d.fmtctl = c.fmtctl ∧ d.cq = c.cq ∧ d.tvec = c.tvec ∧ d.bytes = c.bytes ∧ d.rings = c.rings
    ∧ (takeTrap s k t pc mask deferred).mem = s.mem
    ∧ ∀ j, j ≠ k → getCell (takeTrap s k t pc mask deferred) j = getCell s j)
  ∧ (
  ∀ (s : State) (k : Nat) (t : TrapInfo) (pc : BitVec 64) (mask : BitVec 8) (deferred : Bool),
    let c := getCell s k
    c.tvec.getLsbD 0 = false ∨ c.busy = true →
    takeTrap s k t pc mask deferred =
      modCell (postHost s ⟨0x0001, BitVec.ofNat 16 t.cause.toNat, some c.ctx,
        ctxFaultBody (k / 2) c.team c.cell pc t.addr
          (BitVec.ofNat 64 (t.src.toNat * 2 ^ 60 + t.opid.toNat * 2 ^ 32 + t.info.toNat))⟩) k
        fun c => { c with issueStopped := true })

/-- MFSR writes the value of every system register as it stood before the group, write-only and reserved fields reading zero
(R130, R146, R174, R231, R242, R243, R278 to R282, R310). -/
def Obligations.SystemRegisterReads : Prop :=
  ∀ (s : State) (g : BitVec 4) (d : BitVec 6) (j : BitVec 4),
    let c := self s
    let k := s.iss.key
    let reads := fun (num : BitVec 12) (v : BitVec 64) => writesScalar (.mfsr g d num) s d v
    reads 0x000 (BitVec.ofNat 64 (bit01 (getCtx s c.ctx).prot * 2 ^ 12 + c.ctx % 2 ^ 12))
    ∧ reads 0x001 (BitVec.ofNat 64
        (k / 2 * 2 ^ 32 + k % 2 * 2 ^ 31 + c.stage % 16 * 2 ^ 20 + c.cell % 16 * 2 ^ 16 + c.team % 65536))
    ∧ reads 0x002 c.stepcnt
    ∧ reads 0x003 (c.fmtctl &&& 0xFFFFFFFF00001F67#64)
    ∧ reads 0x004 (BitVec.ofNat 64 (bit01 c.yreq * 2 ^ 63 + c.thresh.toNat))
    ∧ reads 0x005 (BitVec.ofNat 64
        (c.latBeat.toNat * 2 ^ 32 + 4 * bit01 c.latColl + 2 * bit01 (!c.latches.isEmpty) + bit01 c.latFilled))
    ∧ reads 0x006 s.pkg.beat
    ∧ reads 0x007 s.pkg.gtime
    ∧ reads 0x008 c.evsel
    ∧ reads 0x009 (BitVec.ofNat 64 (maskOf (fun i => c.cq.getD i false) 16 * 2 ^ 16 + c.cq.length))
    ∧ (c.super = true →
        reads (0x010#12 + j.setWidth 12) (tblGet 0 c.evcnt j.toNat)
        ∧ reads 0x020 c.tvec ∧ reads 0x021 c.trappc
        ∧ reads 0x022 (BitVec.ofNat 64 (bit01 c.busy * 2 ^ 62 + bit01 c.pm * 2 ^ 61 + bit01 c.defer * 2 ^ 60
            + bit01 c.engine * 2 ^ 59 + c.cause.toNat))
        ∧ reads 0x023 (BitVec.ofNat 64 c.trapslot.toNat)
        ∧ reads 0x024 c.trapaddr ∧ reads 0x025 c.trapaux ∧ reads 0x028 c.watcha ∧ reads 0x029 c.watchc)

/-- MTSR writes every field under its access code: fields that only the machine writes keep their values, a flag clears where 1
is written, reserved bits stay zero (R9, R174, R231, R242, R243, R310). Seeding and handing a trap to the host follow. -/
def Obligations.SystemRegisterWrites : Prop :=
  ∀ (s : State) (g : BitVec 4) (a : BitVec 6) (j : BitVec 4),
    let v := sv s a
    let k := s.iss.key
    let writes := fun (num : BitVec 12) (f : Cell → Cell) => changesCell (.mtsr g a num) s f
    writes 0x005 (fun c => { c with latColl := c.latColl && !v.getLsbD 2 })
    ∧ writes 0x008 (fun c => { c with evsel := v })
    ∧ (v.getLsbD 7 = false → changesCell (.mtsrFmtctlSeedw g a) s fun c =>
        { c with fmtctl := (v &&& 0xFFFFFFFF00000067#64) ||| (c.fmtctl &&& 0x1F00#64 &&& ~~~v) })
    ∧ (v.getLsbD 7 = true → changesCell (.mtsrFmtctlSeedw g a) s fun c =>
        { c with
          fmtctl := (v &&& 0xFFFFFFFF00000067#64) ||| (c.fmtctl &&& 0x1F00#64 &&& ~~~v)
          gens := seedGens (v.toNat / 2 ^ 32) c.team c.cell })
    ∧ ((self s).super = true →
        writes 0x002 (fun c => { c with stepcnt := v })
        ∧ writes 0x004 (fun c => { c with thresh := v.setWidth 32 })
        ∧ writes (0x010#12 + j.setWidth 12) (fun c => { c with evcnt := tblSet 0 c.evcnt j.toNat v })
        ∧ writes 0x020 (fun c => { c with tvec := v &&& 0x000FFFFFFFFFFFFD#64 })
        ∧ writes 0x021 (fun c => { c with trappc := v &&& 0x000FFFFFFFFFFFFC#64 })
        ∧ writes 0x023 (fun c => { c with trapslot := v.setWidth 8 })
        ∧ writes 0x024 (fun c => { c with trapaddr := v })
        ∧ writes 0x025 (fun c => { c with trapaux := v &&& 0xF000FFFFFFFFFFFF#64 })
        ∧ writes 0x028 (fun c => { c with watcha := v &&& 0x000FFFFFFFFFFFFF#64 })
        ∧ writes 0x029 (fun c => { c with watchc := v &&& 0x1FF#64 })
        ∧ (v.getLsbD 63 = false → changesCell (.mtsrTrapcauseHost g a) s fun c =>
            { c with busy := v.getLsbD 62, pm := v.getLsbD 61, cause := v.setWidth 8 })
        ∧ (v.getLsbD 63 = true → ready (.mtsrTrapcauseHost g a) s = true →
            exec (.mtsrTrapcauseHost g a) s = .next (handTrap (commitCell s fun c =>
              { c with busy := v.getLsbD 62, pm := v.getLsbD 61, cause := v.setWidth 8 }) k)))

/-- TDSET of a sound image writes it, stamped VALID with the next generation, to the slot's table entry as the device does,
takes the slot from every descriptor cache of the context and answers the new handle; TDINV of a live handle clears VALID and
moves the generation on; TDGET answers bits [511:448] of a live descriptor, and stores its 64 bytes in class 0 unless its
address register is s0 (R312 to R315). The entry written reads back as its 64 bytes wherever memory is present, and no core's
descriptor cache holds the slot of the context any more (R176). -/
def Obligations.DescriptorInstructionResults : Prop :=
  ∀ (s : State) (g : BitVec 4) (d a b : BitVec 6) (l : Leaf) (old e : Desc) (pa : Nat),
    let k := s.iss.key
    let ctx := (self s).ctx
    let slot := (sv s a).toNat % 4096
    let h : BitVec 32 := (sv s a).setWidth 32
    let image := imageCheck s k (sv s b) .read
    let read := readImage (image.2 s) k (leafPa l (sv s b).toNat) (leafClvl l.bits) (leafEvp l.bits)
    let img : Desc := BitVec.ofNat 512 (ofBytes read.2.1)
    let entry := entryCheck read.1 k slot
    let named := tdt s k h
    let entry2 := entryCheck (named.2 s) k (h.toNat % 4096)
    let room := imageCheck (named.2 s) k (sv s b) .write
    let puts := fun (t : State) (slot : Nat) (d2 : Desc) => commitEff t fun t =>
      modCell (putEntry t ctx slot pa d2) k fun c => wrS c d (BitVec.ofNat 64 (slot + nextGen (dGen old) * 4096))
    (image.1 = .ok l → classPending (self s) 0 = false → fencePending (self s) ((self s).groupNo + 1) = false → read.2.2 = false → dGood img = true →
      entry.1 = .ok (old, pa) → ready (.tdset g d a b) s = true →
      exec (.tdset g d a b) s = .next (puts (entry.2 read.1) slot (dStamp img true (nextGen (dGen old)))))
    ∧ (named.1 = .ok e → entry2.1 = .ok (old, pa) → ready (.tdinv g d a) s = true →
      exec (.tdinv g d a) s =
        .next (puts (entry2.2 (named.2 s)) (h.toNat % 4096) (dStamp old false (nextGen (dGen old)))))
    ∧ (named.1 = .ok e → ready (.tdget g d a 0) s = true →
      exec (.tdget g d a 0) s =
        .next (commitEff (named.2 s) fun t => modCell t k fun c => wrS c d (e.extractLsb' 448 64)))
    ∧ (named.1 = .ok e → b ≠ 0 → room.1 = .ok l → ready (.tdget g d a b) s = true →
      exec (.tdget g d a b) s = .next (commitEff (room.2 (named.2 s)) fun t => modCell t k fun c =>
        storeImage (wrS c d (e.extractLsb' 448 64)) (sv s b) l e))
    ∧ (∀ (t : State) (q n : Nat) (d2 : Desc),
      (∀ core, tblGet none (getCore (putEntry t n slot q d2) core).dcache (4096 * n + slot) = none)
      ∧ (q % 64 = 0 → physLost t q = false → physKind t q ≠ .hole → (∀ i, i < 64 → physKind t (q + i) = physKind t q) →
        ∀ i, i < 64 → physByte (putEntry t n slot q d2) (q + i) = d2.extractLsb' (8 * i) 8))

/-- An operation whose guard is false commits without effect (R274); while a register that it reads or writes waits for a value
its group waits (R273); where it reads a poisoned register it raises POISON with the register's number in its file (R260).
This holds of every Sikan instruction; registers are counted as R271 lists them: s0 to s63, p0 to p15, m0 to m15, v0 to v63,
then mp, lc and xp. -/
def Obligations.GuardScoreboardAndPoison : Prop :=
  ∀ (s : State) (i : Instr), (encodeSlot i).isSome = true →
    let number := fun (n : Nat) =>
      if n < 64 then n else if n < 80 then n - 64 else if n < 96 then n - 80 else if n < 160 then n - 96
      else if n < 232 then n - 224 else if n < 236 then n - 232 else n - 236
    (guardTrue (self s) i = false → exec i s = .next (commitEff s id))
    ∧ (guardTrue (self s) i = true → scoreBlocked (self s) i = true → exec i s = .next s)
    ∧ (∀ n, guardTrue (self s) i = true → scoreBlocked (self s) i = false → poisonRead (self s) i = some n →
        exec i s = .next (trapped s ⟨0x31, 0, 0, 0, BitVec.ofNat 32 (number n), false⟩))

/-! ### Classes 3 and 4: vectors -/

/-- The element-wise instructions on one, two or three vector registers compute their function on every element whose lane is
active, read from the registers before the group; the others keep their bits (R317, R319 to R323, R335). Of the functions of
R335 the special values, the exact cases and the limits of R336 are said outright; the others draw from no generator, and without
FTZ give a code that is within the bound or is the value rounded: which, is the model's free choice (log 8). -/
def Obligations.VectorElementwiseResults : Prop :=
  ∀ (s : State) (g : BitVec 4) (d a b q : BitVec 6) (ty k : BitVec 4) (k2 : BitVec 2),
    let c0 := self s
    let m := rdM c0 k.toNat
    let w := fmtBits (vecType ty)
    let el := fun (r : BitVec 6) (i : Nat) => elemAt c0 r w i
    let each := fun (i : Instr) (f : Nat → FpCtl → FpRes) => changesCell i s (vecLoop c0 d m w w (2048 / w) f)
    let lanes := fun (i : Instr) (f : Nat → BitVec 32) =>
      changesCell i s (vecLoop c0 d m 32 32 64 fun l _ => exactRes (f l).toNat fpNone)
    let two := fun (i : Instr) (ff : FFmt → FpCtl → FVal → FVal → FpRes) (fi : Int → Int → Int) =>
      each i fun j ctl => arith ff fi (vecType ty) ctl (el a j) (el b j)
    let fused := fun (i : Instr) (f : FFmt) =>
      changesCell i s (vecLoop c0 d (rdM c0 k2.toNat) (ffWidth f) (ffWidth f) (2048 / ffWidth f) fun j ctl =>
        let x := fun (r : BitVec 6) => ffRead f ctl.ftz (elemAt c0 r (ffWidth f) j)
        fmaVal f ctl (x a) (x b) (x q))
    let fun1 := fun (i : Instr) (f : FFmt → Bool → Nat → FpRes) => each i fun j ctl => match vecType ty with
      | .flt g => f g ctl.ftz (el a j)
      | .int _ => exactRes 0 fpNone
    two (.vadd g d a b ty k) addVal (fun x y => x + y)
    ∧ two (.vsub g d a b ty k) (fun f ctl x y => addVal f ctl x (negVal y)) (fun x y => x - y)
    ∧ two (.vmul g d a b ty k) mulVal (fun x y => x * y)
    ∧ each (.vdiv g d a b ty k) (fun j ctl => vdivElem (vecType ty) ctl (el a j) (el b j))
    ∧ each (.vmin g d a b ty k) (fun j ctl => pickElem false (vecType ty) ctl (el a j) (el b j))
    ∧ each (.vmax g d a b ty k) (fun j ctl => pickElem true (vecType ty) ctl (el a j) (el b j))
    ∧ each (.vaddS g d a b ty k) (fun j ctl => satElem (fun x y => x + y) (vecType ty) ctl (el a j) (el b j))
    ∧ each (.vsubS g d a b ty k) (fun j ctl => satElem (fun x y => x - y) (vecType ty) ctl (el a j) (el b j))
    ∧ each (.vshl g d a b ty k) (fun j ctl => shiftElem true (vecType ty) ctl (el a j) (el b j))
    ∧ each (.vshr g d a b ty k) (fun j ctl => shiftElem false (vecType ty) ctl (el a j) (el b j))
    ∧ each (.vabs g d a ty k) (fun j ctl => signElem false (vecType ty) ctl (el a j))
    ∧ each (.vneg g d a ty k) (fun j ctl => signElem true (vecType ty) ctl (el a j))
    ∧ lanes (.vand g d a b ty k) (fun l => rdV c0 a l &&& rdV c0 b l)
    ∧ lanes (.vor g d a b ty k) (fun l => rdV c0 a l ||| rdV c0 b l)
    ∧ lanes (.vxor g d a b ty k) (fun l => rdV c0 a l ^^^ rdV c0 b l)
    ∧ lanes (.vmov g d a ty k) (fun l => rdV c0 a l)
    ∧ fused (.vfmaF32 g d a b q k2) .f32
    ∧ fused (.vfmaBf16 g d a b q k2) .bf16
    ∧ fun1 (.vexp2 g d a ty k) exp2Val
    ∧ fun1 (.vlog2 g d a ty k) log2Val
    ∧ fun1 (.vrcp g d a ty k) rcpVal
    ∧ fun1 (.vrsqrt g d a ty k) rsqrtVal
    ∧ fun1 (.vtanh g d a ty k) tanhVal
    ∧ each (.vsqrt g d a ty k) (fun j ctl => match vecType ty with
      | .flt g => sqrtVal g ctl (ffRead g ctl.ftz (el a j))
      | .int _ => exactRes 0 fpNone)
    ∧ (∀ (f : FFmt) (ftz : Bool) (code : Nat) (ctl : FpCtl), f = .f32 ∨ f = .bf16 →
      let v := ffRead f ftz code
      let sign := fun (n : Bool) => if n then 2 ^ (ffWidth f - 1) else 0
      let pow2 := fun (j : Int) => (j + (ffBias f : Int)).toNat * 2 ^ ffManBits f
      let lanes := [exp2Val, log2Val, rcpVal, rsqrtVal, tanhVal]
      let bad : FpRes := ⟨ffNaN f, fpNV, false⟩
      let near := fun (n : Nat) (absE : Option Int) (x : Approx) (r : FpRes) =>
        codeWithin f n absE x r.code = true ∨ r.code = (roundTo f plainCtl x.neg x.num x.den x.e).code
      let ulps := if f = .f32 then 2 else 1
      let small : Option Int := some (if f = .f32 then -24 else -9)
      (∀ h ∈ lanes, (h f ftz code).rounded = false)
      ∧ (v = .nan → (∀ h ∈ lanes, h f ftz code = bad) ∧ sqrtVal f ctl v = bad)
      ∧ (v = .inf false → exp2Val f ftz code = ⟨ffInf f, fpNone, false⟩ ∧ log2Val f ftz code = ⟨ffInf f, fpNone, false⟩
        ∧ rcpVal f ftz code = ⟨0, fpNone, false⟩ ∧ rsqrtVal f ftz code = ⟨0, fpNone, false⟩
        ∧ tanhVal f ftz code = ⟨pow2 0, fpNone, false⟩ ∧ sqrtVal f ctl v = ⟨ffInf f, fpNone, false⟩)
      ∧ (v = .inf true → exp2Val f ftz code = ⟨0, fpNone, false⟩ ∧ log2Val f ftz code = bad
        ∧ rcpVal f ftz code = ⟨sign true, fpNone, false⟩ ∧ rsqrtVal f ftz code = bad
        ∧ tanhVal f ftz code = ⟨sign true + pow2 0, fpNone, false⟩ ∧ sqrtVal f ctl v = bad)
      ∧ (∀ n e, v = .fin n 0 e → exp2Val f ftz code = ⟨pow2 0, fpNone, false⟩
        ∧ log2Val f ftz code = ⟨sign true + ffInf f, fpDZ, false⟩ ∧ rcpVal f ftz code = ⟨sign n + ffInf f, fpDZ, false⟩
        ∧ rsqrtVal f ftz code = ⟨sign n + ffInf f, fpDZ, false⟩ ∧ tanhVal f ftz code = ⟨sign n, fpNone, false⟩
        ∧ (sqrtVal f ctl v).code = sign n ∧ (sqrtVal f ctl v).flags = fpNone)
      ∧ (∀ m e, v = .fin true m e → m ≠ 0 →
        log2Val f ftz code = bad ∧ rsqrtVal f ftz code = bad ∧ sqrtVal f ctl v = bad)
      ∧ (∀ n m e, v = .fin n m e → m ≠ 0 →
        let num := (scaleFrac m 1 e).1
        let den := (scaleFrac m 1 e).2
        let low := if f = .f32 then 150 else 134
        (n = false → 128 * den ≤ num → exp2Val f ftz code = ⟨ffInf f, ⟨true, false, true, false, false⟩, false⟩)
        ∧ (n = true → low * den < num → exp2Val f ftz code = ⟨0, ⟨true, true, false, false, false⟩, false⟩)
        ∧ (∀ j : Int, -126 ≤ j → j ≤ 127 → num = j.natAbs * den → n = decide (j < 0) →
          exp2Val f ftz code = ⟨pow2 j, fpNone, false⟩)
        ∧ (∀ i : Nat, n = false → m = 2 ^ i → (log2Val f ftz code).flags = fpNone
          ∧ codeWithin f 0 none ⟨decide ((i : Int) + e < 0), ((i : Int) + e).natAbs, 1, 0, true⟩ (log2Val f ftz code).code = true)
        ∧ (∀ i : Nat, m = 2 ^ i → 1 - (ffBias f : Int) ≤ -(i + e) → -(i + e) ≤ (ffBias f : Int) →
          rcpVal f ftz code = ⟨sign n + pow2 (-(i + e)), fpNone, false⟩)
        ∧ (∀ (i : Nat) (j : Int), n = false → m = 2 ^ i → (i : Int) + e = 2 * j → rsqrtVal f ftz code = ⟨pow2 (-j), fpNone, false⟩)
        ∧ (10 * den ≤ num → tanhVal f ftz code = ⟨sign n + pow2 0, ⟨true, false, false, false, false⟩, false⟩)
        ∧ (num * 2 ^ 12 < den → (tanhVal f ftz code).code = code ∧ (tanhVal f ftz code).flags.nx = true)
        ∧ (ftz = false → (n = false → num < 128 * den) → (n = true → num ≤ low * den) →
          (∀ j : Int, -126 ≤ j → j ≤ 127 → num ≠ j.natAbs * den) → near ulps none (approxExp2 n m e) (exp2Val f ftz code))
        ∧ (ftz = false → n = false → (∀ i : Nat, m ≠ 2 ^ i) → near ulps small (approxLog2 m e) (log2Val f ftz code))
        ∧ (ftz = false → (∀ i : Nat, m ≠ 2 ^ i) → near 1 none (approxRcp n m e) (rcpVal f ftz code))
        ∧ (ftz = false → n = false → (∀ i : Nat, m ≠ 2 ^ i) → near 1 none (approxRsqrt m e) (rsqrtVal f ftz code))
        ∧ (ftz = false → num < 10 * den → den ≤ num * 2 ^ 12 → near ulps small (approxTanh n m e) (tanhVal f ftz code))))

/-- The moves of lanes: VSEL takes every lane from one register or the other by the mask, VPERM and VROT rearrange the lanes of
one register, VBCAST, VSET and VGET pass elements between scalars and lanes, and the mask logic writes one mask
(R324, R326, R327, R328).
A vector compare writes a mask pair with the lanes on which its condition holds and the other active lanes, or pushes
whether it holds on any active lane; NaN operands of active lanes set NV and no other flag is set; with the condition queue
full VCMPQ waits and changes nothing (R275, R276, R325). -/
def Obligations.VectorMoveMaskAndCompareResults : Prop :=
  (
  ∀ (s : State) (g : BitVec 4) (d a b : BitVec 6) (ty k : BitVec 4) (x y z : BitVec 4),
    let c0 := self s
    let m := rdM c0 k.toNat
    let w := fmtBits (vecType ty)
    let n := (sv s b).toNat % (2048 / w)
    let lanes := fun (i : Instr) (f : Nat → BitVec 32) =>
      changesCell i s (vecLoop c0 d m 32 32 64 fun l _ => exactRes (f l).toNat fpNone)
    let mask := fun (i : Instr) (f : BitVec 64) => changesCell i s fun c => wrM c x.toNat f
    changesCell (.vsel g d a b ty k) s
        (fun c => wrVAll c d ((List.range 64).map fun l => if m.getLsbD l then rdV c0 a l else rdV c0 b l))
    ∧ lanes (.vperm g d a b ty k) (fun l => rdV c0 a ((rdV c0 b l).toNat % 64))
    ∧ lanes (.vrot g d a b ty k) (fun l => rdV c0 a ((l + 64 - (sv s b).toNat % 64) % 64))
    ∧ changesCell (.vbcast g d a ty k) s
        (vecLoop c0 d m w w (2048 / w) fun _ _ => exactRes ((sv s a).toNat % 2 ^ w) fpNone)
    ∧ (m.getLsbD (n * w / 32) = true → changesCell (.vset g d a b ty k) s fun c => putElem c d w n ((sv s a).toNat % 2 ^ w))
    ∧ (m.getLsbD (n * w / 32) = false → changesCell (.vset g d a b ty k) s id)
    ∧ (ty.toNat ∈ [0, 1, 3, 5, 7, 8, 9, 10, 11] → writesScalar (.vget g d a b ty) s d (BitVec.ofNat 64 (elemAt c0 a w n)))
    ∧ (ty.toNat ∈ [2, 4, 6] → writesScalar (.vget g d a b ty) s d
        (if elemAt c0 a w n < 2 ^ (w - 1) then BitVec.ofNat 64 (elemAt c0 a w n)
          else BitVec.ofInt 64 (elemAt c0 a w n - 2 ^ w)))
    ∧ mask (.mand g x y z) (rdM c0 y.toNat &&& rdM c0 z.toNat)
    ∧ mask (.mor g x y z) (rdM c0 y.toNat ||| rdM c0 z.toNat)
    ∧ mask (.mxor g x y z) (rdM c0 y.toNat ^^^ rdM c0 z.toNat)
    ∧ mask (.mandn g x y z) (rdM c0 y.toNat &&& ~~~(rdM c0 z.toNat)))
  ∧ (
  ∀ (s : State) (g : BitVec 4) (cond pair : BitVec 3) (a b : BitVec 6) (ty k : BitVec 4),
    let c0 := self s
    let m := rdM c0 k.toNat
    let ftz := (fmtctlCtl c0.fmtctl 0).ftz
    let lane := fun (l : Nat) => vcmpLane ty.toNat cond.toNat ftz (rdV c0 a l) (rdV c0 b l)
    (.vcmp g cond pair a b ty k : Instr).wf = true →
    let flags : FpFlags := ⟨false, false, false, false, (List.range 64).any fun l => m.getLsbD l && (lane l).2.nv⟩
    ∃ on : BitVec 64,
      (∀ l, l < 64 → on.getLsbD l = (m.getLsbD l && (lane l).1))
      ∧ changesCell (.vcmp g cond pair a b ty k) s (fun c =>
          wrM (wrM { c with fmtctl := fmtctlOr c.fmtctl flags } (2 * pair.toNat) on) (2 * pair.toNat + 1) (m &&& ~~~on))
      ∧ (c0.cq.length < 16 → changesCell (.vcmpq g cond a b ty k) s fun c =>
          { c with fmtctl := fmtctlOr c.fmtctl flags, cq := c.cq ++ [decide (on ≠ 0)] })
      ∧ (16 ≤ c0.cq.length → ready (.vcmpq g cond a b ty k) s = true → exec (.vcmpq g cond a b ty k) s = .next s))

/-- Conversions and block scales, reductions and the scan (R329 to R334): a narrowing conversion, VQNT and VBAMAX leave zero
lanes above their results; a reduction writes its one result into every element. -/
def Obligations.VectorConversionAndReductionResults : Prop :=
  ∀ (s : State) (g : BitVec 4) (d a b : BitVec 6) (ty ty2 k : BitVec 4),
    let c0 := self s
    let m := rdM c0 k.toNat
    let w := fmtBits (vecType ty)
    let wf := fmtBits (vecType ty2)
    let f := vecFloat ty
    let active := (List.range (2048 / w)).filter fun i => m.getLsbD (i * w / 32)
    let reduces := fun (i : Instr) (h : Fmt → FpCtl → List Nat → FpRes) => changesCell i s fun c =>
      let r := drawOn c.gens 0 c0.fmtctl fun ctl => h (vecType ty) ctl (active.map fun j => elemAt c0 a w j)
      healV (foldIndex (fun c j => putElem c d w j r.1.code)
        { c with gens := r.2, fmtctl := fmtctlOr c.fmtctl r.1.flags } 0 (2048 / w)) d true
    let conv := vecLoop c0 d m (max wf w) w (2048 / max wf w) fun j ctl =>
      convertCode (vecType ty2) (vecType ty) ctl (elemAt c0 a wf j)
    (wf ≤ w → changesCell (.vcvt g d a ty ty2 k) s conv)
    ∧ (w < wf → changesCell (.vcvt g d a ty ty2 k) s fun c => zeroLanes d (2048 / wf * w / 32) (conv c))
    ∧ changesCell (.vqnt g d a b ty k) s (fun c => zeroLanes d (2 * ffWidth f) (vecLoop c0 d m 32 (ffWidth f) 64
        (fun j ctl => quantElem f ctl (rdV c0 a j).toNat (elemAt c0 b 8 (j / 8))) c))
    ∧ changesCell (.vdqnt g d a b ty k) s (vecLoop c0 d m 32 32 64 fun j _ =>
        dequantElem f (elemAt c0 a (ffWidth f) j) (elemAt c0 b 8 (j / 8)))
    ∧ (let blocks := 2048 / ffWidth f / 8
      let val := blockMax c0 f a b m
      let lanes := (List.range 64).map fun j => if j < blocks then BitVec.ofNat 32 (exactCode .f32 (val j)) else 0
      ((∀ j, j < blocks → isNaNVal (val j) = false) → changesCell (.vbamax g d a b ty k) s fun c => wrVAll c d lanes)
      ∧ (∀ j, j < blocks → isNaNVal (val j) = true → changesCell (.vbamax g d a b ty k) s fun c =>
          wrVAll { c with fmtctl := fmtctlOr c.fmtctl fpNV } d lanes))
    ∧ reduces (.vrsum g d a ty k) sumElems
    ∧ reduces (.vrmax g d a ty k) (pickElems true)
    ∧ reduces (.vrmin g d a ty k) (pickElems false)
    ∧ changesCell (.vscan g d a ty k) s (vecLoop c0 d m 32 32 64 fun j ctl =>
        sumElems (vecType ty) ctl (((List.range (j + 1)).filter fun l => m.getLsbD l).map fun l => (rdV c0 a l).toNat))

/-- On 32-bit integers, lane by lane and under every mask: the sum, difference, product, minimum, maximum, saturated sum and
difference and the shifts of the active lanes, as the manual states them of two's-complement and unsigned words; an inactive lane,
and every other vector register, keeps its value (R223, R225, R317, R319 to R321). -/
def Obligations.VectorIntegerLanes : Prop :=
  ∀ (s : State) (g : BitVec 4) (d a b : BitVec 6) (k : BitVec 4) (signed : Bool),
    let c0 := self s
    let ty : BitVec 4 := if signed then 2 else 3
    let x := fun (l : Nat) => rdV c0 a l
    let y := fun (l : Nat) => rdV c0 b l
    let val := fun (v : BitVec 32) => if signed then v.toInt else (v.toNat : Int)
    let sat := fun (v : Int) => BitVec.ofInt 32 (if signed then max (-2 ^ 31) (min (2 ^ 31 - 1) v) else max 0 (min (2 ^ 32 - 1) v))
    let lanes := fun (i : Instr) (f : Nat → BitVec 32) => ready i s = true →
      ∃ t, exec i s = .next t
        ∧ (∀ l, l < 64 → rdV (self t) d l = if (rdM c0 k.toNat).getLsbD l then f l else rdV c0 d l)
        ∧ (∀ r l, r ≠ d → l < 64 → rdV (self t) r l = rdV c0 r l)
    lanes (.vadd g d a b ty k) (fun l => x l + y l)
    ∧ lanes (.vsub g d a b ty k) (fun l => x l - y l)
    ∧ lanes (.vmul g d a b ty k) (fun l => x l * y l)
    ∧ lanes (.vmin g d a b ty k) (fun l => if val (x l) ≤ val (y l) then x l else y l)
    ∧ lanes (.vmax g d a b ty k) (fun l => if val (x l) ≤ val (y l) then y l else x l)
    ∧ lanes (.vaddS g d a b ty k) (fun l => sat (val (x l) + val (y l)))
    ∧ lanes (.vsubS g d a b ty k) (fun l => sat (val (x l) - val (y l)))
    ∧ lanes (.vshl g d a b ty k) (fun l => x l <<< ((y l).toNat % 32))
    ∧ lanes (.vshr g d a b ty k) (fun l => BitVec.ofInt 32 (val (x l) / 2 ^ ((y l).toNat % 32)))

/-! ### The frame of classes 1, 3 and 4 -/

/-- What an instruction of classes 1, 3 and 4 leaves unchanged when no register it reads is poisoned: every register outside its
destinations; the flags of FMTCTL where it rounds and compares nothing, and FMTCTL's other bits always; the condition queue
unless it pushes; every trap, special, accumulator, matrix and copy register of its cell, its banks and engines; every other
cell; all of memory, and everything else in the package but the watchdog's count (R11, R277, R281). -/
def Obligations.RegisterInstructionFrame : Prop :=
  ∀ (s t : State) (i : Instr) (x : Slot), encodeSlot i = some x → x.cls = 1 ∨ x.cls = 3 ∨ x.cls = 4 →
    poisonRead (self s) i = none → exec i s = .next t →
    let c := self s
    let d := self t
    (∀ j, j ≠ s.iss.key → getCell t j = getCell s j)
    ∧ { t with cells := s.cells, teams := s.teams } = s
    ∧ cellBackdrop d = cellBackdrop c
    ∧ (∀ r : BitVec 6, r.toNat ∉ regWrites i → rdS d r = rdS c r ∧ tblGet false d.poisonS r.toNat = tblGet false c.poisonS r.toNat)
    ∧ (∀ n, n < 16 → 64 + n ∉ regWrites i → rdP d n = rdP c n)
    ∧ (∀ n, n < 16 → 80 + n ∉ regWrites i → rdM d n = rdM c n)
    ∧ (∀ r : BitVec 6, 96 + r.toNat ∉ regWrites i →
        (∀ l, l < 64 → rdV d r l = rdV c r l) ∧ tblGet false d.poisonV r.toNat = tblGet false c.poisonV r.toNat)
    ∧ (pushesBit i = false → d.cq = c.cq)
    ∧ (pushesBit i = true → d.cq = c.cq ∨ ∃ b, d.cq = c.cq ++ [b])
    ∧ d.fmtctl &&& ~~~0x1F00#64 = c.fmtctl &&& ~~~0x1F00#64
    ∧ (leavesFlags i = true → d.fmtctl = c.fmtctl ∧ d.gens = c.gens)

/-! ### Class 6: memory -/

/-- A global load, store or atomic is checked when its group issues; then its access, with its address, size, class, mode of
operation and destination, is committed at the tail of the cell's accesses, to perform later (R200, R340, R346, R348); where the
check fails, the trap is taken instead. -/
def Obligations.GlobalAccessIssue : Prop :=
  ∀ (s : State) (g : BitVec 4) (r a x : BitVec 6) (cls : BitVec 4) (sz : BitVec 2) (off : BitVec 8),
    let k := s.iss.key
    let issues := fun (i : Instr) (va : BitVec 64) (size : Nat) (kind : Kind) (acc : AccKind) (dest : AccDest) =>
      let chk := globalCheck s k va size cls kind
      (∀ l, chk.1 = .ok l → ready i s = true →
        exec i s = .next (commitEff (chk.2 s) fun t => modCell t k fun c =>
          { c with
            accesses := c.accesses ++
              [⟨c.accNo, c.groupNo, cls, size, va, acc, globalPlace l va.toNat, dest, false, false, none⟩]
            accNo := c.accNo + 1 }))
      ∧ (∀ t, chk.1 = .error t → ready i s = true →
        exec i s = .next (takeTrap (chk.2 s) k t s.iss.group (trapMask [s.iss.idx]) false))
    let va := sv s a + BitVec.ofInt 64 (off.toInt * (2 ^ sz.toNat : Nat))
    let amo := fun (i : Instr) (op size : Nat) => issues i (sv s a) size .atomic (.amo op (sv s x) (sv s r)) (.s r.toNat)
    issues (.ldN g r a cls sz off) va (2 ^ sz.toNat) .read (.load false) (.s r.toNat)
    ∧ issues (.ldI g r a cls sz off) va (2 ^ sz.toNat) .read (.load true) (.s r.toNat)
    ∧ issues (.st g r a cls sz off) va (2 ^ sz.toNat) .write (.store (sv s r)) .none
    ∧ amo (.aaddI32 g r a x cls false) 0 4
    ∧ amo (.aaddI64 g r a x cls false) 1 8
    ∧ amo (.aaddF32 g r a x cls false) 2 4
    ∧ amo (.amaxI32 g r a x cls false) 3 4
    ∧ amo (.amaxF32 g r a x cls false) 4 4
    ∧ amo (.acas g r a x cls false) 5 8
    ∧ amo (.amaxrrI32 g r a x cls false) 6 4
    ∧ amo (.amaxrrF32 g r a x cls false) 7 4

/-- The checks of a cell's own global access in their order: an address above the 52-bit space, alignment, an absent or malformed
translation, a right that the leaf refuses, a remote atomic without RAP, the watchpoint; the trap has the virtual address, and
INFO the kind and class, for ALIGN the size (R14, R195, R244, R282, R340). The leaf is that of the TLB or of the walk. That
the watchpoint comes after translation and rights is the model's reading (log 10); which accesses join a PAGE fault that stands
in the die's buffer, and so start no walk, is a free choice (R198, log 7). -/
def Obligations.GlobalCheckOrder : Prop :=
  ∀ (s : State) (k : Nat) (va : BitVec 64) (size : Nat) (cls : BitVec 4) (kind : Kind),
    let c := getCell s k
    let trapAt := fun (cause : BitVec 8) (info : Nat) => TrapInfo.mk cause va 0 0 (BitVec.ofNat 32 info) false
    let info := kindCode kind + 256 * cls.toNat
    let tlb := tlbFind (getCore s (k / 2)).tlb c.ctx va.toNat
    let joins := joinsFault s (.core (k / 2)) c.ctx va.toNat
    let found := fun (l : Leaf) => (∃ e, tlb = some e ∧ l = ⟨e.leaf, e.leafAddr, e.size⟩)
      ∨ (tlb = none ∧ joins = false ∧ walk s (getCtx s c.ctx).root.toNat va.toNat = some l)
    let refused := fun (l : Leaf) =>
      ((kind = .write ∨ kind = .atomic) ∧ l.bits.getLsbD 1 = false) ∨ (kind = .fetch ∧ l.bits.getLsbD 2 = false)
        ∨ (c.super = false ∧ l.bits.getLsbD 3 = false) ∨ (kind = .fetch ∧ l.bits.getLsbD 11 = true)
    (2 ^ 52 ≤ va.toNat → (globalCheck s k va size cls kind).1 = .error (trapAt 0x12 info))
    ∧ (va.toNat < 2 ^ 52 → va.toNat % size ≠ 0 → (globalCheck s k va size cls kind).1 = .error (trapAt 0x10 size))
    ∧ (va.toNat < 2 ^ 52 → va.toNat % size = 0 →
      (tlb = none → joins = true ∨ walk s (getCtx s c.ctx).root.toNat va.toNat = none →
        (globalCheck s k va size cls kind).1 = .error (trapAt 0x12 info))
      ∧ (joins = true → (c.ctx, va.toNat / 65536, 0x12#8) ∈ (getDie s (unitDie (.core (k / 2)))).faults)
      ∧ (∀ l, found l → refused l → (globalCheck s k va size cls kind).1 = .error (trapAt 0x13 info))
      ∧ (∀ l, found l → ¬ refused l → kind = .atomic → l.bits.getLsbD 11 = true → l.bits.getLsbD 12 = false →
        (globalCheck s k va size cls kind).1 = .error (trapAt 0x14 info))
      ∧ (∀ l, found l → ¬ refused l → ¬ (kind = .atomic ∧ l.bits.getLsbD 11 = true ∧ l.bits.getLsbD 12 = false) →
        (watched c va.toNat size kind = true → (globalCheck s k va size cls kind).1 = .error (trapAt 0x38 info))
        ∧ (watched c va.toNat size kind = false → (globalCheck s k va size cls kind).1 = .ok l)))

/-- A committed access to memory outside the core cache and outside CXL performs when nothing that must precede it is left and its
tile is not stopped, or it had left the tile before the stop: a load binds the little-endian bytes of the coherent path, extended
as its form says; a store writes its bytes; an atomic does both, on a word free of poison; fences that waited for it alone
are spent. Its answer then reaches the register of a running tile, and the access is over, here while a cell of the team has
not halted (R170, R200, R204, R207, R209, R250, R273).
The word that each atomic leaves and the value that it returns (R88, R346, R347).
The core cache of a cell that has CACHE banks, at cache level 01: a load of a sector it holds takes its bytes from there, and
one of a sector it lacks fills that sector from the coherent path into an empty way; neither touches memory. A store of write
policy 00 changes a valid sector and makes it dirty, and memory waits; of policy 01 it takes the sector away, and of policy 10 it
changes the sector too, and goes to memory by the write-combining store. Without a CACHE bank level 01 is level 00. Cleaning
leaves no dirty sector, and no line where it invalidates (R160, R161, R162, R203, R260). -/
def Obligations.AccessPerformsAndReturns : Prop :=
  (
  (
  ∀ (s : State) (k id : Nat) (a : Access) (pa : Nat) (clvl wpol evp : BitVec 2),
    let c := getCell s k
    let run := fun (t : State) => exec .accessResponseReturn s = .next t
    let answered := fun (s : State) (r : AccAnswer) => modCell s k fun c =>
      let l := c.accesses.map fun b => if b.id = id then { b with answered := some r } else b
      { c with
        accesses := l
        fences := c.fences.filter fun f => l.any fun b =>
          b.answered.isNone && (decide (b.group < f.1) && f.2.getLsbD b.cls.toNat) }
    let owner : Owner := ⟨some c.ctx, some k, a.cls, false⟩
    s.input = .pair k id → c.accesses.find? (fun b => b.id == id) = some a → c.arriving = [] →
    (a.place = .phys pa clvl wpol evp → a.size ∈ [1, 2, 4, 8] → a.answered = none → mayPerform c a = true → clvl ≠ 1 →
      physKind s pa = .hbm ∨ physKind s pa = .host → a.out = true ∨ ((getCore s (k / 2)).stopped = false ∧ c.held = false) →
      (∀ b, a.kind = .load b → physPoisoned s pa a.size = false →
        let x := physNat s pa a.size
        run (answered s ⟨if b then (BitVec.ofNat (8 * a.size) x).signExtend 64 else (BitVec.ofNat (8 * a.size) x).zeroExtend 64,
          false, none⟩))
      ∧ (∀ d, a.kind = .store d →
        run (answered (physWrite s pa (toBytes d.toNat a.size) (clvl == 2) owner) ⟨0, false, none⟩))
      ∧ (∀ op arg cmp, a.kind = .amo op arg cmp → physPoisoned s pa a.size = false →
        let x := physNat s pa a.size
        run (answered (physWrite s pa (toBytes (amoNew op x arg cmp) a.size) false owner)
          ⟨amoOld op x, false, none⟩)))
    ∧ (∀ v j, a.answered = some ⟨v, false, none⟩ → tileRuns s k = true → j < ncell s c.ctx →
      bitOf (getTeam s (teamKey c.ctx c.team)).halted j = false →
      ∃ t, run t ∧ (getCell t k).accesses = c.accesses.filter (fun b => b.id != id)
        ∧ (∀ n : BitVec 6, a.dest = .s n.toNat → n ≠ 0 → rdS (getCell t k) n = v)
        ∧ (∀ (n : BitVec 6) l, a.dest = .v n.toNat l → rdV (getCell t k) n l = v.setWidth 32)))
  ∧ (
  ∀ (old : Nat) (arg cmp : BitVec 64), old < 2 ^ 32 →
    let y := arg.toNat % 2 ^ 32
    let int := fun (n : Nat) => (BitVec.ofNat 32 n).toInt
    amoNew 0 old arg cmp = (old + y) % 2 ^ 32
    ∧ amoNew 3 old arg cmp = (if int old < int y then y else old)
    ∧ amoNew 6 old arg cmp = y ∧ amoNew 7 old arg cmp = y
    ∧ amoNew 2 old arg cmp = (addVal .f32 plainCtl (ffDecode .f32 old) (ffDecode .f32 y)).code
    ∧ amoNew 4 old arg cmp = (minMaxCode .f32 false true old y).code
    ∧ amoOld 0 old = (BitVec.ofNat 32 old).signExtend 64 ∧ amoOld 3 old = (BitVec.ofNat 32 old).signExtend 64
    ∧ amoOld 6 old = (BitVec.ofNat 32 old).signExtend 64
    ∧ amoOld 2 old = (BitVec.ofNat 32 old).zeroExtend 64 ∧ amoOld 4 old = (BitVec.ofNat 32 old).zeroExtend 64
    ∧ amoOld 7 old = (BitVec.ofNat 32 old).zeroExtend 64
    ∧ (∀ w : BitVec 64, amoNew 1 w.toNat arg cmp = (w + arg).toNat
      ∧ amoNew 5 w.toNat arg cmp = (if w = cmp then arg else w).toNat ∧ amoOld 1 w.toNat = w ∧ amoOld 5 w.toNat = w)))
  ∧ (
  ∀ (s : State) (k pa n w : Nat) (evp : BitVec 2) (cls : BitVec 4) (bs : List Byte) (l : CacheLine),
    let c := getCell s k
    let set := cacheSet pa
    let i := pa % 128 / 16
    let hit := cacheHit c pa = some (w, l) ∧ l.valid.getLsbD i = true
    let owner : Owner := ⟨some c.ctx, some k, cls, false⟩
    let line := fun (t : State) => getLine (getCell t k) w set
    (hit → physLoad s k pa n 1 evp =
      (modCell s k fun c => setLine c w set (some { l with rank := nextRank c set }), (l.data.drop (pa % 128)).take n,
        cachePoisoned c w pa n))
    ∧ (cacheHit c pa = none → victimWay c set = some w → getLine c w set = none → pa % 16 + n ≤ 16 →
      physPoisoned s (pa / 16 * 16) 16 = false →
      ∃ t m, physLoad s k pa n 1 evp = (t, physBytes s pa n, false) ∧ t.mem = s.mem ∧ t.dies = s.dies ∧ line t = some m
        ∧ m.tag = pa / 65536 ∧ m.valid = 1#8 <<< i ∧ m.dirty = 0 ∧ m.evp = evp
        ∧ (m.data.drop (16 * i)).take 16 = physBytes s (pa / 16 * 16) 16)
    ∧ (hit → ∃ m, let t := physStore s k pa bs 1 0 evp cls
      t.mem = s.mem ∧ t.dies = s.dies ∧ line t = some m ∧ m.tag = l.tag ∧ m.valid = l.valid
        ∧ m.data = patch l.data (pa % 128) bs ∧ m.dirty = l.dirty ||| (1#8 <<< i))
    ∧ (hit → physStore s k pa bs 1 1 evp cls = physWrite (modCell s k fun c =>
        setLine c w set (some { l with valid := l.valid &&& ~~~(1#8 <<< i), dirty := l.dirty &&& ~~~(1#8 <<< i) })) pa bs true owner)
    ∧ (hit → physStore s k pa bs 1 2 evp cls = physWrite (modCell s k fun c =>
        healCache w pa bs.length (setLine c w set (some { l with data := patch l.data (pa % 128) bs }))) pa bs true owner)
    ∧ (cacheWays c = [] → (∀ wpol, physStore s k pa bs 1 wpol evp cls = physWrite s pa bs false owner)
      ∧ (physPoisoned s pa n = false → physLoad s k pa n 1 evp = (s, physBytes s pa n, false)))
    ∧ (∀ v x, v ∈ cacheWays c → x < 512 →
      getLine (getCell (cleanCache s k true) k) v x = none
      ∧ ∀ m, getLine c v x = some m → getLine (getCell (cleanCache s k false) k) v x = some { m with dirty := 0 }))

/-- Near accesses to the cell's own banks complete with their group: a load writes the bytes of the present values, extended as
its form says; a store writes its bytes to the bank that its address names; an atomic leaves its new word and returns the old
one; while a FENCE of its class holds back an earlier access, it waits. An access to another cell's banks is committed, to
perform later (R158, R164, R205, R207, R340, R346, R348).
A store of 4 or 8 bytes to a plane region resolves each word under the region's rule: the first store of a step deposits its
value in the plane not selected and marks the writer; PRIO keeps the store of the higher step priority, of equals the lower
cell index, and a cell's own later one; SUM adds to what stands there; FAULT refuses another cell's store, which raises COLLIDE
in the storing cell with the address and the writer's index. No store changes a present value; the flip of a completed step
makes each written word's next value the present one and clears its writer (R164, R165, R166, R167, R168). -/
def Obligations.NearAccessResults : Prop :=
  (
  ∀ (s : State) (g : BitVec 4) (r a x : BitVec 6) (cls : BitVec 4) (sz : BitVec 2) (off : BitVec 8) (b o : Nat),
    let k := s.iss.key
    let size := 2 ^ sz.toNat
    let va := sv s a + BitVec.ofInt 64 (off.toInt * (2 ^ sz.toNat : Nat))
    let raw := fun (n : Nat) => ofBytes (nearBytes (self s) b o n)
    let put := fun (n v : Nat) (c : Cell) => healNear (setNearBytes c b o (toBytes v n)) b o n
    let free := fenceStalls (self s) cls = false
    let waits := fun (i : Instr) (j : Nat) => j = k → fenceStalls (self s) cls = true → ready i s = true → exec i s = .next s
    let peer := fun (i : Instr) (j : Nat) (va : BitVec 64) (size : Nat) (acc : AccKind) (dest : AccDest) => j ≠ k →
      changesCell i s fun c =>
        { c with
          accesses := c.accesses ++ [⟨c.accNo, c.groupNo, cls, size, va, acc, .near (va.setWidth 32), dest, false, false, none⟩]
          accNo := c.accNo + 1 }
    let amo := fun (i : Instr) (op : Nat) =>
      let n := amoSize op
      ∀ j, nearCheck s k (sv s a) n n .atomic = .ok (j, b, o) →
        (j = k → free → presentPoisoned (self s) b o n = false →
          changesCell i s fun c =>
            wrS (setNearBytes c b o (toBytes (amoNew op (raw n) (sv s x) (sv s r)) n)) r (amoOld op (raw n)))
        ∧ waits i j ∧ peer i j (sv s a) n (.amo op (sv s x) (sv s r)) (.s r.toNat)
    (∀ j, nearCheck s k va size size .load = .ok (j, b, o) →
      (j = k → free → presentPoisoned (self s) b o size = false →
        writesScalar (.ldnN g r a cls sz off) s r (BitVec.ofNat 64 (raw size % 2 ^ (8 * size)))
        ∧ writesScalar (.ldnI g r a cls sz off) s r ((BitVec.ofNat (8 * size) (raw size)).signExtend 64))
      ∧ waits (.ldnN g r a cls sz off) j ∧ waits (.ldnI g r a cls sz off) j
      ∧ peer (.ldnN g r a cls sz off) j va size (.load false) (.s r.toNat)
      ∧ peer (.ldnI g r a cls sz off) j va size (.load true) (.s r.toNat))
    ∧ (∀ j, nearCheck s k va size size .store = .ok (j, b, o) →
      (j = k → free → (getBank (self s) b).mode = .spad →
        changesCell (.stn g r a cls sz off) s (put size (sv s r).toNat))
      ∧ waits (.stn g r a cls sz off) j
      ∧ peer (.stn g r a cls sz off) j va size (.store (sv s r)) .none)
    ∧ amo (.aaddI32 g r a x cls true) 0
    ∧ amo (.aaddI64 g r a x cls true) 1
    ∧ amo (.aaddF32 g r a x cls true) 2
    ∧ amo (.amaxI32 g r a x cls true) 3
    ∧ amo (.amaxF32 g r a x cls true) 4
    ∧ amo (.acas g r a x cls true) 5
    ∧ amo (.amaxrrI32 g r a x cls true) 6
    ∧ amo (.amaxrrF32 g r a x cls true) 7)
  ∧ (
  (∀ (c : Cell) (j w v i : Nat) (prio : Nat → Nat), j < 16 → w < 16384 → v < 2 ^ 32 →
    let next := 2 * j + (if presentOdd c j w then 0 else 1)
    let mark := tblGet 0 c.writer (16384 * j + w)
    let r := planeWord c j w v i prio
    let old := bankWord c next w
    let rule := (getRegion c j).rule.toNat
    let put := fun (u x : Nat) => r.2 = none ∧ bankWord r.1 next w = u ∧ tblGet 0 r.1.writer (16384 * j + w) = x + 1
    let wins := fun (x : Nat) => i = x ∨ prio x < prio i ∨ (prio i = prio x ∧ i < x)
    (mark = 0 → put v i)
    ∧ (∀ x, mark = x + 1 →
      (rule = 0 → wins x → put v i) ∧ (rule = 0 → ¬ wins x → r = (c, none))
      ∧ (rule = 1 → put ((old + v) % 2 ^ 32) x)
      ∧ (rule = 2 → put (addVal .f32 plainCtl (ffDecode .f32 old) (ffDecode .f32 v)).code x)
      ∧ (rule = 3 → put ((addVal .bf16 plainCtl (ffDecode .bf16 (old % 65536)) (ffDecode .bf16 (v % 65536))).code
          + 65536 * (addVal .bf16 plainCtl (ffDecode .bf16 (old / 65536)) (ffDecode .bf16 (v / 65536))).code) x)
      ∧ (rule = 4 → i = x → put v i) ∧ (rule = 4 → i ≠ x → r = (c, some x)))
    ∧ (∀ b u, u < 16384 → b ≠ next ∨ u ≠ w → bankWord r.1 b u = bankWord c b u)
    ∧ ((getBank c (2 * j)).mode = .plane → (getBank c (2 * j + 1)).mode = .plane →
      ∀ b o, o < 65536 → nearByte r.1 b o = nearByte c b o)
    ∧ (tblWf 0 c.writer = true → mark ≠ 0 →
      presentOdd (flipRegion c j) j w = !presentOdd c j w ∧ tblGet 0 (flipRegion c j).writer (16384 * j + w) = 0)
    ∧ (tblWf 0 c.writer = true → mark = 0 → presentOdd (flipRegion c j) j w = presentOdd c j w))
  ∧ (∀ (s : State) (g : BitVec 4) (r a : BitVec 6) (cls : BitVec 4) (off : BitVec 8) (b o : Nat),
    let k := s.iss.key
    let prio := stepPrio s (self s).ctx
    let d := (sv s r).toNat
    let refuse := fun (va : BitVec 64) (x : Option Nat) (c : Cell) => match x with
      | some x => deferTrap c ⟨0x15, va, 0, 0, BitVec.ofNat 32 x, false⟩
      | none => c
    let word := fun (c : Cell) (n v : Nat) => planeWord c (b / 2) (o / 4 + n) v (self s).cell prio
    fenceStalls (self s) cls = false → (getBank (self s) b).mode = .plane →
    (∀ va, va = sv s a + BitVec.ofInt 64 (off.toInt * 4) → nearCheck s k va 4 4 .store = .ok (k, b, o) →
      changesCell (.stn g r a cls 2 off) s fun c => let x := word c 0 (d % 2 ^ 32)
        refuse va x.2 x.1)
    ∧ (∀ va, va = sv s a + BitVec.ofInt 64 (off.toInt * 8) → nearCheck s k va 8 8 .store = .ok (k, b, o) →
      changesCell (.stn g r a cls 3 off) s fun c => let x := word c 0 (d % 2 ^ 32)
        let y := word x.1 1 (d / 2 ^ 32)
        refuse va y.2 (refuse va x.2 y.1))))

/-- The checks of a near access in their order, only the first that fails being raised: the shape of its address, the mode of the
bank, the alignment; the trap has the address, and INFO the size. A scalar load, store or near atomic that fails them traps;
an address of the peer range is that of the team's cell on the core it names, whose bank decides (R13, R154, R158, R244). -/
def Obligations.NearChecksAndTraps : Prop :=
  ∀ (s : State) (g : BitVec 4) (r a x : BitVec 6) (cls : BitVec 4) (sz : BitVec 2) (off : BitVec 8),
    let k := s.iss.key
    let size := 2 ^ sz.toNat
    let va := sv s a + BitVec.ofInt 64 (off.toInt * (2 ^ sz.toNat : Nat))
    let bank := va.toNat / 65536 % 32
    let mode := (getBank (self s) bank).mode
    let traps := fun (cause : BitVec 8) (i : Instr) => raisesTrap i s ⟨cause, va, 0, 0, BitVec.ofNat 32 size, false⟩
    let load := fun (cause : BitVec 8) => traps cause (.ldnN g r a cls sz off) ∧ traps cause (.ldnI g r a cls sz off)
    let store := fun (cause : BitVec 8) => traps cause (.stn g r a cls sz off)
    (2 ^ 32 ≤ va.toNat → load 0x11 ∧ store 0x11)
    ∧ (va.toNat < 2 ^ 32 → 0x4000000 ≤ va.toNat → load 0x11 ∧ store 0x11)
    ∧ (va.toNat < 0x2000000 → 0x200000 ≤ va.toNat → load 0x11 ∧ store 0x11)
    ∧ (va.toNat < 0x200000 →
      (mode = .off ∨ mode = .cache ∨ (mode = .plane ∧ bank % 2 = 1) → load 0x16 ∧ store 0x16)
      ∧ (mode = .plane ∧ bank % 2 = 0 → sz.toNat < 2 → store 0x16)
      ∧ (mode = .spad → va.toNat % size ≠ 0 → load 0x10 ∧ store 0x10)
      ∧ (mode = .spad → va.toNat % size = 0 →
          nearCheck s k va size size .load = .ok (k, bank, va.toNat % 65536)
          ∧ nearCheck s k va size size .store = .ok (k, bank, va.toNat % 65536)))
    ∧ (0x2000000 ≤ va.toNat → va.toNat < 0x4000000 →
      let core := va.toNat / 0x200000 % 16
      let seat := (getTeam s (teamKey (self s).ctx (self s).team)).seats.find? fun j => j / 2 % 16 == core
      (seat = none → load 0x11 ∧ store 0x11)
      ∧ (∀ j, seat = some j →
        let there := (getBank (getCell s j) bank).mode
        (there = .off ∨ there = .cache ∨ (there = .plane ∧ bank % 2 = 1) → load 0x16 ∧ store 0x16)
        ∧ (there = .plane ∧ bank % 2 = 0 → sz.toNat < 2 → store 0x16)
        ∧ (there = .spad → va.toNat % size ≠ 0 → load 0x10 ∧ store 0x10)
        ∧ (there = .spad → va.toNat % size = 0 →
            nearCheck s k va size size .load = .ok (j, bank, va.toNat % 65536)
            ∧ nearCheck s k va size size .store = .ok (j, bank, va.toNat % 65536))))
    ∧ (let ad := sv s a
      let at_ := (getBank (self s) (ad.toNat / 65536 % 32)).mode
      let amo := fun (cause : BitVec 8) (n : Nat) (i : Instr) => raisesTrap i s ⟨cause, ad, 0, 0, BitVec.ofNat 32 n, false⟩
      let words := fun (cause : BitVec 8) => amo cause 4 (.aaddI32 g r a x cls true) ∧ amo cause 4 (.aaddF32 g r a x cls true)
        ∧ amo cause 4 (.amaxI32 g r a x cls true) ∧ amo cause 4 (.amaxF32 g r a x cls true)
        ∧ amo cause 4 (.amaxrrI32 g r a x cls true) ∧ amo cause 4 (.amaxrrF32 g r a x cls true)
      let pairs := fun (cause : BitVec 8) => amo cause 8 (.aaddI64 g r a x cls true) ∧ amo cause 8 (.acas g r a x cls true)
      (2 ^ 32 ≤ ad.toNat ∨ (0x4000000 ≤ ad.toNat ∧ ad.toNat < 2 ^ 32) ∨ (0x200000 ≤ ad.toNat ∧ ad.toNat < 0x2000000) →
        words 0x11 ∧ pairs 0x11)
      ∧ (ad.toNat < 0x200000 → at_ ≠ .spad → words 0x16 ∧ pairs 0x16)
      ∧ (ad.toNat < 0x200000 → at_ = .spad → ad.toNat % 4 ≠ 0 → words 0x10)
      ∧ (ad.toNat < 0x200000 → at_ = .spad → ad.toNat % 8 ≠ 0 → pairs 0x10))

/-- What a store of the coherent path leaves unchanged: every byte outside its own reads as before, also those that the
write-combining store holds; its own bytes read as written. It is stated where the line of the address is one the machine can
make, as are all those of a reset machine (R186, R200). -/
def Obligations.StoredBytesAndNoOthers : Prop :=
  ∀ (s : State) (pa : Nat) (bs : List Byte) (merge : Bool) (owner : Owner),
    let t := physWrite s pa bs merge owner
    (∀ j, j < bs.length → physKind s (pa + j) ≠ .hole) → physLost s pa = false → pa % 256 + bs.length ≤ 256 →
    (∀ l, tblGet none (getDie s (stackOf pa)).lines (pa / 256) = some l →
      tblWf none l.data = true ∧ ∀ e ∈ l.data, e.1 < 256) →
    (getDie s (stackOf pa)).lines.length < wcCapacity →
    (∀ j (h : j < bs.length), physByte t (pa + j) = bs[j])
    ∧ (∀ q, q < pa ∨ pa + bs.length ≤ q → physByte t q = physByte s q)
    ∧ t.cells = s.cells

/-- A vector access makes one access of 4 bytes for each active lane, in ascending order, at the address that its form gives the
lane; the lowest faulting lane is the trap. Near loads and stores of the cell's own banks happen with the group, while no FENCE
of their class holds back an earlier access (R207, R341, R342, R343, R345). -/
def Obligations.VectorAccessIssue : Prop :=
  ∀ (s : State) (g : BitVec 4) (v a x : BitVec 6) (cls n m : BitVec 4),
    let k := s.iss.key
    let mask := rdM (self s) m.toNat
    let lanes := (List.range 64).filter fun l => mask.getLsbD l
    let linear := fun (l : Nat) => sv s a + BitVec.ofInt 64 (n.toInt * 256) + BitVec.ofNat 64 (4 * l)
    let strided := fun (l : Nat) => sv s a + BitVec.ofNat 64 l * sv s x
    let indexed := fun (l : Nat) => sv s a + (rdV (self s) x l).signExtend 64
    let whole := fun (c : Cell) => if mask = BitVec.allOnes 64 then { c with poisonV := tblErase c.poisonV v.toNat } else c
    let add := fun (addr : Nat → BitVec 64) (acc : Nat → AccKind) (dest : Nat → AccDest) (c : Cell) (e : Nat × Leaf) =>
      { c with
        accesses := c.accesses ++
          [⟨c.accNo, c.groupNo, cls, 4, addr e.1, acc e.1, globalPlace e.2 (addr e.1).toNat, dest e.1, false, false, none⟩]
        accNo := c.accNo + 1 }
    let global := fun (i : Instr) (kind : Kind) (addr : Nat → BitVec 64) (acc : Nat → AccKind) (dest : Nat → AccDest)
        (first : Cell → Cell) =>
      let chk := laneLeaves k cls kind addr s lanes
      (∀ ls, chk.1 = .ok ls → ls.map Prod.fst = lanes ∧ (ready i s = true →
        exec i s = .next (commitEff (chk.2 s) fun t => modCell t k fun c => ls.foldl (add addr acc dest) (first c))))
      ∧ (∀ t, chk.1 = .error t → ready i s = true →
        exec i s = .next (takeTrap (chk.2 s) k t s.iss.group (trapMask [s.iss.idx]) false))
    let loads := fun (i : Instr) (addr : Nat → BitVec 64) =>
      global i .read addr (fun _ => .load false) (fun l => .v v.toNat l) whole
    let stores := fun (i : Instr) (addr : Nat → BitVec 64) =>
      global i .write addr (fun l => .store ((rdV (self s) v l).setWidth 64)) (fun _ => .none) id
    let own := fun (u : NearUse) (addr : Nat → BitVec 64) => ∀ l ∈ lanes, (addr l).toNat < 0x200000
      ∧ nearCheck s k (addr l) 4 4 u = .ok (k, (addr l).toNat / 65536 % 32, (addr l).toNat % 65536)
      ∧ (getBank (self s) ((addr l).toNat / 65536 % 32)).mode = .spad
    let free := fenceStalls (self s) cls = false
    let nearLoads := fun (i : Instr) (addr : Nat → BitVec 64) => own .load addr → free →
      (∀ l ∈ lanes, presentPoisoned (self s) ((addr l).toNat / 65536 % 32) ((addr l).toNat % 65536) 4 = false) →
      ready i s = true → ∃ t, exec i s = .next t ∧ ∀ l, l < 64 → rdV (self t) v l =
        if mask.getLsbD l then
          BitVec.ofNat 32 (ofBytes (nearBytes (self s) ((addr l).toNat / 65536 % 32) ((addr l).toNat % 65536) 4))
        else rdV (self s) v l
    let nearStores := fun (i : Instr) (addr : Nat → BitVec 64) => own .store addr → free →
      changesCell i s fun c => lanes.foldl (fun c l =>
        let b := (addr l).toNat / 65536 % 32
        let o := (addr l).toNat % 65536
        healNear (setNearBytes c b o (toBytes (rdV (self s) v l).toNat 4)) b o 4) c
    loads (.vld g v a cls n m) linear
    ∧ stores (.vst g v a cls n m) linear
    ∧ loads (.vlds g v a x cls m) strided
    ∧ stores (.vsts g v a x cls m) strided
    ∧ loads (.vgth g v a x cls m) indexed
    ∧ stores (.vsct g v a x cls m) indexed
    ∧ nearLoads (.vldn g v a cls n m) linear
    ∧ nearStores (.vstn g v a cls n m) linear
    ∧ nearLoads (.vgthn g v a x cls m) indexed
    ∧ nearStores (.vsctn g v a x cls m) indexed

/-- VLDX takes from the near byte stream, for each active lane, the field of WIDTH bits at BOFF plus BSTRIDE times the lane,
extends its sign where SIGN says so, and shifts it; the first byte, lanes and bytes ascending, that may not be read traps with
its own address and the number of bytes of its lane (R207, R344, R345). -/
def Obligations.BitFieldExtraction : Prop :=
  ∀ (s : State) (g : BitVec 4) (v a : BitVec 6) (x : BitVec 3) (cls m : BitVec 4),
    let c := self s
    let pat := tblGet 0 c.xp x.toNat
    let mask := rdM c m.toNat
    let w := if pat.toNat % 32 = 0 then 32 else pat.toNat % 32
    let bit := fun (l : Nat) => pat.toNat / 2 ^ 16 % 2 ^ 16 + l * (pat.toNat / 2 ^ 32 % 2 ^ 16)
    let base := (sv s a).toNat
    let stream := fun (n : Nat) => (nearByte c (n / 65536) (n % 65536)).getLsbD
    let field := fun (l j : Nat) => stream (base + (bit l + j) / 8) ((bit l + j) % 8)
    let val := fun (l : Nat) =>
      let n := (List.range w).foldl (fun n j => n + (if field l j then 2 ^ j else 0)) 0
      if pat.getLsbD 7 && field l (w - 1) then (n : Int) - 2 ^ w else n
    let count := fun (l : Nat) => (bit l % 8 + w + 7) / 8
    let byte := fun (l i : Nat) => nearCheck s s.iss.key (sv s a + BitVec.ofNat 64 (bit l / 8) + BitVec.ofNat 64 i) 1 1 .load
    (∀ l i t, l < 64 → mask.getLsbD l = true → i < count l → byte l i = .error t →
      (∀ l', l' < l → mask.getLsbD l' = true → ∀ i', i' < count l' → ∃ p, byte l' i' = .ok p) →
      (∀ i', i' < i → ∃ p, byte l i' = .ok p) →
      raisesTrap (.vldx g v a x cls m) s { t with info := BitVec.ofNat 32 (count l) })
    ∧ ((∀ l, mask.getLsbD l = true → base + (bit l + w + 7) / 8 ≤ 0x200000) →
    (∀ b, b < 32 → (getBank c b).mode = .spad) → c.poisonBank = [] → fenceStalls c cls = false →
    ready (.vldx g v a x cls m) s = true →
    ∃ t, exec (.vldx g v a x cls m) s = .next t ∧ ∀ l, l < 64 → rdV (self t) v l =
      if mask.getLsbD l then BitVec.ofInt 32 (val l * 2 ^ (pat.toNat / 2 ^ 8 % 32)) else rdV c v l)

/-- FENCE holds its group while an earlier access of a masked class has not reached its scope: loads at any scope, near stores
from CLUSTER on, stores to the package from PACKAGE on, remote stores at SYSTEM; then it writes back or drops the core cache as
.w and .i say, drains the lines that hold what it fences, and commits; from then on no access of a masked class that follows
performs before a masked one that stood before it (R207, R208, R349; whose lines a fence drains, log 44). -/
def Obligations.FenceResults : Prop :=
  ∀ (s : State) (g : BitVec 4) (scope : BitVec 2) (wb inv : Bool) (mask : BitVec 16),
    let k := s.iss.key
    let binds := fun (a : Access) => match a.kind with
      | .store _ => false
      | _ => true
    let reach := fun (a : Access) => match a.place with
      | .near _ => decide (1 ≤ scope.toNat)
      | .phys .. => decide (2 ≤ scope.toNat)
      | .window .. => decide (3 ≤ scope.toNat)
    let pending := (self s).accesses.any fun a =>
      mask.getLsbD a.cls.toNat && (a.answered.isNone && (binds a || reach a))
    let i : Instr := .fence g scope wb inv mask
    let marks := fun (t : State) => modCell t k fun c => { c with
      fences := (c.fences ++ [(c.groupNo, mask)]).filter fun f => c.accesses.any fun b =>
        b.answered.isNone && (decide (b.group < f.1) && f.2.getLsbD b.cls.toNat) }
    (pending = true → ready i s = true → exec i s = .next s)
    ∧ (pending = false → wb = false → inv = false → scope.toNat < 2 → hasEffect i s marks)
    ∧ (pending = false → wb = false → inv = false → 2 ≤ scope.toNat →
        hasEffect i s fun t => marks (drainAll t (fenceLine k mask (mask != 0))))
    ∧ (pending = false → (wb = true ∨ inv = true) → scope.toNat < 2 → hasEffect i s fun t => marks (cleanCache t k inv))
    ∧ (pending = false → (wb = true ∨ inv = true) → 2 ≤ scope.toNat →
        hasEffect i s fun t => marks (drainAll (cleanCache t k inv) (fenceLine k mask true)))
    ∧ (∀ (c : Cell) (n : Nat) (b a : Access), (n, mask) ∈ c.fences → b.group < n → n < a.group →
      mask.getLsbD b.cls.toNat = true → mask.getLsbD a.cls.toNat = true → b ∈ c.accesses → b.answered = none → b.id ≠ a.id →
      mayPerform c a = false)
    ∧ (∀ l : WcLine, fenceLine k mask true l = l.owners.any fun o => o.key == some k && (o.back || mask.getLsbD o.cls.toNat))

/-! ### Class 7: copies, rings, channels, waits, steps, the broadcast bus -/

/-- CPY and CPYF of live handles, with a ring of the copy engine's kind or none and, for CPYF, an admitted flag address, enqueue
one operation at commit with the snapshots, the coordinates, the class, CDEAD, the next sequence number (0 skipped), its group and the flag;
a full queue of 64 stalls the group; the checks trap in the order of R358 (R356, R357, R358). -/
def Obligations.CopyIssueResults : Prop :=
  ∀ (s : State) (g : BitVec 4) (h x y : BitVec 6) (cls ring : BitVec 4) (src dst : DescChain) (place : Nat × Nat × Nat),
    let k := s.iss.key
    let c := self s
    let one := tdtChain s k ((sv s h).setWidth 32)
    let two := tdtChain (one.2 s) k ((sv s h).extractLsb' 32 32)
    let walked := two.2 (one.2 s)
    let seq := fun (c : Cell) => if c.copySeq + 1 = 0 then 1 else c.copySeq + 1
    let enqueues := fun (flag : Option (BitVec 32 × BitVec 64)) => commitEff walked fun t => modCell t k fun c =>
      { c with
        copies := c.copies ++ [⟨seq c, c.opNo, c.groupNo, src, some dst, sv s h, sv s x, sv s y, none, cls, (self s).cdead,
          !(self s).super, ring.toNat, flag, none, false, [], [], none, false, none, 0, false, none, [], []⟩]
        copySeq := seq c
        opNo := c.opNo + 1
        recon := { c.recon with copyEnq := c.recon.copyEnq + 1 } }
    let cpy : Instr := .cpy g h x y cls ring
    let cpyf : Instr := .cpyf g h x y cls ring
    let flag := nearCheck s k (c.cflag.setWidth 64) 8 8 .engineWrite
    let ringed := ring = 0 ∨ (getRing c ring.toNat).kind = 1
    let traps := fun (i : Instr) (t : State) (f : TrapInfo) => ready i s = true →
      exec i s = .next (takeTrap t k f s.iss.group (trapMask [s.iss.idx]) false)
    (∀ t, one.1 = .error t → traps cpy (one.2 s) t ∧ traps cpyf (one.2 s) t)
    ∧ (∀ t, one.1 = .ok src → two.1 = .error t → traps cpy walked t ∧ traps cpyf walked t)
    ∧ (one.1 = .ok src → two.1 = .ok dst →
      (¬ ringed → traps cpy walked ⟨0x18, 0, 0, 0, BitVec.ofNat 32 ring.toNat, false⟩
        ∧ traps cpyf walked ⟨0x18, 0, 0, 0, BitVec.ofNat 32 ring.toNat, false⟩)
      ∧ (∀ t, ringed → flag = .error t → traps cpyf walked t)
      ∧ (ringed → c.copies.length < 64 → ready cpy s = true → exec cpy s = .next (enqueues none))
      ∧ (ringed → 64 ≤ c.copies.length → ready cpy s = true → exec cpy s = .next walked)
      ∧ (ringed → flag = .ok place → c.copies.length < 64 → ready cpyf s = true →
          exec cpyf s = .next (enqueues (some (c.cflag, sv s (y + 1)))))
      ∧ (ringed → flag = .ok place → 64 ≤ c.copies.length → ready cpyf s = true → exec cpyf s = .next walked))

/-- The copy engine starts, while fewer than 4 operations are in progress, the pending one with the earliest deadline, then the
earliest issue, none standing after every deadline, with the faults of R359; an operation into a remote stream takes the tile
that the order pattern gives its coordinates, and waits for its last packet's acknowledgement; a local one moves each element of
the destination's tile at source and destination coordinates plus its offset, each wrapped in a circular dimension, a clipped
source element being the pad value and a clipped destination element being dropped; CPYF then writes its flag word; a finished
operation that names a ring with room produces its 16-byte record there, and leaves the queue (R90, R178 to R180, R185, R356,
R359, R360, R362). An element is here of 1 to 8 whole bytes, in the cell's own banks, none of them read ahead (log 1). -/
def Obligations.CopyEngineEvents : Prop :=
  ∀ (s : State) (k : Nat) (o : CopyOp) (dst : DescChain) (n : Nat) (rest : List Turn) (fa : BitVec 32) (fv : BitVec 64),
    let c := getCell s k
    let before := fun (a b : CopyOp) =>
      if a.deadline = b.deadline then a.order < b.order
      else a.deadline ≠ 0 ∧ (b.deadline = 0 ∨ a.deadline.toNat < b.deadline.toNat)
    let r := getRing c o.ring
    let slot := r.base.toNat + r.wp.toNat % 2 ^ r.log2n * r.slotSz
    let record := toBytes o.dstC.toNat 8 ++ toBytes (o.handles.toNat / 2 ^ 32) 4 ++ toBytes o.seq.toNat 2
    let becomes := fun (q : CopyOp) => (.next (modCell s k fun c =>
      { c with copies := c.copies.map fun p => if p.order = o.order then q else p }) : Host.Outcome State Fault Refusal)
    let size := dBits dst.d / 8
    let tile := fun (i : Nat) => dTile dst.d i
    let offset := fun (i : Nat) =>
      if i = 0 then n % tile 0 else if i = 1 then n / tile 0 % tile 1 else if i = 2 then n / (tile 0 * tile 1) % tile 2
      else n / (tile 0 * tile 1 * tile 2)
    let place := fun (d : Desc) (w : BitVec 64) (i : Nat) =>
      let x := (w.extractLsb' (16 * i) 16).toInt + (offset i : Int)
      if d.getLsbD (460 + i) then x % (dExt d i : Int) else x
    let inside := fun (d : Desc) (w : BitVec 64) => ∀ i, i < 4 → 0 ≤ place d w i ∧ place d w i < (dExt d i : Int)
    let addr := fun (d : Desc) (w : BitVec 64) =>
      ((dBase d).toNat : Int) + place d w 0 * (size : Int) + place d w 1 * (d.extractLsb' 128 64).toInt
        + place d w 2 * (d.extractLsb' 192 64).toInt + place d w 3 * (d.extractLsb' 256 64).toInt
    let own := fun (d : Desc) (w : BitVec 64) => inside d w →
      0 ≤ addr d w ∧ addr d w + (size : Int) ≤ 0x200000 ∧ addr d w % (size : Int) = 0
        ∧ (getBank c ((addr d w).toNat / 65536)).mode = .spad
    let pad := toBytes (if dFmt o.src.d = 3 then ((o.src.d.extractLsb' 384 32).signExtend 64).toNat
      else (o.src.d.extractLsb' 384 32).toNat) size
    let live := ∃ i, i < ncell s c.ctx ∧ bitOf (getTeam s (teamKey c.ctx c.team)).halted i = false
    o ∈ c.copies → (∀ p ∈ c.copies, p.order = o.order → p = o) → tileRuns s k = true → c.accesses = [] → k < 1280 →
    (s.input = .num k → (c.copies.filter fun p => p.started && p.finished.isNone).length < 4 → o.started = false →
      o.fault = none → o.chan = none → (∀ p ∈ c.copies, p.started = false → p ≠ o → before o p) → o.dst = some dst →
      let fails := fun (cause : BitVec 8) (info : BitVec 32) => exec .copyStart s = becomes
        { o with started := true, fault := some ⟨cause, 0, 1, o.seq, info, true⟩, stop := true, sent := true }
      let remote := dSpace dst.d = 2
      let at_ := fun (i : Nat) => (o.dstC.extractLsb' (16 * i) 16).toInt
      let count := fun (i : Nat) => (dExt dst.d i + dTile dst.d i - 1) / dTile dst.d i
      let aligned := ∀ i, i < 4 → at_ i % (tile i : Int) = 0
      let listed := rsMcast dst.d = true → (tblGet none s.net.mcast (rsPeer dst.d)).isSome = true
      let reached := ∀ i, i < 4 → 0 ≤ at_ i / (tile i : Int) ∧ at_ i / (tile i : Int) < (count i : Int)
      let level := fun (j : Nat) => rsOrder dst.d / 4 ^ j % 4
      let part := fun (j : Nat) => (at_ (level j) / (tile (level j) : Int)).toNat
      let index := part 0 + count (level 0) * (part 1 + count (level 1) * (part 2 + count (level 2) * part 3))
      (dSpace o.src.d = 2 → fails 0x09 (o.handles.setWidth 32))
      ∧ (dSpace o.src.d ≠ 2 → dFmt o.src.d ≠ dFmt dst.d → fails 0x0A (o.handles.setWidth 32))
      ∧ (dSpace o.src.d ≠ 2 → dFmt o.src.d = dFmt dst.d → remote → o.tile = none → ¬ aligned →
          fails 0x09 (o.handles.extractLsb' 32 32))
      ∧ (dSpace o.src.d ≠ 2 → dFmt o.src.d = dFmt dst.d → ¬ remote → exec .copyStart s = becomes { o with started := true })
      ∧ (dSpace o.src.d ≠ 2 → dFmt o.src.d = dFmt dst.d → remote → o.tile = none → aligned → listed →
          (reached → exec .copyStart s = becomes { o with started := true, tile := some index })
          ∧ (¬ reached → exec .copyStart s = becomes { o with started := true, sent := true })))
    ∧ (s.input = .pair k o.order → copyRemote o = true → o.finished = none → o.sent = false ∨ o.unacked ≠ 0 →
      exec .copyComplete s = .next s)
    ∧ (s.agenda = .element k o.order n :: rest → o.dst = some dst → o.started = true → o.stop = false → o.finished = none →
      o.early = [] → c.poisonBank = [] → dSpace o.src.d = 0 → dSpace dst.d = 0 → dFmt o.src.d = dFmt dst.d →
      (dBits dst.d = 8 ∨ dBits dst.d = 16 ∨ dBits dst.d = 32 ∨ dBits dst.d = 64) → n < dTileElems dst.d →
      tblGet false o.performed n = false → own o.src.d o.srcC → own dst.d o.dstC →
      let marked := fun (c : Cell) => { c with
        copies := c.copies.map fun p => if p.order = o.order then { o with performed := tblSet false o.performed n true } else p }
      let a := (addr o.src.d o.srcC).toNat
      let b := (addr dst.d o.dstC).toNat
      (inside dst.d o.dstC → ∃ t, step s = .next t ∧ getCell t k = { marked c with bytes := (getCell t k).bytes }
        ∧ (inside o.src.d o.srcC → nearBytes (getCell t k) (b / 65536) (b % 65536) size = nearBytes c (a / 65536) (a % 65536) size)
        ∧ (¬ inside o.src.d o.srcC → nearBytes (getCell t k) (b / 65536) (b % 65536) size = pad)
        ∧ (∀ j off, j < 32 → off < 65536 → (65536 * j + off < b ∨ b + size ≤ 65536 * j + off) →
            bankByte (getCell t k) j off = bankByte c j off))
      ∧ (¬ inside dst.d o.dstC → step s = .next (modCell { s with agenda := rest, tick := s.tick + 1 } k marked)))
    ∧ (s.input = .pair k o.order → o.started = true → o.finished = none → o.dst = some dst → dSpace dst.d ≠ 2 →
      (∀ i, i < dTileElems dst.d → tblGet false o.performed i = true) → o.fault = none → o.chan = none → o.ring = 0 →
      o.flag = some (fa, fv) → fa.toNat < 0x200000 → fa.toNat % 8 = 0 → (getBank c (fa.toNat / 65536)).mode = .spad →
      (getCtx s c.ctx).killing = none → live →
      ∃ t, exec .copyComplete s = .next t ∧ (getCell t k).copies = c.copies.filter (fun p => p.order != o.order)
        ∧ nearBytes (getCell t k) (fa.toNat / 65536) (fa.toNat % 65536) 8 = toBytes fv.toNat 8
        ∧ (getCell t k).recon.copyDone = c.recon.copyDone + 1)
    ∧ (∀ late, s.input = .pair k o.order → o.started = true → o.finished = some late → o.fault = none → o.chan = none →
      o.ring ≠ 0 → (getCtx s c.ctx).killing = none → (r.wp - r.rp).toNat < 2 ^ r.log2n → slot + 16 ≤ 0x200000 →
      r.base.toNat % 16 = 0 → r.slotSz % 16 = 0 → (getBank c (slot / 65536)).mode = .spad → slot < 2 ^ 32 →
      live →
      ∃ t, exec .copyComplete s = .next t
        ∧ (getCell t k).copies = c.copies.filter (fun p => p.order != o.order)
        ∧ (getRing (getCell t k) o.ring).wp = r.wp + 1 ∧ (getRing (getCell t k) o.ring).rp = r.rp
        ∧ nearBytes (getCell t k) (slot / 65536) (slot % 65536) 16 = record ++ [if late then 1 else 0, 0])

/-- RWAIT returns the address of the slot at RP, waits on an empty ring, and raises a fault mark, clearing it; RREL releases a
slot; CHRECV is RWAIT on its channel's ring with the faults of its channel; an unset or empty ring raises RING, and a channel that
the cell does not receive on raises CHAN (R248, R363, R364, R366, R368).
RPUB into a software ring of the cell with room takes the slot's bytes from the cell's banks at commit, writes them to slot WP
and advances WP; through the downstream alias it does so in the cell of the next stage with its own rank; on a full ring, and
behind a slot of its own that still waits there, it stalls. CHSEND of a local channel enqueues one element as a copy operation
and counts it; of a remote one it enqueues the stream's tile of its send count, and the element is unacknowledged; a full queue,
or a remote channel with its depth of unacknowledged elements, stalls the group (R129, R362, R365, R367). -/
def Obligations.RingResults : Prop :=
  (
  ∀ (s : State) (g : BitVec 4) (d a : BitVec 6) (n : BitVec 5) (m : Mark) (e : BitVec 128),
    let k := s.iss.key
    let c := self s
    let slot := fun (n : Nat) => let r := getRing c n
      ((r.base + BitVec.ofNat 32 (r.rp.toNat % 2 ^ r.log2n * r.slotSz)).setWidth 64 : BitVec 64)
    let marked := fun (n : Nat) => tblGet none (getRing c n).marks ((getRing c n).rp.toNat % 2 ^ (getRing c n).log2n)
    let full := fun (n : Nat) => (getRing c n).wp ≠ (getRing c n).rp
    let set := fun (n : Nat) => (getRing c n).kind ≠ 0 ∧ isAlias s c n = false
    let rwait : Instr := .rwait g d n
    let rrel : Instr := .rrel g n
    let waits := fun (i : Instr) => ready i s = true → exec i s = .next (modCell s k (enterWait s.pkg.gtime.toNat none))
    let raises := fun (i : Instr) (n : Nat) (t : TrapInfo) => ready i s = true →
      exec i s = .next (modCell (trapped s t) k fun c =>
        let r := getRing c n
        setRing c n { r with marks := tblErase r.marks (r.rp.toNat % 2 ^ r.log2n) })
    let chrecv : Instr := .chrecv g d a
    let ch := (sv s a).toNat % 256
    (¬ set n.toNat → raisesTrap rwait s ⟨0x18, 0, 0, 0, n.setWidth 32, false⟩)
    ∧ (set n.toNat → ¬ full n.toNat → waits rwait)
    ∧ (set n.toNat → full n.toNat → marked n.toNat = some m → raises rwait n.toNat m.trap)
    ∧ (set n.toNat → full n.toNat → marked n.toNat = none → writesScalar rwait s d (slot n.toNat))
    ∧ (¬ set n.toNat ∨ ¬ full n.toNat → raisesTrap rrel s ⟨0x18, 0, 0, 0, n.setWidth 32, false⟩)
    ∧ (set n.toNat → full n.toNat → marked n.toNat = some m → raises rrel n.toNat m.trap)
    ∧ (set n.toNat → full n.toNat → marked n.toNat = none → c.fring = [] →
        (∀ j ∈ (teamOf s c).seats, (getCell s j).pubs = []) →
        changesCell rrel s fun c => let r := getRing c n.toNat; setRing c n.toNat { r with rp := r.rp + 1 })
    ∧ (chanEntry s c.ctx ch = none → raisesTrap chrecv s ⟨0x19, 0, 0, 0, BitVec.ofNat 32 ch, false⟩)
    ∧ (chanEntry s c.ctx ch = some e →
      let kind := (e.extractLsb' 41 2).toNat
      let mine := kind = 3 ∨ (kind = 1 ∧ c.cell = (e.extractLsb' 43 4).toNat)
      let ring := (e.extractLsb' 51 5).toNat
      (¬ mine → raisesTrap chrecv s ⟨0x19, 0, 0, 0, BitVec.ofNat 32 ch, false⟩)
      ∧ (mine → set ring → ¬ full ring → waits chrecv)
      ∧ (mine → set ring → full ring → marked ring = some m →
          raises chrecv ring { m.trap with src := 4, opid := BitVec.ofNat 16 ch })
      ∧ (mine → set ring → full ring → marked ring = none → writesScalar chrecv s d (slot ring))))
  ∧ (
  ∀ (s : State) (g : BitVec 4) (n : BitVec 5) (a x : BitVec 6) (cls : BitVec 4) (b o : Nat) (e : BitVec 128)
    (src dst : DescChain) (j : Nat),
    let k := s.iss.key
    let c := self s
    let r := getRing c n.toNat
    let nibble := fun (off i : Nat) => launchField s c.ctx off 8 / 16 ^ i % 16
    let rank := fun (i : Nat) => ((List.range i).filter fun x => nibble 56 x == nibble 56 i).length
    let mate := fun (j : Nat) => (getCell s j).stage = c.stage + 1 ∧ rank (getCell s j).cell = rank c.cell
    let down := launchField s c.ctx 45 1
    let rd := getRing (getCell s j) down
    let place := rd.base.toNat + rd.wp.toNat % 2 ^ rd.log2n * rd.slotSz
    let rpub : Instr := .rpub g n a
    let slot := r.base.toNat + r.wp.toNat % 2 ^ r.log2n * r.slotSz
    let chsend : Instr := .chsend g a x cls
    let ch := (sv s a).toNat % 256
    let chain := tdtChain s k (chShandle e)
    let far := tdtChain (chain.2 s) k (chDhandle e)
    let walked := far.2 (chain.2 s)
    let seq := fun (c : Cell) => if c.copySeq + 1 = 0 then 1 else c.copySeq + 1
    let sends := fun (walked : State) (dst : Option DescChain) (tile : Option Nat) (ch : ChanSend) => commitEff walked fun t => modCell t k fun c =>
      { c with
        copies := c.copies ++ [⟨seq c, c.opNo, c.groupNo, src, dst, (chDhandle e ++ chShandle e : BitVec (32 + 32)), sv s x, 0,
          tile, cls, (self s).cdead, !(self s).super, 0, none, some ch, false, [], [], none, false, none, 0, false, none, [], []⟩]
        copySeq := seq c
        opNo := c.opNo + 1
        recon := { c.recon with copyEnq := c.recon.copyEnq + 1 }
        chSent := tblSet 0 c.chSent ch.num (tblGet 0 c.chSent ch.num + 1)
        chUnacked := if ch.remote then tblSet 0 c.chUnacked ch.num (tblGet 0 c.chUnacked ch.num + 1) else c.chUnacked }
    let tiles := fun (i : Nat) => (dExt dst.d i + dTile dst.d i - 1) / dTile dst.d i
    (isAlias s c n.toNat = false → isUpstream s c n.toNat = false → r.kind = 4 → pubSource s k (sv s a) r.slotSz = .ok (b, o) →
      (r.wp - r.rp).toNat < 2 ^ r.log2n → c.pubs = [] → c.accesses = [] → presentPoisoned c b o r.slotSz = false →
      slot + r.slotSz ≤ 0x200000 → 0 < r.slotSz → (∀ j, (getBank c j).mode = .spad ∨ (getBank c j).mode = .off) →
      banksAdmit c (BitVec.ofNat 32 slot) r.slotSz .engineWrite = true → tileRuns s k = true → ready rpub s = true →
      ∃ t, exec rpub s = .next t ∧ (self t).pubs = []
        ∧ (getRing (self t) n.toNat).wp = r.wp + 1 ∧ (getRing (self t) n.toNat).rp = r.rp
        ∧ nearBytes (self t) (slot / 65536) (slot % 65536) r.slotSz = nearBytes c b o r.slotSz)
    ∧ (isAlias s c n.toNat = false → isUpstream s c n.toNat = false → r.kind = 4 → pubSource s k (sv s a) r.slotSz = .ok (b, o) →
      2 ^ r.log2n ≤ (r.wp - r.rp).toNat ∨ (∃ p ∈ c.pubs, p.ring = n.toNat) → ready rpub s = true → exec rpub s = .next s)
    ∧ (isAlias s c n.toNat = false → isUpstream s c n.toNat = true ∨ r.kind ≠ 4 →
      raisesTrap rpub s ⟨0x18, 0, 0, 0, n.setWidth 32, false⟩)
    ∧ (1 < launchField s c.ctx 43 1 → c.stage + 1 < launchField s c.ctx 43 1 → n.toNat = down + 1 →
      j ∈ (teamOf s c).seats → mate j → (∀ i ∈ (teamOf s c).seats, mate i → i = j) → j ≠ k →
      (rd.kind ≠ 4 → raisesTrap rpub s ⟨0x18, 0, 0, 0, n.setWidth 32, false⟩)
      ∧ (rd.kind = 4 → pubSource s k (sv s a) rd.slotSz = .ok (b, o) →
        (2 ^ rd.log2n ≤ (rd.wp - rd.rp).toNat ∨ tileRuns s j = false → ready rpub s = true → exec rpub s = .next s)
        ∧ ((rd.wp - rd.rp).toNat < 2 ^ rd.log2n → c.pubs = [] → c.accesses = [] → presentPoisoned c b o rd.slotSz = false →
          place + rd.slotSz ≤ 0x200000 → 0 < rd.slotSz → (∀ i, (getBank (getCell s j) i).mode = .spad) → tileRuns s j = true →
          ready rpub s = true →
          ∃ t, exec rpub s = .next t ∧ (self t).pubs = []
            ∧ (getRing (getCell t j) down).wp = rd.wp + 1 ∧ (getRing (getCell t j) down).rp = rd.rp
            ∧ nearBytes (getCell t j) (place / 65536) (place % 65536) rd.slotSz = nearBytes c b o rd.slotSz)))
    ∧ (chanEntry s c.ctx ch = some e → chKind e = 1 → c.cell = chScell e → chanRingGood s k e = true →
      chain.1 = .ok src → chanSlotShort s k e src.d = false → c.copies.length < 64 → ready chsend s = true →
      exec chsend s = .next (sends (chain.2 s) none none ⟨ch, false, chRcell e, chRing e⟩))
    ∧ (chanEntry s c.ctx ch = some e → chKind e = 1 → c.cell = chScell e → chanRingGood s k e = true →
      chain.1 = .ok src → chanSlotShort s k e src.d = false → 64 ≤ c.copies.length → ready chsend s = true →
      exec chsend s = .next (chain.2 s))
    ∧ (chanEntry s c.ctx ch = some e → chKind e = 2 → c.cell = chScell e → chain.1 = .ok src → far.1 = .ok dst →
      ready chsend s = true →
      (c.copies.length < 64 → tblGet 0 c.chUnacked ch < chDepth e →
        exec chsend s = .next (sends walked (some dst)
          (some (tblGet 0 c.chSent ch % (tiles 0 * tiles 1 * tiles 2 * tiles 3))) ⟨ch, true, 0, 0⟩))
      ∧ (64 ≤ c.copies.length ∨ chDepth e ≤ tblGet 0 c.chUnacked ch → exec chsend s = .next walked))
    ∧ (∀ t, chanEntry s c.ctx ch = some e → chKind e = 2 ∨ (chKind e = 1 ∧ chanRingGood s k e = true) → c.cell = chScell e →
      chain.1 = .error t → ready chsend s = true →
      exec chsend s = .next (takeTrap (chain.2 s) k t s.iss.group (trapMask [s.iss.idx]) false))
    ∧ (chanEntry s c.ctx ch = none → raisesTrap chsend s ⟨0x19, 0, 0, 0, BitVec.ofNat 32 ch, false⟩)
    ∧ (chanEntry s c.ctx ch = some e → chKind e = 0 ∨ chKind e = 3 ∨ c.cell ≠ chScell e ∨ (chKind e = 1 ∧ chanRingGood s k e = false) →
      raisesTrap chsend s ⟨0x19, 0, 0, 0, BitVec.ofNat 32 ch, false⟩))

/-- WAITA returns the 64-bit word once it compares, and until then waits with its condition registered; an aperture page raises
PERM (R148, R354, R432). The DEADL
forms write CDEAD, CFLAG and an extraction pattern, whose reserved fields must be zero (R344, R355). -/
def Obligations.WaitWordAndParameterResults : Prop :=
  ∀ (s : State) (g : BitVec 4) (d a v : BitVec 6) (cls : BitVec 4) (cc : BitVec 2) (b o j : Nat) (l : Leaf) (n : BitVec 3)
      (e : TlbEntry),
    let k := s.iss.key
    let c := self s
    let va := sv s a
    let want := sv s v
    let met := fun (w : BitVec 64) =>
      if cc = 0 then w = want else if cc = 1 then w ≠ want else want.toNat ≤ w.toNat
    let near : Instr := .waita g d a v cls false cc
    let glob : Instr := .waita g d a v cls true cc
    let word := BitVec.ofNat 64 (ofBytes (nearBytes (getCell s j) b o 8))
    let chk := checkGlobal false s k va 8 cls .read
    let pa := leafPa l va.toNat
    let gword := BitVec.ofNat 64 (physNat (chk.2 s) pa 8)
    cc ≠ 3 →
    (nearCheck s k va 8 8 .load = .ok (j, b, o) → c.accesses = [] → presentPoisoned (getCell s j) b o 8 = false →
      j = k ∨ tileRuns s j = true →
      (met word → writesScalar near s d word)
      ∧ (¬ met word → ready near s = true →
          exec near s = .next (modCell s k (enterWait s.pkg.gtime.toNat (some (va, false, cc, want))))))
    ∧ (∀ t, nearCheck s k va 8 8 .load = .error t → raisesTrap near s t)
    ∧ (chk.1 = .ok l → c.accesses = [] → physPoisoned s pa 8 = false → ready glob s = true →
      (met gword → exec glob s = .next (commitS (chk.2 s) d gword))
      ∧ (¬ met gword →
          exec glob s = .next (modCell (chk.2 s) k (enterWait s.pkg.gtime.toNat (some (va, true, cc, want))))))
    ∧ (∀ t, chk.1 = .error t → ready glob s = true →
      exec glob s = .next (takeTrap (chk.2 s) k t s.iss.group (trapMask [s.iss.idx]) false))
    ∧ (va.toNat < 2 ^ 52 → va.toNat % 8 = 0 → ready glob s = true →
      (tlbFind (tlbOf s (.core (k / 2))) c.ctx va.toNat = some e ∧ leafAp e.leaf = true)
        ∨ (tlbFind (tlbOf s (.core (k / 2))) c.ctx va.toNat = none ∧ joinsFault s (.core (k / 2)) c.ctx va.toNat = false
          ∧ walk s (getCtx s c.ctx).root.toNat va.toNat = some l ∧ leafAp l.bits = true) →
      exec glob s = .next (takeTrap (chk.2 s) k ⟨0x13, va, 0, 0, BitVec.ofNat 32 (256 * cls.toNat), false⟩ s.iss.group
        (trapMask [s.iss.idx]) false))
    ∧ changesCell (.deadl g a) s (fun c => { c with cdead := va })
    ∧ changesCell (.deadlF g a) s (fun c => { c with cflag := va.setWidth 32 })
    ∧ (va &&& 0xFFFF00000000E060#64 = 0 →
        changesCell (.deadlXp g a n) s fun c => { c with xp := tblSet 0 c.xp n.toNat va })
    ∧ (va &&& 0xFFFF00000000E060#64 ≠ 0 → raisesTrap (.deadlXp g a n) s ⟨0x01, 0, 0, 0, s.iss.word, false⟩)

/-- BANKCFG: a malformed request, or one for a bank that is not allocated, raises BANKMODE; while engine work is outstanding it
stalls; a bank that is in no region and holds no cache takes its new mode and extent; a pair becomes a region with its rule and
group; and of a region that leaves PLANE bank 2j holds the present values (R155, R156, R350, R351). -/
def Obligations.BankModeResults : Prop :=
  ∀ (s : State) (g : BitVec 4) (a : BitVec 6),
    let k := s.iss.key
    let c := self s
    let q := (sv s a).toNat
    let b := q % 32
    let mode := q / 64 % 4
    let rule := q / 2 ^ 8 % 8
    let group := q / 2 ^ 11 % 8
    let extent := q / 2 ^ 16 % 32
    let i : Instr := .bankcfg g a
    let refused := raisesTrap i s ⟨0x16, 0, 0, 0, 0, false⟩
    let idle := c.copies = [] ∧ cmdsLive c = false
    let plain := fun (b : Nat) => (getBank c b).alloc = true ∧ ((getBank c b).mode = .off ∨ (getBank c b).mode = .spad)
    let newMode : BankMode := match mode with
      | 0 => .off
      | 1 => .spad
      | 2 => .cache
      | _ => .plane
    let put := fun (b : Nat) (c : Cell) => modBank c b fun x => { x with mode := newMode, extent := extent }
    let sound := (sv s a) &&& 0xFFFFFFFFFFE0C020#64 = 0 ∧ extent ≤ 16
    (¬ sound ∨ (getBank c b).alloc = false → refused)
    ∧ (mode ≠ 3 → rule ≠ 0 ∨ group ≠ 0 → refused)
    ∧ (mode = 3 → 4 < rule ∨ b % 2 = 1 ∨ 15 < b → refused)
    ∧ (sound → plain b → mode ≠ 3 → rule = 0 → group = 0 → idle → changesCell i s (put b))
    ∧ (sound → plain b → mode ≠ 3 → rule = 0 → group = 0 → ¬ idle → ready i s = true → exec i s = .next s)
    ∧ (sound → plain b → plain (b + 1) → b % 2 = 0 → b < 16 → mode = 3 → rule ≤ 4 →
        isMember s c.ctx (160 + 2 * group) c.cell = true → planesUsed s k < 8 → idle →
        changesCell i s fun c =>
          { put (b + 1) (put b c) with
            regions := tblSet none c.regions (b / 2) (some ⟨BitVec.ofNat 3 rule, BitVec.ofNat 3 group⟩) })
    ∧ (sound → (getBank c b).alloc = true → (getBank c b).mode = .plane → b % 2 = 0 → b < 16 → mode = 1 → rule = 0 → group = 0 →
        tblWf false c.selOdd = true → idle → ready i s = true → ∃ t, exec i s = .next t
          ∧ (getBank (self t) b).mode = .spad ∧ (getBank (self t) (b + 1)).mode = .spad ∧ (getBank (self t) b).extent = extent
          ∧ ∀ off, off < 65536 → bankByte (self t) b off =
              if tblGet false c.selOdd (16384 * (b / 2) + off / 4) then bankByte c (b + 1) off else bankByte c b off)

/-- GSTEP arrives at its step group and waits, a cell that is no member raises BANKMODE; and once every member has arrived, all of them in
their slots, and 4 beats have passed the step completes: every member that waits counts it in STEPCNT and, waiting at nothing else, goes on, and in every region of the group
the words written become the present ones (R165, R168, R352). -/
def Obligations.StepResults : Prop :=
  ∀ (s : State) (g : BitVec 4) (n : BitVec 3),
    let k := s.iss.key
    let c := self s
    let tk := teamKey c.ctx c.team
    let arr := tblGet 0 (getTeam s tk).steps n.toNat
    let i : Instr := .gstep g n
    (isMember s c.ctx (160 + 2 * n.toNat) c.cell = true → c.accesses = [] → c.arriving = [] → ready i s = true →
      ∃ t, exec i s = .next t ∧ (self t).run = .wait ∧ (self t).arrived = true ∧ (self t).pc = s.iss.next
        ∧ tblGet 0 (getTeam t tk).steps n.toNat = arr ||| 2 ^ c.cell
        ∧ tblGet 0 (getTeam t tk).stepBeat n.toNat = s.pkg.beat.toNat)
    ∧ (isMember s c.ctx (160 + 2 * n.toNat) c.cell = false → raisesTrap i s ⟨0x16, 0, 0, 0, 0, false⟩)
    ∧ (s.input = .triple c.ctx c.team n.toNat → stepMembers s c.ctx c.team n.toNat ≠ 0 →
        (∀ j, j < 16 → bitOf (stepMembers s c.ctx c.team n.toNat) j = true → bitOf arr j = true) →
        tblGet 0 (getTeam s tk).stepBeat n.toNat + 4 ≤ s.pkg.beat.toNat → k ∈ (getTeam s tk).seats →
        (getTeam s tk).seats.Nodup → bitOf arr c.cell = true → c.run = .wait → tileRuns s k = true → tblWf 0 c.writer = true → c.arriving = [] →
        s.saves = [] →
        (∀ j, j < 16 → bitOf arr j = true → ∃ i ∈ (getTeam s tk).seats, (getCell s i).live = true ∧ (getCell s i).cell = j) →
        (∀ e ∈ (getTeam s tk).barriers, bitOf e.2 c.cell = false) →
        (∀ e ∈ (getTeam s tk).steps, e.1 ≠ n.toNat → bitOf e.2 c.cell = false) →
        ∃ t, exec .gstepComplete s = .next t ∧ (self t).run = .run ∧ (self t).stepcnt = c.stepcnt + 1
          ∧ tblGet 0 (getTeam t tk).steps n.toNat = 0
          ∧ ∀ j w, j < 8 → w < 16384 → boundTo c n.toNat j = true →
              (presentOdd (self t) j w = (presentOdd c j w != decide (tblGet 0 c.writer (16384 * j + w) ≠ 0)))
              ∧ tblGet 0 (self t).writer (16384 * j + w) = 0)

/-- BCAST puts 256 bytes of the cell's banks in its send buffer for a beat from 2 to 4096 beats ahead, else raises LATCH; LATCH
arms a latch for its beat, or completes unfilled at once; a full buffer of 4 entries whose beat is ahead, or 8 latches that have not completed, stall the group
(R171, R172, R174, R353).
On its beat the bus of a cluster carries what one cell sends to the latches of its team for that beat, nothing to others, and
a collision where several send, which raises LATCH in each sender whose tile runs and whose queue of deferred traps has room;
7 beats later a latch writes what it caught to its banks, or completes unfilled, and from the 8th beat on LATSTAT shows it
(R171 to R174, R246). No core's shell holds entries of cells that have left. -/
def Obligations.BroadcastResults : Prop :=
  (
  ∀ (s : State) (g : BitVec 4) (b a : BitVec 6) (j m o : Nat),
    let k := s.iss.key
    let c := self s
    let at_ := sv s b
    let va := sv s a
    let now := s.pkg.beat.toNat
    let bcast : Instr := .bcast g b a
    let latch : Instr := .latch g b a
    let waiting := (c.sends.filter fun x => !x.clash).length
    let armed := (c.latches.filter fun l => l.filled.isNone).length
    let done := fun (c : Cell) =>
      { c with latFilled := false, latBeat := at_.setWidth 16
               recon := { c.recon with latchArmed := c.recon.latchArmed + 1, latchDone := c.recon.latchDone + 1 } }
    (2 ^ 32 ≤ va.toNat ∨ va.getLsbD 25 = true →
      raisesTrap bcast s ⟨0x11, va, 0, 0, 256, false⟩ ∧ raisesTrap latch s ⟨0x11, va, 0, 0, 256, false⟩)
    ∧ (va.getLsbD 25 = false → nearCheck s k va 256 256 .bcast = .ok (j, m, o) →
      (at_.toNat < now + 2 ∨ now + 4096 < at_.toNat →
        raisesTrap bcast s ⟨0x1A, 0, 0, 0, at_.setWidth 32, false⟩)
      ∧ (now + 2 ≤ at_.toNat → at_.toNat ≤ now + 4096 → waiting < 4 →
        changesCell bcast s fun c =>
          { c with sends := c.sends ++ [⟨at_, nearBytes (self s) m o 256, presentPoisoned (self s) m o 256, false⟩] })
      ∧ (now + 2 ≤ at_.toNat → at_.toNat ≤ now + 4096 → 4 ≤ waiting → ready bcast s = true → exec bcast s = .next s))
    ∧ (va.getLsbD 25 = false → nearCheck s k va 256 256 .latch = .ok (j, m, o) →
      (armed < 8 → now < at_.toNat → at_.toNat ≤ now + 4096 → changesCell latch s fun c =>
        { c with latches := c.latches ++ [⟨at_, va.setWidth 32, none, none⟩]
                 recon := { c.recon with latchArmed := c.recon.latchArmed + 1 } })
      ∧ (armed < 8 → at_.toNat ≤ now ∨ now + 4096 < at_.toNat → changesCell latch s done)
      ∧ (8 ≤ armed → ready latch s = true → exec latch s = .next s)))
  ∧ (
  ∀ (s : State) (k : Nat) (x : Send) (l : Latch),
    let cl := k / 32
    let c := getCell s k
    let beat := x.beat.toNat
    (s.input = .num cl → busDue s cl = some beat → c.sends = [x] → x.clash = false →
      (∀ g ∈ clusterCores cl, (getCore s g).shell = []) →
      let sender := fun (j : Nat) => (getCell s j).sends.any (fun y => !y.clash && y.beat.toNat == beat)
      ((∀ j ∈ clusterSlots cl, j ≠ k → sender j = false) →
        ∃ t, exec .broadcastBeat s = .next t ∧ (getCell t k).sends = [] ∧ (getCell t k).deferred = c.deferred
          ∧ ∀ j ∈ clusterSlots cl, ∀ r, (getCell s j).latches = [r] → r.caught = none → r.beat = x.beat →
              let met : Caught :=
                if (getCell s j).ctx = c.ctx ∧ (getCell s j).team = c.team then .data x.data x.poison else .nothing
              (getCell t j).latches = [{ r with caught := some met }])
      ∧ (∀ j ∈ clusterSlots cl, j ≠ k → sender j = true →
        ∃ t, exec .broadcastBeat s = .next t
          ∧ (tileRuns s k = true → c.deferred.length < 16 → (getCell t k).sends = []
            ∧ (getCell t k).deferred = c.deferred ++ [⟨⟨0x1A, 0, 0, 0, x.beat.setWidth 32, false⟩, none⟩])
          ∧ (tileRuns s k = false ∨ 16 ≤ c.deferred.length → (getCell t k).sends = [{ x with clash := true }]
            ∧ (getCell t k).deferred = c.deferred)
          ∧ ∀ i ∈ clusterSlots cl, ∀ r, (getCell s i).latches = [r] → r.caught = none → r.beat = x.beat →
              (getCell t i).latches = [{ r with caught := some .collision }]))
    ∧ (∀ bs, s.input = .num k → tileRuns s k = true → c.latches = [l] → l.filled = none → l.caught = some (.data bs false) →
        l.beat.toNat + 7 ≤ s.pkg.beat.toNat → bs.length = 256 → l.dest.toNat < 0x200000 → l.dest.toNat % 256 = 0 →
        (getBank c (l.dest.toNat / 65536)).mode = .spad →
        ∃ t, exec .latchComplete s = .next t ∧ (getCell t k).latches = [{ l with filled := some true }]
          ∧ latstat (getCell t k) = latstat c
          ∧ nearBytes (getCell t k) (l.dest.toNat / 65536) (l.dest.toNat % 65536) 256 = bs)
    ∧ (s.input = .num k → tileRuns s k = true → c.latches = [l] → l.filled = none →
        l.caught = some .collision ∨ l.caught = some .nothing → l.beat.toNat + 7 ≤ s.pkg.beat.toNat →
        exec .latchComplete s = .next (modCell s k fun c => { c with latches := [{ l with filled := some false }] }))
    ∧ (∀ beats ns f rest, s.agenda = .elapse beats ns :: rest →
        mayElapse { s with agenda := rest, tick := s.tick + 1 } beats = true → 5 ≤ s.pkg.phase →
        s.pkg.beat.toNat + beats < 2 ^ 64 → c.live = true → tileRuns s k = true → tblWf Cell.empty s.cells = true →
        c.latches = [l] → l.filled = some f → l.beat.toNat + 8 ≤ s.pkg.beat.toNat + beats →
        ∃ t, step s = .next t ∧ (getCell t k).latches = [] ∧ (getCell t k).latFilled = f
          ∧ (getCell t k).latColl = (c.latColl || l.caught == some .collision)
          ∧ (getCell t k).latBeat = l.beat.setWidth 16
          ∧ (getCell t k).recon.latchDone = c.recon.latchDone + 1))

/-! ### Class 5 and the micro-operations -/

/-- MCALL of a routine with its VALID bit, a sound AMASK and live handles holds a command under the next ID, with the snapshots
taken at issue, and returns the ID; 32 held commands stall it. MWAIT ends once its command is no longer held, raises and
releases a faulted one, and waits else. MSTAT reports the newest ID, the count held and the state; MPSET and MPGET move
parameters; MUCW and MUCW.t write the store and the table, MAV and MVA move a row of a tile (R371 to R373, R375 to R377, R379 to
R381). -/
def Obligations.MatrixInstructionResults : Prop :=
  ∀ (s : State) (g : BitVec 4) (d a b : BitVec 6) (r : BitVec 8) (n : BitVec 3) (ds : Tbl (Option DescChain)) (m : MatCmd)
    (t : TrapInfo),
    let k := s.iss.key
    let c := self s
    let chk := takeDescs s k 0 [(tblGet 0 c.mp 4).setWidth 32, (tblGet 0 c.mp 4).extractLsb' 32 32,
      (tblGet 0 c.mp 5).setWidth 32, (tblGet 0 c.mp 5).extractLsb' 32 32]
    let mcall : Instr := .mcall g d a b r
    let entry := routineEntry c r.toNat
    let mask := (tblGet 0 c.mp 7).toNat
    let sound := entry.getLsbD 31 = true ∧ mask < 2 ^ 48 ∧ mask < 2 ^ c.nacc
    let want : BitVec 16 := (sv s a).setWidth 16
    let row := (sv s b).toNat
    let held := want ≠ 0 ∧ (c.idNewest - want).toNat < 32768
    let mwait : Instr := .mwait g a
    let mstat := fun (code : Nat) => writesScalar (.mstat g d a) s d
      (BitVec.ofNat 64 (c.idNewest.toNat * 2 ^ 32 + c.cmds.length * 2 ^ 16 + code))
    let find := c.cmds.find? fun m => m.id == want
    let mcode := fun (i v : Nat) => TrapInfo.mk 0x22 0 0 0 (BitVec.ofNat 32 (v + 256 * (i % 4096))) false
    (sound → chk.1 = .ok ds → c.cmds.length + c.fring.length < 32 → (∀ m ∈ c.cmds, m.run ≠ .faulted) → c.fring = [] →
      ready mcall s = true →
      exec mcall s = .next (commitEff (chk.2 s) fun t => modCell t k fun c1 =>
        { wrS c1 d (c.idNext.setWidth 64) with
          cmds := c1.cmds ++ [⟨c1.idNext, r.toNat, c1.opNo, c1.groupNo, c.mp, c.fmtctl, ds, (sv s a).setWidth 16,
            (sv s b).setWidth 16, .waiting, none, 0, [], [], 0, none, [], [], [], none⟩]
          idNewest := c1.idNext
          idNext := if c1.idNext + 1 = 0 then 1 else c1.idNext + 1
          opNo := c1.opNo + 1 }))
    ∧ (sound → chk.1 = .ok ds → 32 ≤ c.cmds.length + c.fring.length → ready mcall s = true →
        exec mcall s = .next (chk.2 s))
    ∧ (¬ sound → raisesTrap mcall s ⟨0x21, 0, 0, 0, r.setWidth 32, false⟩)
    ∧ (sound → chk.1 = .error t → ready mcall s = true →
        exec mcall s = .next (takeTrap (chk.2 s) k t s.iss.group (trapMask [s.iss.idx]) false))
    ∧ (¬ held ∨ find = none → hasEffect mwait s id ∧ mstat 0)
    ∧ (held → find = some m →
      (m.run ≠ .faulted → ready mwait s = true → exec mwait s = .next (modCell s k (enterWait s.pkg.gtime.toNat none)))
      ∧ (m.run = .faulted → m.fault = some t → ready mwait s = true →
          exec mwait s = .next (modCell (trapped s t) k fun c => { c with cmds := c.cmds.filter fun m => m.id != want }))
      ∧ (m.run = .waiting → mstat 1) ∧ (m.run = .running → mstat 2) ∧ (m.run = .faulted → mstat 3))
    ∧ changesCell (.mpset g n a) s (fun c => { c with mp := tblSet 0 c.mp n.toNat (sv s a) })
    ∧ writesScalar (.mpget g d n) s d (tblGet 0 c.mp n.toNat)
    ∧ ((sv s a).toNat < 4096 → c.cmds = [] → changesCell (.mucw g a b) s fun c =>
        { c with mucode := tblSet none c.mucode (sv s a).toNat (some (sv s b)) })
    ∧ (4096 ≤ (sv s a).toNat → raisesTrap (.mucw g a b) s (mcode (sv s a).toNat 0))
    ∧ ((sv s a).toNat < 256 → (sv s b) &&& 0x7FC0F000#64 = 0 → c.cmds = [] → changesCell (.mucwT g a b) s fun c =>
        { c with routines := tblSet none c.routines (sv s a).toNat (some ((sv s b).setWidth 32)) })
    ∧ (256 ≤ (sv s a).toNat ∨ (sv s b) &&& 0x7FC0F000#64 ≠ 0 → raisesTrap (.mucwT g a b) s (mcode (sv s a).toNat 0))
    ∧ (a.toNat < c.nacc → row < 64 → (∀ m ∈ c.cmds, (tblGet 0 m.mp 7).getLsbD a.toNat = false) →
        ((∀ j, j < 64 → accPoisoned c a.toNat row j = false) → changesCell (.mav g d a b) s fun c1 =>
          wrVAll c1 d ((List.range 64).map fun j => rdA c a.toNat row j))
        ∧ (ready (.mva g a d b) s = true → ∃ t, exec (.mva g a d b) s = .next t
          ∧ (∀ j, j < 64 → rdA (self t) a.toNat row j = rdV c d j ∧ accPoisoned (self t) a.toNat row j = false)
          ∧ ∀ n i j, n < 64 → i < 64 → j < 64 → (n ≠ a.toNat ∨ i ≠ row) → rdA (self t) n i j = rdA c n i j))
    ∧ (c.nacc ≤ a.toNat ∨ 63 < row →
        raisesTrap (.mav g d a b) s ⟨0x21, 0, 0, 0, 0, false⟩ ∧ raisesTrap (.mva g a d b) s ⟨0x21, 0, 0, 0, 0, false⟩)

/-- A free array takes the waiting command whose predecessors have retired: it starts its routine at the index of its table
entry, with c0 to c6 from its parameters, the loop counters at 0, SC at 1.0 and no operand held; then each micro-operation does
its part and the command goes on at the next index: tile and operand reads, products added, coordinates, the scale, counted
branches, rings and flags; RET retires it; a tile that it may not name, a wrong shape or format, a held operand that is
missing and a poisoned word fault it. An MMA adds to each word the sum of the products of a row and a column, exact until it is
rounded once to F32, or modulo 2^32 for I8; STACC writes each word times SC in the destination's format (R230, R237, R238, R374,
R383 to R390, of an S of zero where every product is zero). No tile of the team is stopped. -/
def Obligations.MicroOperationResults : Prop :=
  (∀ (s : State) (k : Nat) (m : MatCmd),
    let core := k / 2
    let other := if k % 2 = 0 then k + 1 else k - 1
    s.input = .num core → (getCore s core).arrayX = none → (getCell s k).cmds = [m] → (getCell s other).cmds = [] →
    m.run = .waiting → (getCell s k).accesses = [] → predClean (getCell s k) m.pred1 = true → predClean (getCell s k) m.pred2 = true → cmdsRun s k = true →
    ∃ t m1, exec .matrixCommandStart s = .next t ∧ (getCore t core).arrayX = some (k, m.id) ∧ (getCell t k).cmds = [m1]
      ∧ m1.run = .running ∧ m1.array = some false ∧ m1.index = (routineEntry (getCell s k) m.routine).toNat % 4096
      ∧ (∀ n, n < 7 → tblGet 0 m1.c n = tblGet 0 m.mp n) ∧ m1.lk = [] ∧ m1.sc = 0x3F800000 ∧ m1.statB = none
      ∧ m1.id = m.id ∧ m1.mp = m.mp ∧ m1.descs = m.descs)
  ∧ (∀ (s : State) (m : MatCmd) (ha hb : BitVec 2) (f1 f2 f3 : BitVec 4) (t : BitVec 6) (tr : BitVec 4) (j : BitVec 2)
      (v : BitVec 16) (imm : BitVec 32) (x y : DescChain),
    let k := s.iss.key
    let c := getCell s k
    let ag : Agent := ⟨k, c.ctx, false, 0, .layout (k / 160), m.early⟩
    let creg := fun (n : BitVec 4) => tblGet 0 m.c n.toNat
    let part := fun (w : BitVec 64) (i : Nat) => w.extractLsb' (16 * i) 16
    let handle := fun (h : BitVec 2) => cmdHandle m h
    let goOn := fun (f : MatCmd → MatCmd) (s : State) => modCell s k fun c =>
      { c with cmds := c.cmds.map fun q => if q.id = m.id then { f q with index := m.index + 1, early := [], stored := [] } else q }
    let tile := t.toNat + (if tr = 0 then 0 else (part (creg tr) 3).toNat)
    let named := tile < c.nacc ∧ (tblGet 0 m.mp 7).getLsbD tile = true
    let put := fun (n : BitVec 4) (w : BitVec 64) (q : MatCmd) => { q with c := tblSet 0 q.c n.toNat w }
    let lanes := fun (f : Nat → BitVec 16) => (f 3 ++ f 2 ++ f 1 ++ f 0 : BitVec (16 + 16 + 16 + 16))
    let faults := fun (t : State) (f : TrapInfo) => (.next (faultCmd t k m.id f) : Host.Outcome State Fault Refusal)
    let engine := fun (cause : BitVec 8) (addr : BitVec 64) (info : BitVec 32) => TrapInfo.mk cause addr 0 0 info true
    let words := fun (o1 o2 : Operand) (t : State) => modCell t k fun c =>
      setTile c tile (mmaWords o1 o2 fun i j => (rdA (getCell t k) tile i j).toNat)
    let sane := fun (t : State) => ∀ i j, i < 64 → j < 64 → accPoisoned (getCell t k) tile i j = false
    let shaped := fun (x : DescChain) =>
      dTile x.d 0 * dBits x.d = 1536 ∧ dTile x.d 1 = 64 ∧ dTile x.d 2 = 1 ∧ dTile x.d 3 = 1
    let paired := fun (a b : Nat) => (a ∈ [10, 11] ∧ b ∈ [10, 11]) ∨ (a = b ∧ a ∈ [0, 9, 12])
    findCmd c s.iss.cmd = some m → m.run = .running → m.array.isSome = true →
    cmdsRun s k = true → (∀ j ∈ (teamOf s c).seats, tileRuns s j = true) →
    -- the tile products, the held operand, stores and zeroing
    (∀ s1 s2 o1 o2, named → cmdDesc m ha = some x → cmdDesc m hb = some y → pairTrap x y (handle ha) (handle hb) = none →
      readOperand s ag x (handle ha) (creg f1) = (s1, .ok o1) → readOperand s1 ag y (handle hb) (creg f2) = (s2, .ok o2) →
      (o1.bad = [] → o2.bad = [] → sane s2 → exec (.uopMma ha hb f1 f2 t tr false) s = .next (goOn id (words o1 o2 s2)))
      ∧ (∀ i, i ∈ o1.bad → i < 64 → exec (.uopMma ha hb f1 f2 t tr false) s = faults
          (modCell s2 k fun c => poisonTile c tile fun i j => o1.bad.contains i || o2.bad.contains j || accPoisoned (getCell s2 k) tile i j)
          (engine 0x31 ((o1.badAddr.or o2.badAddr).getD 0) 0)))
    ∧ (named → cmdDesc m ha = some x → cmdDesc m hb = some y →
      (dSpace x.d ≠ 0 → exec (.uopMma ha hb f1 f2 t tr false) s = faults s (engine 0x09 0 (handle ha)))
      ∧ (dSpace x.d = 0 → dSpace y.d ≠ 0 → exec (.uopMma ha hb f1 f2 t tr false) s = faults s (engine 0x09 0 (handle hb)))
      ∧ (dSpace x.d = 0 → dSpace y.d = 0 → dFmt x.d < 14 → dFmt y.d < 14 →
        (¬ shaped x → exec (.uopMma ha hb f1 f2 t tr false) s = faults s (engine 0x09 0 (handle ha)))
        ∧ (shaped x → ¬ shaped y → exec (.uopMma ha hb f1 f2 t tr false) s = faults s (engine 0x09 0 (handle hb)))
        ∧ (shaped x → shaped y → ¬ paired (dFmt x.d) (dFmt y.d) →
          exec (.uopMma ha hb f1 f2 t tr false) s = faults s (engine 0x0A 0 (handle ha)))))
    ∧ (∀ s2 o, cmdDesc m hb = some y → operandTrap y (handle hb) = none →
        readOperand s ag y (handle hb) (creg f2) = (s2, .ok o) →
        (o.badAddr = none → exec (.uopLdb hb f2) s = .next (goOn (fun q => { q with statB := some o }) s2))
        ∧ (∀ a, o.badAddr = some a → exec (.uopLdb hb f2) s = faults s2 (engine 0x31 a 0)))
    -- S = 1: the held operand, or MUCODE without one
    ∧ (∀ s1 o1 o, named → cmdDesc m ha = some x → m.statB = some o → dSpace x.d = 0 → shaped x → dFmt x.d ∈ [0, 9, 10, 11] →
      (paired (dFmt x.d) o.fmt → readOperand s ag x (handle ha) (creg f1) = (s1, .ok o1) → o1.bad = [] → o.bad = [] → sane s1 →
        exec (.uopMma ha hb f1 f2 t tr true) s = .next (goOn id (words o1 o s1)))
      ∧ (¬ paired (dFmt x.d) o.fmt → exec (.uopMma ha hb f1 f2 t tr true) s = faults s (engine 0x0A 0 (handle ha))))
    ∧ (named → cmdDesc m ha = some x → m.statB = none → exec (.uopMma ha hb f1 f2 t tr true) s = faults s
        (engine 0x22 0 (BitVec.ofNat 32 (m.routine + 256 * (m.index % 4096)))))
    ∧ (named → exec (.uopZacc t tr) s = .next (goOn id (modCell s k fun c => zeroTile c tile))
        ∧ ∀ i j, i < 64 → j < 64 → rdA (zeroTile c tile) tile i j = 0)
    ∧ (¬ named → exec (.uopZacc t tr) s = .next (faultCmd s k m.id
        ⟨0x21, 0, 0, 0, BitVec.ofNat 32 (m.routine + 256 * (m.index % 4096)), true⟩))
    ∧ (∀ s1 gens, named → cmdDesc m ha = some x → dSpace x.d = 0 → dTile x.d 0 = 64 → dTile x.d 1 = 64 → dTile x.d 2 = 1 →
        dTile x.d 3 = 1 → staccGood (dFmt x.d) = true →
        staccRun k tile ag x.d (coordOf (creg f1)) m s m.gens false 0 4096 = (s1, gens, false, none) →
        exec (.uopStacc ha f1 t tr false) s = .next (goOn (fun q => { q with gens := gens }) s1)
        ∧ exec (.uopStacc ha f1 t tr true) s =
            .next (goOn (fun q => { q with gens := gens }) (modCell s1 k fun c => zeroTile c tile)))
    ∧ (∀ s1 gens z, named → cmdDesc m ha = some x → dSpace x.d = 0 → dTile x.d 0 = 64 → dTile x.d 1 = 64 → dTile x.d 2 = 1 →
        dTile x.d 3 = 1 → staccGood (dFmt x.d) = true →
        staccRun k tile ag x.d (coordOf (creg f1)) m s m.gens false 0 4096 = (s1, gens, true, none) →
        exec (.uopStacc ha f1 t tr z) s = faults s1 (engine 0x31 0 0))
    ∧ (∀ z, named → cmdDesc m ha = some x →
        let square := dSpace x.d = 0 ∧ dTile x.d 0 = 64 ∧ dTile x.d 1 = 64 ∧ dTile x.d 2 = 1 ∧ dTile x.d 3 = 1
        (¬ square → exec (.uopStacc ha f1 t tr z) s = faults s (engine 0x09 0 (handle ha)))
        ∧ (square → dFmt x.d ∉ [0, 2, 8, 9, 10, 11] → exec (.uopStacc ha f1 t tr z) s = faults s (engine 0x0A 0 (handle ha))))
    -- each element (i, j) of a tile is written to element (c0 + j, c1 + i, c2, c3), of a tensor of whole rows apart
    ∧ (let es := dBits x.d / 8
      let at_ := fun (d : Nat) => ((creg f1).extractLsb' (16 * d) 16).toInt
      let addr := fun (i j : Nat) => ((dBase x.d).toNat : Int) + (at_ 0 + (j : Int)) * (es : Int)
        + (at_ 1 + (i : Int)) * (x.d.extractLsb' 128 64).toInt + at_ 2 * (x.d.extractLsb' 192 64).toInt
        + at_ 3 * (x.d.extractLsb' 256 64).toInt
      named → cmdDesc m ha = some x → dSpace x.d = 0 → dTile x.d 0 = 64 → dTile x.d 1 = 64 → dTile x.d 2 = 1 →
      dTile x.d 3 = 1 → dFmt x.d ∈ [0, 2, 8, 9, 10, 11] → (∀ d, d < 4 → x.d.getLsbD (460 + d) = false) →
      (∀ d, d < 4 → 0 ≤ at_ d ∧ at_ d + (if d < 2 then 63 else 0) < (dExt x.d d : Int)) →
      64 * (es : Int) ≤ (x.d.extractLsb' 128 64).toInt →
      (∀ i j, i < 64 → j < 64 → 0 ≤ addr i j ∧ addr i j + (es : Int) ≤ 0x200000 ∧ addr i j % (es : Int) = 0
        ∧ (getBank c ((addr i j).toNat / 65536)).mode = .spad) →
      m.stored = [] → sane s → m.fmtctl.extractLsb' 0 3 ≠ 4 →
      ∃ u, exec (.uopStacc ha f1 t tr false) s = .next u ∧ ∀ i j, i < 64 → j < 64 →
        nearBytes (getCell u k) ((addr i j).toNat / 65536) ((addr i j).toNat % 65536) es =
          toBytes (staccCode (dFmt x.d) m.fmtctl m.sc.toNat (rdA c tile i j).toNat j m.gens).1 es)
    -- coordinates and the scale
    ∧ exec (.uopScale f1 imm) s =
        .next (goOn (fun q => { q with sc := if f1 = 0 then imm else (creg f1).setWidth 32 }) s)
    ∧ exec (.uopSetc f1 f2 j v) s =
        .next (goOn (put f1 (lanes fun i => if i = j.toNat then v else part (creg f2) i)) s)
    ∧ exec (.uopAddc f1 f2 f3) s = .next (goOn (put f1 (lanes fun i => part (creg f2) i + part (creg f3) i)) s)
    ∧ exec (.uopAddci f1 j v) s =
        .next (goOn (put f1 (lanes fun i => if i = j.toNat then part (creg f1) i + v else part (creg f1) i)) s)
    ∧ exec .uopMnop s = .next (goOn id s)
    ∧ exec .uopRet s = .next (modCell (freeArray s k m.id) k fun c =>
        countEv { c with cmds := c.cmds.filter fun q => q.id != m.id } 7 1))
  ∧ (∀ (s : State) (m : MatCmd) (n : BitVec 2) (f1 f2 : BitVec 4) (r : Bool) (count target : BitVec 12) (ring : BitVec 5)
      (cc : BitVec 2) (o b i : Nat),
    let k := s.iss.key
    let c := getCell s k
    let creg := fun (n : BitVec 4) => tblGet 0 m.c n.toNat
    let goTo := fun (at_ : Nat) (f : MatCmd → MatCmd) (s : State) => modCell s k fun c =>
      { c with cmds := c.cmds.map fun q => if q.id = m.id then { f q with index := at_, early := [], stored := [] } else q }
    let now := tblGet 0 m.lk n.toNat
    let cnt := if r then (creg f2).toNat % 65536 else count.toNat
    let left := (if now = 0 then cnt else now) - 1
    let loop : Instr := .uopLoop n f2 r count target
    let q := getRing c ring.toNat
    let addr : BitVec 32 := (creg f1).setWidth 32
    let word := BitVec.ofNat 64 (ofBytes (nearBytes (getCell s o) b i 8))
    let met := if cc = 0 then word = creg f2 else if cc = 1 then word ≠ creg f2 else (creg f2).toNat ≤ word.toNat
    findCmd c s.iss.cmd = some m → m.run = .running → m.array.isSome = true →
    cmdsRun s k = true →
    (0 < left → exec loop s = .next (goTo target.toNat (fun q => { q with lk := tblSet 0 q.lk n.toNat left }) s))
    ∧ (left = 0 → now ≠ 0 ∨ cnt ≠ 0 →
        exec loop s = .next (goTo (m.index + 1) (fun q => { q with lk := tblSet 0 q.lk n.toNat 0 }) s))
    ∧ (q.kind ≠ 0 → isAlias s c ring.toNat = false → q.wp = q.rp → exec (.uopWtile f1 ring) s = .next s)
    ∧ (q.kind ≠ 0 → isAlias s c ring.toNat = false → q.wp ≠ q.rp → headMark q = none →
        nearCheck s k ((slotAddr q q.rp).setWidth 64) 8 1 .engineRead = .ok (k, b, i) → presentPoisoned c b i 8 = false →
        c.fring = [] → (∀ j ∈ (teamOf s c).seats, (getCell s j).pubs = []) →
        exec (.uopWtile f1 ring) s = .next (goTo (m.index + 1)
          (fun p => { p with c := tblSet 0 p.c f1.toNat (BitVec.ofNat 64 (ofBytes (nearBytes c b i 8))) })
          (modCell s k fun c => setRing c ring.toNat { q with rp := q.rp + 1 })))
    ∧ (nearCheck s k (addr.setWidth 64) 8 8 .load = .ok (o, b, i) → nearStopped s k addr = false →
        presentPoisoned (getCell s o) b i 8 = false → cc ≠ 3 →
        (met → exec (.uopWflag f1 f2 cc) s = .next (goTo (m.index + 1) id s))
        ∧ (¬ met → exec (.uopWflag f1 f2 cc) s = .next s))
    ∧ (nearCheck s k (addr.setWidth 64) 8 8 .engineWrite = .ok (o, b, i) → nearStopped s k addr = false →
        exec (.uopSignal f1 f2 false ring) s = .next (goTo (m.index + 1) id (modCell s o fun c =>
          healNear (setNearBytes c b i (toBytes (creg f2).toNat 8)) b i 8)))
    ∧ (q.kind = 3 → (q.wp - q.rp).toNat < 2 ^ q.log2n → banksAdmit c (slotAddr q q.wp) 16 .engineWrite = true →
        exec (.uopSignal f1 f2 true ring) s = .next (goTo (m.index + 1) id (modCell s k fun c => produceSlot c ring.toNat
          (toBytes (creg f2).toNat 8 ++ toBytes m.id.toNat 2 ++ toBytes m.index 2 ++ zeroBytes 4) none))))
  -- a fault: the command is FAULTED under its ID, and its array is free
  ∧ (∀ (s : State) (k : Nat) (m : MatCmd) (t : TrapInfo), findCmd (getCell s k) m.id = some m →
    let u := faultCmd s k m.id t
    findCmd (getCell u k) m.id =
        some { m with run := .faulted, array := none, fault := some { t with engine := true, src := 2, opid := m.id } }
      ∧ (getCore u (k / 2)).arrayX ≠ some (k, m.id) ∧ (getCore u (k / 2)).arrayY ≠ some (k, m.id))
  -- the sums of R237 and R238
  ∧ (∀ (a b : Operand) (old : Nat → Nat → Nat) (i j : Nat) (fa fb : FFmt),
    let word := (mmaWords a b old).getD (64 * i + j) 0
    let n := if a.fmt = 12 then 384 else if a.fmt = 9 then 96 else 192
    let x := fun (e : Nat) => ffDecode fa (a.elems.getD (n * i + e) 0)
    let y := fun (e : Nat) => ffDecode fb (b.elems.getD (n * j + e) 0)
    let unit := fun (f : FFmt) => 1 - (ffBias f : Int) - (ffManBits f : Int)
    let int := fun (f : FFmt) (v : FVal) => match v with
      | .fin neg m e => (if neg then -1 else 1 : Int) * ((m * 2 ^ (e - unit f).toNat : Nat) : Int)
      | _ => 0
    let block := a.fmt = 12
    let p := fun (e : Nat) => ffDecode .e3m5 (a.scales.getD (n * i + e) 0)
    let q := fun (e : Nat) => ffDecode .e3m5 (b.scales.getD (n * j + e) 0)
    let ba := if block then ffDecode .bf16 (a.bands.getD i 0) else .fin false 1 0
    let bb := if block then ffDecode .bf16 (b.bands.getD j 0) else .fin false 1 0
    let scale : Nat → Int := fun (e : Nat) => if block then int .e3m5 (p e) * int .e3m5 (q e) else 1
    let sum : Int := ((List.range n).map fun e => int fa (x e) * int fb (y e) * scale e).sum
    let scaled := unit fa + unit fb + (if block then 2 * unit .e3m5 else 0)
    let plus := fun (r : Nat) => word = (addVal .f32 plainCtl (ffDecode .f32 (old i j)) (ffDecode .f32 r)).code
    let nan := 0x7FC00000
    let minus := fun (v : FVal) => signVal v
    let finite := fun (v : FVal) => ∃ s m e, v = .fin s m e
    let infinite := fun (e : Nat) => isInfVal (x e) = true ∨ isInfVal (y e) = true
    i < 64 → j < 64 → a.elems.length = 64 * n → b.elems.length = 64 * n →
    (block → a.scales.length = 64 * n ∧ b.scales.length = 64 * n ∧ a.bands.length = 64 ∧ b.bands.length = 64) →
    (¬ block → a.scales = [] ∧ b.scales = []) →
    (a.fmt = 0 → b.fmt = 0 → (word : Int) =
      ((old i j : Int) + ((List.range 192).map fun e =>
        sextInt (a.elems.getD (192 * i + e) 0) 8 * sextInt (b.elems.getD (192 * j + e) 0) 8).sum) % 2 ^ 32)
    ∧ (mmaFmt a.fmt = some fa → mmaFmt b.fmt = some fb → pairGood a.fmt b.fmt = true →
      ((∃ e, e < n ∧ (x e = .nan ∨ y e = .nan ∨ (block ∧ (p e = .nan ∨ q e = .nan)))) ∨ ba = .nan ∨ bb = .nan → word = nan)
      ∧ (¬ block → (∃ e, e < n ∧ infinite e ∧ (isZeroVal (x e) = true ∨ isZeroVal (y e) = true)) → word = nan)
      ∧ (∀ s, ¬ block → (∀ e, e < n → x e ≠ .nan ∧ y e ≠ .nan) → (∃ e, e < n ∧ infinite e) →
          (∀ e, e < n → infinite e → isZeroVal (x e) = false ∧ isZeroVal (y e) = false ∧ (signVal (x e) != signVal (y e)) = s) →
          plus (if s then 0xFF800000 else 0x7F800000))
      ∧ (¬ block → (∃ e, e < n ∧ infinite e ∧ minus (x e) = minus (y e)) → (∃ e, e < n ∧ infinite e ∧ minus (x e) ≠ minus (y e)) →
          word = nan)
      ∧ (∀ e s, e < n → ba = .inf s → isZeroVal (x e) = true ∨ isZeroVal (p e) = true → word = nan)
      ∧ (∀ s m g s' m' g', (∀ e, e < n → finite (x e) ∧ finite (y e) ∧ (block → finite (p e) ∧ finite (q e))) →
          ba = .fin s m g → bb = .fin s' m' g' →
          (sum ≠ 0 → plus (roundTo .f32 plainCtl (decide (sum < 0) != (s != s')) (sum.natAbs * m * m') 1 (scaled + g + g')).code)
          ∧ ((∀ e, e < n → int fa (x e) * int fb (y e) = 0) →
            ((∀ e, e < n → minus (x e) ≠ minus (y e)) → plus (if s = s' then 0x80000000 else 0))
            ∧ ((∃ e, e < n ∧ minus (x e) = minus (y e)) → plus (if s = s' then 0 else 0x80000000))))))
  -- the values of R386
  ∧ (∀ (ctl : BitVec 64) (sc word j : Nat) (gens : Tbl (BitVec 32)) (f : FFmt) (fmt : Nat),
    let code := (staccCode fmt ctl sc word j gens).1
    let under := fmtctlCtl (ctl &&& ~~~0x20#64) (genDraw (genStep (tblGet 0 gens j)))
    (fmt = 2 → code = word)
    ∧ (fmt = 0 → (code : Int) = max (-128) (min 127 (sextInt word 32)) % 256)
    ∧ (staccFmt fmt = some f →
      (∀ s m e s' m' e', ffDecode .f32 word = .fin s m e → ffDecode .f32 sc = .fin s' m' e' →
        code = (roundTo f under (s != s') (m * m') 1 (e + e')).code)
      ∧ (ffDecode .f32 word = .nan ∨ ffDecode .f32 sc = .nan →
        code = match f with
          | .f32 => 0x7FC00000
          | .bf16 => 0x7FC0
          | .e4m3 => 0x7F
          | _ => 0x7E)))

/-! ### Virga cores -/

/-- Each arithmetic instruction of a Virga core writes its result to gd, modulo 2^64, goes on at the next word and changes nothing
else; MFV gives the system register of its number and MTV writes its writable fields; NOP changes nothing; g0 reads as zero and
ignores writes (R395, R396, R397, R399, R401, R404). That GTRATE holds its value while the selected port is dark, and that a
GTSTEP value with bit 63 set is no step, is the model's reading of R35 and R36 (DEDUCED, log 40). -/
def Obligations.VirgaComputeResults : Prop :=
  ∀ (s : State) (d r t : BitVec 5) (i : BitVec 16) (h : BitVec 6) (n : BitVec 12),
    let v := vself s
    let x := vreg v r
    let y := vreg v t
    let gives := fun (ins : Instr) (w : BitVec 64) =>
      exec ins s = .next (vmod s fun u => { vput u d w with pc := v.pc + 4, run := .run })
    let sets := fun (num : BitVec 12) (f : Virga → Virga) =>
      exec (.virgaMtv r num) s = .next (vmod s fun u => { f u with pc := v.pc + 4, run := .run })
    let own := s.iss.virga
    (∀ (u : Virga) (w : BitVec 64) (q : BitVec 5),
      vreg (vput u d w) q = (if q = 0 then 0 else if q = d then w else vreg u q)
      ∧ { vput u d w with g := u.g } = u)
    ∧ gives (.virgaAdd d r t) (x + y)
    ∧ gives (.virgaSub d r t) (BitVec.ofInt 64 ((x.toNat : Int) - y.toNat))
    ∧ gives (.virgaMul d r t) (BitVec.ofNat 64 (x.toNat * y.toNat))
    ∧ gives (.virgaAnd d r t) (x &&& y)
    ∧ gives (.virgaOr d r t) (x ||| y)
    ∧ gives (.virgaXor d r t) (x ^^^ y)
    ∧ gives (.virgaShl d r t) (BitVec.ofNat 64 (x.toNat * 2 ^ (y.toNat % 64)))
    ∧ gives (.virgaShr d r t) (BitVec.ofNat 64 (x.toNat / 2 ^ (y.toNat % 64)))
    ∧ gives (.virgaSra d r t) (BitVec.ofInt 64 (Int.fdiv x.toInt (2 ^ (y.toNat % 64))))
    ∧ gives (.virgaSlt d r t) (if x.toInt < y.toInt then 1 else 0)
    ∧ gives (.virgaSltu d r t) (if x.toNat < y.toNat then 1 else 0)
    ∧ gives (.virgaAddi d r i) (BitVec.ofInt 64 ((x.toNat : Int) + i.toInt))
    ∧ gives (.virgaSlti d r i) (if x.toInt < i.toInt then 1 else 0)
    ∧ gives (.virgaAndi d r i) (x &&& BitVec.ofNat 64 i.toNat)
    ∧ gives (.virgaOri d r i) (x ||| BitVec.ofNat 64 i.toNat)
    ∧ gives (.virgaXori d r i) (x ^^^ BitVec.ofNat 64 i.toNat)
    ∧ gives (.virgaShli d r h) (BitVec.ofNat 64 (x.toNat * 2 ^ h.toNat))
    ∧ gives (.virgaShri d r h) (BitVec.ofNat 64 (x.toNat / 2 ^ h.toNat))
    ∧ gives (.virgaSrai d r h) (BitVec.ofInt 64 (Int.fdiv x.toInt (2 ^ h.toNat)))
    ∧ gives (.virgaLis d i) (BitVec.ofNat 64 ((vreg v d).toNat * 65536 + i.toNat))
    ∧ exec .virgaNop s = .next (vmod s fun u => { u with pc := v.pc + 4, run := .run })
    -- a shift immediate above 63
    ∧ (∀ w : BitVec 32, w.extractLsb' 26 6 ∈ [0x10#6, 0x11, 0x12] → w.extractLsb' 6 10 ≠ 0 →
        decodeVirga w = .error .reservedField)
    ∧ exec .virgaUnassignedOpcode s = .next (vfault s 0x01 0)
    -- MFV: the registers of R396
    ∧ gives (.virgaMfv d 0x000) (BitVec.ofNat 64 (own / 4 * 8 + own % 4))
    ∧ gives (.virgaMfv d 0x001)
        (BitVec.ofNat 64 (maskOf (fun k => timerQueued v k) 16 * 65536 + v.queue.length % 2048))
    ∧ gives (.virgaMfv d 0x002) s.pkg.gtime
    ∧ gives (.virgaMfv d 0x003) v.vcyc
    ∧ gives (.virgaMfv d 0x004) v.vtvec
    ∧ gives (.virgaMfv d 0x005) v.vepc
    ∧ gives (.virgaMfv d 0x006) v.vcause
    ∧ gives (.virgaMfv d 0x007) v.vtval
    ∧ gives (.virgaMfv d 0x008) (BitVec.ofNat 64 (v.clrMask.toNat * 65536 + v.ovfw.toNat))
    ∧ gives (.virgaMfv d 0x00C) (v.losMask.extractLsb' 0 64)
    ∧ gives (.virgaMfv d 0x00D) (v.losMask.extractLsb' 64 64)
    ∧ gives (.virgaMfv d 0x010) (BitVec.ofNat 64 s.pkg.gtrate.toNat)
    ∧ gives (.virgaMfv d 0x011) (if own = 0 then s.pkg.ptpofs else 0)
    ∧ gives (.virgaMfv d 0x012) (if own = 0 then BitVec.ofNat 64 s.pkg.ptpseq.toNat else 0)
    -- MTV: writable fields alone
    ∧ sets 0x004 (fun u => { u with vtvec := x &&& 0x1FFFD#64 })
    ∧ sets 0x005 (fun u => { u with vepc := x &&& 0x1FFFC#64 })
    ∧ sets 0x006 (fun u => { u with vcause := x &&& 0x1FF#64 })
    ∧ sets 0x007 (fun u => { u with vtval := x })
    ∧ (∀ num ∈ [0x000#12, 0x001, 0x002, 0x003, 0x008, 0x00C, 0x00D, 0x011, 0x012], sets num id)
    ∧ (own ≠ 0 → sets 0x010 id ∧ sets 0x013 id)
    ∧ (own = 0 → ∃ u, exec (.virgaMtv r 0x010) s = .next u ∧ (vself u).pc = v.pc + 4
        ∧ (s.pkg.ptp ≠ .hold →
          u.pkg = { s.pkg with gtrate := BitVec.ofInt 32 (max (-2147483) (min 2147483 (x.setWidth 32).toInt)) })
        ∧ (s.pkg.ptp = .hold → u.pkg = s.pkg))
    ∧ (own = 0 → ∃ u, exec (.virgaMtv r 0x013) s = .next u ∧ (vself u).pc = v.pc + 4
        ∧ (s.pkg.gtstepDone = true ∨ x.toInt ≤ 0 → u.pkg = s.pkg)
        ∧ (s.pkg.gtstepDone = false → 0 < x.toInt → u.pkg = { s.pkg with gtime := s.pkg.gtime + x, gtstepDone := true }))
    -- a number that is no register
    ∧ (n ∉ [0x000#12, 0x001, 0x002, 0x003, 0x004, 0x005, 0x006, 0x007, 0x008, 0x00C, 0x00D, 0x010, 0x011, 0x012, 0x013] →
        exec (.virgaMfv d n) s = .next (vfault s 0x01 0) ∧ exec (.virgaMtv r n) s = .next (vfault s 0x01 0))

/-- Loads and stores of a Virga core move 8 or 4 little-endian bytes between gd and DMEM, branches and jumps go to their target
when their condition holds and to the next word otherwise, and what faults has no other effect: ALIGN before BOUND, with the
address in VTVAL (R402, R403); a fault vectors, or stops the core and posts CTX_FAULT (R404, R405). -/
def Obligations.VirgaMemoryBranchAndFaultResults : Prop :=
  ∀ (s : State) (d r t : BitVec 5) (i : BitVec 16) (o : BitVec 26) (cause : BitVec 8) (val : BitVec 64),
    let n := s.iss.virga
    let v := vself s
    let x := vreg v r
    let y := vreg v t
    let a := (x.toNat + (i.signExtend 64).toNat) % 2 ^ 64
    let byte := fun (k : Nat) => (dmemByte v n (a + k)).toNat
    let word := byte 0 + 256 * byte 1 + 65536 * byte 2 + 16777216 * byte 3
    let high := byte 4 + 256 * byte 5 + 65536 * byte 6 + 16777216 * byte 7
    let goes := fun (ins : Instr) (at_ : Nat) => exec ins s = .next (vmod s fun u => { u with pc := at_, run := .run })
    let loads := fun (ins : Instr) (w : Nat) =>
      exec ins s = .next (vmod s fun u => { vput u d (BitVec.ofNat 64 w) with pc := v.pc + 4, run := .run })
    let stores := fun (ins : Instr) (size : Nat) => ∃ u, exec ins s = .next (vmod s fun _ => u)
      ∧ { u with dmem := v.dmem, pc := v.pc, run := v.run } = v ∧ u.pc = v.pc + 4 ∧ u.run = .run
      ∧ (∀ k, k < size → dmemByte u n (a + k) = (vreg v d).extractLsb' (8 * k) 8)
      ∧ ∀ b, b < a ∨ a + size ≤ b → dmemByte u n b = dmemByte v n b
    let faults := fun (ins : Instr) (c : BitVec 8) (w : BitVec 64) => exec ins s = .next (vfault s c w)
    let near := ((v.pc : Int) + 4 * i.toInt)
    let far := ((v.pc : Int) + 4 * o.toInt)
    let inside := fun (at_ : Int) => 0 ≤ at_ ∧ at_ < 0x20000
    let outside := fun (at_ : Int) => 0 ≤ at_ ∧ 0x20000 ≤ at_ ∨ -(2 ^ 63) ≤ at_ ∧ at_ < 0
    let branch := fun (ins : Instr) (met : Prop) =>
      (¬ met → goes ins (v.pc + 4)) ∧ (met → inside near → goes ins near.toNat)
      ∧ (met → outside near → v.pc < 0x20000 → faults ins 0x11 (BitVec.ofInt 64 near))
    (a % 8 = 0 → a + 8 ≤ 0x40000 → loads (.virgaLd d r i) (word + 2 ^ 32 * high) ∧ stores (.virgaSt d r i) 8)
    ∧ (a % 4 = 0 → a + 4 ≤ 0x40000 → loads (.virgaLw d r i) word ∧ stores (.virgaSw d r i) 4)
    ∧ (a % 8 ≠ 0 → faults (.virgaLd d r i) 0x10 (BitVec.ofNat 64 a) ∧ faults (.virgaSt d r i) 0x10 (BitVec.ofNat 64 a))
    ∧ (a % 4 ≠ 0 → faults (.virgaLw d r i) 0x10 (BitVec.ofNat 64 a) ∧ faults (.virgaSw d r i) 0x10 (BitVec.ofNat 64 a))
    ∧ (a % 8 = 0 → 0x40000 < a + 8 →
        faults (.virgaLd d r i) 0x11 (BitVec.ofNat 64 a) ∧ faults (.virgaSt d r i) 0x11 (BitVec.ofNat 64 a))
    ∧ (a % 4 = 0 → 0x40000 < a + 4 →
        faults (.virgaLw d r i) 0x11 (BitVec.ofNat 64 a) ∧ faults (.virgaSw d r i) 0x11 (BitVec.ofNat 64 a))
    ∧ branch (.virgaBeq r t i) (x = y)
    ∧ branch (.virgaBne r t i) (x ≠ y)
    ∧ branch (.virgaBlt r t i) (x.toInt < y.toInt)
    ∧ branch (.virgaBge r t i) (y.toInt ≤ x.toInt)
    ∧ branch (.virgaBltu r t i) (x.toNat < y.toNat)
    ∧ branch (.virgaBgeu r t i) (y.toNat ≤ x.toNat)
    ∧ (inside far → goes (.virgaJ o) far.toNat
        ∧ exec (.virgaJal o) s = .next (vmod s fun u =>
          { vput u 31 (BitVec.ofNat 64 (v.pc + 4)) with pc := far.toNat, run := .run }))
    ∧ (outside far → v.pc < 0x20000 →
        faults (.virgaJ o) 0x11 (BitVec.ofInt 64 far) ∧ faults (.virgaJal o) 0x11 (BitVec.ofInt 64 far))
    ∧ (x.toNat % 4 = 0 → x.toNat < 0x20000 → goes (.virgaJr r) x.toNat)
    ∧ (x.toNat % 4 = 0 → 0x20000 ≤ x.toNat → faults (.virgaJr r) 0x11 x)
    ∧ (x.toNat % 4 ≠ 0 → faults (.virgaJr r) 0x10 x)
    ∧ (v.vepc.toNat < 0x20000 → exec .virgaVret s = .next (vmod s fun u =>
        { u with vcause := u.vcause &&& 0xFF#64, pc := v.vepc.toNat, run := .run }))
    ∧ (0x20000 ≤ v.vepc.toNat → faults .virgaVret 0x11 v.vepc)
    ∧ faults .virgaUnassignedOpcode 0x01 0
    -- taking a fault
    ∧ (v.vtvec.getLsbD 0 = true → v.vcause.getLsbD 8 = false → v.pc < 0x20000 →
        vfault s cause val = vmod s fun u => { u with
          vepc := BitVec.ofNat 64 v.pc
          vcause := BitVec.ofNat 64 (0x100 + cause.toNat)
          vtval := val
          pc := v.vtvec.toNat / 4 % 0x8000 * 4
          run := .run })
    ∧ (v.vtvec.getLsbD 0 = false ∨ v.vcause.getLsbD 8 = true →
        vself (vfault s cause val) = { v with run := .stopped }
        ∧ vfault s cause val = postHost (vmod s fun u => { u with run := .stopped })
          ⟨0x0001, cause.setWidth 16, none, toBytes (0xFFFFFF00 + n) 4 ++ zeroBytes 4 ++ toBytes v.pc 8⟩)

/-- Event, timer and transport-state instructions of a Virga core read and write the entries that they name, each at once, and
fault with RANGE, OWNER, ALIGN, BOUND or ILLOP where they must, changing nothing else (R406 to R414). What PSRD gives for the
state of a port of an entry that the set does not have is left free (log 13), that PSDIS leaves PTR as it stands is log 24
(DEDUCED), and how drained records post is R68. -/
def Obligations.VirgaStateInstructionResults : Prop :=
  ∀ (s : State) (d r t q : BitVec 5) (f : BitVec 3) (rec : EventRec) (rest : List EventRec),
    let n := s.iss.virga
    let v := vself s
    let x := vreg v r
    let y := vreg v t
    let z := vreg v q
    let k := x.toNat
    let faults := fun (ins : Instr) (c : BitVec 8) (w : BitVec 64) => exec ins s = .next (vfault s c w)
    let next := fun (ins : Instr) (s1 : State) =>
      exec ins s = .next (vmod s1 fun u => { u with pc := u.pc + 4, run := .run })
    let put := fun (l : List (BitVec 64)) => vmod s fun u => vputs u d l
    let four := fun (w : BitVec 256) => put ((List.range 4).map fun j => w.extractLsb' (64 * j) 64)
    let eight := fun (w : BitVec 512) => put ((List.range 8).map fun j => w.extractLsb' (64 * j) 64)
    let p := getPdc s k
    let mine := k < 65536 ∧ k % 8 = n
    let live := p.state = 1 ∨ p.state = 2 ∨ p.state = 3
    let asks := fun (ins : Instr) (l : List Nat) =>
      (l ≠ [] → live → p.retx.length < 16 → next ins (modPdc s k fun p => { p with retx := p.retx ++ [⟨y.setWidth 32, l⟩] }))
      ∧ (l = [] ∨ ¬ live → next ins s)
      ∧ (l ≠ [] → live → 16 ≤ p.retx.length → exec ins s = .next (vmod s fun u => { u with run := .wait }))
    let set := getPathset s k
    let entry := set.getD y.toNat 0
    let port := getPort s (entry.extractLsb' 24 7).toNat
    let b := getRcb s k
    let timer := tblGet ⟨0, 0, 0⟩ v.timers k
    let due := timer.deadline ≠ 0 ∧ timer.deadline.toNat ≤ s.pkg.gtime.toNat
    let type : BitVec 16 := x.setWidth 16
    -- EVTAKE
    (v.queue = [] → exec (.virgaEvtake d true) s = .next (vmod s fun u => { u with run := .wait })
      ∧ next (.virgaEvtake d false) (put [0, 0, 0, 0]))
    ∧ (v.queue = rec :: rest → rec.code ≠ 13 → ∀ w, exec (.virgaEvtake d w) s = .next (drainEvents (vmod s fun u =>
        vnext (vputs { u with queue := rest, ovf := false } d ((List.range 4).map fun j =>
          (recordWord { rec with ovf := v.ovf }).extractLsb' (64 * j) 64))) n 64))
    ∧ (v.queue = rec :: rest → rec.code = 13 → ∀ w, exec (.virgaEvtake d w) s = .next (drainEvents (vmod s fun u =>
        vnext (vputs (setTimer { u with queue := rest, ovf := false } rec.aux.toNat
          { getTimer u rec.aux.toNat with expiries := 0 }) d ((List.range 4).map fun j => (recordWord { rec with
            ovf := v.ovf, count := BitVec.ofNat 32 (getTimer v rec.aux.toNat).expiries }).extractLsb' (64 * j) 64))) n 64))
    ∧ (∀ m, 1024 ≤ (getVirga s n).queue.length → drainEvents s n m = s)
    -- TMSET
    ∧ (k ≤ 15 → ¬ due → next (.virgaTmset q r t)
        (vmod s fun u => setTimer u k ⟨y, z, timer.expiries⟩))
    ∧ (k ≤ 15 → due → ∃ u, exec (.virgaTmset q r t) s = .next u ∧ (getTimer (vself u) k).deadline = y
        ∧ (getTimer (vself u) k).period = z ∧ timer.expiries < (getTimer (vself u) k).expiries)
    ∧ (15 < k → faults (.virgaTmset q r t) 0x21 x)
    -- PDCRD, PDCWR, PDCFAIL, RETX, RETXM
    ∧ (k < 65536 → next (.virgaPdcrd d r) (four (pdcWord p)))
    ∧ (mine →
        next (.virgaPdcwr r t 0) (modPdc s k fun p => { p with cwnd := BitVec.ofNat 16 (min 65535 (max 16 y.toNat)) })
        ∧ next (.virgaPdcwr r t 1) (modPdc s k fun p =>
          { p with rtous := BitVec.ofNat 16 (max 1 (min y.toNat (peerRtomax (getPeer s p.peer.toNat)).toNat)) })
        ∧ next (.virgaPdcwr r t 2) (modPdc s k fun p => { p with ccacks := BitVec.ofNat 8 (min 255 y.toNat) })
        ∧ next (.virgaPdcwr r t 3) (modPdc s k fun p => { p with ccus := BitVec.ofNat 8 (min 255 y.toNat) })
        ∧ next (.virgaPdcwr r t 4) (modPdc s k fun p => { p with
          evpend := p.evpend &&& ~~~(y.setWidth 16)
          events := tblFilter (fun c _ => !y.toNat.testBit c) p.events })
        ∧ next (.virgaPdcfail d r) (vmod (if live then failPdc s k else s) fun u => vput u d (p.state.setWidth 64))
        ∧ (z.toNat ≤ 1024 → asks (.virgaRetx q r t) (List.range z.toNat))
        ∧ (1024 < z.toNat → faults (.virgaRetx q r t) 0x21 z)
        ∧ asks (.virgaRetxm q r t) ((List.range 64).filter fun i => z.getLsbD i))
    ∧ (5 ≤ f.toNat → faults (.virgaPdcwr r t f) 0x01 0)
    ∧ (65536 ≤ k → faults (.virgaPdcrd d r) 0x21 x ∧ (f.toNat < 5 → faults (.virgaPdcwr r t f) 0x21 x)
        ∧ faults (.virgaPdcfail d r) 0x21 x ∧ faults (.virgaRetx q r t) 0x21 x ∧ faults (.virgaRetxm q r t) 0x21 x)
    ∧ (k < 65536 → k % 8 ≠ n → (f.toNat < 5 → faults (.virgaPdcwr r t f) 0x20 x)
        ∧ faults (.virgaPdcfail d r) 0x20 x ∧ faults (.virgaRetx q r t) 0x20 x ∧ faults (.virgaRetxm q r t) 0x20 x)
    -- LOSNEXT
    ∧ (∀ w c, k < 128 → losFind s n k (if w = true then none else tblGet none v.cursors k) = some c →
        next (.virgaLosnext d r w) (vmod s fun u => vputs { u with cursors := tblSet none v.cursors k (some (c.1, c.2 + 64)) }
          d [BitVec.ofNat 64 (c.1 * 2 ^ 32 + c.2.toNat),
            BitVec.ofNat 64 (maskOf (fun i => leftOn (getPdc s c.1) k (c.2 + BitVec.ofNat 32 i)) 64)])
        ∧ c.1 % 8 = n ∧ (tblWf pdcEmpty s.net.pdcs = true → leftOn (getPdc s c.1) k c.2 = true
          ∧ (w = true → ∀ j i, j % 8 = n → i < 1024 → leftOn (getPdc s j) k ((getPdc s j).unaPsn + BitVec.ofNat 32 i) = true →
            c.1 < j ∨ c.1 = j ∧ (c.2 - (getPdc s j).unaPsn).toNat ≤ i)))
    ∧ (∀ w, k < 128 → losFind s n k (if w = true then none else tblGet none v.cursors k) = none →
        ∃ u, exec (.virgaLosnext d r w) s = .next u
          ∧ (d ≠ 0 → d ≠ 31 → vreg (vself u) d = BitVec.allOnes 64 ∧ vreg (vself u) (d + 1) = 0) ∧ (vself u).pc = v.pc + 4)
    ∧ (∀ w, 128 ≤ k → faults (.virgaLosnext d r w) 0x21 x)
    -- PSRD, PSCNT, PSDIS
    ∧ (k < 4096 → y.toNat < set.length → y.toNat < 64 → next (.virgaPsrd d r t) (put [BitVec.ofNat 64
        (entry.toNat + 2 ^ 32 * (if port.admitted then 1 else 0) + 2 ^ 33 * (if port.up then 1 else 0))]))
    ∧ (k < 4096 → set.length ≤ y.toNat → y.toNat < 64 → ∃ w, w < 4 ∧
        next (.virgaPsrd d r t) (put [BitVec.ofNat 64 (2 ^ 34 + w * 2 ^ 32)]))
    ∧ (k < 4096 → set.length ≤ 64 → next (.virgaPscnt d r) (put [BitVec.ofNat 64
        ((set.filter fun e => e.getLsbD 31 && (getPort s (e.extractLsb' 24 7).toNat).admitted
          && (getPort s (e.extractLsb' 24 7).toNat).up).length + 256 * set.length)]))
    ∧ (k < 4096 → y.toNat < 64 → next (.virgaPsdis r t) (settlePaths { s with net := { s.net with
        pathsets := tblSet [] s.net.pathsets k (setAt set y.toNat (entry &&& 0x7FFFFFFF#32)) } }))
    ∧ (4096 ≤ k → faults (.virgaPsrd d r t) 0x21 x ∧ faults (.virgaPsdis r t) 0x21 x ∧ faults (.virgaPscnt d r) 0x21 x)
    ∧ (k < 4096 → 64 ≤ y.toNat → faults (.virgaPsrd d r t) 0x21 y ∧ faults (.virgaPsdis r t) 0x21 y)
    -- RCBRD, BMRD, WINRD, PEERRD, EPRD
    ∧ (k < 16384 → next (.virgaRcbrd d r) (eight (rcbWord b))
        ∧ (y.toNat % 64 = 0 → ∃ w : BitVec 64, next (.virgaBmrd d r t) (put [w])
          ∧ ∀ i, i < 64 → w.getLsbD i = (decide (b.state ≠ 0 ∧ y.toNat + i < b.nchk * ((b.image.extractLsb' 207 4).toNat + 1))
            && tblGet false b.bitmap (y.toNat + i)))
        ∧ (y.toNat % 64 ≠ 0 → faults (.virgaBmrd d r t) 0x10 y))
    ∧ (16384 ≤ k → faults (.virgaRcbrd d r) 0x21 x ∧ faults (.virgaBmrd d r t) 0x21 x)
    ∧ (k < 256 → next (.virgaWinrd d r) (four (windowWord (getWindow s k)))
        ∧ next (.virgaEprd d r) (put [match (getDomain s k).next with
          | some e => BitVec.ofNat 64 ((getDomain s k).epoch.toNat + 2 ^ 16 + 2 ^ 32 * e.1.toNat)
          | none => BitVec.ofNat 64 (getDomain s k).epoch.toNat]))
    ∧ (256 ≤ k → faults (.virgaWinrd d r) 0x21 x ∧ faults (.virgaEprd d r) 0x21 x)
    ∧ (k < 65536 → next (.virgaPeerrd d r) (eight (getPeer s k)))
    ∧ (65536 ≤ k → faults (.virgaPeerrd d r) 0x21 x)
    -- HEV
    ∧ (x.toNat < 2 ^ 45 → type = 0x0010 ∨ type = 0x0011 ∨ type = 0x0012 → y.toNat % 8 = 0 → y.toNat + 40 ≤ 0x40000 →
        next (.virgaHev r t) (postHost s ⟨type, x.extractLsb' 16 16,
          if x.getLsbD 44 then some (x.extractLsb' 32 12).toNat else none, dmemBytes v n y.toNat 40⟩))
    ∧ (2 ^ 45 ≤ x.toNat ∨ ¬ (type = 0x0010 ∨ type = 0x0011 ∨ type = 0x0012) → faults (.virgaHev r t) 0x21 x)
    ∧ (x.toNat < 2 ^ 45 → type = 0x0010 ∨ type = 0x0011 ∨ type = 0x0012 → y.toNat % 8 ≠ 0 → faults (.virgaHev r t) 0x10 y)
    ∧ (x.toNat < 2 ^ 45 → type = 0x0010 ∨ type = 0x0011 ∨ type = 0x0012 → y.toNat % 8 = 0 → 0x40000 < y.toNat + 40 →
        faults (.virgaHev r t) 0x11 y)

/-! ### Groups, deferred traps and pending lines -/

/-- A stalled group is tried in a cycle of the merge stage that takes its slot, and commits once its condition holds, exactly as
its own turn would; a core has one such cycle on a beat, and a group whose condition does not hold is not taken; a deferred trap
is taken at the next group boundary, oldest first; a word that is no operation raises ILLOP, or ILLHDR for a header out of
place; a line of the write-combining store held for 2 µs goes to HBM, or is discarded where its channel is lost, and leaves the
store (R140, R186, R246, R261, R267, R273, R287). -/
def Obligations.GroupBoundaryResults : Prop :=
  (∀ (s s1 s2 : State) (k : Nat) (x : Scanned) (stop : Bool) (i : Instr) (next : BitVec 64) (nf : Option TrapInfo)
      (o : OpOut),
    let s0 := beginCycle s (k / 2)
    s.input = .num k → mergeSpent s (k / 2) = false → (mergePlan s (k / 2)).1 = [k] → canIssue s0 k = true →
    dutyPermits s0 k = true → (getCell s0 k).deferred = [] →
    fetchGroup s0 k = (s1, .ok ([x], stop)) → structuralCauses [] stop [x] = [] → fetchHits (getCell s1 k) [] [x] = [] →
    x.dec = .ok i → nextGroup s1 k x.addr (needsNext [x]) = (s2, next, nf) →
    let s3 := { s2 with iss := ⟨k, BitVec.ofNat 64 x.addr, BitVec.ofNat 64 x.addr, next, x.word, 0, nf, 0, s1.iss.virga⟩ }
    let ready_ := guardTrue (getCell s3 k) i = true ∧ scoreBlocked (getCell s3 k) i = false ∧ poisonRead (getCell s3 k) i = none
    exec .stalledGroupCommit s = exec i s3
    ∧ (ready_ → opOf i s3 [] = o →
        (∀ tag effs, o.res = .done tag effs → tag ≠ .push →
          exec .stalledGroupCommit s = .next (commitGroup (o.walk s3) [(0, o)])
          ∧ (effs = [] → (getCell (commitGroup (o.walk s3) [(0, o)]) k).pc = next))
        ∧ (∀ w, o.res = .stall true w → exec .stalledGroupCommit s =
            .next (modCell (o.walk s3) k (enterWait s3.pkg.gtime.toNat w)))))
  ∧ (∀ (s : State) (k : Nat), s.input = .num k →
    (mergeSpent s (k / 2) = true ∨ k ∉ (mergePlan s (k / 2)).1 → exec .stalledGroupCommit s = .next s)
    ∧ ((mergePlan s (k / 2)).1 = [k] → (getCore (beginCycle s (k / 2)) (k / 2)).cycle = s.pkg.beat.toNat + 1))
  ∧ (∀ (s s1 s2 : State) (k : Nat) (x : Scanned) (stop : Bool) (i : Instr) (next : BitVec 64) (nf : Option TrapInfo)
      (o : OpOut) (w : WaitWord), s.input = .num k → (getCell s k).deferred = [] →
    fetchGroup s k = (s1, .ok ([x], stop)) → structuralCauses [] stop [x] = [] → fetchHits (getCell s1 k) [] [x] = [] →
    x.dec = .ok i → nextGroup s1 k x.addr (needsNext [x]) = (s2, next, nf) →
    let s3 := { s2 with iss := ⟨k, BitVec.ofNat 64 x.addr, BitVec.ofNat 64 x.addr, next, x.word, 0, nf, 0, s1.iss.virga⟩ }
    guardTrue (getCell s3 k) i = true → poisonRead (getCell s3 k) i = none →
    scoreBlocked (getCell s3 k) i = true ∨ (opOf i s3 [] = o ∧ o.res = .stall false w) → exec .stalledGroupCommit s = .next s)
  ∧ (∀ (s : State) (k : Nat) (e : Deferred) (rest : List Deferred), s.input = .num k → canIssue s k = true →
    let t := e.trap
    (getCell s k).deferred = e :: rest → haltNext s k = false → (∀ x ∈ (getCell s k).sends, x.clash = false) →
    (getCell s k).pubs = [] → (getCell s k).tvec.getLsbD 0 = true → (getCell s k).busy = false →
    ∃ u, exec .deferredTrap s = .next u ∧ (getCell u k).deferred = rest ∧ (getCell u k).cause = t.cause
      ∧ (getCell u k).defer = true ∧ (getCell u k).trapslot = 0 ∧ (getCell u k).trapaddr = t.addr
      ∧ (getCell u k).trapaux = trapAux t ∧ (getCell u k).trappc = groupStart s k &&& 0x000FFFFFFFFFFFFC#64
      ∧ (getCell u k).super = true ∧ (getCell u k).busy = true ∧ (getCell u k).pm = (getCell s k).super
      ∧ (getCell u k).pc = (getCell s k).tvec &&& 0x000FFFFFFFFFFFFC#64
      ∧ (getCell u k).s = (getCell s k).s ∧ u.mem = s.mem ∧ ∀ j, j ≠ k → getCell u j = getCell s j)
  ∧ (∀ s : State,
    let header := s.iss.word.extractLsb' 28 3 = 0
    let placed := s.iss.addr.toNat % 16 = 0 ∧ s.iss.word.getLsbD 31 = false ∧ (self s).branched = false
    exec .unassignedOpcode s = .next (trapped s ⟨if header ∧ ¬ placed then 0x04 else 0x01, 0, 0, 0, s.iss.word, false⟩))
  ∧ (∀ (s : State) (die line : Nat) (l : WcLine), s.input = .pair die line →
    tblGet none (getDie s die).lines line = some l →
    (s.pkg.gtime.toNat < l.since + 2000 → exec .wcsLineDrainTimeout s = .next s)
    ∧ (l.since + 2000 ≤ s.pkg.gtime.toNat → tblRising none l.data = true →
      ∃ u, exec .wcsLineDrainTimeout s = .next u ∧ tblGet none (getDie u die).lines line = none
        ∧ (∀ j, j ≠ line → tblGet none (getDie u die).lines j = tblGet none (getDie s die).lines j)
        ∧ (physLost s (256 * line) = false → ∀ a, memByte u a =
          if 256 * line ≤ a then (tblGet none l.data (a - 256 * line)).getD (memByte s a) else memByte s a)
        ∧ (256 * line < 0x6000000000 → (getDie s (stackOf (256 * line))).badChannels.testBit (256 * line / 2048 % 32) = true →
          u.mem = s.mem)
        ∧ (∀ j, j ≠ die → getDie u j = getDie s j) ∧ u.cells = s.cells ∧ u.poison = s.poison))

/-! ### The package -/

/-- PERST# resets the package and start-up begins at phase 1; each phase, where it is the next, does its work and makes the one
after it due: verification (a bad image stops the package), Virga cores at IMEM address 0, base dies, compute dies with the beat
counter at 0, ports and READY; no port is admitted (R39, R40, R48, R394). What PERST# keeps of memory is the model's choice
(log 4), and which state each phase clears its reading of R39 (DEDUCED, log 39). -/
def Obligations.StartupResults : Prop :=
  ∀ s : State,
    let due := fun (n : Nat) => s.pkg.phase = n ∧ s.pkg.failed = false
    exec .perstAssert s = .next { State.reset with
      mem := s.mem, poison := s.poison, pkg := { Package.reset with firmware := s.pkg.firmware }, images := s.images
      agenda := s.agenda, tick := s.tick }
    ∧ Package.reset.phase = 1 ∧ Package.reset.gtime = 0 ∧ Package.reset.failed = false
    ∧ (due 1 → Config.firmwareGood s.pkg.firmware = true →
        exec .startupPhase1 s = .next { s with pkg := { s.pkg with phase := 2 } })
    ∧ (due 1 → Config.firmwareGood s.pkg.firmware = false →
        exec .startupPhase1 s = .next { s with pkg := { s.pkg with failed := true } })
    ∧ (due 2 → ∃ t, exec .startupPhase2 s = .next t ∧ t.pkg = { s.pkg with phase := 3 } ∧ t.mem = s.mem
        ∧ ∀ n, n < 8 → (getVirga t n).run = .run ∧ (getVirga t n).pc = 0 ∧ (getVirga t n).vtvec = 0 ∧ (getVirga t n).g = []
          ∧ (getVirga t n).queue = [] ∧ (getVirga t n).timers = [] ∧ (getVirga t n).imem = [] ∧ (getVirga t n).dmem = []
          ∧ (getVirga t n).image = some s.pkg.firmware)
    ∧ (due 3 → exec .startupPhase3 s = .next { s with dies := [], pkg := { s.pkg with phase := 4 } })
    ∧ (due 4 → exec .startupPhase4 s = .next { s with cells := [], cores := [], pkg := { s.pkg with beat := 0, phase := 5 } })
    ∧ (due 5 → ∃ t, exec .startupPhase5 s = .next t ∧ t.pkg = { s.pkg with phase := 6 } ∧ t.gafin.ready = true
        ∧ (∀ p, (getPort t p).admitted = (getPort s p).admitted)
        ∧ (∀ p, p < 128 → Config.etherTrains p s.tick = true → (getPort t p).up = true)
        ∧ (∀ p, p < 128 → Config.etherTrains p s.tick = false → (getPort t p).up = (getPort s p).up)
        ∧ (∀ p, p < 8 → Config.cxlTrains p s.tick = true →
          (getCxl t p).up = true ∧ (getCxl t p).capacity = Config.cxlCapacity p s.tick))
    ∧ ∀ i n, (i, n) ∈ [(Instr.startupPhase1, 1), (.startupPhase2, 2), (.startupPhase3, 3), (.startupPhase4, 4), (.startupPhase5, 5)] →
        ¬ due n → exec i s = .next s

/-- What happens to the package as a whole: THERMTRIP stops issue on every core; PTP, GTSTEP and GTRATE discipline GTIME; a Virga
timer expires; an error poisons its word, is counted, or stops a tile; a row-remap error is reported; a CXL link or an Ethernet
port goes down or returns; PAUSE is discarded; an image reaches the persistent store (R23, R29, R36, R38, R42, R50, R123, R124,
R260, R261, R393, R397, R407). That MEM_UE names the start of a range is log 34, that the trip leaves the Virga cores is log 36,
and how PTP, GTSTEP and GTRATE act is log 40 (all DEDUCED). -/
def Obligations.PackageEventResults : Prop :=
  ∀ (s : State) (n m v : Nat) (bs : List Byte),
    let timer := getTimer (getVirga s n) m
    let late := (s.pkg.gtime - timer.deadline).toNat / timer.period.toNat + 1
    (s.input = .num n → n < 18 → ∃ t, exec .thermtrip s = .next t ∧ (∀ k, canIssue t k = false) ∧ t.cells = s.cells
      ∧ t.mem = s.mem ∧ t.virga = s.virga)
    ∧ (s.input = .num v → feature s 8 = true → s.pkg.ptp = .follow → (getPort s s.pkg.ptpPort.toNat).up = true →
        exec .ptpExchangeComplete s = .next { s with
          pkg := { s.pkg with ptpofs := BitVec.ofNat 64 v, ptpseq := s.pkg.ptpseq + 1 } })
    ∧ (s.input = .num v → s.pkg.ptp ≠ .follow ∨ feature s 8 = false → exec .ptpExchangeComplete s = .next s)
    ∧ (s.input = .num v → 0 < v → v < 2 ^ 63 → s.pkg.gtstepDone = false → exec .gtstepWrite s = .next { s with
        pkg := { s.pkg with gtime := s.pkg.gtime + BitVec.ofNat 64 v, gtstepDone := true } })
    ∧ (s.input = .num v → v < 2 ^ 64 → s.pkg.gtstepDone = true ∨ v = 0 ∨ 2 ^ 63 ≤ v → exec .gtstepWrite s = .next s)
    ∧ (s.input = .num v → v < 2 ^ 32 → s.pkg.ptp ≠ .hold → exec .gtrateWrite s = .next { s with
        pkg := { s.pkg with gtrate := BitVec.ofInt 32 (max (-2147483) (min 2147483 (BitVec.ofNat 32 v).toInt)) } })
    ∧ (s.input = .num v → s.pkg.ptp = .hold → exec .gtrateWrite s = .next s)
    -- a Virga timer
    ∧ (s.input = .pair n m → n < 8 → m < 16 → timer.deadline ≠ 0 → timer.deadline.toNat ≤ s.pkg.gtime.toNat →
        ∃ t, exec .virgaTimerExpiry s = .next t
          ∧ (timer.period = 0 → getTimer (getVirga t n) m = ⟨0, 0, timer.expiries + 1⟩)
          ∧ (timer.period ≠ 0 → getTimer (getVirga t n) m =
            ⟨timer.deadline + BitVec.ofNat 64 late * timer.period, timer.period, timer.expiries + late⟩
            ∧ s.pkg.gtime.toNat < timer.deadline.toNat + late * timer.period.toNat)
          ∧ (timerQueued (getVirga s n) m = true → (getVirga t n).queue = (getVirga s n).queue)
          ∧ (timerQueued (getVirga s n) m = false → (getVirga s n).queue.length < 1024 → (getVirga t n).queue =
            (getVirga s n).queue ++ [⟨13, false, false, 0, 0, none, s.pkg.gtime, 0, 0, BitVec.ofNat 64 m⟩]))
    -- errors of memories and logic
    ∧ (s.input = .triple 0 n m → n < 0x6000000000 → exec .eccUncorrectable s = .next (postMemUe { s with
        poison := tblSet false s.poison (n / 8) true } 1 (n / 8 * 8) (stackOf n)))
    ∧ (s.input = .triple 1 n m → (getCell s n).live = true → m < 32 * 65536 → exec .eccUncorrectable s = .next
        (modCell s n fun c => poisonNear c (m / 65536) (m % 65536 / 8 * 8) 8))
    ∧ (s.input = .triple 5 n m → (getCell s n).live = true → m < 64 → ∃ t, exec .eccUncorrectable s = .next t
        ∧ regPoisoned (getCell t n) m = true ∧ (getCell t n).s = (getCell s n).s)
    ∧ (s.input = .triple 4 n m → n < 8 → (getVirga s n).run ≠ .stopped → exec .eccUncorrectable s = .next (vstop s n 0x31))
    ∧ (s.input = .pair n m → n = 6 ∨ n = 7 → m < 8 → ∃ t, exec .eccCorrected s = .next t ∧ t.mem = s.mem
        ∧ ∀ i, i < 64 → (tblGet 0 s.gafin.cntsrc i).toNat % 65536 = n * 4096 + m →
          tblGet 0 t.gafin.cnt i = tblGet 0 s.gafin.cnt i + 1)
    ∧ (s.input = .num n → n < 8 → ∃ t, exec .eccCorrected s = .next t ∧ t.mem = s.mem ∧ t.virga = s.virga
        ∧ ∀ i, i < 64 → (tblGet 0 s.gafin.cntsrc i).toNat % 65536 = 0x7000 + (if n < 4 then 0 else 4) →
          tblGet 0 t.gafin.cnt i = tblGet 0 s.gafin.cnt i + 1)
    ∧ (s.input = .num n → n < 640 → ∃ t, exec .parityError s = .next t ∧ canIssue t (2 * n) = false
        ∧ canIssue t (2 * n + 1) = false)
    ∧ (s.input = .pair n m → n < 8 → m < 32 → ∃ t, exec .remapTableUe s = .next (postHost t
        ⟨0x0021, 0, none, [BitVec.ofNat 8 n, BitVec.ofNat 8 m]⟩) ∧ (getDie t n).badChannels.testBit m = true
        ∧ t.mem = s.mem ∧ ∀ j, j ≠ n → getDie t j = getDie s j)
    -- links
    ∧ (s.input = .num n → n < 8 → (getCxl s n).up = true → ∃ t, (getCxl t n).up = false ∧ (getCxl t n).reported = true
        ∧ t.mem = s.mem ∧ ((getCxl s n).reported = false →
          exec .cxlLinkDown s = .next (postMemUe t 2 (0x100000000000 + n * 0x20000000000) n))
        ∧ ((getCxl s n).reported = true → exec .cxlLinkDown s = .next t))
    ∧ (s.input = .num n → (getCxl s n).resetting = true → (getCxl s n).resetCmds = [] → ∃ t,
        exec .cxlResetComplete s = .next t ∧ (getCxl t n).resetting = false ∧ (getCxl t n).requests = [] ∧ (getCxl t n).up = Config.cxlTrains n s.tick)
    ∧ (s.input = .num n → n < 128 → (getPort s n).up = true → ∃ t, exec .lossOfLight s = .next t
        ∧ getPort t n = ⟨false, false⟩ ∧ (s.pkg.ptp = .follow → s.pkg.ptpPort.toNat = n → t.pkg.ptp = .hold) ∧ ∀ e, (e.extractLsb' 24 7).toNat = n → entryUsable t e = false)
    ∧ (s.input = .num n → n < 128 → (getPort s n).up = false → 5 < s.pkg.phase → ∃ t, exec .linkRetrained s = .next t
        ∧ getPort t n = { getPort s n with up := true } ∧ t.net.pathsets = s.net.pathsets
        ∧ ((getVirga s (n / 16)).queue.length < 1024 → (getVirga t (n / 16)).queue =
          (getVirga s (n / 16)).queue ++ [⟨6, false, false, BitVec.ofNat 7 n, 0, none, s.pkg.gtime, 0, 0, 0⟩]))
    ∧ (s.input = .num n → n < 128 → (getPort s n).up = true → ∃ t, exec .pauseFrameReceived s = .next t ∧ t.net = s.net
        ∧ t.virga = s.virga ∧ t.mem = s.mem)
    ∧ (s.input = .bytes n bs → exec .sidebandFirmwareWrite s = .next { s with pkg := { s.pkg with firmware := bs } })

/-! ### The host interface -/

/-- Accesses of the host to the registers of BAR 0 do what the register's row says once start-up is complete, and nothing
before: reads, plain writes, features, EN, the event ring, semaphores, notify and queue configuration (R40, R104 to R109,
R118, R120). A queue is enabled only once a submission of features is accepted (R106), RESUME fetches the halted command
afresh (R108), and a buffered record is written while EVPROD less EVCONS is not the ring's size (R120). That EVEN zeroes
EVPROD and the sequence and leaves EVCONS, and that an address register drops its low 12 bits, is log 32 (DEDUCED). -/
def Obligations.HostRegisterResults : Prop :=
  ∀ (s : State) (off size n : Nat) (v : BitVec 32) (w : BitVec 64),
    let g := s.gafin
    let up := 5 ≤ s.pkg.phase ∧ g.ready = true
    let q := getQueue s n
    let put := fun (f : Gafin → Gafin) => Host.Outcome.next { s with gafin := f s.gafin }
    let word := fun (at_ : Nat) => s.input = .triple at_ 4 v.toNat
    let long := fun (at_ : Nat) => s.input = .triple at_ 8 w.toNat
    let setQ := fun (f : Queue → Queue) => Host.Outcome.next (modQueue s n f)
    let aligned := w &&& 0xFFFFFFFFFFFFF000#64
    -- reads
    (s.input = .pair off size → 5 ≤ s.pkg.phase → exec .registerWrite s =
        put fun g => { g with reads := g.reads ++ [toBytes (readBar s off size).toNat size] })
    ∧ (size ≠ 4 → size ≠ 8 → readBar s off size = 0)
    ∧ (g.ready = false → 8 < off → off % 8 = 0 → readBar s off 8 = 0)
    ∧ readBar s 0x000 8 = 0x640#12 ++ Config.stepping ++ Config.scanMap ++ 0x0100#16 ++ 0#16
    ∧ readBar s 0x008 8 = Config.serial
    ∧ (g.ready = true → readBar s 0x100 4 = 0x1FF ∧ readBar s 0x300 8 = g.evbase ∧ readBar s 0x310 4 = g.evprod.setWidth 64
        ∧ readBar s 0x318 4 = g.evcons.setWidth 64 ∧ readBar s 0x320 4 = g.evlost.setWidth 64
        ∧ readBar s 0x400 8 = g.sembase ∧ readBar s 0x408 4 = g.semcount.setWidth 64
        ∧ (readBar s 0x208 4).getLsbD 0 = g.featok ∧ (readBar s 0x208 4).getLsbD 1 = g.featerr
        ∧ (readBar s 0x208 4).getLsbD 2 = true
        ∧ (n < 64 → readBar s (0x1000 + 8 * n) 8 = tblGet 0 g.cnt n)
        ∧ (n < 1024 → readBar s (0x10008 + 64 * n) 8 = q.base ∧ readBar s (0x10010 + 64 * n) 8 = q.cbase
          ∧ readBar s (0x10018 + 64 * n) 4 = q.cons.setWidth 64 ∧ (readBar s (0x10000 + 64 * n) 8).getLsbD 63 = q.en
          ∧ (readBar s (0x10000 + 64 * n) 8).getLsbD 62 = q.halted))
    -- plain writes
    ∧ (up → (long 0x300 → exec .registerWrite s = put fun g => { g with evbase := aligned })
        ∧ (long 0x400 → exec .registerWrite s = put fun g => { g with sembase := aligned })
        ∧ (word 0x308 → exec .registerWrite s = put fun g => { g with evlog2 := v })
        ∧ (word 0x320 → exec .registerWrite s = put fun g => { g with evlost := g.evlost &&& ~~~v })
        ∧ (word 0x408 → exec .registerWrite s = put fun g => { g with semcount := v })
        ∧ (word 0x120 → g.featok = false → ∃ t, exec .registerWrite s = .next t
          ∧ t.gafin.drvfeat = (g.drvfeat.extractLsb' 32 224 ++ v : BitVec (224 + 32)))
        ∧ (word 0x120 → g.featok = true → exec .registerWrite s = .next s)
        ∧ (n < 1024 → q.en = false → long (0x10008 + 64 * n) →
          exec .registerWrite s = setQ fun q => { q with base := aligned })
        ∧ (n < 1024 → q.en = false → long (0x10010 + 64 * n) →
          exec .registerWrite s = setQ fun q => { q with cbase := aligned })
        ∧ (n < 1024 → q.en = false → word (0x10000 + 64 * n) →
          exec .registerWrite s = setQ fun q => { q with prio := v.extractLsb' 8 3, log2sz := v.extractLsb' 0 5 })
        ∧ (long 0 → exec .registerWrite s = .next s))
    ∧ (∀ i x, g.ready = false → s.input = .triple off size x → i ∈ [Instr.registerWrite, .gctlFeat, .gctlEn, .gctlEven,
        .evconsWrite, .sempoke, .qnotify, .qcfgEnable, .qcfgDisable, .qcfgResume] → exec i s = .next s)
    -- GCTL, the event ring and semaphores
    ∧ (up → word 0x200 →
        (v.getLsbD 0 = true → g.drvfeat.getLsbD 0 = true → (∀ i, 9 ≤ i → g.drvfeat.getLsbD i = false) →
          exec .gctlFeat s = put fun g => { g with featok := true, featerr := false })
        ∧ (v.getLsbD 0 = true → g.drvfeat.getLsbD 0 = false ∨ (∃ i, 9 ≤ i ∧ g.drvfeat.getLsbD i = true) →
          exec .gctlFeat s = put fun g => { g with featerr := true })
        ∧ (v.getLsbD 1 = true → g.featok = true → exec .gctlEn s = put fun g => { g with en := true })
        ∧ (v.getLsbD 1 = true → g.featok = false → g.en = false → exec .gctlEn s = .next s)
        ∧ (v.getLsbD 1 = false → exec .gctlEn s = put fun g => { g with en := false })
        ∧ (v.getLsbD 2 = false → exec .gctlEven s = put fun g => { g with even := false })
        ∧ (v.getLsbD 2 = true → g.even = true → exec .gctlEven s = .next s)
        ∧ (v.getLsbD 2 = true → g.even = false → ∃ t, exec .gctlEven s = .next t ∧ t.gafin.even = true ∧ t.gafin.evprod = 0
          ∧ t.gafin.evseq = 0 ∧ t.gafin.evcons = g.evcons))
    ∧ (up → word 0x318 → (g.even = false ∨ g.evbuf = [] → exec .evconsWrite s = put fun g => { g with evcons := v })
        ∧ (∀ r rest, g.even = true → g.evbuf = r :: rest → (g.evprod - v).toNat ≠ 2 ^ g.evlog2.toNat →
          let s1 := writeRecord { s with gafin := { g with evcons := v } } r
          exec .evconsWrite s = .next (drainRecords { s1 with gafin := { s1.gafin with evbuf := rest } } 255)))
    ∧ (up → word 0x410 → ∀ r, g.running = [r] → cmdNat r.cmd.bytes 0 1 = 4 → cmdNat r.cmd.bytes 16 2 = v.toNat →
        (cmdNat r.cmd.bytes 24 8 ≤ semValue s v.toNat → exec .sempoke s = .next (finishCmd s r.cmd 0 0 0))
        ∧ (semValue s v.toNat < cmdNat r.cmd.bytes 24 8 → exec .sempoke s = .next s))
    -- notify and queue configuration
    ∧ (up → n < 1024 → word (0x400000 + 4096 * n) → exec .qnotify s = setQ fun q => { q with
        notified := if 2 ^ q.log2sz.toNat < (v - q.cons).toNat then q.cons + BitVec.ofNat 32 (2 ^ q.log2sz.toNat) else v })
    ∧ (up → n < 1024 → word (0x10004 + 64 * n) →
        (v.getLsbD 31 = true → g.featok = true → q.en = false → 4 ≤ q.log2sz.toNat → q.log2sz.toNat ≤ 16 →
          exec .qcfgEnable s = setQ fun q =>
          { q with
            en := true, halted := false, cons := 0, haltCause := 0, haltIndex := 0, notified := 0, tries := 0, retryAt := 0 })
        ∧ (v.getLsbD 31 = true → g.featok = false ∨ q.en = true ∨ q.log2sz.toNat < 4 ∨ 16 < q.log2sz.toNat →
          ∃ t, exec .qcfgEnable s = .next t ∧ getQueue t n = q)
        ∧ (v.getLsbD 31 = false → exec .qcfgDisable s = setQ fun q => { q with en := false })
        ∧ (v.getLsbD 29 = true → q.halted = true → exec .qcfgResume s = setQ fun q =>
          { q with halted := false, cons := q.haltIndex, haltCause := 0, haltIndex := 0, tries := 0, retryAt := 0 })
        ∧ (v.getLsbD 29 = true → q.halted = false → ∃ t, exec .qcfgResume s = .next t ∧ getQueue t n = q))

/-- The device fetches a command when it may and accepts it when its stamp is its lap; a mismatch is fetched again after 1 µs,
and the ninth halts the queue and posts QSTAMP; configuration requests are answered as start-up allows; BAR 2 reads and writes
HBM; the root of trust answers SPDM (R40, R103, R109, R110, R125). What an answer holds that no rule gives is free (log 13),
the SPDM request codes and the layout of configuration space and of the BARs are log 33 (PRESUMED), that BAR 2 is served from
the end of phase 4 is log 39 (DESIGN CHOICE), and that a WAITSEM holds the fetch of its queue is log 32 (DEDUCED). -/
def Obligations.HostPortResults : Prop :=
  ∀ (s : State) (n off m : Nat) (bs : List Byte),
    let q := getQueue s n
    let waits := ∃ c ∈ s.gafin.accepted ++ s.gafin.running.map fun r => r.cmd, c.queue = n ∧ cmdNat c.bytes 0 1 = 4
    let may := s.gafin.ready = true ∧ s.gafin.en = true ∧ q.en = true ∧ q.halted = false ∧ q.cons ≠ q.notified ∧ ¬ waits
    let size := 2 ^ q.log2sz.toNat
    let cmd := physBytes s (0x8000000000000 + q.base.toNat + 64 * (q.cons.toNat % size)) 64
    let seen := cmdNat cmd 2 2
    let lap := q.cons.toNat / size % 65536
    let fetches := fun (i : Instr) =>
      (seen = lap → ∃ t, exec i s = .next t ∧ getQueue t n = { q with cons := q.cons + 1, tries := 0, retryAt := 0 }
        ∧ t.gafin.accepted = s.gafin.accepted ++ [⟨n, q.cons, BitVec.ofNat 16 seen, cmd, false⟩] ∧ t.mem = s.mem)
      ∧ (seen ≠ lap → q.tries < 8 → exec i s = .next (modQueue s n fun q =>
        { q with tries := q.tries + 1, retryAt := s.pkg.gtime.toNat + 1000 }))
      ∧ (seen ≠ lap → q.tries = 8 → exec i s = .next (postHost (modQueue s n fun q =>
        { q with halted := true, haltCause := 1, haltIndex := q.cons, tries := 0 }) ⟨0x0030, 0, none,
          toBytes n 2 ++ zeroBytes 2 ++ toBytes q.cons.toNat 4 ++ toBytes seen 2 ++ toBytes lap 2⟩))
    let answers := fun (a : ConfigAnswer) (t : State) => { t with gafin := { t.gafin with config := t.gafin.config ++ [a] } }
    let setBar := fun (k : Nat) (x : BitVec 64) =>
      { s with gafin := { s.gafin with bars := tblSet 0 s.gafin.bars k x } }
    let bar := fun (k : Nat) => tblGet 0 s.gafin.bars k
    let replies := fun (i : Instr) (code : BitVec 8) (l : List (Nat × List Byte)) => ∃ a, exec i s = .next { s with
      pkg := { s.pkg with spdm := s.pkg.spdm ++ [⟨code, a, l⟩], spdmState := s.pkg.spdmState + 1 } }
    (s.input = .num n → may → q.tries = 0 → fetches .commandFetch)
    ∧ (s.input = .num n → may → q.tries ≠ 0 → q.retryAt ≤ s.pkg.gtime.toNat → fetches .stampRefetch)
    ∧ (s.input = .num n → ¬ may → exec .commandFetch s = .next s ∧ exec .stampRefetch s = .next s)
    -- configuration requests
    ∧ (s.input = .num off → s.pkg.phase < 3 → exec .configRequest s = .next s)
    ∧ (s.input = .num off → 3 ≤ s.pkg.phase → s.pkg.phase < 5 → exec .configRequest s = .next (answers .retry s))
    ∧ (s.input = .num off → 5 ≤ s.pkg.phase → ∃ x, exec .configRequest s = .next (answers (.value x) s)
        ∧ (off = 8 → x.extractLsb' 8 24 = 0x120000#24) ∧ (off = 0x10 → x = (bar 0).setWidth 32 ||| 4))
    ∧ (s.input = .pair 0x14 m → 5 ≤ s.pkg.phase → exec .configRequest s = .next (answers .written
        (setBar 0 (BitVec.ofNat 32 m ++ (bar 0).setWidth 32 : BitVec (32 + 32)))))
    ∧ (s.input = .triple 0 0 m → 5 ≤ s.pkg.phase → m ≤ 11 → exec .configRequest s = .next (answers .written
        (setBar 2 (BitVec.ofNat 64 m))))
    -- BAR 2
    ∧ (s.input = .pair off m → 5 ≤ s.pkg.phase → off + m ≤ 2 ^ (28 + (bar 2).toNat) → ∃ l : List Byte,
        exec .bar2Access s = .next { s with gafin := { s.gafin with reads := s.gafin.reads ++ [l] } } ∧ l.length = m
        ∧ ∀ i, i < m → (off + i < 0x6000000000 → physPoisoned s (off + i) 1 = false → l[i]? = some (physByte s (off + i)))
          ∧ (0x6000000000 ≤ off + i → l[i]? = some 0xFF))
    ∧ (s.input = .bytes off bs → 5 ≤ s.pkg.phase → off + bs.length ≤ 2 ^ (28 + (bar 2).toNat) → bs ≠ [] →
        (off + bs.length ≤ 0x6000000000 → exec .bar2Access s = .next (deviceWrite s off bs))
        ∧ (0x6000000000 ≤ off → exec .bar2Access s = .next s))
    -- SPDM
    ∧ (s.input = .bytes n bs → 5 ≤ s.pkg.phase → replies .spdmGetVersion 0x84 [] ∧ replies .spdmGetCapabilities 0xE1 []
        ∧ replies .spdmNegotiateAlgorithms 0xE3 [] ∧ replies .spdmGetDigests 0x81 [] ∧ replies .spdmGetCertificate 0x82 []
        ∧ replies .spdmChallenge 0x83 [] ∧ ∃ x y z, replies .spdmGetMeasurements 0xE0 [(1, x), (2, y), (3, z),
          (4, toBytes (0x640 * 2 ^ 20 + Config.stepping.toNat * 2 ^ 12 + Config.scanMap.toNat) 4)])

/-- A command completes by one 16-byte write to its slot of the completion ring and a signal of its queue's vector, then the
signal of its header if it is DONE; the simple commands have the effects that their payloads name (R29, R36, R42, R113 to R118,
R123, R124, R190, R197, R256, R259, R261, R432). Whether images verify and ports train is free. -/
def Obligations.CommandResults : Prop :=
  ∀ (s : State) (c : Cmd) (n status code detail : Nat),
    let f := fun (off len : Nat) => ofBytes ((c.bytes.drop off).take len)
    let q := getQueue s c.queue
    let runs := fun (k : Nat) =>
      s.input = .command c.queue c.index c.bytes ∧ runningCmd s c.queue c.index = some c ∧ f 0 1 = k
    let again := fun (k : Nat) =>
      s.input = .pair c.queue c.index.toNat ∧ runningCmd s c.queue c.index = some c ∧ f 0 1 = k
    let done := fun (t : State) => Host.Outcome.next (finishCmd t c 0 0 0)
    let ctx := f 4 2 % 4096
    let sem := f 16 2
    let reached := f 24 8 ≤ semValue s sem
    let since := runningOf s c
    let span := f 32 8 - n
    let feature := fun (p : Nat) => runs 0x0F ∧ f 16 2 = p
    let pkg := fun (g : Package → Package) => done { s with pkg := g s.pkg }
    let image := physBytes s (f 16 8) (f 24 8)
    let within := entryWithin ctx (f 16 8 / 65536) (f 24 8)
    let ended := endCmd s c status code detail
    let slot := deviceWrite (countSource { s with gafin := { s.gafin with
        running := s.gafin.running.filter fun r => !(r.cmd.queue == c.queue && r.cmd.index == c.index) } } (4096 + c.queue) 1)
      (0x8000000000000 + (q.cbase.toNat + 16 * (c.index.toNat % 2 ^ q.log2sz.toNat)))
      (toBytes c.index.toNat 4 ++ toBytes c.lap.toNat 2 ++ toBytes status 1 ++ toBytes code 1 ++ toBytes detail 8)
    -- completions and semaphores
    (status ≠ 0 ∨ f 1 1 / 2 % 2 = 0 → ended = signalMsix slot (1 + c.queue))
    ∧ (status = 0 → f 1 1 / 2 % 2 = 1 → ended = raiseSem (signalMsix slot (1 + c.queue)) (f 6 2) (f 8 8))
    ∧ (∀ v, (semValue s n < v → raiseSem s n v = deviceWrite s (s.gafin.sembase.toNat + 8 * n) (toBytes v 8))
      ∧ (v ≤ semValue s n → raiseSem s n v = s))
    ∧ (runs 3 → (∀ r ∈ s.gafin.running, cmdNat r.cmd.bytes 0 1 ≠ 4) → exec .signal s = done (raiseSem s sem (f 24 8)))
    ∧ (runs 4 → (reached → exec .waitsem s = done s) ∧ (¬ reached → exec .waitsem s = .next s))
    ∧ (again 4 → (reached → exec .waitsemReevaluate s = done s) ∧ (¬ reached → exec .waitsemReevaluate s = .next s))
    ∧ (again 4 → ∀ r, since = some r → f 32 4 ≠ 0 → r.since + 1000 * f 32 4 ≤ s.pkg.gtime.toNat →
        exec .waitsemTimeout s = .next (finishCmd (modQueue s c.queue fun q =>
          { q with halted := true, haltCause := 2, haltIndex := c.index }) c 3 0 0))
    -- HCOPY: it starts; its last bytes, from its offset n, are written and it is done; a page that faults ends it
    ∧ (runs 2 → exec .hcopy s = .next (modRunning s c fun r => { r with doneTo := 0 }))
    ∧ (again 2 → ∀ r, since = some r → r.doneTo = n → f 40 1 % 2 = 0 → 0 < span → span ≤ 8 - (f 24 8 + n) % 8 →
        (∀ i, i < span → physPoisoned s (f 16 8 + n + i) 1 = false) → exec .hcopyComplete s = done
          (deviceWrite s (f 24 8 + n) ((List.range span).map fun i => physByte s (f 16 8 + n + i))))
    ∧ (again 2 → ∀ r, since = some r → r.doneTo = n → span = 0 → exec .hcopyComplete s = done s)
    ∧ (again 2 → ∀ r s1 t, since = some r → r.doneTo = n → span = 1 → f 40 1 % 2 = 1 →
        virtRun s ⟨0, ctx, false, 0, .direct, []⟩ .read ((f 16 8 + n : Nat) : Int) 1 = (s1, .error t) →
        exec .hcopyComplete s = .next (finishCmd s1 c 4 1 t.addr.toNat))
    -- contexts and translations
    ∧ (runs 5 → (getCtx s ctx).live = false → ∃ t, exec .ctxnew s = done t ∧ (getCtx t ctx).live = true
        ∧ (getCtx t ctx).prot = decide (f 32 1 % 2 = 1) ∧ (getCtx t ctx).root = BitVec.ofNat 52 (f 16 8)
        ∧ (getCtx t ctx).tdt = BitVec.ofNat 52 (f 24 8) ∧ (getCtx t ctx).savecnt = 0 ∧ (getCtx t ctx).launch = none
        ∧ ∀ j, j ≠ ctx → getCtx t j = getCtx s j)
    ∧ (runs 5 → (getCtx s ctx).live = true → exec .ctxnew s = .next (finishCmd s c 1 1 0))
    ∧ (runs 9 → f 32 1 = 0 → ∃ t, exec .mapsetInvalidate s = done t ∧ t.ctxs = s.ctxs ∧ t.mem = s.mem
        ∧ (∀ core, ∀ e ∈ (getCore t core).tlb, within e = false)
        ∧ (tblWf coreEmpty s.cores = true → ∀ core, (getCore t core).tlb = (getCore s core).tlb.filter fun e => !within e)
        ∧ (tblWf dieEmpty s.dies = true → ∀ die, (getDie t die).tlb = (getDie s die).tlb.filter fun e => !within e))
    ∧ (runs 9 → f 32 1 = 1 → ∃ t, exec .mapsetReplaceRoot s = done t
        ∧ getCtx t ctx = { getCtx s ctx with root := BitVec.ofNat 52 (f 40 8) }
        ∧ (∀ core, ∀ e ∈ (getCore t core).tlb, e.ctx ≠ ctx) ∧ ∀ die, ∀ e ∈ (getDie t die).tlb, e.ctx ≠ ctx)
    -- FEATURE
    ∧ (feature 1 → exec .featurePowerLimit s = pkg fun p => { p with powerLimit := BitVec.ofNat 64 (f 24 8) })
    ∧ (feature 2 → exec .featurePtpPort s = pkg fun p => { p with
        ptpPort := BitVec.ofNat 64 (f 24 8), ptp := if p.ptp = .hold ∧ p.ptpPort.toNat = f 24 8 then .hold else .follow })
    ∧ (feature 3 → exec .featureUdpPort s = pkg fun p => { p with udpPort := BitVec.ofNat 16 (f 24 8) })
    ∧ (feature 4 → exec .featureWatchdog s = pkg fun p => { p with watchdog := BitVec.ofNat 64 (f 24 8) })
    ∧ (feature 5 → exec .featureCxlReset s = .next (modCxl s (f 24 8) fun p =>
        { p with resetting := true, resetCmds := p.resetCmds ++ [(c.queue, c.index)] }))
    ∧ (feature 6 → exec .featureRemapReload s = done (modDie s (f 24 8) fun d => { d with badChannels := 0 }))
    -- counters and firmware
    ∧ (runs 0x10 → ∃ t, exec .cntset s = done t ∧ t.mem = s.mem
        ∧ (tblGet 0 t.gafin.cntsrc (f 16 1)).toNat = (f 18 2 + 65536 * f 20 1) % 2 ^ 32
        ∧ tblGet 0 t.gafin.cnt (f 16 1) = (if f 20 1 % 2 = 1 then 0 else tblGet 0 s.gafin.cnt (f 16 1))
        ∧ ∀ j, j ≠ f 16 1 → tblGet 0 t.gafin.cnt j = tblGet 0 s.gafin.cnt j
          ∧ tblGet 0 t.gafin.cntsrc j = tblGet 0 s.gafin.cntsrc j)
    ∧ (s.input = .num n → (tblGet 0 s.gafin.cntsrc n).getLsbD 18 = true → ∃ t,
        exec .counterWrap s = .next (postHost t ⟨0x0050, 0, none, [BitVec.ofNat 8 n]⟩)
        ∧ (tblGet 0 t.gafin.cntsrc n).getLsbD 18 = false ∧ t.gafin.cnt = s.gafin.cnt)
    ∧ (runs 0x11 → Config.firmwareGood image = true → exec .fwload s = pkg fun p => { p with firmware := image })
    ∧ (runs 0x11 → Config.firmwareGood image = false → exec .fwload s = .next (finishCmd s c 1 1 0))

/-! ### Launches, placement and the scheduler -/

/-- LAUNCH refuses a second ACTIVE launch with code 3 and a bad descriptor with code 2 and the offset of its first offending
field, and otherwise creates its teams, QUEUED in order; the head of the queue is placed where it fits, its cells in the state of
R139; an eligible team is swapped; a met condition returns a team to the queue; the watchdog and the power manager report
(R127, R131 to R134, R137 to R139, R145, R147, R148, R259). Which core CTX_HANG names is free and what the cells of a saved team
need is DEDUCED (log 7); that a cell is placed in user mode is DEDUCED (log 5), and so are the states of a swapped team
(log 30). -/
def Obligations.LaunchAndSchedulerResults : Prop :=
  ∀ (s s1 s2 : State) (c : Cmd) (l : Launch) (k : Nat) (t : Team) (seats : List Nat) (team i die cond : Nat)
      (rings chans : List Byte) (rt ct : Option (List Byte)) (off : Nat) (w : List Wake) (e : Cell) (need : Need),
    let f := fun (off len : Nat) => ofBytes ((c.bytes.drop off).take len)
    let runs := fun (k : Nat) =>
      s.input = .command c.queue c.index c.bytes ∧ runningCmd s c.queue c.index = some c ∧ f 0 1 = k
    let ctx := f 4 2 % 4096
    let d := physBytes s (f 16 8) 256
    let g := fun (off len : Nat) => ofBytes ((d.drop off).take len)
    let tables := readLaunchTable s ctx (g 24 8) 512 (g 24 8 == 0) = (s1, some rings)
      ∧ readLaunchTable s1 ctx (g 32 8) (16 * min (g 40 2) 256) (g 40 2 == 0) = (s2, some chans)
    let h := fun (off len : Nat) => ofBytes ((l.desc.drop off).take len)
    let stage := fun (i : Nat) => h 56 8 / 16 ^ i % 16
    let x := getTeam s k
    -- the breaches of R131 to R133, by the offset of the offending field
    let n := g 42 1
    let ns := g 43 1
    let stageOf := fun (i : Nat) => g 56 8 / 16 ^ i % 16
    let bank := fun (b : Nat) => g 128 8 / 4 ^ b % 4
    let up := ringOfEntry (BitVec.ofNat 128 (ofBytes (((rt.getD []).drop (16 * g 45 1)).take 16)))
    let offends := fun (o : Nat) =>
      (o = 0 ∧ g 0 8 % 4096 ≠ 0) ∨ (o = 16 ∧ g 16 8 % 0x400000 ≠ 0) ∨ (o = 24 ∧ rt = none) ∨ (o = 32 ∧ ct = none)
      ∨ (o = 40 ∧ 256 < g 40 2) ∨ (o = 42 ∧ (n = 0 ∨ 16 < n)) ∨ (o = 43 ∧ (ns = 0 ∨ 16 < ns ∨ n % ns ≠ 0))
      ∨ (o = 44 ∧ 48 < g 44 1)
      ∨ (o = 45 ∧ ns = 1 ∧ g 45 1 ≠ 0)
      ∨ (o = 45 ∧ ns ≠ 1 ∧ (30 < g 45 1 ∨ g 24 8 = 0 ∨ up.kind = 0 ∨ ∃ b, up.base.toNat / 65536 ≤ b
          ∧ b ≤ (up.base.toNat + up.slotSz * ringSlots up - 1) / 65536 ∧ (32 ≤ b ∨ bank b ≠ 1)))
      ∨ (o = 46 ∧ g 46 2 ≠ 0) ∨ (o = 48 ∧ 2 ^ 40 ≤ g 48 8)
      ∨ (o = 56 ∧ ((∃ i, i < n ∧ ns ≤ stageOf i)
          ∨ ∃ st, st < ns ∧ ((List.range n).filter fun i => stageOf i == st).length ≠ n / ns))
      ∨ (∃ i, i < 16 ∧ o = 64 + 4 * i ∧ g o 4 % 4 ≠ 0)
      ∨ (o = 128 ∧ ∃ j, j < 16 ∧ ((bank (2 * j) = 3 ∧ bank (2 * j + 1) ≠ 3) ∨ (bank (2 * j) ≠ 3 ∧ bank (2 * j + 1) = 3)
          ∨ (bank (2 * j) = 3 ∧ 8 ≤ j)))
      ∨ (o = 136 ∧ ∃ j, j < 8 ∧ (64 ≤ g (136 + j) 1 ∨ 4 < g (136 + j) 1 % 8 ∨ (g (136 + j) 1 ≠ 0 ∧ bank (2 * j) ≠ 3)))
      ∨ (o = 184 ∧ ∃ j, j < 8 ∧ 64 ≤ g (184 + j) 1) ∨ (o = 200 ∧ g 200 56 ≠ 0)
    -- the conditions of R147
    let idle := fun (e : Cell) => e.run = .halted ∨ (e.run = .wait ∧ e.thresh ≠ 0
      ∧ e.waitSince + 1000 * e.thresh.toNat ≤ s.pkg.gtime.toNat ∧ e.copies = [] ∧ (∀ m ∈ e.cmds, m.run = .faulted)
      ∧ ∀ a ∈ e.accesses, ∃ n, a.place = .near n)
    let home := x.seats.headD 0
    let waits := (x.seats.filter fun k => (getCell s k).run != .halted).filterMap (conditionOf s)
    let eligible := x.run = .placed ∧ launchField s ctx 16 8 ≠ 0 ∧ (∀ k ∈ x.seats, idle (getCell s k)) ∧ waits ≠ []
      ∧ headWouldFit s k (keyCluster home) x.seats = true ∧ monitorLoad s (keyDie home) + waits.length ≤ 4096
      ∧ recordsFree s ctx [team] = true
    -- the teams that a step of the power manager can change (R145)
    let lower := cond ≠ 0
    let can := throttled s die (cond != 0)
    -- LAUNCH
    (runs 1 → (getCtx s ctx).launch ≠ none → exec .launch s = .next (finishCmd s c 1 3 0))
    ∧ (runs 1 → (getCtx s ctx).launch = none → tables → launchBad d (some rings) (some chans) = some off →
        exec .launch s = .next (finishCmd s2 c 1 2 off))
    ∧ (runs 1 → (getCtx s ctx).launch = none → tables → launchBad d (some rings) (some chans) = none → ∃ u,
        exec .launch s = .next u
        ∧ (getCtx u ctx).launch = some ⟨d, rings, chans, f 24 2, BitVec.ofNat 3 (f 26 1), f 27 1, BitVec.ofNat 32 (f 28 4),
          f 32 4, c.queue, c.index⟩
        ∧ (∀ i, i < f 24 2 → getTeam u (ctx * 65536 + i) = { teamEmpty with run := .queued, queuedAt := s2.launchSeq + i })
        ∧ u.gafin = s2.gafin ∧ u.cells = s2.cells ∧ u.mem = s2.mem)
    ∧ (launchBad d rt ct = some off ↔ offends off ∧ ∀ o, o < off → ¬ offends o)
    ∧ (launchBad d rt ct = none ↔ ∀ o, ¬ offends o)
    -- placement
    ∧ (headTeam s = none → exec .teamPlace s = .next s)
    ∧ (headTeam s = some (k, t) → launchOf s (k / 65536) = some l → fitTeam s l.desc t = none → exec .teamPlace s = .next s)
    ∧ (headTeam s = some (k, t) → launchOf s (k / 65536) = some l → fitTeam s l.desc t = some seats →
        t.started = false →
        ∃ u, exec .teamPlace s = .next (seats.foldl rcbsPlaced u)
        ∧ (getTeam u k).run = .placed ∧ (getTeam u k).seats = seats ∧ (getTeam u k).started = true
        ∧ (getTeam u k).barriers = [] ∧ (getTeam u k).steps = [] ∧ (getTeam u k).halted = 0
        ∧ (i < seats.length → seats.Nodup →
          let e := getCell u (seats.getD i 0)
          e.live = true ∧ e.ctx = k / 65536 ∧ e.team = k % 65536 ∧ e.cell = i ∧ e.stage = stage i
          ∧ e.pc = BitVec.ofNat 64 ((h 0 8 + h (64 + 4 * stage i) 4) % 2 ^ 52)
          ∧ rdS e 1 = BitVec.ofNat 64 (h 8 8) ∧ (∀ r : BitVec 6, r ≠ 1 → rdS e r = 0) ∧ e.v = [] ∧ e.m = [] ∧ e.p = []
          ∧ e.a = [] ∧ e.lc = [] ∧ e.mp = [] ∧ e.xp = [] ∧ e.cq = [] ∧ e.stepcnt = 0 ∧ e.bytes = [] ∧ e.super = false
          ∧ e.fmtctl = fmtctlRead (BitVec.ofNat 64 (h 192 8)) ∧ e.nacc = h 44 1 ∧ e.thresh = l.thresh
          ∧ (∀ b, b < 32 → (getBank e b).alloc = decide (h 128 8 / 4 ^ b % 4 ≠ 0))
          ∧ (∀ n, n < 32 → getRing e n = ringOfEntry (BitVec.ofNat 128 (ofBytes ((l.rings.drop (16 * n)).take 16))))))
    ∧ (let a := heldBy (getCell s (2 * i))
       let b := heldBy (getCell s (2 * i + 1))
       coreFits s i need = true ↔ (getCore s i).fenced = false ∧ (slotTaken s (2 * i) = false ∨ slotTaken s (2 * i + 1) = false)
         ∧ a.banks + b.banks + need.banks ≤ 32 ∧ a.nacc + b.nacc + need.nacc ≤ 48 ∧ a.planes + b.planes + need.planes ≤ 8)
    -- swapping and waking
    ∧ (k = ctx * 65536 + team → (eligible → swapConditions s ctx team = some waits)
        ∧ (¬ eligible → swapConditions s ctx team = none))
    ∧ (e = getCell s k → (∀ a cc v m, e.waitWord = some (a, true, cc, v) →
          (lookup s .direct e.ctx a.toNat .read (!e.super) false).res = .ok m →
          conditionOf s k = some (.word e.ctx (leafPa m a.toNat) cc v))
        ∧ (∀ a cc v, e.waitWord = some (a, false, cc, v) → conditionOf s k = none)
        ∧ (e.waitWord = none → e.arrived = true → conditionOf s k = none)
        ∧ (∀ y n p d z, e.waitWord = none → e.arrived = false → (fetchGroup s k).2 = .ok ([y], z) →
          y.dec = .ok (.rwait p d n) → guardTrue e (.rwait p d n) = true → conditionOf s k =
            if (getRing e n.toNat).kind = 2 ∧ ringFill (getRing e n.toNat) = 0 then some (.rcb (32 * e.cell + n.toNat)) else none))
    ∧ (∀ m y, headTeam s = some (m, y) → launchOf s (m / 65536) = some l → headWouldFit s k i seats =
        (fitCluster (modTeam (seats.foldl freeSlot s) k fun t => { t with seats := [] }) l.desc
          (teamNeed (getTeam s m) l.desc) i).isSome)
    ∧ (headTeam s = none → headWouldFit s k i seats = false)
    ∧ (s.input = .pair ctx team → swapConditions s ctx team = some w → ∃ u, exec .swapTest s = .next (stopTeam u ctx team)
        ∧ (getTeam u (ctx * 65536 + team)).run = .swapping ∧ (getTeam u (ctx * 65536 + team)).wakes = w
        ∧ (getCtx u ctx).savecnt = (getCtx s ctx).savecnt + 1 ∧ u.saves.length = s.saves.length + 1 ∧ u.cells = s.cells)
    ∧ (s.input = .pair ctx team → swapConditions s ctx team = none → exec .swapTest s = .next s)
    ∧ (s.input = .pair ctx team → swapWritten s ctx team = true → ∃ u, exec .swapComplete s = .next u
        ∧ (getTeam u (ctx * 65536 + team)).run = .swapped ∧ saveOf u ctx team = none
        ∧ (getTeam u (ctx * 65536 + team)).wakes = (getTeam s (ctx * 65536 + team)).wakes)
    ∧ (s.input = .pair ctx team → k = ctx * 65536 + team → x.run = .swapped → ∀ a cc v, Wake.word ctx a cc v ∈ x.wakes →
        cmpWord cc (BitVec.ofNat 64 (physNat s a 8)) v = true → ∃ u, exec .waitMonitorPoll s = .next u
        ∧ getTeam u k = { x with run := .queued, wakes := [], queuedAt := s.launchSeq } ∧ u.launchSeq = s.launchSeq + 1)
    ∧ (s.input = .pair ctx team → k = ctx * 65536 + team → x.run = .swapped → (∀ y ∈ x.wakes, wakeMet s y = false) →
        exec .waitMonitorPoll s = .next s)
    -- the watchdog
    ∧ (s.input = .pair ctx team → k = ctx * 65536 + team → s.pkg.watchdog ≠ 0 → x.hung = false →
        1000 * s.pkg.watchdog.toNat ≤ x.idle →
        (x.run = .placed → ∃ core, exec .ctxHang s = .next (modTeam (postHost { s with tick := s.tick + 1 } ⟨0x0002, 0, some ctx,
          toBytes core 4 ++ toBytes team 2 ++ zeroBytes 2 ++ toBytes (x.idle / 1000) 8⟩) k fun t => { t with hung := true }))
        ∧ (x.run = .saving ∨ x.run = .swapping → exec .ctxHang s = .next (modTeam s k fun t =>
          { t with hung := true, hangLatched := true })))
    ∧ (s.input = .pair ctx team → k = ctx * 65536 + team → s.pkg.watchdog = 0 ∨ x.hung = true → exec .ctxHang s = .next s)
    -- the power manager
    ∧ (k ∈ can ↔ ∃ y, (k, y) ∈ s.teams ∧ (∃ j ∈ y.seats, keyDie j = die)
        ∧ (lower → 1 < y.dutyNext) ∧ (¬ lower → y.dutyNext < 16))
    ∧ (s.input = .pair die cond → (getDie s die).lastThrottle + 10000 ≤ s.pkg.gtime.toNat → tblWf teamEmpty s.teams = true →
        can ≠ [] → (∀ j ∈ can, powerClass s j ≤ 3) → ∃ u cls, exec .throttleStep s = .next u
        ∧ (∃ j ∈ can, powerClass s j = cls)
        ∧ (∀ j ∈ can, (lower → powerClass s j ≤ cls) ∧ (¬ lower → cls ≤ powerClass s j))
        ∧ (k ∈ can → powerClass s k = cls → (getTeam u k).dutyNext = if cond = 0 then x.dutyNext + 1 else x.dutyNext - 1)
        ∧ (k ∉ can ∨ powerClass s k ≠ cls → (getTeam u k).dutyNext = x.dutyNext))
    ∧ (s.input = .pair die cond → can = [] → exec .throttleStep s = .next s)
    ∧ (s.input = .pair die cond → (getDie s die).lastThrottle + 10000 ≤ s.pkg.gtime.toNat →
        throttled s die (cond != 0) = [k] → powerClass s k ≤ 3 →
        let n := if cond = 0 then x.dutyNext + 1 else x.dutyNext - 1
        exec .throttleStep s = .next (postHost (modTeam (modDie s die fun d => { d with lastThrottle := s.pkg.gtime.toNat }) k
          fun t => { t with dutyNext := n }) ⟨0x0040, BitVec.ofNat 16 (if cond = 0 then 3 else min cond 2), some (k / 65536),
            toBytes die 1 ++ toBytes n 1 ++ zeroBytes 2 ++ toBytes (k % 65536) 2⟩))
    ∧ (s.input = .pair die cond → s.pkg.gtime.toNat < (getDie s die).lastThrottle + 10000 → exec .throttleStep s = .next s)

/-! ### Saves, restores and removal -/

/-- CTXPREEMPT asks its teams to yield or stops them on one beat, and is MALFORMED or DONE at once where it must be; an image is
written where its command says, IMAGE_SAVED is posted, and the last one frees the slots and completes the command; a save past
2 ms is lost; IMGRESTORE checks in its order, reserves and starts a restore, whose image is accepted or refused by its verdict; a
key transfer arrives (R149, R151, R254 to R258, R427). What a scan map defines is free (log 20), that a team is SAVING from the
start of mode 0 is DEDUCED (log 30), and that a first image refused as STALE leaves its team's slots reserved is DEDUCED
(log 31). -/
def Obligations.SaveAndRestoreResults : Prop :=
  ∀ (s s1 : State) (c : Cmd) (l : Launch) (j : SaveJob) (q : RestoreJob) (k team cell : Nat) (seats : List Nat)
      (img bs : List Byte) (bad : Bool),
    let f := fun (off len : Nat) => ofBytes ((c.bytes.drop off).take len)
    let runs := fun (k : Nat) =>
      s.input = .command c.queue c.index c.bytes ∧ runningCmd s c.queue c.index = some c ∧ f 0 1 = k
    let ctx := f 4 2 % 4096
    let finish := fun (t : State) (status code : Nat) => Host.Outcome.next (finishCmd t c status code 0)
    let launch := (getCtx s ctx).launch = some l
    let key := ctx * 65536 + team
    let one := runs 7 ∧ launch ∧ f 32 2 = team ∧ team < l.teams ∧ team ≠ 0xFFFF ∧ 0x400000 * 16 ≤ f 24 8
    let job := fun (n : BitVec 64) (g : Option Nat) => SaveJob.mk ctx team .preempt (f 16 8) n
      ((getTeam s key).seats.map fun k => (getCell s k).cell) [] [] g c.queue c.index
    let n := (getCtx s ctx).savecnt + 1
    -- CTXPREEMPT
    (one → (getTeam s key).run = .placed → recordsFree s ctx [team] = true →
        (f 34 1 = 0 → ∃ u, exec .ctxpreemptYield s = .next u ∧ (getTeam u key).run = .saving ∧ (getCtx u ctx).savecnt = n
          ∧ u.saves = s.saves ++ [job n (some (s.pkg.gtime.toNat + 1000 * l.grace))]
          ∧ ∀ k ∈ (getTeam s key).seats, getCell u k = { getCell s k with yreq := true })
        ∧ (f 34 1 = 1 → ∃ u, exec .ctxpreemptScan s = .next (stopTeam u ctx team) ∧ (getTeam u key).run = .saving
          ∧ (getCtx u ctx).savecnt = n ∧ u.saves = s.saves ++ [job n none] ∧ u.cells = s.cells))
    ∧ (one → (getTeam s key).run ≠ .placed →
        (f 34 1 = 0 → exec .ctxpreemptYield s = finish s 0 0) ∧ (f 34 1 = 1 → exec .ctxpreemptScan s = finish s 0 0))
    ∧ (runs 7 → launch → 0 < l.teams → (f 32 2 ≠ 0xFFFF ∧ l.teams ≤ f 32 2) ∨ f 24 8 < 0x400000 * 16 →
        (f 34 1 = 0 → exec .ctxpreemptYield s = finish s 2 2) ∧ (f 34 1 = 1 → exec .ctxpreemptScan s = finish s 2 2))
    ∧ (runs 7 → (getCtx s ctx).launch = none →
        (f 34 1 = 0 → exec .ctxpreemptYield s = finish s 2 2) ∧ (f 34 1 = 1 → exec .ctxpreemptScan s = finish s 2 2))
    ∧ (s.saves = [j] → j.ctx = ctx → j.team = team → j.grace = none → (getTeam s key).seats = [k] →
        (getCell s k).cell ∈ j.left → (getCell s k).run ≠ .stopped →
        (getCore (stopTeam s ctx team) (k / 2)).stopped = true ∧ (getCell (stopTeam s ctx team) k).stopBeat = s.pkg.beat)
    ∧ (∀ t, s.input = .pair j.queue j.index.toNat → s.saves = [j] → j.kind = .preempt → j.grace = some t →
        (t ≤ s.pkg.gtime.toNat → exec .graceWindowEnd s = .next (stopTeam { s with saves := [{ j with grace := none }] }
          j.ctx j.team))
        ∧ (s.pkg.gtime.toNat < t → exec .graceWindowEnd s = .next s))
    -- an image is written, or lost
    ∧ (s.input = .triple ctx team cell → saveOf s ctx team = some j → seatFor s ctx team cell = some k → cell ∈ j.left →
        (saveReady s j k = false → exec .saveComplete s = .next s)
        ∧ (saveReady s j k = true → j.kind = .preempt → (getCell s k).cell = cell → j.ctx = ctx → j.team = team →
          let yielded := (getCell s k).run == .stopped
          let image := imageOf s k j.savecnt yielded
          let base := j.base + cell * 0x400000
          let u := drainOwned (writePlaces s (((List.range image.length).map fun i => base + i).zip image)) k
          let posted := postHost { u with images := u.images ++ [recordOf s k image], tick := u.tick + 1 }
            ⟨0x0003, if yielded = true then 0 else 1, some ctx,
              toBytes (k / 2) 4 ++ zeroBytes 4 ++ toBytes j.savecnt.toNat 8 ++ toBytes base 8 ++ toBytes image.length 4⟩
          exec .saveComplete s = .next (settleSave (modSave (modTeam posted key fun t => { t with
            planes := tblSet none t.planes cell (if yielded then none else some (heldBy (getCell s k)).planes) }) ctx team
            fun j => { j with left := j.left.erase cell, written := j.written ++ [cell] }) ctx team)))
    ∧ (saveReady s j k = true → (getCell s k).run ≠ .stopped → j.grace = none
        ∧ (getCell s k).stopBeat.toNat + 64 ≤ s.pkg.beat.toNat
        ∧ s.pkg.gtime.toNat ≤ (getCell s k).stopTime.toNat + 2000000)
    ∧ (saveOf s ctx team = some j → j.left ≠ [] → settleSave s ctx team = freeWritten s j)
    ∧ (saveOf s ctx team = none → settleSave s ctx team = s)
    ∧ (s.input = .triple ctx team cell → saveOf s ctx team = some j → seatFor s ctx team cell = some k → cell ∈ j.left →
        j.grace = none → (getCell s k).run ≠ .stopped → (getCell s k).stopTime.toNat + 2000000 < s.pkg.gtime.toNat →
        exec .saveTimeout s = .next (loseSave s j k))
    ∧ (s.input = .triple ctx team cell → saveOf s ctx team = some j → seatFor s ctx team cell = some k →
        s.pkg.gtime.toNat ≤ (getCell s k).stopTime.toNat + 2000000 → exec .saveTimeout s = .next s)
    -- IMGRESTORE
    ∧ (let length := f 24 8
       let h := if 64 ≤ length then physBytes s (f 16 8) 64 else []
       let count := ofBytes ((h.drop 24).take 8)
       let target := f 32 4
       let standing := (getTeam s key).run = .saved ∨ (getTeam s key).run = .restoring
       let good := runs 8 ∧ launch ∧ headerCell l ctx length h = some (team, cell) ∧ standing
       let core := ((seatFor s1 ctx team cell).map fun k => k / 2).getD 0
       (runs 8 → (getCtx s ctx).launch = none → exec .imgrestore s = finish s 2 2)
       ∧ (runs 8 → launch → headerCell l ctx length h = none → exec .imgrestore s = finish s 2 2)
       ∧ (runs 8 → launch → headerCell l ctx length h = some (team, cell) → ¬ standing → exec .imgrestore s = finish s 2 2)
       ∧ (good → reserveFirst s l ctx team cell target = none → staleImage s ctx team count = false →
          exec .imgrestore s = finish s 1 4)
       ∧ (good → reserveFirst s l ctx team cell target = none → staleImage s ctx team count = true → ∃ core,
          exec .imgrestore s = finish (postHost s ⟨0x0004, 1, some ctx, toBytes core 4 ++ zeroBytes 4 ++ toBytes count 8
            ++ toBytes ((getTeam s key).counter.getD 0).toNat 8⟩) 1 1)
       ∧ (good → reserveFirst s l ctx team cell target = some s1 → staleImage s ctx team count = false →
          (target = 0xFFFFFFFF ∨ target = core → alreadyRestored s1 ctx team cell = false → exec .imgrestore s =
            .next (startRestore s1 ⟨ctx, team, cell, f 16 8, length, h, c.queue, c.index, false⟩))
          ∧ ((target ≠ 0xFFFFFFFF ∧ target ≠ core) ∨ alreadyRestored s1 ctx team cell = true →
            exec .imgrestore s = finish s1 2 2))
       ∧ (good → reserveFirst s l ctx team cell target = some s1 → staleImage s ctx team count = true → ∃ core,
          exec .imgrestore s = finish (postHost s1 ⟨0x0004, 1, some ctx, toBytes core 4 ++ zeroBytes 4 ++ toBytes count 8
            ++ toBytes ((getTeam s1 key).counter.getD 0).toNat 8⟩) 1 1)
       ∧ ((getTeam s key).run = .restoring → reserveFirst s l ctx team cell target = some s)
       ∧ ((getTeam s key).run = .saved → fitTeam s l.desc (getTeam s key) = some seats → ∃ u,
          reserveFirst s l ctx team cell 0xFFFFFFFF = some u ∧ (getTeam u key).run = .restoring ∧ (getTeam u key).seats = seats)
       ∧ ((getTeam s key).run = .saved → fitTeam s l.desc (getTeam s key) = none →
          reserveFirst s l ctx team cell 0xFFFFFFFF = none))
    -- a restore ends
    ∧ (s.input = .triple q.ctx q.team q.cell → s.restores = [q] → q.swap = false → (getCtx s q.ctx).launch = some l →
        seatFor s q.ctx q.team q.cell = some k → restoreImage s q = (s1, some (img, bad)) →
        (verdictOf s1 q.ctx img bad = 0 → exec .restoreComplete s = .next (acceptImage s1 q l k img))
        ∧ (verdictOf s1 q.ctx img bad ≠ 0 → exec .restoreComplete s =
          .next (refuseImage s1 q l k (verdictOf s1 q.ctx img bad))))
    ∧ (verdictOf s ctx img true = 2
        ∧ (tagGood s ctx img = false → verdictOf s ctx img false = 2)
        ∧ (tagGood s ctx img = true → ofBytes ((img.drop 12).take 4) ≠ 0x640 * 2 ^ 20 + Config.stepping.toNat * 2 ^ 12
            + Config.scanMap.toNat → verdictOf s ctx img false = 3))
    ∧ (s.input = .bytes ctx bs → s.pkg.spdmState ≠ 0 → (getCtx s ctx).live = true → (getCtx s ctx).prot = true →
        recordsFree s ctx [ofBytes ((bs.drop 32).take 2)] = true → ∃ u, exec .contextKeyTransfer s = .next u
        ∧ (getCtx u ctx).key = BitVec.ofNat 256 (ofBytes (bs.take 32))
        ∧ (getTeam u (ctx * 65536 + ofBytes ((bs.drop 32).take 2))).counter =
          some (BitVec.ofNat 64 (ofBytes ((bs.drop 34).take 8))))

/-- CTXKILL begins the removal of a context: its commands are cancelled, its saves abandoned, its teams KILLED, its cells stopped
at a group boundary; each stage begins when the one before has nothing in flight, and a stage that has not drained after 10 ms
is reported, its tiles fenced, and the next begins; the last completes the command, and what of the context was accepted is
CANCELLED in its turn (R102, R115, R134, R188, R262, R263). Which tile the report names is free (log 7); CANCELLED for a second
CTXKILL, and whether commands on the arrays run on in stage 2 (R262 beside R391, free), are log 28; the effect of a fence is
log 29 (DEDUCED). -/
def Obligations.RemovalResults : Prop :=
  ∀ (s : State) (c : Cmd) (ctx stage since : Nat),
    let f := fun (off len : Nat) => ofBytes ((c.bytes.drop off).take len)
    let runs := s.input = .command c.queue c.index c.bytes ∧ runningCmd s c.queue c.index = some c ∧ f 0 1 = 6
      ∧ f 4 2 % 4096 = ctx
    let at_ := fun (n : Nat) => s.input = .num ctx ∧ (getCtx s ctx).killing = some (n, since)
    let go := fun (n : Nat) (s : State) => modCtx s ctx fun x => { x with killing := some (n + 1, s.pkg.gtime.toNat) }
    let drained := fun (n : Nat) => at_ n ∧ killCount s ctx n = 0
    let cores := ((killSeats s ctx).filter fun k => cellInFlight (getCell s k) stage != 0).map fun k => k / 2
    (runs → (getCtx s ctx).killing = none →
        let v := killTeams (abandonSaves (modCtx (cancelCommands s ctx c) ctx fun x =>
          { x with killing := some (1, s.pkg.gtime.toNat), killCmd := some (c.queue, c.index) }) ctx) ctx
        exec .ctxkill s = .next
          ((ctxSeats v ctx).foldl (fun s k => modCell s k fun c => { c with issueStopped := true, held := false }) v))
    ∧ (runs → (getCtx s ctx).killing ≠ none → exec .ctxkill s = .next (finishCmd s c 5 0 0))
    ∧ (∀ team, team < 65536 → let r := (getTeam (killTeams s ctx) (ctx * 65536 + team)).run
        r = .killed ∨ r = .done ∨ r = .absent)
    ∧ (∀ g : Cell → Cell, ∀ k ∈ killSeats s ctx, (killSeats s ctx).Nodup → getCell (modSeats s ctx g) k = g (getCell s k))
    ∧ (∀ g : Cell → Cell, ∀ k, k ∉ killSeats s ctx → getCell (modSeats s ctx g) k = getCell s k)
    -- a stage has drained
    ∧ (drained 1 → exec .ctxkillStageDrained s = .next
        (modSeats (if killRetires then go 1 s else (killSeats (go 1 s) ctx).foldl dropArrays (go 1 s)) ctx
        fun c => { c with cmds := c.cmds.filter fun m => killRetires && m.run == .running }))
    ∧ (drained 2 → exec .ctxkillStageDrained s = .next (modSeats ((killSeats (go 2 s) ctx).foldl dropArrays (go 2 s)) ctx
        fun c => { c with copies := c.copies.filter copyInFlight, pubs := [], cmds := [], fring := [] }))
    ∧ (drained 3 → exec .ctxkillStageDrained s = .next (killStage4 (go 3 s) ctx))
    ∧ (drained 4 → exec .ctxkillStageDrained s = .next (drainAll (go 4 s) fun l => l.owners.any fun o => o.ctx == some ctx))
    ∧ (drained 5 → exec .ctxkillStageDrained s = .next (invalidateAll (go 5 s) ctx))
    ∧ (drained 6 → ∃ u, exec .ctxkillStageDrained s = .next u ∧ (getCtx u ctx).killing = some (7, s.pkg.gtime.toNat)
        ∧ ∀ team, team < 65536 → (getTeam u (ctx * 65536 + team)).seats = [])
    ∧ (drained 7 → ∀ q i, (getCtx s ctx).killCmd = some (q, i) →
        let gone := dropShelled (modCtx s ctx fun _ => ctxEmpty) fun e => e.ctx == ctx
        exec .ctxkillStageDrained s = .next (finishAt
          { gone with gafin := { gone.gafin with accepted := doomCmds ctx [] gone.gafin.accepted } } q i 0 0 0))
    ∧ ((∀ x ∈ s.gafin.accepted, makesContext ctx x = false) → doomCmds ctx [] s.gafin.accepted = s.gafin.accepted.map fun x =>
        { x with doomed := x.doomed || (actsInContext x && ofBytes ((x.bytes.drop 4).take 2) % 4096 == ctx) })
    ∧ (at_ stage → killCount s ctx stage ≠ 0 → exec .ctxkillStageDrained s = .next s)
    -- a stage is stuck
    ∧ (at_ stage → killCount s ctx stage ≠ 0 → since + 10000000 ≤ s.pkg.gtime.toNat → ∃ core,
        (cores = [] → core = 0xFFFFFFFF) ∧ (cores ≠ [] → core ∈ cores) ∧
        exec .ctxRemoveStuck s = .next (killNext (cores.foldl (fenceCore ctx) (postHost { s with tick := s.tick + 1 }
          ⟨0x0005, BitVec.ofNat 16 stage, some ctx,
            toBytes core 4 ++ zeroBytes 4 ++ toBytes (killCount s ctx stage) 8⟩)) ctx stage))
    ∧ (at_ stage → s.pkg.gtime.toNat < since + 10000000 → exec .ctxRemoveStuck s = .next s)
    ∧ (∀ core, (getCore (fenceCore ctx s core) core).fenced = true ∧ ∀ need, coreFits (fenceCore ctx s core) core need = false)

/-! ### Tensor delivery, peers and windows: commands -/

/-- RCBSET refuses to open in the order of R75, waits for 1 ms after a close, opens with the counts of R74 and the clipped chunks
marked, closes, exports into MOVED and imports; a completion that waits is produced into its ring, or faults the RCB (R74 to R76,
R78, R85, R86, R93). With CHSZ 3 the test of whole chunks is not made, CTXID is that of the image, and whether the pads of an
imported RCB still wait is DEDUCED (log 22); the lowest code of R75 where several hold is DEDUCED (log 16); a refused tile-ready
slot faults the RCB without a slot of its own (log 34, DEDUCED). -/
def Obligations.ReceiveControlBlockResults : Prop :=
  ∀ (s s1 : State) (c : Cmd) (d : Option Desc) (ev : Instr) (e : Production) (rest : List Production) (k n m : Nat),
    let f := fun (off len : Nat) => ofBytes ((c.bytes.drop off).take len)
    let runs := fun (op : Nat) => s.input = .command c.queue c.index c.bytes ∧ runningCmd s c.queue c.index = some c
      ∧ f 0 1 = 0x0A ∧ f 18 1 = op
    let again := fun (op : Nat) => s.input = .pair c.queue c.index.toNat ∧ runningCmd s c.queue c.index = some c
      ∧ f 0 1 = 0x0A ∧ f 18 1 = op
    let asks := fun (op : Nat) (first : Instr) => (ev = first ∧ runs op) ∨ (ev = .rcbReopenDelayEnd ∧ again op)
    let done := fun (t : State) => Host.Outcome.next (finishCmd t c 0 0 0)
    let i := f 16 2
    let pa := f 24 8
    let image : BitVec 512 := BitVec.ofNat 512 (physNat s pa 64)
    let read := readDesc s (bitsOf image.toNat 228 217) (image.extractLsb' 480 32) = (s1, d)
    let b := rcbOfImage s1 i image (d.getD 0) (f 32 2) (f 34 1)
    let x := rcbOfExport s1 i pa image (d.getD 0) (f 32 2) (f 34 1)
    let field := fun (lo w : Nat) => (image.extractLsb' lo w).toNat
    let tile := field 352 16 * field 368 16 * field 384 16 * field 400 16 * dBits (d.getD 0)
    let tiles := field 240 12 * field 252 12 * field 264 12 * field 276 12
    let chunk := 8 * (1024 * 2 ^ field 215 2)
    let badShape := (∃ j, j < 4 ∧ (field (352 + 16 * j) 16 = 0 ∨ field (240 + 12 * j) 12 = 0))
      ∨ (∃ j, j < 4 ∧ ∀ l, l < 4 → field (232 + 2 * l) 2 ≠ j) ∨ 8 * 262144 < tile
      ∨ (field 215 2 ≠ 3 ∧ (tile % chunk ≠ 0 ∨ 16777215 < tiles * (tile / chunk)))
      ∨ ∃ j, j < 4 ∧ dRank (d.getD 0) ≤ j ∧ ¬ (field (352 + 16 * j) 16 = 1 ∧ field (240 + 12 * j) 12 = 1
          ∧ field (288 + 16 * j) 16 = 0)
    let badMode := field 215 2 = 3 ∨ (field 214 1 = 1 ∧ (3 < field 211 3 ∨ field 206 1 = 1)) ∨ (field 214 1 = 0 ∧ field 207 4 ≠ 0)
      ∨ field 201 4 = 0
    let notFree := (getRcb s1 i).state ≠ 0
    let badHandle := d = none ∨ 1 < dSpace (d.getD 0)
    let refused := fun (y : Rcb) (code : Nat) =>
      (code = 1 ∧ notFree) ∨ (¬ notFree ∧ ((code = 2 ∧ badHandle) ∨ (¬ badHandle ∧ ((code = 3 ∧ badShape)
        ∨ (¬ badShape ∧ ((code = 4 ∧ badMode) ∨ (¬ badMode ∧ code = 5 ∧ rcbAllocBad s1 i y = true)))))))
    let good := fun (y : Rcb) => ¬ notFree ∧ ¬ badHandle ∧ ¬ badShape ∧ ¬ badMode ∧ rcbAllocBad s1 i y = false
    let waits := ∃ t, (getRcb s1 i).closedAt = some t ∧ s1.pkg.gtime.toNat < t + 1000000
    -- open
    (asks 0 .rcbsetOpen → read →
        (∀ code, refused b code → exec ev s = .next (finishCmd s1 c 1 code 0))
        ∧ (good b → waits → exec ev s = .next s1)
        ∧ (good b → ¬ waits → 0 < dBits (d.getD 0) → (∀ j, j < 4 → field (288 + 16 * j) 16 = 0) →
          exec ev s = done (modRcb s1 i fun _ => { b with pend := b.nchk, state := 1 }))
        -- without pads and without a ring an open leaves it OPEN, whatever is clipped (R74)
        ∧ (good b → ¬ waits → field 206 1 = 0 → field 205 1 = 1 → ∃ t, exec ev s = done t ∧ (getRcb t i).state = 1
          ∧ (getRcb t i).nclip = (markClipped b).nclip ∧ (getRcb t i).bitmap = (markClipped b).bitmap))
    ∧ (b.desc = d.getD 0 ∧ b.gen = (getRcb s1 i).gen ∧ b.tpend = tiles ∧ b.nchk = tiles * (tile / chunk) ∧ b.bitmap = []
        ∧ b.counters = [] ∧ b.nclip = 0 ∧ b.dups = 0 ∧ b.fcause = 0)
    ∧ (∀ y : Rcb, y.bitmap = [] → y.counters = [] → y.nclip = 0 →
        (∀ k j, k < y.nchk → j < rcbContribs y → tblGet false (markClipped y).bitmap (k * rcbContribs y + j) = rcbClipped y k)
        ∧ (markClipped y).nclip = ((List.range y.nchk).filter (rcbClipped y)).length
        ∧ ∀ t, tblGet 0 (markClipped y).counters t =
          ((List.range y.nchk).filter fun k => rcbClipped y k && k / rcbCpt y == t).length)
    ∧ (8388608 < rcbBase b + rcbAllocBytes b → rcbAllocBad s1 i b = true)
    -- close
    ∧ (runs 1 → ∃ t, exec .rcbsetClose s = done t
        ∧ getRcb t i = { getRcb s i with state := 0, gen := (getRcb s i).gen + 1, closedAt := some s.pkg.gtime.toNat }
        ∧ (∀ j, j ≠ i → getRcb t j = getRcb s j) ∧ t.mem = s.mem ∧ t.cells = s.cells)
    -- export and import
    ∧ (runs 2 → ((getRcb s i).state ≠ 1 ∧ (getRcb s i).state ≠ 2) ∨ rcbReady s (getRcb s i) ≠ none →
        exec .rcbsetExport s = .next (finishCmd s c 1 6 0))
    ∧ (runs 2 → (getRcb s i).state = 1 ∨ (getRcb s i).state = 2 → rcbReady s (getRcb s i) = none →
        let waiting := (s.net.prod.filter fun e => e.rcb == i).map Production.tile
        let bs := toBytes (rcbWord (getRcb s i)).toNat 64 ++ rcbAlloc (getRcb s i)
          ++ fitBytes (toBytes waiting.length 4 ++ waiting.flatMap fun t => toBytes t 4) ((4 + 4 * waiting.length + 63) / 64 * 64)
        let moved := modRcb s i fun b => { b with state := 4 }
        (f 40 8 < bs.length → exec .rcbsetExport s = .next (finishCmd s c 1 7 0))
        ∧ (bs.length ≤ f 40 8 → exec .rcbsetExport s = done (deviceWrite { moved with
            net := { moved.net with prod := s.net.prod.filter fun e => e.rcb != i } } pa bs)))
    ∧ (asks 3 .rcbsetImport → read →
        (∀ code, refused x code → exec ev s = .next (finishCmd s1 c 1 code 0))
        ∧ (good x → waits → exec ev s = .next s1)
        ∧ (good x → ¬ waits → x.padLater = false ∨ rcbReady s1 x = none → ∃ t, exec ev s = done t ∧ getRcb t i = x
          ∧ t.net.prod = s1.net.prod ++ (exportTiles s1 pa x).map fun t => ⟨i, t, none⟩)
        ∧ (good x → ¬ waits → ∃ t, exec ev s = done t ∧ (getRcb t i).gen = x.gen ∧ (getRcb t i).bitmap = x.bitmap
          ∧ (rcbReady s1 x ≠ none → (getRcb t i).padLater = false)))
    ∧ (x.gen = image.extractLsb' 175 10 ∧ x.pend = field 104 24 ∧ x.nclip = field 80 24 ∧ x.dups = image.extractLsb' 56 24
        ∧ x.tpend = field 32 24 ∧ x.desc = d.getD 0 ∧ (x.state = 1 ∨ x.state = 2) ∧ (field 229 3 = 2 → x.state = 2)
        ∧ (x.padLater = true ↔ field 206 1 = 1 ∧ field 80 24 ≠ 0 ∧ dSpace (d.getD 0) = 0 ∧ field 229 3 ≠ 2
          ∧ field 104 24 + field 80 24 = field 128 24))
    -- the production queue
    ∧ (let y := getRcb s e.rcb
       let r := getRing (getCell s k) (rcbRing y)
       let room := r.kind = 2 ∧ ringNoRoom r = false
       let bs := (tileRecord y e.rcb e.tile).take r.slotSz
       let slot := modCell s k fun c => produceSlot c (rcbRing y) bs (e.trap.map fun t => ⟨none, t⟩)
       let ends := fun (t : State) => exec .productionQueueDrain s = .next { t with net := { t.net with prod := rest } }
       s.input = .num (e.rcb / 8192) → s.net.prod = e :: rest → rcbReady s y = some k →
        (room → banksAdmit (getCell s k) (slotAddr r r.wp) bs.length .engineWrite = true →
          (e.trap = none → ends (modRcb slot e.rcb fun b => { b with tpend := b.tpend - 1 })) ∧ (e.trap ≠ none → ends slot))
        ∧ (r.kind ≠ 2 → ends (failRcb s e.rcb (engTrap 0x18 0 (rcbRing y))))
        ∧ (room → banksAdmit (getCell s k) (slotAddr r r.wp) bs.length .engineWrite = false →
          ends (failRcb s e.rcb (slotTrap r)))
        ∧ (r.kind = 2 → ringNoRoom r = true → rest = [] → exec .productionQueueDrain s = .next s))
    ∧ (s.input = .num (e.rcb / 8192) → s.net.prod = [e] → rcbReady s (getRcb s e.rcb) = none →
        exec .productionQueueDrain s = .next s)
    ∧ (∀ t : TrapInfo, (getRcb s n).state ≠ 3 → (getRcb (failRcb s n t) n).state = 3 ∧ (getRcb (failRcb s n t) n).fcause = t.cause
        ∧ (∀ j, j ≠ n → getRcb (failRcb s n t) j = getRcb s j))
    ∧ (s.net.prod = [] → s.input = .num m → exec .productionQueueDrain s = .next s)

/-- PEERSET rewrites a peer entry, a multicast list or a key epoch, closes FAILED PDCs and re-points a peer; PATHSET rewrites a
path set, admits its ports whose link is up and names the others; WINSET opens a FREE window, WINREVOKE closes one, and it is FREE
with a new generation once nothing is admitted (R46, R49, R62 to R64, R91, R94, R95, R102, R115, R119). The refusal code of WINSET
(log 13) and the core that learns of a revocation (log 11) are free; WINREVOKE of a FREE window completes at once (log 27, DEDUCED),
and what PEERSET operation 0 does to open PDCs is log 26 (DEDUCED). -/
def Obligations.PeerAndWindowResults : Prop :=
  ∀ (s : State) (c : Cmd) (k n : Nat),
    let f := fun (off len : Nat) => ofBytes ((c.bytes.drop off).take len)
    let runs := fun (code : Nat) =>
      s.input = .command c.queue c.index c.bytes ∧ runningCmd s c.queue c.index = some c ∧ f 0 1 = code
    let done := fun (t : State) => Host.Outcome.next (finishCmd t c 0 0 0)
    let x := f 16 2
    let pa := f 24 8
    let e : BitVec 512 := BitVec.ofNat 512 (physNat s pa 64) &&& BitVec.ofNat 512 ((2 ^ 512 - 2 ^ 251) + (2 ^ 248 - 2 ^ 216))
    let p := getPdc s k
    let ours := p.state ≠ 0 ∧ p.state ≠ 4 ∧ p.peer = BitVec.ofNat 16 x
    let failed := p.state = 4 ∧ p.peer = BitVec.ofNat 16 x ∧ (f 19 1 % 2 = 1 ∨ p.ctx.toNat = f 4 2 % 4096)
    let window := getWindow s (f 16 1)
    -- PEERSET
    (runs 0x0B → f 18 1 = 0 → ∃ t, exec .peersetEntry s = done (settlePaths t) ∧ getPeer t x = e
        ∧ (∀ j, j ≠ x → getPeer t j = getPeer s j) ∧ (ours → getPdc t k = { p with pset := peerPset e, ptr := (getPdc t k).ptr })
        ∧ (ours → p.pset ≠ peerPset e → (getPdc t k).ptr = 0) ∧ (¬ ours → getPdc t k = p))
    ∧ (runs 0x0B → f 18 1 = 1 → exec .peersetMcastList s = done { s with net := { s.net with
        mcast := tblSet none s.net.mcast x (some ((List.range (f 32 1)).map fun i =>
          BitVec.ofNat 64 (physNat s (pa + 8 * i) 8) &&& 0xFFFFFFFFFFF00000#64)) } })
    ∧ (runs 0x0B → f 18 1 = 2 → ∃ t, exec .peersetNextKey s = done t ∧ getDomain t (f 32 1) = { getDomain s (f 32 1) with
        next := some (BitVec.ofNat 16 (f 34 2), BitVec.ofNat 64 (f 40 8)) } ∧ ∀ j, j ≠ f 32 1 → getDomain t j = getDomain s j)
    ∧ (runs 0x0B → f 18 1 = 3 → ∃ t, exec .peersetCloseFailed s = done t ∧ t.mem = s.mem
        ∧ (failed → (getPdc t k).state = 0 ∧ (getPdc t k).sent = [] ∧ (getPdc t k).retx = []) ∧ (¬ failed → getPdc t k = p))
    ∧ (runs 0x0B → f 18 1 = 4 → tblWf pdcEmpty s.net.pdcs = true → ∃ t, exec .peersetRepoint s = done t ∧ getPeer t x = e
        ∧ (¬ ours → getPdc t k = p)
        ∧ (ours → let q := getPdc t k
          q.est = true ∧ q.nextPsn = p.nextPsn ∧ q.unaPsn = p.unaPsn ∧ q.cwnd = p.cwnd ∧ q.timer = p.timer ∧ q.sent = p.sent
          ∧ q.state = p.state ∧ peerAddr q.entry = peerAddr e ∧ peerCwnd q.entry = peerCwnd p.entry
          ∧ q.entry.extractLsb' 323 61 = e.extractLsb' 323 61 ∧ q.entry.extractLsb' 0 323 = p.entry.extractLsb' 0 323
          ∧ ((∀ i, i < (p.nextPsn - p.unaPsn).toNat → outstanding p (p.unaPsn + BitVec.ofNat 32 i) = none) → q.retx = p.retx)
          ∧ ((∃ i, i < (p.nextPsn - p.unaPsn).toNat ∧ (outstanding p (p.unaPsn + BitVec.ofNat 32 i)).isSome = true) →
            (p.mode = 3 → q.retx = p.retx) ∧ (p.mode ≠ 3 → q.retx = ⟨p.unaPsn, (List.range (p.nextPsn - p.unaPsn).toNat).filter fun i =>
              (outstanding p (p.unaPsn + BitVec.ofNat 32 i)).isSome⟩ :: p.retx))))
    -- PATHSET, and what it and a lost port do to a PDC
    ∧ (runs 0x0C → let l := (List.range (f 18 1)).map fun i => BitVec.ofNat 32 (physNat s (pa + 4 * i) 4) &&& 0xFF00FFFF#32
        let port := fun (e : BitVec 32) => (e.extractLsb' 24 7).toNat
        ∃ t left, exec .pathset s = .next (finishCmd (settlePaths t) c 0 0 left) ∧ getPathset t x = l
          ∧ (∀ e ∈ l, (getPort s (port e)).up = true → (getPort t (port e)).admitted = true)
          ∧ (∀ j, (getPort t j).up = (getPort s j).up ∧ ((∀ e ∈ l, port e ≠ j) → getPort t j = getPort s j))
          ∧ (p.state ≠ 0 → p.pset.toNat = x → (getPdc t k).ptr = 0)
          ∧ ∀ j, j < 64 → (left.testBit j = true ↔ j < l.length ∧ (getPort s (port (l.getD j 0))).up = false))
    ∧ (p.state = 1 → pathReady s p = false → getPdc (settlePdc s k) k = { p with state := 2 })
    ∧ (p.state = 2 → pathReady s p = true → (getPdc (settlePdc s k) k).state = 1)
    ∧ (p.state = 1 → pathReady s p = true → settlePdc s k = s)
    -- windows
    ∧ (runs 0x0D → window.state = 0 → exec .winset s = done (modWindow s (f 16 1) fun w => { w with
        image := BitVec.ofNat 256 (physNat s pa 32)
          &&& BitVec.ofNat 256 ((2 ^ 256 - 2 ^ 188) + (2 ^ 186 - 2 ^ 183) + (2 ^ 144 - 2 ^ 128) + (2 ^ 64 - 2 ^ 56))
        state := 1 }))
    ∧ (runs 0x0D → window.state ≠ 0 → ∃ code t, exec .winset s = .next (finishCmd t c 1 code 0) ∧ t.net = s.net)
    ∧ (runs 0x0E → (window.state = 0 → exec .winrevoke s = done s)
        ∧ (window.state = 1 → exec .winrevoke s = .next (modWindow s (f 16 1) fun w => { w with state := 2 }))
        ∧ (window.state = 2 → exec .winrevoke s = .next s))
    ∧ (s.input = .num n → (getWindow s n).state = 2 → (getWindow s n).admitted = 0 → ∃ core, core < 8
        ∧ exec .windowRevokeComplete s = .next (endRevokes (postCore
          (modWindow s n fun w => { w with state := 0, gen := w.gen + 1 }) core
            ⟨10, false, false, 0, 0, none, s.pkg.gtime, 0, 0, BitVec.ofNat 64 (n + 256 * ((getWindow s n).gen + 1).toNat)⟩) n))
    ∧ (s.input = .num n → (getWindow s n).admitted ≠ 0 → exec .windowRevokeComplete s = .next s)
    ∧ ((∀ r ∈ s.gafin.running, ¬ (cmdNat r.cmd.bytes 0 1 = 0x0E ∧ cmdNat r.cmd.bytes 16 1 = n)) → endRevokes s n = s)

/-! ### The transport -/

/-- What a PDC sends and what its timers do: a chunk or a window access leaves as a packet under the next PSN on the first usable
entry at or after PTR (a ROD PDC stays there), held by the limits of R47, and held chunks leave by deadline (which of them count as
held is the model's choice, log 46); RETX sends an unacknowledged PSN again from its source as it stands; RTO, CCSIG, gathered
acknowledgements, backoffs, idle and closing PDCs, and key epochs act at their times (R42, R44, R46, R47, R49, R51, R53, R54, R56,
R57, R59, R63, R69, R70, R90, R96, R260, R356). What a packet is on the wire is no more than these fields (log 12, DEDUCED); that
a retransmission whose source cannot be read is not sent, and what CCSIG carries beyond its fields, is log 47 (DESIGN CHOICE). -/
def Obligations.TransmissionResults : Prop :=
  ∀ (s s1 : State) (n key order dest q t0 size : Nat) (p : Pdc) (o : CopyOp) (d : DescChain) (tgt : Nat × Nat × Nat) (r : ReadRun)
      (a : Access) (x : Sent) (fr : Frame) (frames : List Frame) (bs : List Byte) (psn : BitVec 32) (l : List (BitVec 32))
      (port peer win off i : Nat) (rest : List Nat) (ent e : BitVec 16) (next : BitVec 6) (tmpl : Packet) (carry : Carry)
      (b : FrameBody),
    let now := s.pkg.gtime.toNat
    let p0 := getPdc s n
    let span := (p0.nextPsn - p0.unaPsn).toNat
    let ctx := BitVec.ofNat 12 (getCell s key).ctx
    let dests := streamDests s d.d
    let target := chunkTarget d.d (o.tile.getD 0) q tgt.2.1 tgt.2.2
    let chunk := 1024 * 2 ^ rsChsz d.d
    let due := s.input = .triple key order dest ∧ findCopy (getCell s key) order = some o ∧ o.dst = some d
      ∧ dests[dest]? = some tgt ∧ nextChunk o d.d dest = some q ∧ inProgress o = true ∧ copyRemote o = true
      ∧ o.tile ≠ none ∧ o.sent = false ∧ tileRuns s key = true ∧ chunkWaits s key o d.d q = false
    let found := peerValid (getPeer s tgt.1) = true ∧ findPdc s ctx tgt.1 (BitVec.ofNat 4 (rsMode d.d)) = some n
    let mark := fun (s1 : State) (g : CopyOp → CopyOp) => modCopy s1 key order fun o =>
      settleSent d.d dests.length (madeChunk dest q (g { o with early := [] }))
    let sealed := fun (b : FrameBody) (f : Frame) => f.pdc = n ∧ f.entropy = ent ∧ f.udp = s.pkg.udpPort
      ∧ f.epoch = (getDomain s p0.sdom.toNat).epoch ∧ f.dst = peerAddr p0.entry ∧ f.ipv4 = peerIpv4 p0.entry
      ∧ f.hop = peerNexthop p0.entry ∧ f.vlan = peerVlan p0.entry ∧ f.body = b
    let access := s.input = .pair key o.order ∧ (getCell s key).accesses.find? (fun a => a.id == o.order) = some a
      ∧ a.place = .window peer win off false ∧ a.answered = none ∧ maySend (getCell s key) a = true
      ∧ accessRuns s key a = true
    -- a chunk
    (due → found → p0.state = 1 → mayQueue p0 chunk = true → outranked s p0 key order o.deadline = false →
        chunkRead (modPdc s n (noteReached s ⟨key, order, dest, false⟩)) key o d.d q = (s1, r) →
        (r.fault = none → r.bad = [] → exec .packetTransmit s = .next (sendNew
          (mark s1 fun o => { o with unacked := o.unacked + 1 }) n (.chunk key order dest q)
          (packetOf target.1 target.2.1 target.2.2 chunk 0 0 0 []) (packCodes (dBits d.d) r.codes) chunk))
        -- a poisoned chunk is not sent, and a read that faults ends the chunks there, for every destination
        ∧ (r.fault = none → r.bad = i :: rest → exec .packetTransmit s = .next (mark (reportChunk s1 key o d.d q) fun o =>
          noteCopyFault (enginePoison (copyAddr o i)) o))
        ∧ (∀ t, r.fault = some t → exec .packetTransmit s = .next (modCopy s1 key order fun o =>
          let o1 := { o with early := [] }
          settleSent d.d dests.length { noteCopyFault t o1 with stop := true, limit := some (min q (o1.limit.getD q)) })))
    ∧ (∀ m, o.limit = some m → nextChunk o d.d dest = some q → q < m)
    ∧ (due → found → p0.state = 1 → withinLimits p0 chunk = false ∨ outranked s p0 key order o.deadline = true →
        exec .packetTransmit s = .next (modPdc s n (noteReached s ⟨key, order, dest, true⟩)))
    ∧ (∀ e t, e ∈ p.reached → ofOp key order e = false → heldDeadline s e = some t → deadlineBefore t o.deadline = true →
        outranked s p key order o.deadline = true)
    ∧ ((∀ e ∈ p.reached, e.held = false) → outranked s p key order o.deadline = false)
    ∧ (due → found → p0.state = 2 ∨ p0.state = 3 → exec .packetTransmit s = .next s)
    ∧ (due → found → p0.state = 4 → exec .packetTransmit s = .next (modCopy s key order fun o =>
        settleSent d.d dests.length (madeChunk dest q (noteCopyFault (remoteTrap n) o))))
    ∧ (due → peerValid (getPeer s tgt.1) = false → exec .packetTransmit s = .next (modCopy s key order fun o =>
        settleSent d.d dests.length (madeChunk dest q (noteCopyFault (remoteTrap (tgt.1 + 2 ^ 31)) o))))
    ∧ (rsTsend d.d = false → target =
        (.write, tgt.2.1, tgt.2.2 * 2 ^ 24 + (o.tile.getD 0 * (dTileBytes d.d / chunk) + q) % 2 ^ 24))
    ∧ (rsTsend d.d = true → let m := 16384 / chunk
        target = (.tagged, tgt.2.1 * 2 ^ 40 + tgt.2.2 * 2 ^ 36 + (o.tile.getD 0 * (dTileBytes d.d / chunk) + q / m * m) % 2 ^ 24,
          q % m * chunk))
    -- a window access
    ∧ (access → peerValid (getPeer s peer) = true → findPdc s ctx peer 1 = some n → p0.state = 1 →
        (mayQueue p0 a.size = true → let w := windowPacket a win off
          exec .packetTransmit s = .next (sendNew (modCell s key (markSent o.order)) n (.access key o.order) w w.data a.size))
        ∧ (mayQueue p0 a.size = false → exec .packetTransmit s = .next s))
    ∧ (access → peerValid (getPeer s peer) = false → exec .packetTransmit s = .next
        (endCarry (noteFault s (key / 160) (getCell s key).ctx a.va.toNat 0x30) (.access key o.order) none
          (some (remoteTrap (peer + 2 ^ 31)))))
    ∧ ((windowPacket a win off).key = BitVec.ofNat 64 (2 ^ 24 + win) ∧ (windowPacket a win off).off = BitVec.ofNat 64 off
        ∧ (∀ v, a.kind = .store v → (windowPacket a win off).verb = .write ∧ (windowPacket a win off).data = toBytes v.toNat a.size)
        ∧ (∀ u, a.kind = .load u → (windowPacket a win off).verb = .read ∧ (windowPacket a win off).size = a.size))
    -- the limits, and what a new packet is
    ∧ (mayQueue p size = true ↔ p.retx = [] ∧ withinLimits p size = true)
    ∧ (withinLimits p size = true ↔ (p.nextPsn - p.unaPsn).toNat < 1024 ∧ inflBytes p + size ≤ p.cwnd.toNat * 256
        ∧ (peerRccc p.entry = true → creditBytes p + size ≤ p.credit.toNat * 256))
    ∧ (takePath s p0 = some (some (port, ent), next) → let u := sendNew s n carry tmpl bs size
        (getPdc u n).nextPsn = p0.nextPsn + 1 ∧ (getPdc u n).unaPsn = p0.unaPsn ∧ (getPdc u n).ptr = next
        ∧ tblGet none (getPdc u n).sent p0.nextPsn.toNat = some ⟨carry, tmpl, size, some port, false, 0, none⟩
        ∧ (p0.mode ≠ 3 → span = 0 → (getPdc u n).timer = some (now + 1000 * p0.rtous.toNat))
        ∧ (∃ f, tblGet [] u.net.egress port = tblGet [] s.net.egress port ++ [f]
          ∧ sealed (.data { tmpl with data := bs, hd := headerOf s p0 p0.nextPsn port }) f)
        ∧ u.mem = s.mem)
    ∧ (let l := getPathset s p.pset.toNat
       let place := fun (j : Nat) => (p.ptr.toNat + j) % l.length
       pdcLoop p = false →
        (takePath s p = none ↔ ∀ j, j < l.length → entryUsable s (l.getD (place j) 0) = false)
        ∧ (∀ j, j < l.length → entryUsable s (l.getD (place j) 0) = true →
          (∀ i, i < j → entryUsable s (l.getD (place i) 0) = false) → takePath s p = some (some
            (((l.getD (place j) 0).extractLsb' 24 7).toNat, (l.getD (place j) 0).setWidth 16),
            BitVec.ofNat 6 (if p.mode = 1 then place j else (place j + 1) % l.length))))
    -- a frame leaves its port
    ∧ (s.input = .num port → tblGet [] s.net.egress port = fr :: frames → exec .packetTransmit s = .next (frameGone
        (countSource { s with net := { s.net with egress := tblSet [] s.net.egress port frames } } (0x3000 + port)
          (Config.frameBytes (frameSize fr))) fr))
    ∧ (∀ b c m, fr.body = .answer b c m → frameGone s fr = s)
    -- retransmission
    ∧ (let ready := s.input = .num n ∧ (p0.state = 1 ∨ p0.state = 3) ∧ pathReady s p0 = true
       let asked := fun (i : Nat) (more : List Nat) (rest : List Retx) => p0.retx = ⟨psn, i :: more⟩ :: rest
       let left := fun (more : List Nat) (rest : List Retx) => if more = [] then rest else ⟨psn, more⟩ :: rest
       (∀ i more rest, ready → asked i more rest → p0.mode = 3 ∨ outstanding p0 (psn + BitVec.ofNat 32 i) = none →
          exec .retxSend s = .next (modPdc s n fun p => { p with retx := left more rest }))
        ∧ (∀ i more rest u done, ready → asked i more rest → p0.mode ≠ 3 → outstanding p0 (psn + BitVec.ofNat 32 i) = some x →
          resend (modPdc s n fun p => { p with retx := left more rest }) n (psn + BitVec.ofNat 32 i) x = (u, done) →
          exec .retxSend s = .next (if done = true then modPdc u n fun p =>
              { p with timer := if p.mode = 3 then none else some (now + 1000 * p.rtous.toNat) } else u)))
    ∧ (s.input = .num n → p0.state ≠ 1 → p0.state ≠ 3 → exec .retxSend s = .next s)
    ∧ (rereadPayload s x = (s, some bs) → takePath s p0 = some (some (port, ent), next) → let u := (resend s n psn x).1
        (resend s n psn x).2 = true ∧ tblGet none (getPdc u n).sent psn.toNat = some { x with port := some port, retryAt := none } ∧ (getPdc u n).ptr = next
        ∧ ∃ f, tblGet [] u.net.egress port = tblGet [] s.net.egress port ++ [f]
          ∧ sealed (.data { x.pkt with data := bs, hd := headerOf s p0 psn port }) f)
    ∧ (rereadPayload s x = (s1, none) → resend s n psn x = (s1, false))
    ∧ (s.input = .pair n psn.toNat → outstanding p0 psn = some x → x.retryAt = some t0 → p0.state = 1 → pathReady s p0 = true →
        (t0 ≤ now → exec .parkedBackoffExpiry s = .next (resend s n psn x).1)
        ∧ (now < t0 → exec .parkedBackoffExpiry s = .next s))
    -- timers
    ∧ (s.input = .num n → p0.timer = some t0 → p0.unaPsn ≠ p0.nextPsn →
        (t0 ≤ now → exec .rtoExpiry s = .next (postPdc (modPdc s n fun p => { p with timer := none }) n 1 p0.unaPsn span 0
          (if p0.parking = true then 1 else 0)))
        ∧ (now < t0 → exec .rtoExpiry s = .next s))
    ∧ (s.input = .num n → p0.acks ≠ [] → peerRccc p0.entry = false →
        (p0.ackSince + 1000 ≤ now → exec .ackCoalesceTimeout s = .next
          (sendBody (modPdc s n fun p => { p with acks := [], ackEcn := false }) n (.answer p0.acks 0 p0.ackEcn)))
        ∧ (now < p0.ackSince + 1000 → exec .ackCoalesceTimeout s = .next s))
    ∧ (s.input = .num n → p0.ccus ≠ 0 → p0.ackCount ≠ 0 →
        (p0.ccsigAt + 1000 * p0.ccus.toNat ≤ now → exec .ccsigTimer s = .next
          (postPdc s n 4 0 p0.ecncnt.toNat 0 (BitVec.ofNat 64 (p0.ackBytes % 2 ^ 32
            + min (p0.rttMin / 16) 65535 * 2 ^ 32 + min (p0.rttLast / 16) 65535 * 2 ^ 48))))
        ∧ (now < p0.ccsigAt + 1000 * p0.ccus.toNat → exec .ccsigTimer s = .next s))
    ∧ (s.input = .num n → p0.state = 1 → p0.sent = [] → p0.retx = [] → p0.outbox = [] → p0.acks = [] →
        (∀ e ∈ p0.reached, reachedOp s e = none) → (∀ e ∈ s.cells, accessQueued p0 e.2 = false) →
        (p0.lastUse + 1000000 ≤ now → exec .pdcIdleTimeout s = .next (sendBody (modPdc s n fun p =>
          { p with state := 3, closeAt := now + 2000 * (peerRtomax p.entry).toNat }) n .closeRequest))
        ∧ (now < p0.lastUse + 1000000 → exec .pdcIdleTimeout s = .next s))
    ∧ (s.input = .num n → p0.sent ≠ [] ∨ (∃ e ∈ p0.reached, reachedOp s e ≠ none)
        ∨ (∃ e ∈ s.cells, accessQueued p0 e.2 = true) → exec .pdcIdleTimeout s = .next s)
    ∧ (s.input = .num n → p0.state = 3 →
        (p0.closeAt ≤ now → exec .pdcCloseTimeout s = .next (closePdc s n))
        ∧ (now < p0.closeAt → exec .pdcCloseTimeout s = .next s))
    ∧ ((getPdc (closePdc s n) n).state = 0 ∧ (getPdc (closePdc s n) n).nextPsn = p0.nextPsn)
    -- records about a PDC
    ∧ (∀ (code count port : Nat) (aux : BitVec 64), code < 14 → code ≠ 5 → code ≠ 4 →
        let v := getVirga s (n % 8)
        let u := postPdc s n code psn count port aux
        (v.queue.length < 1024 → (getVirga u (n % 8)).queue = v.queue ++ [⟨BitVec.ofNat 8 code, false, false, BitVec.ofNat 7 port,
          BitVec.ofNat 16 n, some p0.ctx, s.pkg.gtime, psn, BitVec.ofNat 32 count, aux⟩] ∧ getPdc u n = p0)
        ∧ (1024 ≤ v.queue.length → (getVirga u (n % 8)).queue = v.queue ∧ (getVirga u (n % 8)).ovf = true
          ∧ (getPdc u n).evpend = p0.evpend ||| 1#16 <<< code))
    ∧ (∀ (count : Nat) (aux : BitVec 64), (getVirga s (n % 8)).queue.length < 1024 →
        (getPdc (postPdc s n 4 psn count 0 aux) n).ecncnt = 0 ∧ (getPdc (postPdc s n 4 psn count 0 aux) n).ackCount = 0)
    -- key epochs
    ∧ (let g := getDomain s n
       ∀ (e : BitVec 16) (t : BitVec 64), s.input = .num n → g.next = some (e, t) →
        (t.toNat ≤ now → ∃ u, exec .keyEpochSwitch s = .next u ∧ getDomain u n = ⟨e, none,
            (g.epoch, t.toNat) :: g.old.filter (fun x => x.1 != g.epoch), g.ended.filter fun x => x.1 != g.epoch⟩
          ∧ u.net.pdcs = s.net.pdcs
          ∧ ∀ k, (getPdc s k).state ≠ 0 → (getPdc s k).sdom.toNat = n → (getVirga s (k % 8)).queue.length < 1024 →
            (getVirga u (k % 8)).queue = (getVirga s (k % 8)).queue ++
              [⟨11, false, false, 0, 0, none, s.pkg.gtime, 0, 0, BitVec.ofNat 64 (n + 256 * e.toNat)⟩])
        ∧ (now < t.toNat → exec .keyEpochSwitch s = .next s))
    ∧ (let g := getDomain s n
       let last := fun (t : Nat) => t + 2000 * (peerRtomax (getPeer s peer)).toNat
       let installed := e = g.epoch ∨ ∃ t, g.next = some (e, t)
       (peerSdom (getPeer s peer)).toNat = n →
        (epochAccepted s peer e = true ↔ installed ∨ ∃ t, (e, t) ∈ g.old ∧ now ≤ last t ∧ (e, peer) ∉ g.ended)
        ∧ (∀ t, s.input = .pair n peer → (e, t) ∈ g.old → last t ≤ now → ∃ u, exec .keyEpochGraceEnd s = .next u
          ∧ (getDomain u n).epoch = g.epoch ∧ (getDomain u n).next = g.next ∧ (getDomain u n).old = g.old
          ∧ (¬ installed → epochAccepted u peer e = false))
        ∧ (s.input = .pair n peer → (∀ t, (e, t) ∈ g.old → now < last t) → ∃ u, exec .keyEpochGraceEnd s = .next u
          ∧ epochAccepted u peer e = epochAccepted s peer e))

/-- What arrives is first counted and, when it is not authenticated, from no valid peer, or of a stale epoch, dropped without an
answer. Then order and trimming are judged; a chunk meets R80 step by step; a window access meets R97 row by row and is performed;
and the answer goes back (R41, R42, R53, R55, R57, R62, R69, R70, R72, R80 to R83, R86, R97, R99, R100). What a read of a poisoned
word answers is free (log 13); which bytes a frame has beyond its payload is free and one over 4,352 bytes is no frame (log 12);
that an admitted window access is performed in the same step is log 27 (DEDUCED), that a refused slot faults its RCB alone is
log 34 (DEDUCED), and the order of trimming and kept answers is log 47 (DESIGN CHOICE). -/
def Obligations.ArrivalResults : Prop :=
  ∀ (s t0 s1 s2 s3 : State) (ev : Instr) (p : Packet) (loop : Bool) (n peer i ch con key : Nat) (l : List (Nat × BitVec 64))
      (t : TrapInfo),
    let K := p.key.toNat
    let O := p.off.toNat
    let stream := (ev = .rmaWriteStreamArrival ∧ p.verb = .write ∧ K / 2 ^ 24 ≠ 1) ∨ (ev = .taggedSendArrival ∧ p.verb = .tagged)
    let window := (ev = .remoteReadArrival ∧ p.verb = .read) ∨ (ev = .remoteAtomicArrival ∧ p.verb = .atomic)
      ∨ (ev = .remoteWriteArrival ∧ p.verb = .write ∧ K / 2 ^ 24 % 2 ^ 40 = 1)
    let q := getPdc s2 n
    let psn := p.hd.psn
    let hd := { p.hd with known := p.hd.known && !(p.verb == .tagged && decide (16384 < O + p.data.length)) }
    let arrives := arrivalOf s = (t0, .packet p, loop)
    let heard := arrives ∧ admitHeader t0 hd loop p.data.length = (s1, some peer) ∧ receiverPdc s1 p.hd peer = (s2, some n)
    let handled := heard ∧ p.hd.trimmed = false ∧ (q.mode ≠ 1 ∨ psn = q.expected)
    let port := if loop = true then 0 else p.hd.port
    let ends := fun (u : State) (a : Answer) =>
      let u1 := match a with
        | .nack 5 _ _ => countSource u (0x4000 + if loop = true then n % 8 / 4 else p.hd.port / 64) 1
        | _ => u
      exec ev s = .next (answerPsn (if q.mode = 1 ∧ accepts a = true then modPdc u1 n (keepAnswer psn a) else u1) n psn p.hd.ecn a)
    -- dropped before any handling
    (stream ∨ window → arrives → admitHeader t0 hd loop p.data.length = (s1, none) → exec ev s = .next s1)
    ∧ (let counted := countSource t0 (0x2000 + p.hd.port) (Config.frameBytes p.data.length)
       let dropped := admitHeader t0 hd false p.data.length = (countSource counted (0x4000 + p.hd.port / 64) 1, none)
       (getPort t0 p.hd.port).up = true → p.hd.port < 128 → p.data.length ≤ 4096 → p.hd.udp = t0.pkg.udpPort →
        ((∀ k e, (k, e) ∈ t0.net.peers → peerMatches e p.hd.src p.hd.ipv4 = false) → dropped)
        ∧ (p.hd.intact = false → dropped) ∧ (p.hd.known = false → dropped)
        ∧ (p.verb = .tagged → 16384 < O + p.data.length → dropped)
        ∧ (∀ k, sourcePeer counted p.hd false = some k → epochAccepted counted k p.hd.epoch = false → dropped)
        ∧ (∀ k, sourcePeer counted p.hd false = some k → epochAccepted counted k p.hd.epoch = true → p.hd.intact = true →
          hd.known = true → p.hd.mode.toNat < 4 → admitHeader t0 hd false p.data.length = (counted, some k)))
    -- order and trimming
    ∧ (stream ∨ window → heard → q.mode = 1 → (psn - q.expected).toInt < 0 → exec ev s = .next (answerPsn s2 n psn p.hd.ecn
        ((tblGet none q.kept psn.toNat).getD (.ack none))))
    ∧ (stream ∨ window → heard → p.hd.trimmed = true → q.mode ≠ 1 ∨ 0 ≤ (psn - q.expected).toInt →
        exec ev s = .next (answerPsn s2 n psn p.hd.ecn (.nack 1 0 0)))
    ∧ (stream ∨ window → heard → p.hd.trimmed = false → q.mode = 1 → 0 < (psn - q.expected).toInt →
        exec ev s = .next (answerPsn s2 n psn p.hd.ecn (.nack 2 0 0)))
    -- a chunk: its stream ID, contributor and index
    ∧ (let form := fun (sid : Nat) (size : Nat) =>
         (p.verb = .write ∧ K < 2 ^ 24 ∧ O < 2 ^ 28 ∧ sid = K ∧ con = O / 2 ^ 24 ∧ ch = O % 2 ^ 24)
         ∨ (p.verb = .tagged ∧ K / 2 ^ 24 % 2 ^ 12 = 0 ∧ sid = K / 2 ^ 40 ∧ con = K / 2 ^ 36 % 16 ∧ ch = K % 2 ^ 24 + O / size)
       let b := getRcb s2 i
       let size := 1024 * 2 ^ rcbChsz b
       let mine := stream ∧ handled ∧ ∃ sid, form sid size ∧ sid % 2 ^ 14 = i ∧ sid / 2 ^ 14 % 2 ^ 10 = b.gen.toNat ∧ b.state ≠ 0
       let fits := (rcbModes b).testBit q.mode.toNat = true ∧ con < rcbContribs b ∧ ch < b.nchk ∧ p.data.length = size
       let open_ := mine ∧ (b.state = 1 ∨ b.state = 2) ∧ fits ∧ rcbReady s2 b = some key
       let tile := ch / rcbCpt b
       let bit := ch * rcbContribs b + con
       let others := ∀ j, j < rcbContribs b → j ≠ con → tblGet false b.bitmap (ch * rcbContribs b + j) = true
       let last := others ∧ tblGet 0 b.counters tile + 1 = rcbCpt b
       let room := ¬ last ∨ queuedAt s2 (i / 8192) < 8192
       let fed := modPdc s2 n fun p => { p with feeds := if p.feeds.contains i then p.feeds else p.feeds ++ [i] }
       let claim := fun (u : State) => modRcb u i fun b => { b with bitmap := tblSet false b.bitmap bit true }
       let parked := fun (u : State) => ends (countSource u (0xA000 + i / 8192) 1) (.nack 3 0 0)
       (stream → handled → p.verb = .write → 2 ^ 24 ≤ K ∨ 2 ^ 28 ≤ O → ends s2 (.nack 5 0 0))
        ∧ (stream → handled → p.verb = .tagged → K / 2 ^ 24 % 2 ^ 12 ≠ 0 → ends s2 (.nack 5 0 0))
        ∧ (stream → handled → ∀ sid, form sid size → sid % 2 ^ 14 = i →
          b.state = 0 ∨ sid / 2 ^ 14 % 2 ^ 10 ≠ b.gen.toNat → ends s2 (.nack 4 0 0))
        ∧ (mine → b.state = 3 → ends s2 (.nack 5 0 0))
        ∧ (mine → b.state = 4 → parked s2)
        ∧ (mine → b.state = 1 ∨ b.state = 2 → ¬ fits → ends s2 (.nack 5 0 0))
        ∧ (mine → b.state = 1 ∨ b.state = 2 → fits → rcbReady s2 b = none → parked (wakeConsumer s2 b))
        ∧ (open_ → tblGet false b.bitmap bit = true → ∃ u, ends u (.ack none) ∧ u.mem = s2.mem ∧ u.cells = s2.cells
          ∧ getRcb u i = { b with dups := if b.dups = 0xFFFFFF then b.dups else b.dups + 1 }
          ∧ ((getVirga s2 (n % 8)).queue.length < 1024 → (getVirga u (n % 8)).queue = (getVirga s2 (n % 8)).queue ++
            [⟨7, false, false, BitVec.ofNat 7 port, BitVec.ofNat 16 n, some q.ctx, s2.pkg.gtime, psn, 1, BitVec.ofNat 64
              (((if p.verb = .tagged then K / 2 ^ 40 else K) % 2 ^ 24) + ch * 2 ^ 24 + con * 2 ^ 48)⟩]))
        ∧ (open_ → b.padLater = false → tblGet false b.bitmap bit = false → ¬ room → parked fed)
        ∧ (open_ → b.padLater = false → tblGet false b.bitmap bit = false → room →
          placeChunk fed b key ch (some p.data) = (s3, some t) → ends (faultPlacement s3 i tile t) (.nack 5 0 0))
        ∧ (open_ → b.padLater = false → tblGet false b.bitmap bit = false → room →
          placeChunk fed b key ch (some p.data) = (s3, none) →
          let tile := ch / rcbCpt (getRcb s3 i)
          (¬ others → ends (claim s3) (.ack none))
          ∧ (others → let u := modRcb (claim s3) i fun b =>
              { b with pend := b.pend - 1, counters := tblSet 0 b.counters tile (tblGet 0 b.counters tile + 1) }
            (tblGet 0 (getRcb u i).counters tile ≠ rcbCpt (getRcb u i) → ends (finishRcb u i) (.ack none))
            ∧ (tblGet 0 (getRcb u i).counters tile = rcbCpt (getRcb u i) → ends (finishRcb (completeTile u i tile) i) (.ack none)))))
    ∧ (∀ j, (getRcb s j).state = 1 → ((getRcb s j).pend = 0 → (getRcb (finishRcb s j) j).state = 2)
        ∧ ((getRcb s j).pend ≠ 0 → finishRcb s j = s))
    ∧ (rcbNoring (getRcb s i) = true → ∀ k, getRcb (completeTile s i k) i = { getRcb s i with tpend := (getRcb s i).tpend - 1 })
    -- a window access: R97 in its order
    ∧ (let w := getWindow s2 (K % 256)
       let field := fun (lo n : Nat) => (w.image.extractLsb' lo n).toNat
       let formed := window ∧ handled ∧ K / 2 ^ 24 = 1 ∧ K / 2 ^ 8 % 2 ^ 16 = 0 ∧ O < 2 ^ 36
       let own := match p.verb with
         | .read => 1
         | .atomic => 4
         | _ => 2
       let kind : Kind := match p.verb with
         | .read => .read
         | .atomic => .atomic
         | _ => .write
       let granted := match p.verb with
         | .read => w.image.getLsbD 185
         | .atomic => w.image.getLsbD 183
         | _ => w.image.getLsbD 184
       let wide := p.op = 1 ∨ p.op = 3
       let bytes := match p.verb with
         | .read => p.size
         | .atomic => if p.op < 4 then (if wide then 8 else 4) else p.size
         | _ => p.data.length
       let known := p.verb = .atomic → p.op < 4 ∧ O % (if wide then 8 else 4) = 0
       let r1 := w.state = 1
       let r2 := r1 ∧ (w.image.extractLsb' 128 16 = 0xFFFF ∨ w.image.extractLsb' 128 16 = q.peer) ∧ w.image.extractLsb' 56 8 = q.sdom
       let r3 := r2 ∧ O + bytes ≤ field 200 20 * 65536
       let r4 := r3 ∧ granted = true
       let base := field 220 36 * 65536 + O
       let run := virtRun s2 ⟨0, field 188 12, false, 0, .direct, []⟩ kind ((base : Nat) : Int) bytes
       let refuses := fun (u : State) (right : Nat) => ends (postPdc (modWindow u (K % 256) fun w =>
           { w with violcnt := if w.violcnt = 0xFFFFFFFF then w.violcnt else w.violcnt + 1 }) n 9 psn 1 port
             (BitVec.ofNat 64 (K % 256 + (getPdc u n).peer.toNat * 2 ^ 16 + right * 2 ^ 32))) (.nack 5 (K % 256) right)
       (window → handled → K / 2 ^ 24 ≠ 1 ∨ K / 2 ^ 8 % 2 ^ 16 ≠ 0 ∨ 2 ^ 36 ≤ O → ends s2 (.nack 5 0 0))
        ∧ (formed → ¬ r4 → refuses s2 own)
        ∧ (formed → r4 → ¬ known → refuses s2 8)
        ∧ (formed → r4 → known → run = (s3, .error t) → refuses s3 own)
        ∧ (formed → r4 → known → run = (s3, .ok l) →
          let clean := l.all fun e => physPoisoned s3 e.1 1 == false
          (p.verb = .read → clean = true → ends s3 (.ack (some (BitVec.ofNat 64 (ofBytes (l.map fun e => physByte s3 e.1))))))
          ∧ (p.verb = .write → ends (engWrite s3 ⟨0, field 188 12, false, 0, .direct, []⟩ 1 ((base : Nat) : Int) p.data false).1
            (.ack none))
          ∧ (∀ pa a rest, p.verb = .atomic → l = (pa, a) :: rest → physPoisoned s3 pa bytes = false →
            let old := physNat s3 pa bytes
            let new := match p.op with
              | 0 => (old + p.arg.toNat) % 2 ^ 32
              | 1 => (old + p.arg.toNat) % 2 ^ 64
              | 3 => if old = p.cmp.toNat then p.arg.toNat else old
              | _ => planeSum 2 old (p.arg.toNat % 2 ^ 32)
            ends (physWrite s3 pa (toBytes new bytes) false noOwner) (.ack (some (BitVec.ofNat 64 old))))))

/-- What answers bring a sender: an acknowledged PSN ends and its operation or access learns so, UNAPSN moves over what has ended,
credit, ECN marks and CCSIG are kept; each NACK reason has its effect; closes run; and how a receiver answers (R46, R47, R53 to R55,
R57, R59, R61, R98, R100, R415). What a received close ends, at which PSN a receiver opens, and that a NACK posts its record though its
packet is no longer outstanding, are log 25 (DEDUCED); a first packet for which no index is free is dropped: log 47 (DESIGN
CHOICE). -/
def Obligations.AnswerResults : Prop :=
  ∀ (s t0 s1 s2 : State) (a : Ack) (h : Header) (loop : Bool) (n peer reason win right key id order d c : Nat) (x : Sent)
      (psn : BitVec 32) (p : Pdc),
    let p0 := getPdc s1 n
    let port := if loop = true then 0 else h.port
    let acked := arrivalOf s = (t0, .ack a, loop) ∧ answeredPdc t0 a.hd loop = (s1, some n)
    let nacked := arrivalOf s = (t0, .nack h reason win right, loop) ∧ answeredPdc t0 h loop = (s1, some n)
    let held := tblGet none p0.sent h.psn.toNat = some x ∧ x.acked = false
    let now := s1.pkg.gtime.toNat
    let posts := fun (aux : Nat) => postPdc s1 n 2 h.psn 1 port (BitVec.ofNat 64 aux)
    -- acknowledgements
    (acked → let u := ackPdc s1 n a
        exec .ackReceived s = .next u
        ∧ (getPdc u n).credit = BitVec.ofNat 16 (min 65535 (p0.credit.toNat + a.credit.toNat))
        ∧ (p0.nextPsn = p0.unaPsn + 1 → tblGet none p0.sent p0.unaPsn.toNat = some x → x.acked = false →
          covers a p0.unaPsn x = true → (getPdc u n).unaPsn = p0.nextPsn ∧ (getPdc u n).timer = none
            ∧ (getPdc u n).parking = false)
        ∧ (p0.nextPsn = p0.unaPsn → (getPdc u n).unaPsn = p0.unaPsn ∧ u.cells = s1.cells ∧ u.mem = s1.mem)
        ∧ (p0.ccacks = 0 → (getPdc u n).ecncnt = if a.ecn = true then p0.ecncnt + 1 else p0.ecncnt))
    ∧ (∀ m, (getPdc s m).state ≠ 0 → tblGet none (getPdc s m).sent psn.toNat = some x → x.acked = false →
        (covers a psn x = true → let u := ackOne a m s psn
          (getPdc u m).ackBytes = (getPdc s m).ackBytes + x.size
          ∧ tblGet none (getPdc u m).sent psn.toNat = some { x with acked := true, retryAt := none }
          ∧ (x.carry = .chunk key order d c → getCell u key = { getCell s key with
              copies := (getCell s key).copies.map fun o => if o.order = order then { o with unacked := o.unacked - 1 } else o })
          ∧ (x.carry = .access key id → getCell u key = { getCell s key with
              accesses := (getCell s key).accesses.map (endAccess id (carryValue s x.carry (respOf a psn)) none) }))
        ∧ (covers a psn x = false → ackOne a m s psn = s))
    ∧ (x.pkt.verb = .write ∨ x.pkt.verb = .tagged →
        (covers a psn x = true ↔ psn ∈ a.sel ∨ ∃ e, a.cum = some e ∧ (psn - e).toInt < 0))
    ∧ ((p.nextPsn - p.unaPsn).toNat ≤ 1024 → let q := advanceUna p 1024
        q.nextPsn = p.nextPsn ∧ (q.unaPsn = q.nextPsn ∨ ∃ x, tblGet none q.sent q.unaPsn.toNat = some x ∧ x.acked = false))
    ∧ (p0.ccacks ≠ 0 → p0.ccacks.toNat ≤ p0.ackCount → (getVirga s1 (n % 8)).queue.length < 1024 →
        (getPdc (ccsigCount s1 n) n).ecncnt = 0 ∧ (getPdc (ccsigCount s1 n) n).ackCount = 0)
    -- NACKs
    ∧ (nacked → (reason = 3 → held → exec .nackReceived s = .next (parkPsn s1 n h.psn x))
        ∧ (reason = 3 → tblGet none p0.sent h.psn.toNat = none → exec .nackReceived s = .next s1)
        ∧ (reason = 1 → exec .nackReceived s = .next (postPdc s1 n 3 h.psn 1 port 0))
        ∧ (reason = 2 ∨ reason = 4 → exec .nackReceived s = .next (posts reason))
        ∧ (reason = 0 ∨ 5 < reason → exec .nackReceived s = .next (posts 0xFF))
        ∧ (reason = 5 → tblGet none p0.sent h.psn.toNat = none → exec .nackReceived s = .next (posts 5))
        ∧ (reason = 5 → held →
          let ended := fun (u : State) (aux : Nat) =>
            let v := settleUna (endPsn u n h.psn x none (some ⟨0x30, 0, 0, 0, BitVec.ofNat 32 aux, false⟩)) n
            exec .nackReceived s = .next (if p0.mode = 1 then modPdc v n fun p => { p with parking := false } else v)
          let right_ := win % 256 + p0.peer.toNat * 256 + right % 16 * 2 ^ 24
          (x.carry = .chunk key order d c → ended (posts 5) n)
          ∧ (x.carry = .access key id → ((posts 5).cells = s1.cells)
            ∧ (∀ y, ((getCell s1 key).accesses.find? fun y => y.id == id) = some y →
              ended (noteFault (posts 5) (key / 160) (getCell s1 key).ctx y.va.toNat 0x30) right_)
            ∧ (((getCell s1 key).accesses.find? fun y => y.id == id) = none → ended (posts 5) right_))))
    ∧ (let wait := if x.backoff = 0 then 4 else min 256 (2 * x.backoff)
       let u := parkPsn s1 n psn x
       tblGet none (getPdc u n).sent psn.toNat = some { x with backoff := wait, retryAt := some (now + 1000 * wait) }
        ∧ (getPdc u n).parking = true ∧ (p0.parking = true → u.virga = s1.virga)
        ∧ (p0.parking = false → (getVirga s1 (n % 8)).queue.length < 1024 → (getVirga u (n % 8)).queue =
          (getVirga s1 (n % 8)).queue ++ [⟨12, false, false, 0, BitVec.ofNat 16 n, some p0.ctx, s1.pkg.gtime, psn, 1,
            BitVec.ofNat 64 (streamOf x.pkt)⟩]))
    -- closing
    ∧ (arrivalOf s = (t0, .closeAck h, loop) → answeredPdc t0 h loop = (s1, some n) →
        (p0.state = 3 → exec .pdcCloseAckReceived s = .next (closePdc s1 n))
        ∧ (p0.state ≠ 3 → exec .pdcCloseAckReceived s = .next s1))
    ∧ (arrivalOf s = (t0, .close h, loop) → admitHeader t0 h loop 0 = (s1, some peer) → receiverPdc s1 h peer = (s2, some n) →
        exec .pdcCloseRequestReceived s = .next (sendBody (modPdc s2 n fun p =>
          { p with rxOpen := false, kept := [], acks := [] }) n .closeAck))
    ∧ (arrivalOf s = (t0, .close h, loop) → admitHeader t0 h loop 0 = (s1, none) → exec .pdcCloseRequestReceived s = .next s1)
    -- which PDC, and how a receiver answers
    ∧ (findPdc s h.ctx peer h.mode = some n → (getPdc s n).state = 4 → receiverPdc s h peer = (s, none))
    ∧ (findPdc s h.ctx peer h.mode = some n → (getPdc s n).state ≠ 4 → ∃ u, receiverPdc s h peer = (u, some n)
        ∧ (getPdc u n).rxOpen = true ∧ (getPdc u n).expected = (if (getPdc s n).rxOpen = true then (getPdc s n).expected
          else h.est.getD h.psn) ∧ (getPdc u n).state = (getPdc s n).state)
    ∧ (findPdc s h.ctx peer h.mode = none → (∃ k, k < 65536 ∧ (getPdc s k).state = 0) → ∃ u m, receiverPdc s h peer = (u, some m)
        ∧ m < 65536 ∧ (getPdc s m).state = 0 ∧ (getPdc u m).expected = h.est.getD h.psn ∧ (getPdc u m).mode = h.mode
        ∧ (getPdc u m).nextPsn = peerPsn0 (getPeer s peer) ∧ (getPdc u m).cwnd = peerCwnd (getPeer s peer))
    ∧ (findPdc s h.ctx peer h.mode = none → (∀ k, k < 65536 → (getPdc s k).state ≠ 0) → receiverPdc s h peer = (s, none))
    ∧ (∀ (g : Answer) (ecn : Bool), let q := getPdc s n
        (q.mode = 3 → answerPsn s n psn ecn g = s)
        ∧ (q.mode ≠ 3 → ∀ r w z, g = .nack r w z → answerPsn s n psn ecn g = sendBody s n (.answer [(psn, g)] 0 false))
        ∧ (q.mode ≠ 3 → ∀ v, g = .ack v → q.acks.length < 3 → answerPsn s n psn ecn g = modPdc s n fun p =>
          { p with
            acks := p.acks ++ [(psn, g)], ackEcn := p.ackEcn || ecn
            ackSince := if p.acks.isEmpty then s.pkg.gtime.toNat else p.ackSince })
        ∧ (q.mode ≠ 3 → ∀ v port ent next, g = .ack v → q.acks.length = 3 → peerRccc q.entry = false →
          takePath s q = some (some (port, ent), next) → let u := answerPsn s n psn ecn g
          (getPdc u n).acks = [] ∧ (getPdc u n).ackEcn = false ∧ ∃ f : Frame,
            tblGet [] u.net.egress port = tblGet [] s.net.egress port ++ [f] ∧ f.pdc = n ∧ f.entropy = ent
            ∧ f.epoch = (getDomain s q.sdom.toNat).epoch ∧ f.dst = peerAddr q.entry
            ∧ f.body = .answer (q.acks ++ [(psn, g)]) 0 (q.ackEcn || ecn)))
    ∧ (∀ g, tblGet none (keepAnswer psn g p).kept psn.toNat = some g ∧ (keepAnswer psn g p).expected = psn + 1)

end
end

