-- ==== Sys2Proof/Laws/Elements.lean ====
section
/-!
SUPPORT. Sys2Proof/Laws/Elements.lean: elements outside the extents of a tensor: a read gives the pad value, a write is dropped,
and neither touches the state (R185), also over the rows of an operand and the words of a STACC.
-/
namespace Sys2Proof.Machine

/-- The element at these coordinates is clipped (R185). -/
def clipped (d : Desc) (x : Coord) : Prop := coordInside d (wrapCoord d x) = false

theorem readElem_clipped {s : State} {ag : Agent} {d : Desc} {x : Coord} (h : clipped d x) :
    readElem s ag d x = (s, .ok (dPad d, false)) := by
  simp only [clipped] at h
  simp [readElem, h]

theorem writeElem_clipped {s : State} {ag : Agent} {d : Desc} {x : Coord} {v : Nat} {p : Bool} (h : clipped d x) :
    writeElem s ag d x v p = (s, .ok ()) := by
  simp only [clipped] at h
  simp [writeElem, h]

theorem readCodes_clipped (s : State) (ag : Agent) (d : Desc) (xs : List Coord) (h : ∀ x ∈ xs, clipped d x) :
    readCodes s ag d xs = (s, .ok (xs.map fun _ => dPad d, none)) := by
  induction xs with
  | nil => rfl
  | cons x r ih => simp [readCodes, readElem_clipped (h x (by simp)), ih fun y hy => h y (by simp [hy])]

theorem readRow_clipped (s : State) (ag : Agent) (d : Desc) (c : BitVec 64) (r : Nat)
    (h : ∀ k, k < mmaK (dFmt d) → clipped d (operandCoord c k r)) :
    readRow s ag ⟨d, none, none⟩ c r = (s, .ok (List.replicate (mmaK (dFmt d)) (dPad d), [], [], none)) := by
  have hx : ∀ x ∈ (List.range (mmaK (dFmt d))).map fun k => operandCoord c k r, clipped d x := by
    simpa using fun k hk => h k hk
  have he := readCodes_clipped s ag d _ hx
  have hl : ((List.range (mmaK (dFmt d))).map fun k => operandCoord c k r).map (fun _ => dPad d)
      = List.replicate (mmaK (dFmt d)) (dPad d) := by
    rw [List.map_const', List.length_map, List.length_range]
  rw [hl] at he
  simp only [readRow, he]

theorem readRows_clipped (s : State) (ag : Agent) (d : Desc) (c : BitVec 64) (n r : Nat) (o : Operand)
    (h : ∀ k i, k < mmaK (dFmt d) → i < r + n → clipped d (operandCoord c k i)) :
    ∃ q, readRows s ag ⟨d, none, none⟩ c o r n = (s, .ok q) ∧ q.bad = o.bad ∧ q.badAddr = o.badAddr := by
  induction n generalizing r o with
  | zero => exact ⟨o, rfl, rfl, rfl⟩
  | succ n ih =>
    simp only [readRows, readRow_clipped s ag d c r fun k hk => h k r hk (by omega)]
    obtain ⟨q, hq, hb, ha⟩ := ih (r + 1) _ fun k i hk hi => h k i hk (by omega)
    exact ⟨q, hq, hb, by rw [ha, Option.or_none]⟩

/-- An operand that lies outside its tensor is read without a fault and without poison. -/
theorem readOperand_clipped (s : State) (ag : Agent) (d : Desc) (hd : BitVec 32) (c : BitVec 64)
    (h : ∀ k i, k < mmaK (dFmt d) → i < 64 → clipped d (operandCoord c k i)) :
    ∃ q, readOperand s ag ⟨d, none, none⟩ hd c = (s, .ok q) ∧ q.bad = [] ∧ q.badAddr = none :=
  readRows_clipped s ag d c 64 0 ⟨hd, dFmt d, [], [], [], [], none⟩ (by simpa using h)

/-- A STACC outside its tensor writes nothing, and marks whether a word that it read is poisoned. -/
theorem staccRun_outside (k n : Nat) (ag : Agent) (d : Desc) (x : Coord) (m : MatCmd) (s : State) (g : Tbl (BitVec 32))
    (bad : Bool) (count e : Nat) (h : ∀ i, i < e + count → clipped d (staccPlace x i)) :
    ∃ g1, staccRun k n ag d x m s g bad e count =
      (s, g1, bad || (List.range' e count).any (fun i => accPoisoned (getCell s k) n (i / 64) (i % 64)), none) := by
  induction count generalizing g e bad with
  | zero => exact ⟨g, by simp [staccRun]⟩
  | succ r ih =>
    obtain ⟨g1, hg⟩ := ih (staccCode (dFmt d) m.fmtctl m.sc.toNat (rdA (getCell s k) n (e / 64) (e % 64)).toNat (e % 64) g).2
      (bad || accPoisoned (getCell s k) n (e / 64) (e % 64)) (e + 1) fun i hi => h i (by omega)
    refine ⟨g1, ?_⟩
    simp only [staccRun, writeElem_clipped (h e (by omega)), ite_self, hg, List.range'_succ, List.any_cons, Bool.or_assoc]

/-- A STACC of a tile without poison outside its tensor writes nothing. -/
theorem staccRun_clipped (k n : Nat) (ag : Agent) (d : Desc) (x : Coord) (m : MatCmd) (s : State) (g : Tbl (BitVec 32))
    (count e : Nat) (h : ∀ i, i < e + count → clipped d (staccPlace x i))
    (hp : ∀ i, i < e + count → accPoisoned (getCell s k) n (i / 64) (i % 64) = false) :
    ∃ g1, staccRun k n ag d x m s g false e count = (s, g1, false, none) := by
  obtain ⟨g1, hg⟩ := staccRun_outside k n ag d x m s g false count e h
  refine ⟨g1, ?_⟩
  have hn : ((List.range' e count).any fun i => accPoisoned (getCell s k) n (i / 64) (i % 64)) = false := by
    simp only [List.any_eq_false, List.mem_range'_1, Bool.not_eq_true]
    exact fun i hi => hp i hi.2
  rw [hg, hn]
  rfl

end Sys2Proof.Machine
end

