-- ==== Sys2Proof/Laws/Tbl.lean ====
section
/-!
SUPPORT. Sys2Proof/Laws/Tbl.lean: the laws of the sparse table: what a read gives after a write, and that every write keeps
the canonical form.
-/
namespace Sys2Proof.Machine

theorem tblGet_erase {α : Type} (d : α) (t : Tbl α) (i j : Nat) :
    tblGet d (tblErase t i) j = if j = i then d else tblGet d t j := by
  induction t with
  | nil => simp [tblErase, tblGet]
  | cons e r ih =>
    obtain ⟨k, v⟩ := e
    by_cases hk : k = i
    · subst hk
      by_cases hj : j = k
      · rw [hj] at ih ⊢
        simpa [tblErase] using ih
      · simp [tblErase, tblGet, ih, hj, Ne.symm hj]
    · by_cases hj : k = j
      · subst hj
        simp [tblErase, tblGet, hk]
      · simp [tblErase, tblGet, hk, hj, ih]

/-- No entry of the table has the key. -/
def tblMisses {α : Type} (i : Nat) (t : Tbl α) : Prop := ∀ e ∈ t, e.1 ≠ i

theorem tblMisses_erase {α : Type} (t : Tbl α) (i : Nat) : tblMisses i (tblErase t i) := by
  induction t with
  | nil => simp [tblErase, tblMisses]
  | cons e r ih =>
    obtain ⟨k, v⟩ := e
    by_cases hk : k = i
    · simpa [tblErase, hk] using ih
    · simp only [tblErase, hk, if_false]
      intro x hx
      rcases List.mem_cons.1 hx with rfl | h
      · exact hk
      · exact ih x h

theorem tblGet_insert {α : Type} (d : α) (t : Tbl α) (i j : Nat) (x : α) (h : tblMisses i t) :
    tblGet d (tblInsert t i x) j = if j = i then x else tblGet d t j := by
  induction t with
  | nil =>
    by_cases hj : j = i
    · simp [tblInsert, tblGet, hj]
    · simp [tblInsert, tblGet, hj, Ne.symm hj]
  | cons e r ih =>
    obtain ⟨k, v⟩ := e
    have hk : k ≠ i := h (k, v) (by simp)
    have hr : tblMisses i r := fun y hy => h y (by simp [hy])
    by_cases hlt : i < k
    · by_cases hj : j = i
      · simp [tblInsert, hlt, tblGet, hj]
      · simp [tblInsert, hlt, tblGet, hj, Ne.symm hj]
    · by_cases hj : k = j
      · subst hj
        simp [tblInsert, hlt, tblGet, hk]
      · simp [tblInsert, hlt, tblGet, hj, ih hr]

theorem tblGet_set {α : Type} [DecidableEq α] (d : α) (t : Tbl α) (i j : Nat) (x : α) :
    tblGet d (tblSet d t i x) j = if j = i then x else tblGet d t j := by
  unfold tblSet
  by_cases hx : x = d
  · simp only [hx, if_true, tblGet_erase]
  · simp only [hx, if_false, tblGet_insert d _ i j x (tblMisses_erase t i), tblGet_erase]
    by_cases hj : j = i <;> simp [hj]

@[simp] theorem tblGet_set_self {α : Type} [DecidableEq α] (d : α) (t : Tbl α) (i : Nat) (x : α) :
    tblGet d (tblSet d t i x) i = x := by simp [tblGet_set]

theorem tblGet_set_ne {α : Type} [DecidableEq α] (d : α) (t : Tbl α) (i j : Nat) (x : α) (h : j ≠ i) :
    tblGet d (tblSet d t i x) j = tblGet d t j := by simp [tblGet_set, h]

/-! ### The canonical form -/

/-- Every key lies above a bound, where there is one. -/
def above (lo : Option Nat) (n : Nat) : Prop := ∀ b, lo = some b → b < n

theorem tblRising_cons {α : Type} (lo : Option Nat) (k : Nat) (v : α) (r : Tbl α) :
    tblRising lo ((k, v) :: r) = true ↔ above lo k ∧ tblRising (some k) r = true := by
  cases lo with
  | none => simp [tblRising, above]
  | some b => simp [tblRising, above]

theorem tblRising_mono {α : Type} (t : Tbl α) {lo hi : Option Nat} (h : ∀ n, above hi n → above lo n)
    (ht : tblRising hi t = true) : tblRising lo t = true := by
  cases t with
  | nil => cases lo <;> rfl
  | cons e r =>
    obtain ⟨k, v⟩ := e
    rw [tblRising_cons] at ht ⊢
    exact ⟨h k ht.1, ht.2⟩

theorem tblRising_erase {α : Type} (t : Tbl α) (i : Nat) :
    ∀ lo, tblRising lo t = true → tblRising lo (tblErase t i) = true := by
  induction t with
  | nil => intro lo h; exact h
  | cons e r ih =>
    obtain ⟨k, v⟩ := e
    intro lo h
    rw [tblRising_cons] at h
    by_cases hk : k = i
    · simp only [tblErase, hk, if_true]
      refine ih lo (tblRising_mono r ?_ h.2)
      intro n hn b hb
      exact Nat.lt_trans (h.1 b hb) (hn k rfl)
    · simp only [tblErase, hk, if_false]
      rw [tblRising_cons]
      exact ⟨h.1, ih _ h.2⟩

theorem tblRising_insert {α : Type} (t : Tbl α) (i : Nat) (x : α) :
    ∀ lo, above lo i → tblMisses i t → tblRising lo t = true → tblRising lo (tblInsert t i x) = true := by
  induction t with
  | nil =>
    intro lo hi _ _
    simp only [tblInsert]
    rw [tblRising_cons]
    exact ⟨hi, rfl⟩
  | cons e r ih =>
    obtain ⟨k, v⟩ := e
    intro lo hi hm h
    rw [tblRising_cons] at h
    have hk : k ≠ i := hm (k, v) (by simp)
    by_cases hlt : i < k
    · simp only [tblInsert, hlt, if_true]
      rw [tblRising_cons, tblRising_cons]
      exact ⟨hi, fun b hb => by cases hb; exact hlt, h.2⟩
    · simp only [tblInsert, hlt, if_false]
      rw [tblRising_cons]
      refine ⟨h.1, ih _ ?_ (fun y hy => hm y (by simp [hy])) h.2⟩
      intro b hb
      cases hb
      omega

theorem tblNoDefault_erase {α : Type} [DecidableEq α] (d : α) (t : Tbl α) (i : Nat) (h : tblNoDefault d t = true) :
    tblNoDefault d (tblErase t i) = true := by
  induction t with
  | nil => exact h
  | cons e r ih =>
    obtain ⟨k, v⟩ := e
    simp only [tblNoDefault, Bool.and_eq_true] at h
    by_cases hk : k = i
    · simp [tblErase, hk, ih h.2]
    · simp [tblErase, hk, tblNoDefault, ih h.2]
      simpa using h.1

theorem tblNoDefault_insert {α : Type} [DecidableEq α] (d : α) (t : Tbl α) (i : Nat) (x : α) (hx : x ≠ d)
    (h : tblNoDefault d t = true) : tblNoDefault d (tblInsert t i x) = true := by
  induction t with
  | nil => simp [tblInsert, tblNoDefault, hx]
  | cons e r ih =>
    obtain ⟨k, v⟩ := e
    simp only [tblNoDefault, Bool.and_eq_true] at h
    by_cases hlt : i < k
    · simp only [tblInsert, hlt, if_true, tblNoDefault, Bool.and_eq_true]
      exact ⟨by simpa using hx, h.1, h.2⟩
    · simp [tblInsert, hlt, tblNoDefault, ih h.2]
      simpa using h.1

/-- A write keeps the canonical form. -/
theorem tblWf_set {α : Type} [DecidableEq α] (d : α) (t : Tbl α) (i : Nat) (x : α) (h : tblWf d t = true) :
    tblWf d (tblSet d t i x) = true := by
  simp only [tblWf, Bool.and_eq_true] at h ⊢
  unfold tblSet
  by_cases hx : x = d
  · simp only [hx, if_true]
    exact ⟨tblRising_erase t i none h.1, tblNoDefault_erase d t i h.2⟩
  · simp only [hx, if_false]
    refine ⟨tblRising_insert _ i x none ?_ (tblMisses_erase t i) (tblRising_erase t i none h.1),
      tblNoDefault_insert d _ i x hx (tblNoDefault_erase d t i h.2)⟩
    intro b hb
    cases hb

end Sys2Proof.Machine
end

