-- ==== Sys2Proof/Laws/State.lean ====
section
/-!
SUPPORT. Sys2Proof/Laws/State.lean: what each update of a numbered collection of State leaves alone, field by field, and what
the collection reads as after it.
-/
namespace Sys2Proof.Machine

/-! ### setCell -/

@[simp] theorem setCell_mem (s : State) (k : Nat) (c : Cell) : (setCell s k c).mem = s.mem := rfl
@[simp] theorem setCell_poison (s : State) (k : Nat) (c : Cell) : (setCell s k c).poison = s.poison := rfl
@[simp] theorem setCell_poisonSeen (s : State) (k : Nat) (c : Cell) : (setCell s k c).poisonSeen = s.poisonSeen := rfl
@[simp] theorem setCell_cores (s : State) (k : Nat) (c : Cell) : (setCell s k c).cores = s.cores := rfl
@[simp] theorem setCell_dies (s : State) (k : Nat) (c : Cell) : (setCell s k c).dies = s.dies := rfl
@[simp] theorem setCell_teams (s : State) (k : Nat) (c : Cell) : (setCell s k c).teams = s.teams := rfl
@[simp] theorem setCell_ctxs (s : State) (k : Nat) (c : Cell) : (setCell s k c).ctxs = s.ctxs := rfl
@[simp] theorem setCell_gafin (s : State) (k : Nat) (c : Cell) : (setCell s k c).gafin = s.gafin := rfl
@[simp] theorem setCell_pkg (s : State) (k : Nat) (c : Cell) : (setCell s k c).pkg = s.pkg := rfl
@[simp] theorem setCell_cxl (s : State) (k : Nat) (c : Cell) : (setCell s k c).cxl = s.cxl := rfl
@[simp] theorem setCell_saves (s : State) (k : Nat) (c : Cell) : (setCell s k c).saves = s.saves := rfl
@[simp] theorem setCell_restores (s : State) (k : Nat) (c : Cell) : (setCell s k c).restores = s.restores := rfl
@[simp] theorem setCell_images (s : State) (k : Nat) (c : Cell) : (setCell s k c).images = s.images := rfl
@[simp] theorem setCell_launchSeq (s : State) (k : Nat) (c : Cell) : (setCell s k c).launchSeq = s.launchSeq := rfl
@[simp] theorem setCell_net (s : State) (k : Nat) (c : Cell) : (setCell s k c).net = s.net := rfl
@[simp] theorem setCell_virga (s : State) (k : Nat) (c : Cell) : (setCell s k c).virga = s.virga := rfl
@[simp] theorem setCell_agenda (s : State) (k : Nat) (c : Cell) : (setCell s k c).agenda = s.agenda := rfl
@[simp] theorem setCell_tick (s : State) (k : Nat) (c : Cell) : (setCell s k c).tick = s.tick := rfl
@[simp] theorem setCell_iss (s : State) (k : Nat) (c : Cell) : (setCell s k c).iss = s.iss := rfl
@[simp] theorem setCell_input (s : State) (k : Nat) (c : Cell) : (setCell s k c).input = s.input := rfl

/-! ### modCell -/

@[simp] theorem modCell_mem (s : State) (k : Nat) (f : Cell → Cell) : (modCell s k f).mem = s.mem := rfl
@[simp] theorem modCell_poison (s : State) (k : Nat) (f : Cell → Cell) : (modCell s k f).poison = s.poison := rfl
@[simp] theorem modCell_poisonSeen (s : State) (k : Nat) (f : Cell → Cell) : (modCell s k f).poisonSeen = s.poisonSeen := rfl
@[simp] theorem modCell_cores (s : State) (k : Nat) (f : Cell → Cell) : (modCell s k f).cores = s.cores := rfl
@[simp] theorem modCell_dies (s : State) (k : Nat) (f : Cell → Cell) : (modCell s k f).dies = s.dies := rfl
@[simp] theorem modCell_teams (s : State) (k : Nat) (f : Cell → Cell) : (modCell s k f).teams = s.teams := rfl
@[simp] theorem modCell_ctxs (s : State) (k : Nat) (f : Cell → Cell) : (modCell s k f).ctxs = s.ctxs := rfl
@[simp] theorem modCell_gafin (s : State) (k : Nat) (f : Cell → Cell) : (modCell s k f).gafin = s.gafin := rfl
@[simp] theorem modCell_pkg (s : State) (k : Nat) (f : Cell → Cell) : (modCell s k f).pkg = s.pkg := rfl
@[simp] theorem modCell_cxl (s : State) (k : Nat) (f : Cell → Cell) : (modCell s k f).cxl = s.cxl := rfl
@[simp] theorem modCell_saves (s : State) (k : Nat) (f : Cell → Cell) : (modCell s k f).saves = s.saves := rfl
@[simp] theorem modCell_restores (s : State) (k : Nat) (f : Cell → Cell) : (modCell s k f).restores = s.restores := rfl
@[simp] theorem modCell_images (s : State) (k : Nat) (f : Cell → Cell) : (modCell s k f).images = s.images := rfl
@[simp] theorem modCell_launchSeq (s : State) (k : Nat) (f : Cell → Cell) : (modCell s k f).launchSeq = s.launchSeq := rfl
@[simp] theorem modCell_net (s : State) (k : Nat) (f : Cell → Cell) : (modCell s k f).net = s.net := rfl
@[simp] theorem modCell_virga (s : State) (k : Nat) (f : Cell → Cell) : (modCell s k f).virga = s.virga := rfl
@[simp] theorem modCell_agenda (s : State) (k : Nat) (f : Cell → Cell) : (modCell s k f).agenda = s.agenda := rfl
@[simp] theorem modCell_tick (s : State) (k : Nat) (f : Cell → Cell) : (modCell s k f).tick = s.tick := rfl
@[simp] theorem modCell_iss (s : State) (k : Nat) (f : Cell → Cell) : (modCell s k f).iss = s.iss := rfl
@[simp] theorem modCell_input (s : State) (k : Nat) (f : Cell → Cell) : (modCell s k f).input = s.input := rfl

/-! ### modCore -/

@[simp] theorem modCore_mem (s : State) (n : Nat) (f : Core → Core) : (modCore s n f).mem = s.mem := rfl
@[simp] theorem modCore_poison (s : State) (n : Nat) (f : Core → Core) : (modCore s n f).poison = s.poison := rfl
@[simp] theorem modCore_poisonSeen (s : State) (n : Nat) (f : Core → Core) : (modCore s n f).poisonSeen = s.poisonSeen := rfl
@[simp] theorem modCore_cells (s : State) (n : Nat) (f : Core → Core) : (modCore s n f).cells = s.cells := rfl
@[simp] theorem modCore_dies (s : State) (n : Nat) (f : Core → Core) : (modCore s n f).dies = s.dies := rfl
@[simp] theorem modCore_teams (s : State) (n : Nat) (f : Core → Core) : (modCore s n f).teams = s.teams := rfl
@[simp] theorem modCore_ctxs (s : State) (n : Nat) (f : Core → Core) : (modCore s n f).ctxs = s.ctxs := rfl
@[simp] theorem modCore_gafin (s : State) (n : Nat) (f : Core → Core) : (modCore s n f).gafin = s.gafin := rfl
@[simp] theorem modCore_pkg (s : State) (n : Nat) (f : Core → Core) : (modCore s n f).pkg = s.pkg := rfl
@[simp] theorem modCore_cxl (s : State) (n : Nat) (f : Core → Core) : (modCore s n f).cxl = s.cxl := rfl
@[simp] theorem modCore_saves (s : State) (n : Nat) (f : Core → Core) : (modCore s n f).saves = s.saves := rfl
@[simp] theorem modCore_restores (s : State) (n : Nat) (f : Core → Core) : (modCore s n f).restores = s.restores := rfl
@[simp] theorem modCore_images (s : State) (n : Nat) (f : Core → Core) : (modCore s n f).images = s.images := rfl
@[simp] theorem modCore_launchSeq (s : State) (n : Nat) (f : Core → Core) : (modCore s n f).launchSeq = s.launchSeq := rfl
@[simp] theorem modCore_net (s : State) (n : Nat) (f : Core → Core) : (modCore s n f).net = s.net := rfl
@[simp] theorem modCore_virga (s : State) (n : Nat) (f : Core → Core) : (modCore s n f).virga = s.virga := rfl
@[simp] theorem modCore_agenda (s : State) (n : Nat) (f : Core → Core) : (modCore s n f).agenda = s.agenda := rfl
@[simp] theorem modCore_tick (s : State) (n : Nat) (f : Core → Core) : (modCore s n f).tick = s.tick := rfl
@[simp] theorem modCore_iss (s : State) (n : Nat) (f : Core → Core) : (modCore s n f).iss = s.iss := rfl
@[simp] theorem modCore_input (s : State) (n : Nat) (f : Core → Core) : (modCore s n f).input = s.input := rfl

/-! ### modDie -/

@[simp] theorem modDie_mem (s : State) (n : Nat) (f : Die → Die) : (modDie s n f).mem = s.mem := rfl
@[simp] theorem modDie_poison (s : State) (n : Nat) (f : Die → Die) : (modDie s n f).poison = s.poison := rfl
@[simp] theorem modDie_poisonSeen (s : State) (n : Nat) (f : Die → Die) : (modDie s n f).poisonSeen = s.poisonSeen := rfl
@[simp] theorem modDie_cells (s : State) (n : Nat) (f : Die → Die) : (modDie s n f).cells = s.cells := rfl
@[simp] theorem modDie_cores (s : State) (n : Nat) (f : Die → Die) : (modDie s n f).cores = s.cores := rfl
@[simp] theorem modDie_teams (s : State) (n : Nat) (f : Die → Die) : (modDie s n f).teams = s.teams := rfl
@[simp] theorem modDie_ctxs (s : State) (n : Nat) (f : Die → Die) : (modDie s n f).ctxs = s.ctxs := rfl
@[simp] theorem modDie_gafin (s : State) (n : Nat) (f : Die → Die) : (modDie s n f).gafin = s.gafin := rfl
@[simp] theorem modDie_pkg (s : State) (n : Nat) (f : Die → Die) : (modDie s n f).pkg = s.pkg := rfl
@[simp] theorem modDie_cxl (s : State) (n : Nat) (f : Die → Die) : (modDie s n f).cxl = s.cxl := rfl
@[simp] theorem modDie_saves (s : State) (n : Nat) (f : Die → Die) : (modDie s n f).saves = s.saves := rfl
@[simp] theorem modDie_restores (s : State) (n : Nat) (f : Die → Die) : (modDie s n f).restores = s.restores := rfl
@[simp] theorem modDie_images (s : State) (n : Nat) (f : Die → Die) : (modDie s n f).images = s.images := rfl
@[simp] theorem modDie_launchSeq (s : State) (n : Nat) (f : Die → Die) : (modDie s n f).launchSeq = s.launchSeq := rfl
@[simp] theorem modDie_net (s : State) (n : Nat) (f : Die → Die) : (modDie s n f).net = s.net := rfl
@[simp] theorem modDie_virga (s : State) (n : Nat) (f : Die → Die) : (modDie s n f).virga = s.virga := rfl
@[simp] theorem modDie_agenda (s : State) (n : Nat) (f : Die → Die) : (modDie s n f).agenda = s.agenda := rfl
@[simp] theorem modDie_tick (s : State) (n : Nat) (f : Die → Die) : (modDie s n f).tick = s.tick := rfl
@[simp] theorem modDie_iss (s : State) (n : Nat) (f : Die → Die) : (modDie s n f).iss = s.iss := rfl
@[simp] theorem modDie_input (s : State) (n : Nat) (f : Die → Die) : (modDie s n f).input = s.input := rfl

/-! ### modTeam -/

@[simp] theorem modTeam_mem (s : State) (n : Nat) (f : Team → Team) : (modTeam s n f).mem = s.mem := rfl
@[simp] theorem modTeam_poison (s : State) (n : Nat) (f : Team → Team) : (modTeam s n f).poison = s.poison := rfl
@[simp] theorem modTeam_poisonSeen (s : State) (n : Nat) (f : Team → Team) : (modTeam s n f).poisonSeen = s.poisonSeen := rfl
@[simp] theorem modTeam_cells (s : State) (n : Nat) (f : Team → Team) : (modTeam s n f).cells = s.cells := rfl
@[simp] theorem modTeam_cores (s : State) (n : Nat) (f : Team → Team) : (modTeam s n f).cores = s.cores := rfl
@[simp] theorem modTeam_dies (s : State) (n : Nat) (f : Team → Team) : (modTeam s n f).dies = s.dies := rfl
@[simp] theorem modTeam_ctxs (s : State) (n : Nat) (f : Team → Team) : (modTeam s n f).ctxs = s.ctxs := rfl
@[simp] theorem modTeam_gafin (s : State) (n : Nat) (f : Team → Team) : (modTeam s n f).gafin = s.gafin := rfl
@[simp] theorem modTeam_pkg (s : State) (n : Nat) (f : Team → Team) : (modTeam s n f).pkg = s.pkg := rfl
@[simp] theorem modTeam_cxl (s : State) (n : Nat) (f : Team → Team) : (modTeam s n f).cxl = s.cxl := rfl
@[simp] theorem modTeam_saves (s : State) (n : Nat) (f : Team → Team) : (modTeam s n f).saves = s.saves := rfl
@[simp] theorem modTeam_restores (s : State) (n : Nat) (f : Team → Team) : (modTeam s n f).restores = s.restores := rfl
@[simp] theorem modTeam_images (s : State) (n : Nat) (f : Team → Team) : (modTeam s n f).images = s.images := rfl
@[simp] theorem modTeam_launchSeq (s : State) (n : Nat) (f : Team → Team) : (modTeam s n f).launchSeq = s.launchSeq := rfl
@[simp] theorem modTeam_net (s : State) (n : Nat) (f : Team → Team) : (modTeam s n f).net = s.net := rfl
@[simp] theorem modTeam_virga (s : State) (n : Nat) (f : Team → Team) : (modTeam s n f).virga = s.virga := rfl
@[simp] theorem modTeam_agenda (s : State) (n : Nat) (f : Team → Team) : (modTeam s n f).agenda = s.agenda := rfl
@[simp] theorem modTeam_tick (s : State) (n : Nat) (f : Team → Team) : (modTeam s n f).tick = s.tick := rfl
@[simp] theorem modTeam_iss (s : State) (n : Nat) (f : Team → Team) : (modTeam s n f).iss = s.iss := rfl
@[simp] theorem modTeam_input (s : State) (n : Nat) (f : Team → Team) : (modTeam s n f).input = s.input := rfl

/-! ### modCtx -/

@[simp] theorem modCtx_mem (s : State) (n : Nat) (f : Context → Context) : (modCtx s n f).mem = s.mem := rfl
@[simp] theorem modCtx_poison (s : State) (n : Nat) (f : Context → Context) : (modCtx s n f).poison = s.poison := rfl
@[simp] theorem modCtx_poisonSeen (s : State) (n : Nat) (f : Context → Context) : (modCtx s n f).poisonSeen = s.poisonSeen := rfl
@[simp] theorem modCtx_cells (s : State) (n : Nat) (f : Context → Context) : (modCtx s n f).cells = s.cells := rfl
@[simp] theorem modCtx_cores (s : State) (n : Nat) (f : Context → Context) : (modCtx s n f).cores = s.cores := rfl
@[simp] theorem modCtx_dies (s : State) (n : Nat) (f : Context → Context) : (modCtx s n f).dies = s.dies := rfl
@[simp] theorem modCtx_teams (s : State) (n : Nat) (f : Context → Context) : (modCtx s n f).teams = s.teams := rfl
@[simp] theorem modCtx_gafin (s : State) (n : Nat) (f : Context → Context) : (modCtx s n f).gafin = s.gafin := rfl
@[simp] theorem modCtx_pkg (s : State) (n : Nat) (f : Context → Context) : (modCtx s n f).pkg = s.pkg := rfl
@[simp] theorem modCtx_cxl (s : State) (n : Nat) (f : Context → Context) : (modCtx s n f).cxl = s.cxl := rfl
@[simp] theorem modCtx_saves (s : State) (n : Nat) (f : Context → Context) : (modCtx s n f).saves = s.saves := rfl
@[simp] theorem modCtx_restores (s : State) (n : Nat) (f : Context → Context) : (modCtx s n f).restores = s.restores := rfl
@[simp] theorem modCtx_images (s : State) (n : Nat) (f : Context → Context) : (modCtx s n f).images = s.images := rfl
@[simp] theorem modCtx_launchSeq (s : State) (n : Nat) (f : Context → Context) : (modCtx s n f).launchSeq = s.launchSeq := rfl
@[simp] theorem modCtx_net (s : State) (n : Nat) (f : Context → Context) : (modCtx s n f).net = s.net := rfl
@[simp] theorem modCtx_virga (s : State) (n : Nat) (f : Context → Context) : (modCtx s n f).virga = s.virga := rfl
@[simp] theorem modCtx_agenda (s : State) (n : Nat) (f : Context → Context) : (modCtx s n f).agenda = s.agenda := rfl
@[simp] theorem modCtx_tick (s : State) (n : Nat) (f : Context → Context) : (modCtx s n f).tick = s.tick := rfl
@[simp] theorem modCtx_iss (s : State) (n : Nat) (f : Context → Context) : (modCtx s n f).iss = s.iss := rfl
@[simp] theorem modCtx_input (s : State) (n : Nat) (f : Context → Context) : (modCtx s n f).input = s.input := rfl

/-! ### modCxl -/

@[simp] theorem modCxl_mem (s : State) (n : Nat) (f : CxlPort → CxlPort) : (modCxl s n f).mem = s.mem := rfl
@[simp] theorem modCxl_poison (s : State) (n : Nat) (f : CxlPort → CxlPort) : (modCxl s n f).poison = s.poison := rfl
@[simp] theorem modCxl_poisonSeen (s : State) (n : Nat) (f : CxlPort → CxlPort) : (modCxl s n f).poisonSeen = s.poisonSeen := rfl
@[simp] theorem modCxl_cells (s : State) (n : Nat) (f : CxlPort → CxlPort) : (modCxl s n f).cells = s.cells := rfl
@[simp] theorem modCxl_cores (s : State) (n : Nat) (f : CxlPort → CxlPort) : (modCxl s n f).cores = s.cores := rfl
@[simp] theorem modCxl_dies (s : State) (n : Nat) (f : CxlPort → CxlPort) : (modCxl s n f).dies = s.dies := rfl
@[simp] theorem modCxl_teams (s : State) (n : Nat) (f : CxlPort → CxlPort) : (modCxl s n f).teams = s.teams := rfl
@[simp] theorem modCxl_ctxs (s : State) (n : Nat) (f : CxlPort → CxlPort) : (modCxl s n f).ctxs = s.ctxs := rfl
@[simp] theorem modCxl_gafin (s : State) (n : Nat) (f : CxlPort → CxlPort) : (modCxl s n f).gafin = s.gafin := rfl
@[simp] theorem modCxl_pkg (s : State) (n : Nat) (f : CxlPort → CxlPort) : (modCxl s n f).pkg = s.pkg := rfl
@[simp] theorem modCxl_saves (s : State) (n : Nat) (f : CxlPort → CxlPort) : (modCxl s n f).saves = s.saves := rfl
@[simp] theorem modCxl_restores (s : State) (n : Nat) (f : CxlPort → CxlPort) : (modCxl s n f).restores = s.restores := rfl
@[simp] theorem modCxl_images (s : State) (n : Nat) (f : CxlPort → CxlPort) : (modCxl s n f).images = s.images := rfl
@[simp] theorem modCxl_launchSeq (s : State) (n : Nat) (f : CxlPort → CxlPort) : (modCxl s n f).launchSeq = s.launchSeq := rfl
@[simp] theorem modCxl_net (s : State) (n : Nat) (f : CxlPort → CxlPort) : (modCxl s n f).net = s.net := rfl
@[simp] theorem modCxl_virga (s : State) (n : Nat) (f : CxlPort → CxlPort) : (modCxl s n f).virga = s.virga := rfl
@[simp] theorem modCxl_agenda (s : State) (n : Nat) (f : CxlPort → CxlPort) : (modCxl s n f).agenda = s.agenda := rfl
@[simp] theorem modCxl_tick (s : State) (n : Nat) (f : CxlPort → CxlPort) : (modCxl s n f).tick = s.tick := rfl
@[simp] theorem modCxl_iss (s : State) (n : Nat) (f : CxlPort → CxlPort) : (modCxl s n f).iss = s.iss := rfl
@[simp] theorem modCxl_input (s : State) (n : Nat) (f : CxlPort → CxlPort) : (modCxl s n f).input = s.input := rfl

/-! ### modQueue -/

@[simp] theorem modQueue_mem (s : State) (n : Nat) (f : Queue → Queue) : (modQueue s n f).mem = s.mem := rfl
@[simp] theorem modQueue_poison (s : State) (n : Nat) (f : Queue → Queue) : (modQueue s n f).poison = s.poison := rfl
@[simp] theorem modQueue_poisonSeen (s : State) (n : Nat) (f : Queue → Queue) : (modQueue s n f).poisonSeen = s.poisonSeen := rfl
@[simp] theorem modQueue_cells (s : State) (n : Nat) (f : Queue → Queue) : (modQueue s n f).cells = s.cells := rfl
@[simp] theorem modQueue_cores (s : State) (n : Nat) (f : Queue → Queue) : (modQueue s n f).cores = s.cores := rfl
@[simp] theorem modQueue_dies (s : State) (n : Nat) (f : Queue → Queue) : (modQueue s n f).dies = s.dies := rfl
@[simp] theorem modQueue_teams (s : State) (n : Nat) (f : Queue → Queue) : (modQueue s n f).teams = s.teams := rfl
@[simp] theorem modQueue_ctxs (s : State) (n : Nat) (f : Queue → Queue) : (modQueue s n f).ctxs = s.ctxs := rfl
@[simp] theorem modQueue_pkg (s : State) (n : Nat) (f : Queue → Queue) : (modQueue s n f).pkg = s.pkg := rfl
@[simp] theorem modQueue_cxl (s : State) (n : Nat) (f : Queue → Queue) : (modQueue s n f).cxl = s.cxl := rfl
@[simp] theorem modQueue_saves (s : State) (n : Nat) (f : Queue → Queue) : (modQueue s n f).saves = s.saves := rfl
@[simp] theorem modQueue_restores (s : State) (n : Nat) (f : Queue → Queue) : (modQueue s n f).restores = s.restores := rfl
@[simp] theorem modQueue_images (s : State) (n : Nat) (f : Queue → Queue) : (modQueue s n f).images = s.images := rfl
@[simp] theorem modQueue_launchSeq (s : State) (n : Nat) (f : Queue → Queue) : (modQueue s n f).launchSeq = s.launchSeq := rfl
@[simp] theorem modQueue_net (s : State) (n : Nat) (f : Queue → Queue) : (modQueue s n f).net = s.net := rfl
@[simp] theorem modQueue_virga (s : State) (n : Nat) (f : Queue → Queue) : (modQueue s n f).virga = s.virga := rfl
@[simp] theorem modQueue_agenda (s : State) (n : Nat) (f : Queue → Queue) : (modQueue s n f).agenda = s.agenda := rfl
@[simp] theorem modQueue_tick (s : State) (n : Nat) (f : Queue → Queue) : (modQueue s n f).tick = s.tick := rfl
@[simp] theorem modQueue_iss (s : State) (n : Nat) (f : Queue → Queue) : (modQueue s n f).iss = s.iss := rfl
@[simp] theorem modQueue_input (s : State) (n : Nat) (f : Queue → Queue) : (modQueue s n f).input = s.input := rfl

/-! ### countSource -/

@[simp] theorem countSource_mem (s : State) (n m : Nat) : (countSource s n m).mem = s.mem := rfl
@[simp] theorem countSource_poison (s : State) (n m : Nat) : (countSource s n m).poison = s.poison := rfl
@[simp] theorem countSource_poisonSeen (s : State) (n m : Nat) : (countSource s n m).poisonSeen = s.poisonSeen := rfl
@[simp] theorem countSource_cells (s : State) (n m : Nat) : (countSource s n m).cells = s.cells := rfl
@[simp] theorem countSource_cores (s : State) (n m : Nat) : (countSource s n m).cores = s.cores := rfl
@[simp] theorem countSource_dies (s : State) (n m : Nat) : (countSource s n m).dies = s.dies := rfl
@[simp] theorem countSource_teams (s : State) (n m : Nat) : (countSource s n m).teams = s.teams := rfl
@[simp] theorem countSource_ctxs (s : State) (n m : Nat) : (countSource s n m).ctxs = s.ctxs := rfl
@[simp] theorem countSource_pkg (s : State) (n m : Nat) : (countSource s n m).pkg = s.pkg := rfl
@[simp] theorem countSource_cxl (s : State) (n m : Nat) : (countSource s n m).cxl = s.cxl := rfl
@[simp] theorem countSource_saves (s : State) (n m : Nat) : (countSource s n m).saves = s.saves := rfl
@[simp] theorem countSource_restores (s : State) (n m : Nat) : (countSource s n m).restores = s.restores := rfl
@[simp] theorem countSource_images (s : State) (n m : Nat) : (countSource s n m).images = s.images := rfl
@[simp] theorem countSource_launchSeq (s : State) (n m : Nat) : (countSource s n m).launchSeq = s.launchSeq := rfl
@[simp] theorem countSource_net (s : State) (n m : Nat) : (countSource s n m).net = s.net := rfl
@[simp] theorem countSource_virga (s : State) (n m : Nat) : (countSource s n m).virga = s.virga := rfl
@[simp] theorem countSource_agenda (s : State) (n m : Nat) : (countSource s n m).agenda = s.agenda := rfl
@[simp] theorem countSource_tick (s : State) (n m : Nat) : (countSource s n m).tick = s.tick := rfl
@[simp] theorem countSource_iss (s : State) (n m : Nat) : (countSource s n m).iss = s.iss := rfl
@[simp] theorem countSource_input (s : State) (n m : Nat) : (countSource s n m).input = s.input := rfl

/-! ### modPdc -/

@[simp] theorem modPdc_mem (s : State) (n : Nat) (f : Pdc → Pdc) : (modPdc s n f).mem = s.mem := rfl
@[simp] theorem modPdc_poison (s : State) (n : Nat) (f : Pdc → Pdc) : (modPdc s n f).poison = s.poison := rfl
@[simp] theorem modPdc_poisonSeen (s : State) (n : Nat) (f : Pdc → Pdc) : (modPdc s n f).poisonSeen = s.poisonSeen := rfl
@[simp] theorem modPdc_cells (s : State) (n : Nat) (f : Pdc → Pdc) : (modPdc s n f).cells = s.cells := rfl
@[simp] theorem modPdc_cores (s : State) (n : Nat) (f : Pdc → Pdc) : (modPdc s n f).cores = s.cores := rfl
@[simp] theorem modPdc_dies (s : State) (n : Nat) (f : Pdc → Pdc) : (modPdc s n f).dies = s.dies := rfl
@[simp] theorem modPdc_teams (s : State) (n : Nat) (f : Pdc → Pdc) : (modPdc s n f).teams = s.teams := rfl
@[simp] theorem modPdc_ctxs (s : State) (n : Nat) (f : Pdc → Pdc) : (modPdc s n f).ctxs = s.ctxs := rfl
@[simp] theorem modPdc_gafin (s : State) (n : Nat) (f : Pdc → Pdc) : (modPdc s n f).gafin = s.gafin := rfl
@[simp] theorem modPdc_pkg (s : State) (n : Nat) (f : Pdc → Pdc) : (modPdc s n f).pkg = s.pkg := rfl
@[simp] theorem modPdc_cxl (s : State) (n : Nat) (f : Pdc → Pdc) : (modPdc s n f).cxl = s.cxl := rfl
@[simp] theorem modPdc_saves (s : State) (n : Nat) (f : Pdc → Pdc) : (modPdc s n f).saves = s.saves := rfl
@[simp] theorem modPdc_restores (s : State) (n : Nat) (f : Pdc → Pdc) : (modPdc s n f).restores = s.restores := rfl
@[simp] theorem modPdc_images (s : State) (n : Nat) (f : Pdc → Pdc) : (modPdc s n f).images = s.images := rfl
@[simp] theorem modPdc_launchSeq (s : State) (n : Nat) (f : Pdc → Pdc) : (modPdc s n f).launchSeq = s.launchSeq := rfl
@[simp] theorem modPdc_virga (s : State) (n : Nat) (f : Pdc → Pdc) : (modPdc s n f).virga = s.virga := rfl
@[simp] theorem modPdc_agenda (s : State) (n : Nat) (f : Pdc → Pdc) : (modPdc s n f).agenda = s.agenda := rfl
@[simp] theorem modPdc_tick (s : State) (n : Nat) (f : Pdc → Pdc) : (modPdc s n f).tick = s.tick := rfl
@[simp] theorem modPdc_iss (s : State) (n : Nat) (f : Pdc → Pdc) : (modPdc s n f).iss = s.iss := rfl
@[simp] theorem modPdc_input (s : State) (n : Nat) (f : Pdc → Pdc) : (modPdc s n f).input = s.input := rfl

/-! ### modRcb -/

@[simp] theorem modRcb_mem (s : State) (n : Nat) (f : Rcb → Rcb) : (modRcb s n f).mem = s.mem := rfl
@[simp] theorem modRcb_poison (s : State) (n : Nat) (f : Rcb → Rcb) : (modRcb s n f).poison = s.poison := rfl
@[simp] theorem modRcb_poisonSeen (s : State) (n : Nat) (f : Rcb → Rcb) : (modRcb s n f).poisonSeen = s.poisonSeen := rfl
@[simp] theorem modRcb_cells (s : State) (n : Nat) (f : Rcb → Rcb) : (modRcb s n f).cells = s.cells := rfl
@[simp] theorem modRcb_cores (s : State) (n : Nat) (f : Rcb → Rcb) : (modRcb s n f).cores = s.cores := rfl
@[simp] theorem modRcb_dies (s : State) (n : Nat) (f : Rcb → Rcb) : (modRcb s n f).dies = s.dies := rfl
@[simp] theorem modRcb_teams (s : State) (n : Nat) (f : Rcb → Rcb) : (modRcb s n f).teams = s.teams := rfl
@[simp] theorem modRcb_ctxs (s : State) (n : Nat) (f : Rcb → Rcb) : (modRcb s n f).ctxs = s.ctxs := rfl
@[simp] theorem modRcb_gafin (s : State) (n : Nat) (f : Rcb → Rcb) : (modRcb s n f).gafin = s.gafin := rfl
@[simp] theorem modRcb_pkg (s : State) (n : Nat) (f : Rcb → Rcb) : (modRcb s n f).pkg = s.pkg := rfl
@[simp] theorem modRcb_cxl (s : State) (n : Nat) (f : Rcb → Rcb) : (modRcb s n f).cxl = s.cxl := rfl
@[simp] theorem modRcb_saves (s : State) (n : Nat) (f : Rcb → Rcb) : (modRcb s n f).saves = s.saves := rfl
@[simp] theorem modRcb_restores (s : State) (n : Nat) (f : Rcb → Rcb) : (modRcb s n f).restores = s.restores := rfl
@[simp] theorem modRcb_images (s : State) (n : Nat) (f : Rcb → Rcb) : (modRcb s n f).images = s.images := rfl
@[simp] theorem modRcb_launchSeq (s : State) (n : Nat) (f : Rcb → Rcb) : (modRcb s n f).launchSeq = s.launchSeq := rfl
@[simp] theorem modRcb_virga (s : State) (n : Nat) (f : Rcb → Rcb) : (modRcb s n f).virga = s.virga := rfl
@[simp] theorem modRcb_agenda (s : State) (n : Nat) (f : Rcb → Rcb) : (modRcb s n f).agenda = s.agenda := rfl
@[simp] theorem modRcb_tick (s : State) (n : Nat) (f : Rcb → Rcb) : (modRcb s n f).tick = s.tick := rfl
@[simp] theorem modRcb_iss (s : State) (n : Nat) (f : Rcb → Rcb) : (modRcb s n f).iss = s.iss := rfl
@[simp] theorem modRcb_input (s : State) (n : Nat) (f : Rcb → Rcb) : (modRcb s n f).input = s.input := rfl

/-! ### modWindow -/

@[simp] theorem modWindow_mem (s : State) (n : Nat) (f : Window → Window) : (modWindow s n f).mem = s.mem := rfl
@[simp] theorem modWindow_poison (s : State) (n : Nat) (f : Window → Window) : (modWindow s n f).poison = s.poison := rfl
@[simp] theorem modWindow_poisonSeen (s : State) (n : Nat) (f : Window → Window) : (modWindow s n f).poisonSeen = s.poisonSeen := rfl
@[simp] theorem modWindow_cells (s : State) (n : Nat) (f : Window → Window) : (modWindow s n f).cells = s.cells := rfl
@[simp] theorem modWindow_cores (s : State) (n : Nat) (f : Window → Window) : (modWindow s n f).cores = s.cores := rfl
@[simp] theorem modWindow_dies (s : State) (n : Nat) (f : Window → Window) : (modWindow s n f).dies = s.dies := rfl
@[simp] theorem modWindow_teams (s : State) (n : Nat) (f : Window → Window) : (modWindow s n f).teams = s.teams := rfl
@[simp] theorem modWindow_ctxs (s : State) (n : Nat) (f : Window → Window) : (modWindow s n f).ctxs = s.ctxs := rfl
@[simp] theorem modWindow_gafin (s : State) (n : Nat) (f : Window → Window) : (modWindow s n f).gafin = s.gafin := rfl
@[simp] theorem modWindow_pkg (s : State) (n : Nat) (f : Window → Window) : (modWindow s n f).pkg = s.pkg := rfl
@[simp] theorem modWindow_cxl (s : State) (n : Nat) (f : Window → Window) : (modWindow s n f).cxl = s.cxl := rfl
@[simp] theorem modWindow_saves (s : State) (n : Nat) (f : Window → Window) : (modWindow s n f).saves = s.saves := rfl
@[simp] theorem modWindow_restores (s : State) (n : Nat) (f : Window → Window) : (modWindow s n f).restores = s.restores := rfl
@[simp] theorem modWindow_images (s : State) (n : Nat) (f : Window → Window) : (modWindow s n f).images = s.images := rfl
@[simp] theorem modWindow_launchSeq (s : State) (n : Nat) (f : Window → Window) : (modWindow s n f).launchSeq = s.launchSeq := rfl
@[simp] theorem modWindow_virga (s : State) (n : Nat) (f : Window → Window) : (modWindow s n f).virga = s.virga := rfl
@[simp] theorem modWindow_agenda (s : State) (n : Nat) (f : Window → Window) : (modWindow s n f).agenda = s.agenda := rfl
@[simp] theorem modWindow_tick (s : State) (n : Nat) (f : Window → Window) : (modWindow s n f).tick = s.tick := rfl
@[simp] theorem modWindow_iss (s : State) (n : Nat) (f : Window → Window) : (modWindow s n f).iss = s.iss := rfl
@[simp] theorem modWindow_input (s : State) (n : Nat) (f : Window → Window) : (modWindow s n f).input = s.input := rfl

/-! ### modPort -/

@[simp] theorem modPort_mem (s : State) (n : Nat) (f : EtherPort → EtherPort) : (modPort s n f).mem = s.mem := rfl
@[simp] theorem modPort_poison (s : State) (n : Nat) (f : EtherPort → EtherPort) : (modPort s n f).poison = s.poison := rfl
@[simp] theorem modPort_poisonSeen (s : State) (n : Nat) (f : EtherPort → EtherPort) : (modPort s n f).poisonSeen = s.poisonSeen := rfl
@[simp] theorem modPort_cells (s : State) (n : Nat) (f : EtherPort → EtherPort) : (modPort s n f).cells = s.cells := rfl
@[simp] theorem modPort_cores (s : State) (n : Nat) (f : EtherPort → EtherPort) : (modPort s n f).cores = s.cores := rfl
@[simp] theorem modPort_dies (s : State) (n : Nat) (f : EtherPort → EtherPort) : (modPort s n f).dies = s.dies := rfl
@[simp] theorem modPort_teams (s : State) (n : Nat) (f : EtherPort → EtherPort) : (modPort s n f).teams = s.teams := rfl
@[simp] theorem modPort_ctxs (s : State) (n : Nat) (f : EtherPort → EtherPort) : (modPort s n f).ctxs = s.ctxs := rfl
@[simp] theorem modPort_gafin (s : State) (n : Nat) (f : EtherPort → EtherPort) : (modPort s n f).gafin = s.gafin := rfl
@[simp] theorem modPort_pkg (s : State) (n : Nat) (f : EtherPort → EtherPort) : (modPort s n f).pkg = s.pkg := rfl
@[simp] theorem modPort_cxl (s : State) (n : Nat) (f : EtherPort → EtherPort) : (modPort s n f).cxl = s.cxl := rfl
@[simp] theorem modPort_saves (s : State) (n : Nat) (f : EtherPort → EtherPort) : (modPort s n f).saves = s.saves := rfl
@[simp] theorem modPort_restores (s : State) (n : Nat) (f : EtherPort → EtherPort) : (modPort s n f).restores = s.restores := rfl
@[simp] theorem modPort_images (s : State) (n : Nat) (f : EtherPort → EtherPort) : (modPort s n f).images = s.images := rfl
@[simp] theorem modPort_launchSeq (s : State) (n : Nat) (f : EtherPort → EtherPort) : (modPort s n f).launchSeq = s.launchSeq := rfl
@[simp] theorem modPort_virga (s : State) (n : Nat) (f : EtherPort → EtherPort) : (modPort s n f).virga = s.virga := rfl
@[simp] theorem modPort_agenda (s : State) (n : Nat) (f : EtherPort → EtherPort) : (modPort s n f).agenda = s.agenda := rfl
@[simp] theorem modPort_tick (s : State) (n : Nat) (f : EtherPort → EtherPort) : (modPort s n f).tick = s.tick := rfl
@[simp] theorem modPort_iss (s : State) (n : Nat) (f : EtherPort → EtherPort) : (modPort s n f).iss = s.iss := rfl
@[simp] theorem modPort_input (s : State) (n : Nat) (f : EtherPort → EtherPort) : (modPort s n f).input = s.input := rfl

/-! ### modDomain -/

@[simp] theorem modDomain_mem (s : State) (n : Nat) (f : Domain → Domain) : (modDomain s n f).mem = s.mem := rfl
@[simp] theorem modDomain_poison (s : State) (n : Nat) (f : Domain → Domain) : (modDomain s n f).poison = s.poison := rfl
@[simp] theorem modDomain_poisonSeen (s : State) (n : Nat) (f : Domain → Domain) : (modDomain s n f).poisonSeen = s.poisonSeen := rfl
@[simp] theorem modDomain_cells (s : State) (n : Nat) (f : Domain → Domain) : (modDomain s n f).cells = s.cells := rfl
@[simp] theorem modDomain_cores (s : State) (n : Nat) (f : Domain → Domain) : (modDomain s n f).cores = s.cores := rfl
@[simp] theorem modDomain_dies (s : State) (n : Nat) (f : Domain → Domain) : (modDomain s n f).dies = s.dies := rfl
@[simp] theorem modDomain_teams (s : State) (n : Nat) (f : Domain → Domain) : (modDomain s n f).teams = s.teams := rfl
@[simp] theorem modDomain_ctxs (s : State) (n : Nat) (f : Domain → Domain) : (modDomain s n f).ctxs = s.ctxs := rfl
@[simp] theorem modDomain_gafin (s : State) (n : Nat) (f : Domain → Domain) : (modDomain s n f).gafin = s.gafin := rfl
@[simp] theorem modDomain_pkg (s : State) (n : Nat) (f : Domain → Domain) : (modDomain s n f).pkg = s.pkg := rfl
@[simp] theorem modDomain_cxl (s : State) (n : Nat) (f : Domain → Domain) : (modDomain s n f).cxl = s.cxl := rfl
@[simp] theorem modDomain_saves (s : State) (n : Nat) (f : Domain → Domain) : (modDomain s n f).saves = s.saves := rfl
@[simp] theorem modDomain_restores (s : State) (n : Nat) (f : Domain → Domain) : (modDomain s n f).restores = s.restores := rfl
@[simp] theorem modDomain_images (s : State) (n : Nat) (f : Domain → Domain) : (modDomain s n f).images = s.images := rfl
@[simp] theorem modDomain_launchSeq (s : State) (n : Nat) (f : Domain → Domain) : (modDomain s n f).launchSeq = s.launchSeq := rfl
@[simp] theorem modDomain_virga (s : State) (n : Nat) (f : Domain → Domain) : (modDomain s n f).virga = s.virga := rfl
@[simp] theorem modDomain_agenda (s : State) (n : Nat) (f : Domain → Domain) : (modDomain s n f).agenda = s.agenda := rfl
@[simp] theorem modDomain_tick (s : State) (n : Nat) (f : Domain → Domain) : (modDomain s n f).tick = s.tick := rfl
@[simp] theorem modDomain_iss (s : State) (n : Nat) (f : Domain → Domain) : (modDomain s n f).iss = s.iss := rfl
@[simp] theorem modDomain_input (s : State) (n : Nat) (f : Domain → Domain) : (modDomain s n f).input = s.input := rfl

/-! ### modVirga -/

@[simp] theorem modVirga_mem (s : State) (n : Nat) (f : Virga → Virga) : (modVirga s n f).mem = s.mem := rfl
@[simp] theorem modVirga_poison (s : State) (n : Nat) (f : Virga → Virga) : (modVirga s n f).poison = s.poison := rfl
@[simp] theorem modVirga_poisonSeen (s : State) (n : Nat) (f : Virga → Virga) : (modVirga s n f).poisonSeen = s.poisonSeen := rfl
@[simp] theorem modVirga_cells (s : State) (n : Nat) (f : Virga → Virga) : (modVirga s n f).cells = s.cells := rfl
@[simp] theorem modVirga_cores (s : State) (n : Nat) (f : Virga → Virga) : (modVirga s n f).cores = s.cores := rfl
@[simp] theorem modVirga_dies (s : State) (n : Nat) (f : Virga → Virga) : (modVirga s n f).dies = s.dies := rfl
@[simp] theorem modVirga_teams (s : State) (n : Nat) (f : Virga → Virga) : (modVirga s n f).teams = s.teams := rfl
@[simp] theorem modVirga_ctxs (s : State) (n : Nat) (f : Virga → Virga) : (modVirga s n f).ctxs = s.ctxs := rfl
@[simp] theorem modVirga_gafin (s : State) (n : Nat) (f : Virga → Virga) : (modVirga s n f).gafin = s.gafin := rfl
@[simp] theorem modVirga_pkg (s : State) (n : Nat) (f : Virga → Virga) : (modVirga s n f).pkg = s.pkg := rfl
@[simp] theorem modVirga_cxl (s : State) (n : Nat) (f : Virga → Virga) : (modVirga s n f).cxl = s.cxl := rfl
@[simp] theorem modVirga_saves (s : State) (n : Nat) (f : Virga → Virga) : (modVirga s n f).saves = s.saves := rfl
@[simp] theorem modVirga_restores (s : State) (n : Nat) (f : Virga → Virga) : (modVirga s n f).restores = s.restores := rfl
@[simp] theorem modVirga_images (s : State) (n : Nat) (f : Virga → Virga) : (modVirga s n f).images = s.images := rfl
@[simp] theorem modVirga_launchSeq (s : State) (n : Nat) (f : Virga → Virga) : (modVirga s n f).launchSeq = s.launchSeq := rfl
@[simp] theorem modVirga_net (s : State) (n : Nat) (f : Virga → Virga) : (modVirga s n f).net = s.net := rfl
@[simp] theorem modVirga_agenda (s : State) (n : Nat) (f : Virga → Virga) : (modVirga s n f).agenda = s.agenda := rfl
@[simp] theorem modVirga_tick (s : State) (n : Nat) (f : Virga → Virga) : (modVirga s n f).tick = s.tick := rfl
@[simp] theorem modVirga_iss (s : State) (n : Nat) (f : Virga → Virga) : (modVirga s n f).iss = s.iss := rfl
@[simp] theorem modVirga_input (s : State) (n : Nat) (f : Virga → Virga) : (modVirga s n f).input = s.input := rfl

/-! ### Reading after an update -/

@[simp] theorem getCell_setCell (s : State) (k : Nat) (c : Cell) : getCell (setCell s k c) k = c := by
  simp [getCell, setCell]

theorem getCell_setCell_ne (s : State) (k j : Nat) (c : Cell) (h : j ≠ k) : getCell (setCell s k c) j = getCell s j := by
  simp [getCell, setCell, tblGet_set, h]

@[simp] theorem getCell_modCell (s : State) (n : Nat) (f : Cell → Cell) : getCell (modCell s n f) n = f (getCell s n) := by
  simp [getCell, modCell, setCell]

theorem getCell_modCell_ne (s : State) (n j : Nat) (f : Cell → Cell) (h : j ≠ n) : getCell (modCell s n f) j = getCell s j := by
  simp [getCell, modCell, setCell, tblGet_set, h]

@[simp] theorem getCore_modCore (s : State) (n : Nat) (f : Core → Core) : getCore (modCore s n f) n = f (getCore s n) := by
  simp [getCore, modCore]

theorem getCore_modCore_ne (s : State) (n j : Nat) (f : Core → Core) (h : j ≠ n) : getCore (modCore s n f) j = getCore s j := by
  simp [getCore, modCore, tblGet_set, h]

@[simp] theorem getDie_modDie (s : State) (n : Nat) (f : Die → Die) : getDie (modDie s n f) n = f (getDie s n) := by
  simp [getDie, modDie]

theorem getDie_modDie_ne (s : State) (n j : Nat) (f : Die → Die) (h : j ≠ n) : getDie (modDie s n f) j = getDie s j := by
  simp [getDie, modDie, tblGet_set, h]

@[simp] theorem getTeam_modTeam (s : State) (n : Nat) (f : Team → Team) : getTeam (modTeam s n f) n = f (getTeam s n) := by
  simp [getTeam, modTeam]

theorem getTeam_modTeam_ne (s : State) (n j : Nat) (f : Team → Team) (h : j ≠ n) : getTeam (modTeam s n f) j = getTeam s j := by
  simp [getTeam, modTeam, tblGet_set, h]

@[simp] theorem getCtx_modCtx (s : State) (n : Nat) (f : Context → Context) : getCtx (modCtx s n f) n = f (getCtx s n) := by
  simp [getCtx, modCtx]

theorem getCtx_modCtx_ne (s : State) (n j : Nat) (f : Context → Context) (h : j ≠ n) : getCtx (modCtx s n f) j = getCtx s j := by
  simp [getCtx, modCtx, tblGet_set, h]

@[simp] theorem getCxl_modCxl (s : State) (n : Nat) (f : CxlPort → CxlPort) : getCxl (modCxl s n f) n = f (getCxl s n) := by
  simp [getCxl, modCxl]

theorem getCxl_modCxl_ne (s : State) (n j : Nat) (f : CxlPort → CxlPort) (h : j ≠ n) : getCxl (modCxl s n f) j = getCxl s j := by
  simp [getCxl, modCxl, tblGet_set, h]

@[simp] theorem getQueue_modQueue (s : State) (n : Nat) (f : Queue → Queue) : getQueue (modQueue s n f) n = f (getQueue s n) := by
  simp [getQueue, modQueue]

theorem getQueue_modQueue_ne (s : State) (n j : Nat) (f : Queue → Queue) (h : j ≠ n) : getQueue (modQueue s n f) j = getQueue s j := by
  simp [getQueue, modQueue, tblGet_set, h]

@[simp] theorem getPdc_modPdc (s : State) (n : Nat) (f : Pdc → Pdc) : getPdc (modPdc s n f) n = f (getPdc s n) := by
  simp [getPdc, modPdc]

theorem getPdc_modPdc_ne (s : State) (n j : Nat) (f : Pdc → Pdc) (h : j ≠ n) : getPdc (modPdc s n f) j = getPdc s j := by
  simp [getPdc, modPdc, tblGet_set, h]

@[simp] theorem getRcb_modRcb (s : State) (n : Nat) (f : Rcb → Rcb) : getRcb (modRcb s n f) n = f (getRcb s n) := by
  simp [getRcb, modRcb]

theorem getRcb_modRcb_ne (s : State) (n j : Nat) (f : Rcb → Rcb) (h : j ≠ n) : getRcb (modRcb s n f) j = getRcb s j := by
  simp [getRcb, modRcb, tblGet_set, h]

@[simp] theorem getWindow_modWindow (s : State) (n : Nat) (f : Window → Window) : getWindow (modWindow s n f) n = f (getWindow s n) := by
  simp [getWindow, modWindow]

theorem getWindow_modWindow_ne (s : State) (n j : Nat) (f : Window → Window) (h : j ≠ n) : getWindow (modWindow s n f) j = getWindow s j := by
  simp [getWindow, modWindow, tblGet_set, h]

@[simp] theorem getPort_modPort (s : State) (n : Nat) (f : EtherPort → EtherPort) : getPort (modPort s n f) n = f (getPort s n) := by
  simp [getPort, modPort]

theorem getPort_modPort_ne (s : State) (n j : Nat) (f : EtherPort → EtherPort) (h : j ≠ n) : getPort (modPort s n f) j = getPort s j := by
  simp [getPort, modPort, tblGet_set, h]

@[simp] theorem getDomain_modDomain (s : State) (n : Nat) (f : Domain → Domain) : getDomain (modDomain s n f) n = f (getDomain s n) := by
  simp [getDomain, modDomain]

theorem getDomain_modDomain_ne (s : State) (n j : Nat) (f : Domain → Domain) (h : j ≠ n) : getDomain (modDomain s n f) j = getDomain s j := by
  simp [getDomain, modDomain, tblGet_set, h]

@[simp] theorem getVirga_modVirga (s : State) (n : Nat) (f : Virga → Virga) : getVirga (modVirga s n f) n = f (getVirga s n) := by
  simp [getVirga, modVirga]

theorem getVirga_modVirga_ne (s : State) (n j : Nat) (f : Virga → Virga) (h : j ≠ n) : getVirga (modVirga s n f) j = getVirga s j := by
  simp [getVirga, modVirga, tblGet_set, h]

/-! ### Other collections -/

@[simp] theorem getCore_of_setCell (s : State) (k : Nat) (c : Cell) (j : Nat) : getCore (setCell s k c) j = getCore s j := rfl
@[simp] theorem getDie_of_setCell (s : State) (k : Nat) (c : Cell) (j : Nat) : getDie (setCell s k c) j = getDie s j := rfl
@[simp] theorem getTeam_of_setCell (s : State) (k : Nat) (c : Cell) (j : Nat) : getTeam (setCell s k c) j = getTeam s j := rfl
@[simp] theorem getCtx_of_setCell (s : State) (k : Nat) (c : Cell) (j : Nat) : getCtx (setCell s k c) j = getCtx s j := rfl
@[simp] theorem getCxl_of_setCell (s : State) (k : Nat) (c : Cell) (j : Nat) : getCxl (setCell s k c) j = getCxl s j := rfl
@[simp] theorem getQueue_of_setCell (s : State) (k : Nat) (c : Cell) (j : Nat) : getQueue (setCell s k c) j = getQueue s j := rfl
@[simp] theorem getPdc_of_setCell (s : State) (k : Nat) (c : Cell) (j : Nat) : getPdc (setCell s k c) j = getPdc s j := rfl
@[simp] theorem getVirga_of_setCell (s : State) (k : Nat) (c : Cell) (j : Nat) : getVirga (setCell s k c) j = getVirga s j := rfl
@[simp] theorem getCore_of_modCell (s : State) (k : Nat) (f : Cell → Cell) (j : Nat) : getCore (modCell s k f) j = getCore s j := rfl
@[simp] theorem getDie_of_modCell (s : State) (k : Nat) (f : Cell → Cell) (j : Nat) : getDie (modCell s k f) j = getDie s j := rfl
@[simp] theorem getTeam_of_modCell (s : State) (k : Nat) (f : Cell → Cell) (j : Nat) : getTeam (modCell s k f) j = getTeam s j := rfl
@[simp] theorem getCtx_of_modCell (s : State) (k : Nat) (f : Cell → Cell) (j : Nat) : getCtx (modCell s k f) j = getCtx s j := rfl
@[simp] theorem getCxl_of_modCell (s : State) (k : Nat) (f : Cell → Cell) (j : Nat) : getCxl (modCell s k f) j = getCxl s j := rfl
@[simp] theorem getQueue_of_modCell (s : State) (k : Nat) (f : Cell → Cell) (j : Nat) : getQueue (modCell s k f) j = getQueue s j := rfl
@[simp] theorem getPdc_of_modCell (s : State) (k : Nat) (f : Cell → Cell) (j : Nat) : getPdc (modCell s k f) j = getPdc s j := rfl
@[simp] theorem getVirga_of_modCell (s : State) (k : Nat) (f : Cell → Cell) (j : Nat) : getVirga (modCell s k f) j = getVirga s j := rfl
@[simp] theorem getCell_of_modCore (s : State) (n : Nat) (f : Core → Core) (j : Nat) : getCell (modCore s n f) j = getCell s j := rfl
@[simp] theorem getDie_of_modCore (s : State) (n : Nat) (f : Core → Core) (j : Nat) : getDie (modCore s n f) j = getDie s j := rfl
@[simp] theorem getTeam_of_modCore (s : State) (n : Nat) (f : Core → Core) (j : Nat) : getTeam (modCore s n f) j = getTeam s j := rfl
@[simp] theorem getCtx_of_modCore (s : State) (n : Nat) (f : Core → Core) (j : Nat) : getCtx (modCore s n f) j = getCtx s j := rfl
@[simp] theorem getCxl_of_modCore (s : State) (n : Nat) (f : Core → Core) (j : Nat) : getCxl (modCore s n f) j = getCxl s j := rfl
@[simp] theorem getQueue_of_modCore (s : State) (n : Nat) (f : Core → Core) (j : Nat) : getQueue (modCore s n f) j = getQueue s j := rfl
@[simp] theorem getPdc_of_modCore (s : State) (n : Nat) (f : Core → Core) (j : Nat) : getPdc (modCore s n f) j = getPdc s j := rfl
@[simp] theorem getVirga_of_modCore (s : State) (n : Nat) (f : Core → Core) (j : Nat) : getVirga (modCore s n f) j = getVirga s j := rfl
@[simp] theorem getCell_of_modDie (s : State) (n : Nat) (f : Die → Die) (j : Nat) : getCell (modDie s n f) j = getCell s j := rfl
@[simp] theorem getCore_of_modDie (s : State) (n : Nat) (f : Die → Die) (j : Nat) : getCore (modDie s n f) j = getCore s j := rfl
@[simp] theorem getTeam_of_modDie (s : State) (n : Nat) (f : Die → Die) (j : Nat) : getTeam (modDie s n f) j = getTeam s j := rfl
@[simp] theorem getCtx_of_modDie (s : State) (n : Nat) (f : Die → Die) (j : Nat) : getCtx (modDie s n f) j = getCtx s j := rfl
@[simp] theorem getCxl_of_modDie (s : State) (n : Nat) (f : Die → Die) (j : Nat) : getCxl (modDie s n f) j = getCxl s j := rfl
@[simp] theorem getQueue_of_modDie (s : State) (n : Nat) (f : Die → Die) (j : Nat) : getQueue (modDie s n f) j = getQueue s j := rfl
@[simp] theorem getPdc_of_modDie (s : State) (n : Nat) (f : Die → Die) (j : Nat) : getPdc (modDie s n f) j = getPdc s j := rfl
@[simp] theorem getVirga_of_modDie (s : State) (n : Nat) (f : Die → Die) (j : Nat) : getVirga (modDie s n f) j = getVirga s j := rfl
@[simp] theorem getCell_of_modTeam (s : State) (n : Nat) (f : Team → Team) (j : Nat) : getCell (modTeam s n f) j = getCell s j := rfl
@[simp] theorem getCore_of_modTeam (s : State) (n : Nat) (f : Team → Team) (j : Nat) : getCore (modTeam s n f) j = getCore s j := rfl
@[simp] theorem getDie_of_modTeam (s : State) (n : Nat) (f : Team → Team) (j : Nat) : getDie (modTeam s n f) j = getDie s j := rfl
@[simp] theorem getCtx_of_modTeam (s : State) (n : Nat) (f : Team → Team) (j : Nat) : getCtx (modTeam s n f) j = getCtx s j := rfl
@[simp] theorem getCxl_of_modTeam (s : State) (n : Nat) (f : Team → Team) (j : Nat) : getCxl (modTeam s n f) j = getCxl s j := rfl
@[simp] theorem getQueue_of_modTeam (s : State) (n : Nat) (f : Team → Team) (j : Nat) : getQueue (modTeam s n f) j = getQueue s j := rfl
@[simp] theorem getPdc_of_modTeam (s : State) (n : Nat) (f : Team → Team) (j : Nat) : getPdc (modTeam s n f) j = getPdc s j := rfl
@[simp] theorem getVirga_of_modTeam (s : State) (n : Nat) (f : Team → Team) (j : Nat) : getVirga (modTeam s n f) j = getVirga s j := rfl
@[simp] theorem getCell_of_modCtx (s : State) (n : Nat) (f : Context → Context) (j : Nat) : getCell (modCtx s n f) j = getCell s j := rfl
@[simp] theorem getCore_of_modCtx (s : State) (n : Nat) (f : Context → Context) (j : Nat) : getCore (modCtx s n f) j = getCore s j := rfl
@[simp] theorem getDie_of_modCtx (s : State) (n : Nat) (f : Context → Context) (j : Nat) : getDie (modCtx s n f) j = getDie s j := rfl
@[simp] theorem getTeam_of_modCtx (s : State) (n : Nat) (f : Context → Context) (j : Nat) : getTeam (modCtx s n f) j = getTeam s j := rfl
@[simp] theorem getCxl_of_modCtx (s : State) (n : Nat) (f : Context → Context) (j : Nat) : getCxl (modCtx s n f) j = getCxl s j := rfl
@[simp] theorem getQueue_of_modCtx (s : State) (n : Nat) (f : Context → Context) (j : Nat) : getQueue (modCtx s n f) j = getQueue s j := rfl
@[simp] theorem getPdc_of_modCtx (s : State) (n : Nat) (f : Context → Context) (j : Nat) : getPdc (modCtx s n f) j = getPdc s j := rfl
@[simp] theorem getVirga_of_modCtx (s : State) (n : Nat) (f : Context → Context) (j : Nat) : getVirga (modCtx s n f) j = getVirga s j := rfl
@[simp] theorem getCell_of_modCxl (s : State) (n : Nat) (f : CxlPort → CxlPort) (j : Nat) : getCell (modCxl s n f) j = getCell s j := rfl
@[simp] theorem getCore_of_modCxl (s : State) (n : Nat) (f : CxlPort → CxlPort) (j : Nat) : getCore (modCxl s n f) j = getCore s j := rfl
@[simp] theorem getDie_of_modCxl (s : State) (n : Nat) (f : CxlPort → CxlPort) (j : Nat) : getDie (modCxl s n f) j = getDie s j := rfl
@[simp] theorem getTeam_of_modCxl (s : State) (n : Nat) (f : CxlPort → CxlPort) (j : Nat) : getTeam (modCxl s n f) j = getTeam s j := rfl
@[simp] theorem getCtx_of_modCxl (s : State) (n : Nat) (f : CxlPort → CxlPort) (j : Nat) : getCtx (modCxl s n f) j = getCtx s j := rfl
@[simp] theorem getQueue_of_modCxl (s : State) (n : Nat) (f : CxlPort → CxlPort) (j : Nat) : getQueue (modCxl s n f) j = getQueue s j := rfl
@[simp] theorem getPdc_of_modCxl (s : State) (n : Nat) (f : CxlPort → CxlPort) (j : Nat) : getPdc (modCxl s n f) j = getPdc s j := rfl
@[simp] theorem getVirga_of_modCxl (s : State) (n : Nat) (f : CxlPort → CxlPort) (j : Nat) : getVirga (modCxl s n f) j = getVirga s j := rfl
@[simp] theorem getCell_of_modQueue (s : State) (n : Nat) (f : Queue → Queue) (j : Nat) : getCell (modQueue s n f) j = getCell s j := rfl
@[simp] theorem getCore_of_modQueue (s : State) (n : Nat) (f : Queue → Queue) (j : Nat) : getCore (modQueue s n f) j = getCore s j := rfl
@[simp] theorem getDie_of_modQueue (s : State) (n : Nat) (f : Queue → Queue) (j : Nat) : getDie (modQueue s n f) j = getDie s j := rfl
@[simp] theorem getTeam_of_modQueue (s : State) (n : Nat) (f : Queue → Queue) (j : Nat) : getTeam (modQueue s n f) j = getTeam s j := rfl
@[simp] theorem getCtx_of_modQueue (s : State) (n : Nat) (f : Queue → Queue) (j : Nat) : getCtx (modQueue s n f) j = getCtx s j := rfl
@[simp] theorem getCxl_of_modQueue (s : State) (n : Nat) (f : Queue → Queue) (j : Nat) : getCxl (modQueue s n f) j = getCxl s j := rfl
@[simp] theorem getPdc_of_modQueue (s : State) (n : Nat) (f : Queue → Queue) (j : Nat) : getPdc (modQueue s n f) j = getPdc s j := rfl
@[simp] theorem getVirga_of_modQueue (s : State) (n : Nat) (f : Queue → Queue) (j : Nat) : getVirga (modQueue s n f) j = getVirga s j := rfl
@[simp] theorem getCell_of_countSource (s : State) (n m : Nat) (j : Nat) : getCell (countSource s n m) j = getCell s j := rfl
@[simp] theorem getCore_of_countSource (s : State) (n m : Nat) (j : Nat) : getCore (countSource s n m) j = getCore s j := rfl
@[simp] theorem getDie_of_countSource (s : State) (n m : Nat) (j : Nat) : getDie (countSource s n m) j = getDie s j := rfl
@[simp] theorem getTeam_of_countSource (s : State) (n m : Nat) (j : Nat) : getTeam (countSource s n m) j = getTeam s j := rfl
@[simp] theorem getCtx_of_countSource (s : State) (n m : Nat) (j : Nat) : getCtx (countSource s n m) j = getCtx s j := rfl
@[simp] theorem getCxl_of_countSource (s : State) (n m : Nat) (j : Nat) : getCxl (countSource s n m) j = getCxl s j := rfl
@[simp] theorem getPdc_of_countSource (s : State) (n m : Nat) (j : Nat) : getPdc (countSource s n m) j = getPdc s j := rfl
@[simp] theorem getVirga_of_countSource (s : State) (n m : Nat) (j : Nat) : getVirga (countSource s n m) j = getVirga s j := rfl
@[simp] theorem getCell_of_modPdc (s : State) (n : Nat) (f : Pdc → Pdc) (j : Nat) : getCell (modPdc s n f) j = getCell s j := rfl
@[simp] theorem getCore_of_modPdc (s : State) (n : Nat) (f : Pdc → Pdc) (j : Nat) : getCore (modPdc s n f) j = getCore s j := rfl
@[simp] theorem getDie_of_modPdc (s : State) (n : Nat) (f : Pdc → Pdc) (j : Nat) : getDie (modPdc s n f) j = getDie s j := rfl
@[simp] theorem getTeam_of_modPdc (s : State) (n : Nat) (f : Pdc → Pdc) (j : Nat) : getTeam (modPdc s n f) j = getTeam s j := rfl
@[simp] theorem getCtx_of_modPdc (s : State) (n : Nat) (f : Pdc → Pdc) (j : Nat) : getCtx (modPdc s n f) j = getCtx s j := rfl
@[simp] theorem getCxl_of_modPdc (s : State) (n : Nat) (f : Pdc → Pdc) (j : Nat) : getCxl (modPdc s n f) j = getCxl s j := rfl
@[simp] theorem getQueue_of_modPdc (s : State) (n : Nat) (f : Pdc → Pdc) (j : Nat) : getQueue (modPdc s n f) j = getQueue s j := rfl
@[simp] theorem getVirga_of_modPdc (s : State) (n : Nat) (f : Pdc → Pdc) (j : Nat) : getVirga (modPdc s n f) j = getVirga s j := rfl
@[simp] theorem getCell_of_modRcb (s : State) (n : Nat) (f : Rcb → Rcb) (j : Nat) : getCell (modRcb s n f) j = getCell s j := rfl
@[simp] theorem getCore_of_modRcb (s : State) (n : Nat) (f : Rcb → Rcb) (j : Nat) : getCore (modRcb s n f) j = getCore s j := rfl
@[simp] theorem getDie_of_modRcb (s : State) (n : Nat) (f : Rcb → Rcb) (j : Nat) : getDie (modRcb s n f) j = getDie s j := rfl
@[simp] theorem getTeam_of_modRcb (s : State) (n : Nat) (f : Rcb → Rcb) (j : Nat) : getTeam (modRcb s n f) j = getTeam s j := rfl
@[simp] theorem getCtx_of_modRcb (s : State) (n : Nat) (f : Rcb → Rcb) (j : Nat) : getCtx (modRcb s n f) j = getCtx s j := rfl
@[simp] theorem getCxl_of_modRcb (s : State) (n : Nat) (f : Rcb → Rcb) (j : Nat) : getCxl (modRcb s n f) j = getCxl s j := rfl
@[simp] theorem getQueue_of_modRcb (s : State) (n : Nat) (f : Rcb → Rcb) (j : Nat) : getQueue (modRcb s n f) j = getQueue s j := rfl
@[simp] theorem getVirga_of_modRcb (s : State) (n : Nat) (f : Rcb → Rcb) (j : Nat) : getVirga (modRcb s n f) j = getVirga s j := rfl
@[simp] theorem getCell_of_modWindow (s : State) (n : Nat) (f : Window → Window) (j : Nat) : getCell (modWindow s n f) j = getCell s j := rfl
@[simp] theorem getCore_of_modWindow (s : State) (n : Nat) (f : Window → Window) (j : Nat) : getCore (modWindow s n f) j = getCore s j := rfl
@[simp] theorem getDie_of_modWindow (s : State) (n : Nat) (f : Window → Window) (j : Nat) : getDie (modWindow s n f) j = getDie s j := rfl
@[simp] theorem getTeam_of_modWindow (s : State) (n : Nat) (f : Window → Window) (j : Nat) : getTeam (modWindow s n f) j = getTeam s j := rfl
@[simp] theorem getCtx_of_modWindow (s : State) (n : Nat) (f : Window → Window) (j : Nat) : getCtx (modWindow s n f) j = getCtx s j := rfl
@[simp] theorem getCxl_of_modWindow (s : State) (n : Nat) (f : Window → Window) (j : Nat) : getCxl (modWindow s n f) j = getCxl s j := rfl
@[simp] theorem getQueue_of_modWindow (s : State) (n : Nat) (f : Window → Window) (j : Nat) : getQueue (modWindow s n f) j = getQueue s j := rfl
@[simp] theorem getVirga_of_modWindow (s : State) (n : Nat) (f : Window → Window) (j : Nat) : getVirga (modWindow s n f) j = getVirga s j := rfl
@[simp] theorem getCell_of_modPort (s : State) (n : Nat) (f : EtherPort → EtherPort) (j : Nat) : getCell (modPort s n f) j = getCell s j := rfl
@[simp] theorem getCore_of_modPort (s : State) (n : Nat) (f : EtherPort → EtherPort) (j : Nat) : getCore (modPort s n f) j = getCore s j := rfl
@[simp] theorem getDie_of_modPort (s : State) (n : Nat) (f : EtherPort → EtherPort) (j : Nat) : getDie (modPort s n f) j = getDie s j := rfl
@[simp] theorem getTeam_of_modPort (s : State) (n : Nat) (f : EtherPort → EtherPort) (j : Nat) : getTeam (modPort s n f) j = getTeam s j := rfl
@[simp] theorem getCtx_of_modPort (s : State) (n : Nat) (f : EtherPort → EtherPort) (j : Nat) : getCtx (modPort s n f) j = getCtx s j := rfl
@[simp] theorem getCxl_of_modPort (s : State) (n : Nat) (f : EtherPort → EtherPort) (j : Nat) : getCxl (modPort s n f) j = getCxl s j := rfl
@[simp] theorem getQueue_of_modPort (s : State) (n : Nat) (f : EtherPort → EtherPort) (j : Nat) : getQueue (modPort s n f) j = getQueue s j := rfl
@[simp] theorem getVirga_of_modPort (s : State) (n : Nat) (f : EtherPort → EtherPort) (j : Nat) : getVirga (modPort s n f) j = getVirga s j := rfl
@[simp] theorem getCell_of_modDomain (s : State) (n : Nat) (f : Domain → Domain) (j : Nat) : getCell (modDomain s n f) j = getCell s j := rfl
@[simp] theorem getCore_of_modDomain (s : State) (n : Nat) (f : Domain → Domain) (j : Nat) : getCore (modDomain s n f) j = getCore s j := rfl
@[simp] theorem getDie_of_modDomain (s : State) (n : Nat) (f : Domain → Domain) (j : Nat) : getDie (modDomain s n f) j = getDie s j := rfl
@[simp] theorem getTeam_of_modDomain (s : State) (n : Nat) (f : Domain → Domain) (j : Nat) : getTeam (modDomain s n f) j = getTeam s j := rfl
@[simp] theorem getCtx_of_modDomain (s : State) (n : Nat) (f : Domain → Domain) (j : Nat) : getCtx (modDomain s n f) j = getCtx s j := rfl
@[simp] theorem getCxl_of_modDomain (s : State) (n : Nat) (f : Domain → Domain) (j : Nat) : getCxl (modDomain s n f) j = getCxl s j := rfl
@[simp] theorem getQueue_of_modDomain (s : State) (n : Nat) (f : Domain → Domain) (j : Nat) : getQueue (modDomain s n f) j = getQueue s j := rfl
@[simp] theorem getVirga_of_modDomain (s : State) (n : Nat) (f : Domain → Domain) (j : Nat) : getVirga (modDomain s n f) j = getVirga s j := rfl
@[simp] theorem getCell_of_modVirga (s : State) (n : Nat) (f : Virga → Virga) (j : Nat) : getCell (modVirga s n f) j = getCell s j := rfl
@[simp] theorem getCore_of_modVirga (s : State) (n : Nat) (f : Virga → Virga) (j : Nat) : getCore (modVirga s n f) j = getCore s j := rfl
@[simp] theorem getDie_of_modVirga (s : State) (n : Nat) (f : Virga → Virga) (j : Nat) : getDie (modVirga s n f) j = getDie s j := rfl
@[simp] theorem getTeam_of_modVirga (s : State) (n : Nat) (f : Virga → Virga) (j : Nat) : getTeam (modVirga s n f) j = getTeam s j := rfl
@[simp] theorem getCtx_of_modVirga (s : State) (n : Nat) (f : Virga → Virga) (j : Nat) : getCtx (modVirga s n f) j = getCtx s j := rfl
@[simp] theorem getCxl_of_modVirga (s : State) (n : Nat) (f : Virga → Virga) (j : Nat) : getCxl (modVirga s n f) j = getCxl s j := rfl
@[simp] theorem getQueue_of_modVirga (s : State) (n : Nat) (f : Virga → Virga) (j : Nat) : getQueue (modVirga s n f) j = getQueue s j := rfl
@[simp] theorem getPdc_of_modVirga (s : State) (n : Nat) (f : Virga → Virga) (j : Nat) : getPdc (modVirga s n f) j = getPdc s j := rfl

/-! ### Two updates of one entry -/

theorem tblErase_insert {α : Type} (t : Tbl α) (i : Nat) (x : α) (h : tblMisses i t) : tblErase (tblInsert t i x) i = t := by
  induction t with
  | nil => simp [tblInsert, tblErase]
  | cons e r ih =>
    obtain ⟨k, v⟩ := e
    have hk : k ≠ i := h (k, v) (by simp)
    have hr : tblMisses i r := fun y hy => h y (by simp [hy])
    have he : ∀ t : Tbl α, tblMisses i t → tblErase t i = t := by
      intro t
      induction t with
      | nil => intro _; rfl
      | cons e r ih =>
        intro hm
        have h1 : e.1 ≠ i := hm e (by simp)
        simp [tblErase, h1, ih fun y hy => hm y (by simp [hy])]
    by_cases hlt : i < k
    · simp [tblInsert, hlt, tblErase, hk, he r hr]
    · simp [tblInsert, hlt, tblErase, hk, ih hr]

theorem tblErase_erase {α : Type} (t : Tbl α) (i : Nat) : tblErase (tblErase t i) i = tblErase t i := by
  induction t with
  | nil => rfl
  | cons e r ih =>
    obtain ⟨k, v⟩ := e
    by_cases hk : k = i
    · simp [tblErase, hk, ih]
    · simp [tblErase, hk, ih]

theorem tblSet_set {α : Type} [DecidableEq α] (d : α) (t : Tbl α) (i : Nat) (x y : α) :
    tblSet d (tblSet d t i x) i y = tblSet d t i y := by
  have h : tblErase (tblSet d t i x) i = tblErase t i := by
    unfold tblSet
    split
    · exact tblErase_erase t i
    · exact tblErase_insert _ i x (tblMisses_erase t i)
  unfold tblSet at *
  simp only [h]

theorem modCell_modCell (s : State) (k : Nat) (f g : Cell → Cell) :
    modCell (modCell s k f) k g = modCell s k fun c => g (f c) := by
  simp only [modCell, getCell_setCell]
  simp only [setCell, tblSet_set]

theorem modTeam_modCell (s : State) (n k : Nat) (f : Team → Team) (g : Cell → Cell) :
    modTeam (modCell s k g) n f = modCell (modTeam s n f) k g := rfl

end Sys2Proof.Machine
end

