-- ==== Sys2Proof/Laws/Group.lean ====
section
/-!
SUPPORT. Sys2Proof/Laws/Group.lean: what a group of one operation comes to: a commit, a trap, a stall, or nothing while a
register it needs is awaited.
-/
namespace Sys2Proof.Machine

theorem guardTrue_of_ready {i : Instr} {s : State} (h : ready i s = true) : guardTrue (self s) i = true := by
  simp only [ready, Bool.and_eq_true] at h
  exact h.1.1

theorem evalOps_ready {i : Instr} {s : State} (op : Op) (h : ready i s = true) :
    evalOps s [⟨i, op, s.iss⟩] [] = [(s.iss.idx, op s [])] := by
  simp only [ready, Bool.and_eq_true, Option.isNone_iff_eq_none] at h
  have hg : guardTrue (getCell s s.iss.key) i = true := h.1.1
  have hp : poisonRead (getCell s s.iss.key) i = none := h.2
  simp [evalOps, evalOp, hg, hp]

/-- An operation that issues is settled as a group of one. -/
theorem issueOne_ready {i : Instr} {s : State} (op : Op) (h : ready i s = true) :
    issueOne i op s = settleGroup s [(s.iss.idx, op s [])] := by
  have hb : scoreBlocked (getCell s s.iss.key) i = false := by
    simp only [ready, Bool.and_eq_true, Bool.not_eq_true'] at h
    exact h.1.2
  simp only [issueOne, issueGroup, List.any_cons, List.any_nil, hb, Bool.and_false, Bool.or_false, Bool.false_eq_true,
    if_false, evalOps_ready op h]

/-- A group that only counts as issued: one operation with effects and no push commits. -/
theorem settleGroup_done (s : State) (n : Nat) (tag : Tag) (effs : List (Nat × (State → State))) (h : tag ≠ .push) :
    settleGroup s [(n, ⟨id, .done tag effs⟩)] = commitGroup s [(n, ⟨id, .done tag effs⟩)] := by
  simp [settleGroup, groupLate, groupTraps, groupStall, cqOver, tagCount, outTag, h]

/-- The same after page walks. -/
theorem settleGroup_walk (s : State) (n : Nat) (tag : Tag) (w : State → State) (effs : List (Nat × (State → State)))
    (h : tag ≠ .push) :
    settleGroup s [(n, ⟨w, .done tag effs⟩)] =
      commitGroup (w s) [(n, ⟨w, .done tag effs⟩)] := by
  simp [settleGroup, groupLate, groupTraps, groupStall, cqOver, tagCount, outTag, h]

theorem settleGroup_trap (s : State) (n : Nat) (w : State → State) (t : TrapInfo) (f : State → State) :
    settleGroup s [(n, ⟨w, .trap t f⟩)] = f (takeTrap (w s) s.iss.key t s.iss.group (trapMask [n]) false) := by
  simp [settleGroup, groupLate, groupTraps]

theorem settleGroup_late (s : State) (n : Nat) (w : State → State) (t : TrapInfo) (f : State → State) :
    settleGroup s [(n, ⟨w, .late t f⟩)] = f (takeTrap (w s) s.iss.key t s.iss.group 0 true) := by
  simp [settleGroup, groupLate]

theorem settleGroup_wait (s : State) (n : Nat) (w : State → State) (x : WaitWord) :
    settleGroup s [(n, ⟨w, .stall true x⟩)] = modCell (w s) s.iss.key (enterWait s.pkg.gtime.toNat x) := by
  simp [settleGroup, groupLate, groupTraps, groupStall]

theorem settleGroup_stall (s : State) (n : Nat) (w : State → State) (x : WaitWord) :
    settleGroup s [(n, ⟨w, .stall false x⟩)] = w s := by
  simp [settleGroup, groupLate, groupTraps, groupStall]

/-- A commit of one effect of phase 1. -/
theorem commitGroup_eff (s : State) (n : Nat) (w : State → State) (tag : Tag) (f : State → State) :
    commitGroup s [(n, ⟨w, .done tag [(1, f)]⟩)] = commitEff s f := by
  simp [commitGroup, commitEff, groupEffs, runPhase]

/-- An operation with one effect of phase 1 commits with it. -/
theorem issueOne_eff {i : Instr} {s : State} {op : Op} {f : State → State} (h : ready i s = true) (ho : op s [] = opEff f) :
    issueOne i op s = commitEff s f := by
  rw [issueOne_ready op h, ho]
  unfold opEff
  rw [settleGroup_done _ _ _ _ (by decide), commitGroup_eff]

theorem issueOne_cell {i : Instr} {s : State} {op : Op} {f : Cell → Cell} (h : ready i s = true)
    (ho : op s [] = opCell s.iss.key f) : issueOne i op s = commitCell s f := issueOne_eff h ho

theorem issueOne_none {i : Instr} {s : State} {op : Op} (h : ready i s = true) (ho : op s [] = opNone) :
    issueOne i op s = commitEff s id := by
  rw [issueOne_ready op h, ho]
  unfold opNone
  rw [settleGroup_done _ _ _ _ (by decide)]
  simp [commitGroup, commitEff, groupEffs, runPhase]

theorem issueOne_trap {i : Instr} {s : State} {op : Op} {t : TrapInfo} (h : ready i s = true) (ho : op s [] = opTrap t) :
    issueOne i op s = takeTrap s s.iss.key t s.iss.group (trapMask [s.iss.idx]) false := by
  rw [issueOne_ready op h, ho]
  unfold opTrap
  rw [settleGroup_trap]
  rfl

/-- A guarded-off operation commits without effect (R274). -/
theorem issueOne_off {i : Instr} {s : State} (op : Op) (h : guardTrue (self s) i = false) :
    issueOne i op s = commitEff s id := by
  have hg : guardTrue (getCell s s.iss.key) i = false := h
  simp [issueOne, issueGroup, hg, evalOps, evalOp, opNone, settleGroup_done, commitGroup, commitEff, groupEffs, runPhase]

/-- While a register it needs is awaited, an operation waits (R273). -/
theorem issueOne_blocked {i : Instr} {s : State} (op : Op) (hg : guardTrue (self s) i = true)
    (hb : scoreBlocked (self s) i = true) : issueOne i op s = s := by
  have hg : guardTrue (getCell s s.iss.key) i = true := hg
  have hb : scoreBlocked (getCell s s.iss.key) i = true := hb
  simp [issueOne, issueGroup, hg, hb]

/-- A poisoned register that an operation reads raises POISON (R260). -/
theorem issueOne_poison {i : Instr} {s : State} {n : Nat} (op : Op) (hg : guardTrue (self s) i = true)
    (hb : scoreBlocked (self s) i = false) (hp : poisonRead (self s) i = some n) :
    issueOne i op s =
      takeTrap s s.iss.key (cellTrap causePoison 0 (regNumber n)) s.iss.group (trapMask [s.iss.idx]) false := by
  have hg : guardTrue (getCell s s.iss.key) i = true := hg
  have hb : scoreBlocked (getCell s s.iss.key) i = false := hb
  have hp : poisonRead (getCell s s.iss.key) i = some n := hp
  simp [issueOne, issueGroup, hg, hb, evalOps, evalOp, hp, opTrap, settleGroup_trap]

/-! ### What happens, from what the operation is -/

/-- Every Sikan instruction is its operation as a group of one. -/
theorem exec_slot (s : State) (i : Instr) (h : (encodeSlot i).isSome = true) : exec i s = .next (issueOne i (opOf i) s) := by
  cases i
  all_goals first | exact absurd h Bool.false_ne_true | rfl

/-- Only what the effect makes of the committed cell counts. -/
theorem commitCell_congr (s : State) (f g : Cell → Cell)
    (h : f (committed s.iss.next (self s)) = g (committed s.iss.next (self s))) : commitCell s f = commitCell s g := by
  have e : getCell (modCell (petWatchdog s s.iss.key) s.iss.key (committed s.iss.next)) s.iss.key =
      committed s.iss.next (self s) := by
    rw [getCell_modCell]
    rfl
  show modCell (setCell _ _ (f (getCell _ _))) _ _ = modCell (setCell _ _ (g (getCell _ _))) _ _
  rw [e, h]

theorem hasEffect_of {i : Instr} {s : State} {op : Op} {f : State → State} (he : exec i s = .next (issueOne i op s))
    (ho : op s [] = opEff f) : hasEffect i s f := by
  intro h
  rw [he, issueOne_eff h ho]

theorem changesCell_of {i : Instr} {s : State} {op : Op} {f g : Cell → Cell} (he : exec i s = .next (issueOne i op s))
    (ho : op s [] = opCell s.iss.key f)
    (hv : f (committed s.iss.next (self s)) = g (committed s.iss.next (self s))) : changesCell i s g := by
  intro h
  rw [he, issueOne_cell h ho, commitCell_congr s f g hv]

/-- One cell effect of any phase. -/
theorem changesCell_one {i : Instr} {s : State} {op : Op} {tag : Tag} {p : Nat} {f g : Cell → Cell}
    (he : exec i s = .next (issueOne i op s))
    (ho : op s [] = ⟨id, .done tag [(p, fun st => modCell st s.iss.key f)]⟩) (ht : tag ≠ .push) (hp : p ≤ 3)
    (hv : f (committed s.iss.next (self s)) = g (committed s.iss.next (self s))) : changesCell i s g := by
  intro h
  rw [he, issueOne_ready op h, ho, settleGroup_done _ _ _ _ ht, ← commitCell_congr s f g hv]
  have hp' : p = 0 ∨ p = 1 ∨ p = 2 ∨ p = 3 := by omega
  rcases hp' with rfl | rfl | rfl | rfl <;>
    simp [commitGroup, groupEffs, runPhase, commitCell, commitEff, modCell_modCell]

/-- Two cell effects, the second of the same or a later phase. -/
theorem changesCell_two {i : Instr} {s : State} {op : Op} {tag : Tag} {p q : Nat} {f f' g : Cell → Cell}
    (he : exec i s = .next (issueOne i op s))
    (ho : op s [] =
      ⟨id, .done tag [(p, fun st => modCell st s.iss.key f), (q, fun st => modCell st s.iss.key f')]⟩)
    (ht : tag ≠ .push) (hpq : (p = 0 ∧ q = 1) ∨ (p = 1 ∧ q = 1) ∨ (p = 0 ∧ q = 3))
    (hv : f' (f (committed s.iss.next (self s))) = g (committed s.iss.next (self s))) : changesCell i s g := by
  intro h
  rw [he, issueOne_ready op h, ho, settleGroup_done _ _ _ _ ht, ← commitCell_congr s (fun c => f' (f c)) g hv]
  rcases hpq with ⟨rfl, rfl⟩ | ⟨rfl, rfl⟩ | ⟨rfl, rfl⟩ <;>
    simp [commitGroup, groupEffs, runPhase, commitCell, commitEff, modCell_modCell]

theorem writesScalar_of {i : Instr} {s : State} {op : Op} {d : BitVec 6} {v w : BitVec 64}
    (he : exec i s = .next (issueOne i op s)) (ho : op s [] = opScalar s d w) (hv : w = v) : writesScalar i s d v := by
  intro h
  rw [he, issueOne_cell h ho, hv]
  rfl

theorem raisesTrap_of {i : Instr} {s : State} {op : Op} {t : TrapInfo} (he : exec i s = .next (issueOne i op s))
    (ho : op s [] = opTrap t) : raisesTrap i s t := by
  intro h
  rw [he, issueOne_trap h ho]
  rfl

end Sys2Proof.Machine
end

