-- ==== Sys2Proof/Laws/Memory.lean ====
section
/-!
SUPPORT. Sys2Proof/Laws/Memory.lean: every operation that writes memory keeps its canonical form, and reads what it has written.
-/
namespace Sys2Proof.Machine

/-- Memory at reset is canonical. -/
theorem memory_wf_reset : Memory.wf State.reset.mem = true := rfl

/-- Folding a step that keeps the canonical form keeps it. -/
theorem canonical_foldl {β : Type} (f : State → β → State) (hf : ∀ s b, CanonicalMemory s → CanonicalMemory (f s b)) :
    ∀ (l : List β) (s : State), CanonicalMemory s → CanonicalMemory (l.foldl f s) := by
  intro l
  induction l with
  | nil => exact fun _ h => h
  | cons b l ih => exact fun s h => ih _ (hf s b h)

/-- The same over an index. -/
theorem canonical_foldIndex (f : State → Nat → State) (hf : ∀ s i, CanonicalMemory s → CanonicalMemory (f s i)) :
    ∀ (n i : Nat) (s : State), CanonicalMemory s → CanonicalMemory (foldIndex f s i n) := by
  intro n
  induction n with
  | zero => exact fun _ _ h => h
  | succ n ih => exact fun i s h => ih _ _ (hf s i h)

/-! ### Writes to memory itself -/

/-- Bytes written at consecutive addresses. -/
theorem memWrite_canonical : ∀ (bs : List Byte) (s : State) (pa : Nat), CanonicalMemory s → CanonicalMemory (memWrite s pa bs) := by
  intro bs
  induction bs with
  | nil => exact fun _ _ h => h
  | cons b bs ih => exact fun s pa h => ih _ _ (tblWf_set 0 s.mem pa b h)

/-- The pending bytes of a line. -/
theorem drainInto_wf (base : Nat) :
    ∀ (l : Tbl (Option Byte)) (m : List Host.Cell), Memory.wf m = true → Memory.wf (drainInto m base l) = true := by
  intro l
  induction l with
  | nil => exact fun _ h => h
  | cons e l ih =>
    obtain ⟨o, b⟩ := e
    cases b with
    | none => exact fun m h => ih m h
    | some b => exact fun m h => ih _ (tblWf_set 0 m (base + o) b h)

/-! ### The write-combining store (R186) -/

theorem drainLine_canonical (s : State) (die line : Nat) (h : CanonicalMemory s) : CanonicalMemory (drainLine s die line) := by
  unfold drainLine
  split
  · exact h
  · refine (?_ : Memory.wf (if physLost s (line * 256) then s.mem else drainInto s.mem (line * 256) _) = true)
    split
    · exact h
    · exact drainInto_wf _ _ _ h

theorem drainLines_canonical (s : State) (die : Nat) (p : WcLine → Bool) (h : CanonicalMemory s) :
    CanonicalMemory (drainLines s die p) := by
  refine canonical_foldl _ (fun s k hs => ?_) _ s h
  split
  · split
    · exact drainLine_canonical s die k hs
    · exact hs
  · exact hs

theorem drainRange_canonical (s : State) (pa n : Nat) (h : CanonicalMemory s) : CanonicalMemory (drainRange s pa n) :=
  canonical_foldIndex _ (fun s l hs => drainLine_canonical s _ l hs) _ _ s h

theorem drainAll_canonical (s : State) (p : WcLine → Bool) (h : CanonicalMemory s) : CanonicalMemory (drainAll s p) :=
  canonical_foldIndex _ (fun s d hs => drainLines_canonical s d p hs) _ _ s h

theorem holdBytes_mem (owner : Owner) :
    ∀ (bs : List Byte) (s : State) (pa : Nat), (holdBytes s pa owner bs).mem = s.mem := by
  intro bs
  induction bs with
  | nil => exact fun _ _ => rfl
  | cons b bs ih => exact fun s pa => (ih _ _).trans rfl

theorem settleLine_canonical (s : State) (line : Nat) (h : CanonicalMemory s) : CanonicalMemory (settleLine s line) := by
  have key : ∀ t : State, CanonicalMemory t → CanonicalMemory
      (if (getDie t (stackOf (line * 256))).lines.length > wcCapacity then
        match oldestLine (getDie t (stackOf (line * 256))) with
        | some k => drainLine t (stackOf (line * 256)) k
        | none => t
      else t) := by
    intro t ht
    split
    · split
      · exact drainLine_canonical t _ _ ht
      · exact ht
    · exact ht
  unfold settleLine
  apply key
  split
  · split
    · exact drainLine_canonical s _ _ h
    · exact h
  · exact h

theorem settleLines_canonical (s : State) (pa n : Nat) (h : CanonicalMemory s) : CanonicalMemory (settleLines s pa n) :=
  canonical_foldIndex _ settleLine_canonical _ _ s h

/-! ### Writes by the coherent path (R186, R189, R200) -/

theorem testWakes_mem (s : State) (pa n : Nat) : (testWakes s pa n).mem = s.mem := by
  unfold testWakes
  suffices h : ∀ (l : List (Nat × Team)) (t : State), t.mem = s.mem → (l.foldl (fun s e =>
      if e.2.run = .swapped ∧ e.2.wakes.any (wakeMetAt s pa n) then wakeTeam s e.1 else s) t).mem = s.mem from h _ s rfl
  intro l
  induction l with
  | nil => exact fun _ h => h
  | cons e l ih =>
    intro t ht
    refine ih _ ?_
    show (if e.2.run = .swapped ∧ e.2.wakes.any (wakeMetAt t pa n) then wakeTeam t e.1 else t).mem = s.mem
    split
    · exact ht
    · exact ht

/-- A write by the coherent path, merged or not. -/
theorem physWrite_canonical (s : State) (pa : Nat) (bs : List Byte) (merge : Bool) (owner : Owner)
    (h : CanonicalMemory s) : CanonicalMemory (physWrite s pa bs merge owner) := by
  have hh : CanonicalMemory (healWords s pa bs.length) := h
  unfold physWrite
  split
  · exact h
  · simp only [CanonicalMemory, testWakes_mem]
    split
    · split
      · refine settleLines_canonical _ pa _ ?_
        simpa only [CanonicalMemory, holdBytes_mem] using hh
      · exact memWrite_canonical _ _ _ (drainRange_canonical _ _ _ hh)
    · exact memWrite_canonical _ _ _ hh

/-- A write that the device makes on its own account. -/
theorem deviceWrite_canonical (s : State) (pa : Nat) (bs : List Byte) (h : CanonicalMemory s) :
    CanonicalMemory (deviceWrite s pa bs) :=
  physWrite_canonical s pa bs false noOwner h

theorem signalMsix_mem (s : State) (v : Nat) : (signalMsix s v).mem = s.mem := by
  unfold signalMsix
  split <;> rfl

/-- A record on the event ring (R120). -/
theorem writeRecord_canonical (s : State) (r : List Byte) (h : CanonicalMemory s) : CanonicalMemory (writeRecord s r) := by
  simp only [CanonicalMemory, writeRecord, signalMsix_mem]
  exact deviceWrite_canonical s _ _ h

/-- An event that is posted (R120). -/
theorem postHost_canonical (s : State) (e : HostEvent) (h : CanonicalMemory s) : CanonicalMemory (postHost s e) := by
  unfold postHost
  split
  · exact h
  · dsimp only
    split
    · exact writeRecord_canonical s _ h
    · split
      · exact h
      · exact h

/-- Buffered records that are written (R120). -/
theorem drainRecords_canonical : ∀ (n : Nat) (s : State), CanonicalMemory s → CanonicalMemory (drainRecords s n) := by
  intro n
  induction n with
  | zero => exact fun _ h => h
  | succ n ih =>
    intro s h
    unfold drainRecords
    split
    · exact h
    · split
      · exact h
      · exact ih _ (writeRecord_canonical s _ h)

/-- A byte that memory has been given reads back, and every other byte reads as before. -/
theorem memByte_memWrite : ∀ (bs : List Byte) (s : State) (pa a : Nat),
    memByte (memWrite s pa bs) a = if pa ≤ a ∧ a < pa + bs.length then bs.getD (a - pa) 0 else memByte s a := by
  intro bs
  induction bs with
  | nil =>
    intro s pa a
    rw [if_neg (fun h => Nat.not_lt.2 h.1 h.2)]
    rfl
  | cons b bs ih =>
    intro s pa a
    rw [memWrite, ih]
    simp only [memByte, tblGet_set, List.length_cons]
    by_cases h : a = pa
    · subst h
      rw [if_neg (by omega), if_pos rfl, if_pos (by omega)]
      simp
    · by_cases h2 : pa + 1 ≤ a ∧ a < pa + 1 + bs.length
      · rw [if_pos h2, if_pos (by omega), show a - pa = (a - (pa + 1)) + 1 by omega]
        rfl
      · rw [if_neg h2, if_neg h, if_neg (by omega)]

end Sys2Proof.Machine
end

