-- ==== Sys2Proof/Laws/Ops.lean ====
section
/-!
SUPPORT. Sys2Proof/Laws/Ops.lean: what the operations over the registers of a cell and over its traps do, said once each: the
constant registers, taking a trap, returning from one, waiting, and counting.
-/
namespace Sys2Proof.Machine

/-! ### Register files (R277) -/

@[simp] theorem rdS_zero (c : Cell) : rdS c 0 = 0 := rfl
@[simp] theorem wrS_zero (c : Cell) (v : BitVec 64) : wrS c 0 v = c := rfl
@[simp] theorem rdP_zero (c : Cell) : rdP c 0 = true := rfl
@[simp] theorem wrP_zero (c : Cell) (b : Bool) : wrP c 0 b = c := rfl
@[simp] theorem rdM_zero (c : Cell) : rdM c 0 = BitVec.allOnes 64 := rfl
@[simp] theorem wrM_zero (c : Cell) (v : BitVec 64) : wrM c 0 v = c := rfl

theorem rdS_wrS (c : Cell) (r q : BitVec 6) (v : BitVec 64) :
    rdS (wrS c r v) q = if r ≠ 0 ∧ q = r then v else rdS c q := by
  by_cases hr : r = 0
  · rw [if_neg (fun h => h.1 hr), wrS, if_pos hr]
  · rw [wrS, if_neg hr]
    by_cases hq : q = r
    · rw [if_pos ⟨hr, hq⟩, rdS, if_neg (hq ▸ hr), hq]
      exact tblGet_set_self _ _ _ _
    · have hn : q.toNat ≠ r.toNat := fun h => hq (BitVec.eq_of_toNat_eq h)
      rw [if_neg (fun h => hq h.2), rdS, rdS]
      exact congrArg (ite (q = 0) 0) (tblGet_set_ne _ _ _ _ _ hn)

theorem rdP_wrP (c : Cell) (n m : Nat) (b : Bool) :
    rdP (wrP c n b) m = if n ≠ 0 ∧ m = n then b else rdP c m := by
  by_cases hn : n = 0
  · simp [hn]
  · have e : (wrP c n b).p = tblSet false c.p n b := by simp [wrP, hn]
    by_cases hm : m = n
    · subst hm
      simp [rdP, e, hn]
    · simp [rdP, e, hm, tblGet_set]

theorem rdM_wrM (c : Cell) (n m : Nat) (v : BitVec 64) :
    rdM (wrM c n v) m = if n ≠ 0 ∧ m = n then v else rdM c m := by
  by_cases hn : n = 0
  · simp [hn]
  · have e : (wrM c n v).m = tblSet 0 c.m n v := by simp [wrM, hn]
    by_cases hm : m = n
    · subst hm
      simp [rdM, e, hn]
    · simp [rdM, e, hm, tblGet_set]

theorem rdV_wrV (c : Cell) (r q : BitVec 6) (n m : Nat) (v : BitVec 32) (hn : n < 64) (hm : m < 64) :
    rdV (wrV c r n v) q m = if q = r ∧ m = n then v else rdV c q m := by
  have hk : 64 * q.toNat + m = 64 * r.toNat + n ↔ q = r ∧ m = n := by
    constructor
    · intro h
      exact ⟨BitVec.eq_of_toNat_eq (by omega), by omega⟩
    · rintro ⟨rfl, rfl⟩
      rfl
  by_cases h : q = r ∧ m = n
  · simp [rdV, wrV, h]
  · have h' : ¬ 64 * q.toNat + m = 64 * r.toNat + n := fun e => h (hk.1 e)
    simp [rdV, wrV, tblGet_set, h, h']

@[simp] theorem rdLc_wrLc (c : Cell) (n : BitVec 2) (v : BitVec 64) : rdLc (wrLc c n v) n = v := by simp [rdLc, wrLc]

/-! ### Traps (R242 to R245, R309) -/

/-- A vectored trap saves the group's address, the mask, the address, the packed word, the cause and the mode, enters
supervisor mode with BUSY set, and goes to the vector. -/
theorem vectored_saves (c : Cell) (t : TrapInfo) (pc : BitVec 64) (mask : BitVec 8) (d : Bool) :
    (vectored c t pc mask d).trappc = pcBits pc ∧ (vectored c t pc mask d).trapslot = mask ∧
    (vectored c t pc mask d).trapaddr = t.addr ∧ (vectored c t pc mask d).trapaux = trapAux t ∧
    (vectored c t pc mask d).cause = t.cause ∧ (vectored c t pc mask d).defer = d ∧
    (vectored c t pc mask d).engine = t.engine ∧ (vectored c t pc mask d).pm = c.super ∧
    (vectored c t pc mask d).busy = true ∧ (vectored c t pc mask d).super = true ∧
    (vectored c t pc mask d).pc = pcBits c.tvec ∧ (vectored c t pc mask d).run = .run :=
  ⟨rfl, rfl, rfl, rfl, rfl, rfl, rfl, rfl, rfl, rfl, rfl, rfl⟩

/-- A vectored trap leaves the register files, the queue, the system registers that it does not save into, the rings
and the pending work alone. -/
theorem vectored_keeps (c : Cell) (t : TrapInfo) (pc : BitVec 64) (mask : BitVec 8) (d : Bool) :
    (vectored c t pc mask d).s = c.s ∧ (vectored c t pc mask d).p = c.p ∧ (vectored c t pc mask d).v = c.v ∧
    (vectored c t pc mask d).m = c.m ∧ (vectored c t pc mask d).a = c.a ∧ (vectored c t pc mask d).mp = c.mp ∧
    (vectored c t pc mask d).lc = c.lc ∧ (vectored c t pc mask d).xp = c.xp ∧ (vectored c t pc mask d).cq = c.cq ∧
    (vectored c t pc mask d).fmtctl = c.fmtctl ∧ (vectored c t pc mask d).stepcnt = c.stepcnt ∧
    (vectored c t pc mask d).evsel = c.evsel ∧ (vectored c t pc mask d).tvec = c.tvec ∧
    (vectored c t pc mask d).watcha = c.watcha ∧ (vectored c t pc mask d).watchc = c.watchc ∧
    (vectored c t pc mask d).rings = c.rings ∧ (vectored c t pc mask d).cmds = c.cmds ∧
    (vectored c t pc mask d).copies = c.copies ∧ (vectored c t pc mask d).accesses = c.accesses ∧
    (vectored c t pc mask d).deferred = c.deferred :=
  ⟨rfl, rfl, rfl, rfl, rfl, rfl, rfl, rfl, rfl, rfl, rfl, rfl, rfl, rfl, rfl, rfl, rfl, rfl, rfl, rfl⟩

/-- A trap vectors when the vector is valid and no trap is being served. -/
theorem takeTrap_vector {s : State} {k : Nat} (t : TrapInfo) (pc : BitVec 64) (mask : BitVec 8) (d : Bool)
    (hv : (getCell s k).tvec.getLsbD 0 = true) (hb : (getCell s k).busy = false) :
    takeTrap s k t pc mask d = setCell s k (vectored (getCell s k) t pc mask d) := by
  simp only [takeTrap, hv, hb]
  rfl

/-- Otherwise the cell goes to the host. -/
theorem takeTrap_host {s : State} {k : Nat} (t : TrapInfo) (pc : BitVec 64) (mask : BitVec 8) (d : Bool)
    (h : (getCell s k).tvec.getLsbD 0 = false ∨ (getCell s k).busy = true) :
    takeTrap s k t pc mask d = toHost s k t.cause pc t.addr (trapAux t) := by
  rcases h with h | h <;> simp only [takeTrap, h, Bool.not_false, Bool.true_or, Bool.or_true, if_true]

/-- A cell handed to the host issues no more. -/
theorem toHost_stops (s : State) (k : Nat) (cause : BitVec 8) (pc addr aux : BitVec 64) :
    (getCell (toHost s k cause pc addr aux) k).issueStopped = true := by simp [toHost]

theorem toHost_canonical (s : State) (k : Nat) (cause : BitVec 8) (pc addr aux : BitVec 64) (h : CanonicalMemory s) :
    CanonicalMemory (toHost s k cause pc addr aux) := postHost_canonical s _ h

theorem takeTrap_canonical (s : State) (k : Nat) (t : TrapInfo) (pc : BitVec 64) (mask : BitVec 8) (d : Bool)
    (h : CanonicalMemory s) : CanonicalMemory (takeTrap s k t pc mask d) := by
  unfold takeTrap
  dsimp only
  split
  · exact toHost_canonical s k _ _ _ _ h
  · exact h

/-- A return restores the mode and the address that the trap saved, and clears BUSY. -/
theorem returned_restores (c : Cell) : (returned c).super = c.pm ∧ (returned c).busy = false ∧
    (returned c).pc = pcBits c.trappc ∧ (returned c).watchSkip = decide (c.cause = causeWatch) :=
  ⟨rfl, rfl, rfl, rfl⟩

theorem pcBits_pcBits (a : BitVec 64) : pcBits (pcBits a) = pcBits a := by
  simp [pcBits, BitVec.and_assoc]

/-- A trap served and returned from at once resumes the group in the mode it left. -/
theorem returned_vectored (c : Cell) (t : TrapInfo) (pc : BitVec 64) (mask : BitVec 8) (d : Bool) :
    (returned (vectored c t pc mask d)).super = c.super ∧ (returned (vectored c t pc mask d)).pc = pcBits pc ∧
    (returned (vectored c t pc mask d)).busy = false :=
  ⟨rfl, pcBits_pcBits pc, rfl⟩

/-! ### Waiting (R135), deferred traps (R246) and counting (R281) -/

theorem enterWait_run (now : Nat) (w : Option (BitVec 64 × Bool × BitVec 2 × BitVec 64)) (c : Cell) (h : c.run = .run) :
    enterWait now w c = { c with run := .wait, waitSince := now, waitWord := w } := by simp [enterWait, h]

theorem leaveWait_wait (c : Cell) (h : c.run = .wait) :
    leaveWait c = { c with run := .run, waitWord := none, arrived := false } := by simp [leaveWait, h]

theorem leaveWait_other (c : Cell) (h : c.run ≠ .wait) : leaveWait c = c := by simp [leaveWait, h]

@[simp] theorem deferTrap_deferred (c : Cell) (t : TrapInfo) : (deferTrap c t).deferred = c.deferred ++ [⟨t, none⟩] := rfl

@[simp] theorem deferFault_deferred (c : Cell) (t : TrapInfo) (n : Nat) :
    (deferFault c t n).deferred = c.deferred ++ [⟨t, some n⟩] := rfl

/-- Counting changes the counters alone. -/
theorem countEv_keeps (c : Cell) (code n : Nat) : { countEv c code n with evcnt := c.evcnt } = c := rfl

/-- A write of one system register leaves the register files, the program counter and the mode alone. -/
theorem sysWrite_keeps (c : Cell) (num : BitVec 12) (v : BitVec 64) :
    (sysWrite c num v).s = c.s ∧ (sysWrite c num v).p = c.p ∧ (sysWrite c num v).v = c.v ∧ (sysWrite c num v).m = c.m ∧
    (sysWrite c num v).a = c.a ∧ (sysWrite c num v).mp = c.mp ∧ (sysWrite c num v).lc = c.lc ∧
    (sysWrite c num v).xp = c.xp ∧ (sysWrite c num v).cq = c.cq ∧ (sysWrite c num v).pc = c.pc ∧
    (sysWrite c num v).super = c.super := by
  unfold sysWrite
  split
  all_goals first | exact ⟨rfl, rfl, rfl, rfl, rfl, rfl, rfl, rfl, rfl, rfl, rfl⟩ | skip
  split <;> exact ⟨rfl, rfl, rfl, rfl, rfl, rfl, rfl, rfl, rfl, rfl, rfl⟩

end Sys2Proof.Machine
end

