-- ==== Sys2Proof/Laws/PerInstr.lean ====
section
/-!
SUPPORT. Sys2Proof/Laws/PerInstr.lean: the family RoundTrip: decoding the bits of a well-formed instruction gives it back.
-/
namespace Sys2Proof

/-! ### Fields and words -/

theorem slotOf_slotWord (x : Slot) : slotOf (slotWord x) x.l = x := by
  obtain ⟨st, cls, g, op, a, b, c, l⟩ := x
  simp only [slotOf, slotWord, Slot.mk.injEq, and_true]
  refine ⟨?_, ?_, ?_, ?_, ?_, ?_, ?_⟩
  · simp only [BitVec.getLsbD_append]
    simp
  all_goals
    apply BitVec.eq_of_getLsbD_eq
    intro i hi
    simp only [BitVec.getLsbD_extractLsb', BitVec.getLsbD_append, hi, decide_true, Bool.true_and]
    repeat (first | rw [if_pos (by omega)] | rw [if_neg (by omega)])
    try congr 1
    try omega

theorem virgaFieldsOf_virgaWord (x : VirgaFields) : virgaFieldsOf (virgaWord x) = x := by
  obtain ⟨op, d, s, t, f⟩ := x
  simp only [virgaFieldsOf, virgaWord, VirgaFields.mk.injEq]
  refine ⟨?_, ?_, ?_, ?_, ?_⟩
  all_goals
    apply BitVec.eq_of_getLsbD_eq
    intro i hi
    simp only [BitVec.getLsbD_extractLsb', BitVec.getLsbD_append, hi, decide_true, Bool.true_and]
    repeat (first | rw [if_pos (by omega)] | rw [if_neg (by omega)])
    try congr 1
    try omega

theorem uopFieldsOf_uopWord (x : UopFields) : uopFieldsOf (uopWord x) = x := by
  obtain ⟨op, ha, hb, f1, f2, f3, t, tr, imm⟩ := x
  simp only [uopFieldsOf, uopWord, UopFields.mk.injEq]
  refine ⟨?_, ?_, ?_, ?_, ?_, ?_, ?_, ?_, ?_⟩
  all_goals
    apply BitVec.eq_of_getLsbD_eq
    intro i hi
    simp only [BitVec.getLsbD_extractLsb', BitVec.getLsbD_append, hi, decide_true, Bool.true_and]
    repeat (first | rw [if_pos (by omega)] | rw [if_neg (by omega)])
    try congr 1
    try omega

/-! ### Taking fields apart and putting them together -/

theorem joinFields {w : Nat} (x : BitVec w) (a n m : Nat) :
    x.extractLsb' (a + n) m ++ x.extractLsb' a n = (x.extractLsb' a (m + n) : BitVec (m + n)) := by
  apply BitVec.eq_of_getLsbD_eq
  intro i hi
  simp only [BitVec.getLsbD_append, BitVec.getLsbD_extractLsb']
  by_cases h : i < n
  · simp [h, hi]
  · simp only [h, if_false, hi, decide_true, Bool.true_and]
    have : i - n < m := by omega
    simp only [this, decide_true, Bool.true_and]
    congr 1
    omega

theorem fieldWhole {w : Nat} (x : BitVec w) : x.extractLsb' 0 w = x := by simp

theorem fieldHigh {w v : Nat} (x : BitVec w) (y : BitVec v) : (x ++ y).extractLsb' v w = x := by
  apply BitVec.eq_of_getLsbD_eq
  intro i hi
  simp [BitVec.getLsbD_append, hi]

theorem fieldLow {w v : Nat} (x : BitVec w) (y : BitVec v) : (x ++ y).extractLsb' 0 v = y := by
  apply BitVec.eq_of_getLsbD_eq
  intro i hi
  simp [BitVec.getLsbD_append, hi]

/-! ### Formats (R283, R284, R286) -/

theorem takeRri_fields (mk : BitVec 4 → BitVec 6 → BitVec 6 → BitVec 14 → Instr) (cl : BitVec 3) (op : BitVec 6) (g : BitVec 4) (d : BitVec 6) (s : BitVec 6) (imm : BitVec 14) :
    takeRri mk ⟨true, cl, g, op, d, s, (imm.extractLsb' 0 6), (imm.extractLsb' 6 8)⟩ = .ok (mk g d s imm) := by
  unfold takeRri
  congr <;> (first
      | (simp only [BitVec.getLsbD_append]; simp; done)
      | (apply BitVec.eq_of_getLsbD_eq; intro i hi; interval_cases i <;> (simp only [BitVec.getLsbD_append, BitVec.getLsbD_extractLsb'] <;> try simp)))

theorem takeRi_fields (mk : BitVec 4 → BitVec 6 → BitVec 20 → Instr) (cl : BitVec 3) (op : BitVec 6) (g : BitVec 4) (d : BitVec 6) (imm : BitVec 20) :
    takeRi mk ⟨true, cl, g, op, d, (imm.extractLsb' 6 6), (imm.extractLsb' 0 6), (imm.extractLsb' 12 8)⟩ = .ok (mk g d imm) := by
  unfold takeRi
  congr <;> (first
      | (simp only [BitVec.getLsbD_append]; simp; done)
      | (apply BitVec.eq_of_getLsbD_eq; intro i hi; interval_cases i <;> (simp only [BitVec.getLsbD_append, BitVec.getLsbD_extractLsb'] <;> try simp)))

theorem takeRis_fields (mk : BitVec 4 → BitVec 6 → BitVec 16 → Instr) (cl : BitVec 3) (op : BitVec 6) (g : BitVec 4) (d : BitVec 6) (imm : BitVec 16) :
    takeRis mk ⟨true, cl, g, op, d, (imm.extractLsb' 6 6), (imm.extractLsb' 0 6), (0#4 ++ imm.extractLsb' 12 4)⟩ = .ok (mk g d imm) := by
  unfold takeRis
  rw [if_pos (by and_intros <;> (first
      | (simp only [BitVec.getLsbD_append]; simp; done)
      | (apply BitVec.eq_of_getLsbD_eq; intro i hi; interval_cases i <;> (simp only [BitVec.getLsbD_append, BitVec.getLsbD_extractLsb'] <;> try simp))))]
  congr <;> (first
      | (simp only [BitVec.getLsbD_append]; simp; done)
      | (apply BitVec.eq_of_getLsbD_eq; intro i hi; interval_cases i <;> (simp only [BitVec.getLsbD_append, BitVec.getLsbD_extractLsb'] <;> try simp)))

theorem takeRrp_fields (mk : BitVec 4 → BitVec 6 → BitVec 6 → BitVec 6 → BitVec 4 → Instr) (cl : BitVec 3) (op : BitVec 6) (g : BitVec 4) (d : BitVec 6) (s : BitVec 6) (t : BitVec 6) (k : BitVec 4) :
    takeRrp mk ⟨true, cl, g, op, d, s, t, (0#4 ++ k)⟩ = .ok (mk g d s t k) := by
  unfold takeRrp
  rw [if_pos (by and_intros <;> (first
      | (simp only [BitVec.getLsbD_append]; simp; done)
      | (apply BitVec.eq_of_getLsbD_eq; intro i hi; interval_cases i <;> (simp only [BitVec.getLsbD_append, BitVec.getLsbD_extractLsb'] <;> try simp))))]
  congr <;> (first
      | (simp only [BitVec.getLsbD_append]; simp; done)
      | (apply BitVec.eq_of_getLsbD_eq; intro i hi; interval_cases i <;> (simp only [BitVec.getLsbD_append, BitVec.getLsbD_extractLsb'] <;> try simp)))

theorem takeCp_fields (mk : BitVec 4 → BitVec 3 → BitVec 3 → BitVec 6 → BitVec 6 → Instr) (cl : BitVec 3) (op : BitVec 6) (g : BitVec 4) (cond : BitVec 3) (pair : BitVec 3) (s : BitVec 6) (t : BitVec 6) :
    takeCp mk ⟨true, cl, g, op, (cond ++ pair), s, t, 0⟩ = .ok (mk g cond pair s t) := by
  unfold takeCp
  rw [if_pos (by and_intros <;> (first
      | (simp only [BitVec.getLsbD_append]; simp; done)
      | (apply BitVec.eq_of_getLsbD_eq; intro i hi; interval_cases i <;> (simp only [BitVec.getLsbD_append, BitVec.getLsbD_extractLsb'] <;> try simp))))]
  congr <;> (first
      | (simp only [BitVec.getLsbD_append]; simp; done)
      | (apply BitVec.eq_of_getLsbD_eq; intro i hi; interval_cases i <;> (simp only [BitVec.getLsbD_append, BitVec.getLsbD_extractLsb'] <;> try simp)))

theorem takeCpi_fields (mk : BitVec 4 → BitVec 3 → BitVec 3 → BitVec 6 → BitVec 14 → Instr) (cl : BitVec 3) (op : BitVec 6) (g : BitVec 4) (cond : BitVec 3) (pair : BitVec 3) (s : BitVec 6) (imm : BitVec 14) :
    takeCpi mk ⟨true, cl, g, op, (cond ++ pair), s, (imm.extractLsb' 0 6), (imm.extractLsb' 6 8)⟩ = .ok (mk g cond pair s imm) := by
  unfold takeCpi
  congr <;> (first
      | (simp only [BitVec.getLsbD_append]; simp; done)
      | (apply BitVec.eq_of_getLsbD_eq; intro i hi; interval_cases i <;> (simp only [BitVec.getLsbD_append, BitVec.getLsbD_extractLsb'] <;> try simp)))

theorem takeCq_fields (mk : BitVec 4 → BitVec 3 → BitVec 6 → BitVec 6 → Instr) (cl : BitVec 3) (op : BitVec 6) (g : BitVec 4) (cond : BitVec 3) (s : BitVec 6) (t : BitVec 6) :
    takeCq mk ⟨true, cl, g, op, (cond ++ 0#3), s, t, 0⟩ = .ok (mk g cond s t) := by
  unfold takeCq
  rw [if_pos (by and_intros <;> (first
      | (simp only [BitVec.getLsbD_append]; simp; done)
      | (apply BitVec.eq_of_getLsbD_eq; intro i hi; interval_cases i <;> (simp only [BitVec.getLsbD_append, BitVec.getLsbD_extractLsb'] <;> try simp))))]
  congr <;> (first
      | (simp only [BitVec.getLsbD_append]; simp; done)
      | (apply BitVec.eq_of_getLsbD_eq; intro i hi; interval_cases i <;> (simp only [BitVec.getLsbD_append, BitVec.getLsbD_extractLsb'] <;> try simp)))

theorem takeRrrr_fields (mk : BitVec 4 → BitVec 6 → BitVec 6 → BitVec 6 → BitVec 6 → Instr) (cl : BitVec 3) (op : BitVec 6) (g : BitVec 4) (d : BitVec 6) (s : BitVec 6) (t : BitVec 6) (q : BitVec 6) :
    takeRrrr mk ⟨true, cl, g, op, d, s, t, (0#2 ++ q)⟩ = .ok (mk g d s t q) := by
  unfold takeRrrr
  rw [if_pos (by and_intros <;> (first
      | (simp only [BitVec.getLsbD_append]; simp; done)
      | (apply BitVec.eq_of_getLsbD_eq; intro i hi; interval_cases i <;> (simp only [BitVec.getLsbD_append, BitVec.getLsbD_extractLsb'] <;> try simp))))]
  congr <;> (first
      | (simp only [BitVec.getLsbD_append]; simp; done)
      | (apply BitVec.eq_of_getLsbD_eq; intro i hi; interval_cases i <;> (simp only [BitVec.getLsbD_append, BitVec.getLsbD_extractLsb'] <;> try simp)))

theorem takeCv_fields (mk : BitVec 4 → BitVec 6 → BitVec 6 → BitVec 3 → BitVec 3 → Instr) (cl : BitVec 3) (op : BitVec 6) (g : BitVec 4) (d : BitVec 6) (s : BitVec 6) (src : BitVec 3) (dst : BitVec 3) :
    takeCv mk ⟨true, cl, g, op, d, s, (src ++ dst), 0⟩ = .ok (mk g d s src dst) := by
  unfold takeCv
  rw [if_pos (by and_intros <;> (first
      | (simp only [BitVec.getLsbD_append]; simp; done)
      | (apply BitVec.eq_of_getLsbD_eq; intro i hi; interval_cases i <;> (simp only [BitVec.getLsbD_append, BitVec.getLsbD_extractLsb'] <;> try simp))))]
  congr <;> (first
      | (simp only [BitVec.getLsbD_append]; simp; done)
      | (apply BitVec.eq_of_getLsbD_eq; intro i hi; interval_cases i <;> (simp only [BitVec.getLsbD_append, BitVec.getLsbD_extractLsb'] <;> try simp)))

theorem takePl_fields (mk : BitVec 4 → BitVec 4 → BitVec 4 → BitVec 4 → Instr) (cl : BitVec 3) (op : BitVec 6) (g : BitVec 4) (d : BitVec 4) (s : BitVec 4) (t : BitVec 4) :
    takePl mk ⟨true, cl, g, op, (0#2 ++ d), (0#2 ++ s), (0#2 ++ t), 0⟩ = .ok (mk g d s t) := by
  unfold takePl
  rw [if_pos (by and_intros <;> (first
      | (simp only [BitVec.getLsbD_append]; simp; done)
      | (apply BitVec.eq_of_getLsbD_eq; intro i hi; interval_cases i <;> (simp only [BitVec.getLsbD_append, BitVec.getLsbD_extractLsb'] <;> try simp))))]
  congr <;> (first
      | (simp only [BitVec.getLsbD_append]; simp; done)
      | (apply BitVec.eq_of_getLsbD_eq; intro i hi; interval_cases i <;> (simp only [BitVec.getLsbD_append, BitVec.getLsbD_extractLsb'] <;> try simp)))

theorem takeRxt_fields (mk : BitVec 4 → BitVec 6 → BitVec 6 → BitVec 7 → Instr) (cl : BitVec 3) (op : BitVec 6) (g : BitVec 4) (d : BitVec 6) (s : BitVec 6) (n : BitVec 7) :
    takeRxt mk ⟨true, cl, g, op, d, s, (n.extractLsb' 0 6), (0#7 ++ n.extractLsb' 6 1)⟩ = .ok (mk g d s n) := by
  unfold takeRxt
  rw [if_pos (by and_intros <;> (first
      | (simp only [BitVec.getLsbD_append]; simp; done)
      | (apply BitVec.eq_of_getLsbD_eq; intro i hi; interval_cases i <;> (simp only [BitVec.getLsbD_append, BitVec.getLsbD_extractLsb'] <;> try simp))))]
  congr <;> (first
      | (simp only [BitVec.getLsbD_append]; simp; done)
      | (apply BitVec.eq_of_getLsbD_eq; intro i hi; interval_cases i <;> (simp only [BitVec.getLsbD_append, BitVec.getLsbD_extractLsb'] <;> try simp)))

theorem takeJ_fields (mk : BitVec 4 → BitVec 26 → Instr) (cl : BitVec 3) (op : BitVec 6) (g : BitVec 4) (off : BitVec 26) :
    takeJ mk ⟨true, cl, g, op, (off.extractLsb' 12 6), (off.extractLsb' 6 6), (off.extractLsb' 0 6), (off.extractLsb' 18 8)⟩ = .ok (mk g off) := by
  unfold takeJ
  congr <;> (first
      | (simp only [BitVec.getLsbD_append]; simp; done)
      | (apply BitVec.eq_of_getLsbD_eq; intro i hi; interval_cases i <;> (simp only [BitVec.getLsbD_append, BitVec.getLsbD_extractLsb'] <;> try simp)))

theorem takeJl_fields (mk : BitVec 4 → BitVec 2 → BitVec 24 → Instr) (cl : BitVec 3) (op : BitVec 6) (g : BitVec 4) (n : BitVec 2) (off : BitVec 24) :
    takeJl mk ⟨true, cl, g, op, (n ++ off.extractLsb' 12 4), (off.extractLsb' 6 6), (off.extractLsb' 0 6), (off.extractLsb' 16 8)⟩ = .ok (mk g n off) := by
  unfold takeJl
  congr <;> (first
      | (simp only [BitVec.getLsbD_append]; simp; done)
      | (apply BitVec.eq_of_getLsbD_eq; intro i hi; interval_cases i <;> (simp only [BitVec.getLsbD_append, BitVec.getLsbD_extractLsb'] <;> try simp)))

theorem takeLc_fields (mk : BitVec 4 → BitVec 2 → BitVec 6 → Instr) (cl : BitVec 3) (op : BitVec 6) (g : BitVec 4) (n : BitVec 2) (s : BitVec 6) :
    takeLc mk ⟨true, cl, g, op, (0#4 ++ n), s, 0, 0⟩ = .ok (mk g n s) := by
  unfold takeLc
  rw [if_pos (by and_intros <;> (first
      | (simp only [BitVec.getLsbD_append]; simp; done)
      | (apply BitVec.eq_of_getLsbD_eq; intro i hi; interval_cases i <;> (simp only [BitVec.getLsbD_append, BitVec.getLsbD_extractLsb'] <;> try simp))))]
  congr <;> (first
      | (simp only [BitVec.getLsbD_append]; simp; done)
      | (apply BitVec.eq_of_getLsbD_eq; intro i hi; interval_cases i <;> (simp only [BitVec.getLsbD_append, BitVec.getLsbD_extractLsb'] <;> try simp)))

theorem takeBa_fields (mk : BitVec 4 → BitVec 3 → Instr) (cl : BitVec 3) (op : BitVec 6) (g : BitVec 4) (b : BitVec 3) :
    takeBa mk ⟨true, cl, g, op, (0#3 ++ b), 0, 0, 0⟩ = .ok (mk g b) := by
  unfold takeBa
  rw [if_pos (by and_intros <;> (first
      | (simp only [BitVec.getLsbD_append]; simp; done)
      | (apply BitVec.eq_of_getLsbD_eq; intro i hi; interval_cases i <;> (simp only [BitVec.getLsbD_append, BitVec.getLsbD_extractLsb'] <;> try simp))))]
  congr <;> (first
      | (simp only [BitVec.getLsbD_append]; simp; done)
      | (apply BitVec.eq_of_getLsbD_eq; intro i hi; interval_cases i <;> (simp only [BitVec.getLsbD_append, BitVec.getLsbD_extractLsb'] <;> try simp)))

theorem takeSy_fields (mk : BitVec 4 → BitVec 20 → Instr) (cl : BitVec 3) (op : BitVec 6) (g : BitVec 4) (code : BitVec 20) :
    takeSy mk ⟨true, cl, g, op, 0, (code.extractLsb' 6 6), (code.extractLsb' 0 6), (code.extractLsb' 12 8)⟩ = .ok (mk g code) := by
  unfold takeSy
  rw [if_pos (by and_intros <;> (first
      | (simp only [BitVec.getLsbD_append]; simp; done)
      | (apply BitVec.eq_of_getLsbD_eq; intro i hi; interval_cases i <;> (simp only [BitVec.getLsbD_append, BitVec.getLsbD_extractLsb'] <;> try simp))))]
  congr <;> (first
      | (simp only [BitVec.getLsbD_append]; simp; done)
      | (apply BitVec.eq_of_getLsbD_eq; intro i hi; interval_cases i <;> (simp only [BitVec.getLsbD_append, BitVec.getLsbD_extractLsb'] <;> try simp)))

theorem takeSr_fields (mk : BitVec 4 → BitVec 6 → BitVec 12 → Instr) (cl : BitVec 3) (op : BitVec 6) (g : BitVec 4) (d : BitVec 6) (num : BitVec 12) :
    takeSr mk ⟨true, cl, g, op, d, (num.extractLsb' 6 6), (num.extractLsb' 0 6), 0⟩ = .ok (mk g d num) := by
  unfold takeSr
  rw [if_pos (by and_intros <;> (first
      | (simp only [BitVec.getLsbD_append]; simp; done)
      | (apply BitVec.eq_of_getLsbD_eq; intro i hi; interval_cases i <;> (simp only [BitVec.getLsbD_append, BitVec.getLsbD_extractLsb'] <;> try simp))))]
  congr <;> (first
      | (simp only [BitVec.getLsbD_append]; simp; done)
      | (apply BitVec.eq_of_getLsbD_eq; intro i hi; interval_cases i <;> (simp only [BitVec.getLsbD_append, BitVec.getLsbD_extractLsb'] <;> try simp)))

theorem takeV3_fields (mk : BitVec 4 → BitVec 6 → BitVec 6 → BitVec 6 → BitVec 4 → BitVec 4 → Instr) (cl : BitVec 3) (op : BitVec 6) (g : BitVec 4) (d : BitVec 6) (s : BitVec 6) (t : BitVec 6) (ty : BitVec 4) (k : BitVec 4) :
    takeV3 mk ⟨true, cl, g, op, d, s, t, (ty ++ k)⟩ = .ok (mk g d s t ty k) := by
  unfold takeV3
  congr <;> (first
      | (simp only [BitVec.getLsbD_append]; simp; done)
      | (apply BitVec.eq_of_getLsbD_eq; intro i hi; interval_cases i <;> (simp only [BitVec.getLsbD_append, BitVec.getLsbD_extractLsb'] <;> try simp)))

theorem takeV2_fields (mk : BitVec 4 → BitVec 6 → BitVec 6 → BitVec 4 → BitVec 4 → Instr) (cl : BitVec 3) (op : BitVec 6) (g : BitVec 4) (d : BitVec 6) (s : BitVec 6) (ty : BitVec 4) (k : BitVec 4) :
    takeV2 mk ⟨true, cl, g, op, d, s, 0, (ty ++ k)⟩ = .ok (mk g d s ty k) := by
  unfold takeV2
  rw [if_pos (by and_intros <;> (first
      | (simp only [BitVec.getLsbD_append]; simp; done)
      | (apply BitVec.eq_of_getLsbD_eq; intro i hi; interval_cases i <;> (simp only [BitVec.getLsbD_append, BitVec.getLsbD_extractLsb'] <;> try simp))))]
  congr <;> (first
      | (simp only [BitVec.getLsbD_append]; simp; done)
      | (apply BitVec.eq_of_getLsbD_eq; intro i hi; interval_cases i <;> (simp only [BitVec.getLsbD_append, BitVec.getLsbD_extractLsb'] <;> try simp)))

theorem takeV4_fields (mk : BitVec 4 → BitVec 6 → BitVec 6 → BitVec 6 → BitVec 6 → BitVec 2 → Instr) (cl : BitVec 3) (op : BitVec 6) (g : BitVec 4) (d : BitVec 6) (s : BitVec 6) (t : BitVec 6) (q : BitVec 6) (k : BitVec 2) :
    takeV4 mk ⟨true, cl, g, op, d, s, t, (k ++ q)⟩ = .ok (mk g d s t q k) := by
  unfold takeV4
  congr <;> (first
      | (simp only [BitVec.getLsbD_append]; simp; done)
      | (apply BitVec.eq_of_getLsbD_eq; intro i hi; interval_cases i <;> (simp only [BitVec.getLsbD_append, BitVec.getLsbD_extractLsb'] <;> try simp)))

theorem takeVc_fields (mk : BitVec 4 → BitVec 3 → BitVec 3 → BitVec 6 → BitVec 6 → BitVec 4 → BitVec 4 → Instr) (cl : BitVec 3) (op : BitVec 6) (g : BitVec 4) (cond : BitVec 3) (pair : BitVec 3) (s : BitVec 6) (t : BitVec 6) (ty : BitVec 4) (k : BitVec 4) :
    takeVc mk ⟨true, cl, g, op, (cond ++ pair), s, t, (ty ++ k)⟩ = .ok (mk g cond pair s t ty k) := by
  unfold takeVc
  congr <;> (first
      | (simp only [BitVec.getLsbD_append]; simp; done)
      | (apply BitVec.eq_of_getLsbD_eq; intro i hi; interval_cases i <;> (simp only [BitVec.getLsbD_append, BitVec.getLsbD_extractLsb'] <;> try simp)))

theorem takeVcq_fields (mk : BitVec 4 → BitVec 3 → BitVec 6 → BitVec 6 → BitVec 4 → BitVec 4 → Instr) (cl : BitVec 3) (op : BitVec 6) (g : BitVec 4) (cond : BitVec 3) (s : BitVec 6) (t : BitVec 6) (ty : BitVec 4) (k : BitVec 4) :
    takeVcq mk ⟨true, cl, g, op, (cond ++ 0#3), s, t, (ty ++ k)⟩ = .ok (mk g cond s t ty k) := by
  unfold takeVcq
  rw [if_pos (by and_intros <;> (first
      | (simp only [BitVec.getLsbD_append]; simp; done)
      | (apply BitVec.eq_of_getLsbD_eq; intro i hi; interval_cases i <;> (simp only [BitVec.getLsbD_append, BitVec.getLsbD_extractLsb'] <;> try simp))))]
  congr <;> (first
      | (simp only [BitVec.getLsbD_append]; simp; done)
      | (apply BitVec.eq_of_getLsbD_eq; intro i hi; interval_cases i <;> (simp only [BitVec.getLsbD_append, BitVec.getLsbD_extractLsb'] <;> try simp)))

theorem takeVxg_fields (mk : BitVec 4 → BitVec 6 → BitVec 6 → BitVec 6 → BitVec 4 → Instr) (cl : BitVec 3) (op : BitVec 6) (g : BitVec 4) (d : BitVec 6) (s : BitVec 6) (t : BitVec 6) (ty : BitVec 4) :
    takeVxg mk ⟨true, cl, g, op, d, s, t, (ty ++ 0#4)⟩ = .ok (mk g d s t ty) := by
  unfold takeVxg
  rw [if_pos (by and_intros <;> (first
      | (simp only [BitVec.getLsbD_append]; simp; done)
      | (apply BitVec.eq_of_getLsbD_eq; intro i hi; interval_cases i <;> (simp only [BitVec.getLsbD_append, BitVec.getLsbD_extractLsb'] <;> try simp))))]
  congr <;> (first
      | (simp only [BitVec.getLsbD_append]; simp; done)
      | (apply BitVec.eq_of_getLsbD_eq; intro i hi; interval_cases i <;> (simp only [BitVec.getLsbD_append, BitVec.getLsbD_extractLsb'] <;> try simp)))

theorem takeVcv_fields (mk : BitVec 4 → BitVec 6 → BitVec 6 → BitVec 4 → BitVec 4 → BitVec 4 → Instr) (cl : BitVec 3) (op : BitVec 6) (g : BitVec 4) (d : BitVec 6) (s : BitVec 6) (dst : BitVec 4) (src : BitVec 4) (k : BitVec 4) :
    takeVcv mk ⟨true, cl, g, op, d, s, (0#2 ++ dst), (src ++ k)⟩ = .ok (mk g d s dst src k) := by
  unfold takeVcv
  rw [if_pos (by and_intros <;> (first
      | (simp only [BitVec.getLsbD_append]; simp; done)
      | (apply BitVec.eq_of_getLsbD_eq; intro i hi; interval_cases i <;> (simp only [BitVec.getLsbD_append, BitVec.getLsbD_extractLsb'] <;> try simp))))]
  congr <;> (first
      | (simp only [BitVec.getLsbD_append]; simp; done)
      | (apply BitVec.eq_of_getLsbD_eq; intro i hi; interval_cases i <;> (simp only [BitVec.getLsbD_append, BitVec.getLsbD_extractLsb'] <;> try simp)))

theorem takeMps_fields (mk : BitVec 4 → BitVec 3 → BitVec 6 → Instr) (cl : BitVec 3) (op : BitVec 6) (g : BitVec 4) (n : BitVec 3) (s : BitVec 6) :
    takeMps mk ⟨true, cl, g, op, (0#3 ++ n), s, 0, 0⟩ = .ok (mk g n s) := by
  unfold takeMps
  rw [if_pos (by and_intros <;> (first
      | (simp only [BitVec.getLsbD_append]; simp; done)
      | (apply BitVec.eq_of_getLsbD_eq; intro i hi; interval_cases i <;> (simp only [BitVec.getLsbD_append, BitVec.getLsbD_extractLsb'] <;> try simp))))]
  congr <;> (first
      | (simp only [BitVec.getLsbD_append]; simp; done)
      | (apply BitVec.eq_of_getLsbD_eq; intro i hi; interval_cases i <;> (simp only [BitVec.getLsbD_append, BitVec.getLsbD_extractLsb'] <;> try simp)))

theorem takeMpg_fields (mk : BitVec 4 → BitVec 6 → BitVec 3 → Instr) (cl : BitVec 3) (op : BitVec 6) (g : BitVec 4) (d : BitVec 6) (n : BitVec 3) :
    takeMpg mk ⟨true, cl, g, op, d, (0#3 ++ n), 0, 0⟩ = .ok (mk g d n) := by
  unfold takeMpg
  rw [if_pos (by and_intros <;> (first
      | (simp only [BitVec.getLsbD_append]; simp; done)
      | (apply BitVec.eq_of_getLsbD_eq; intro i hi; interval_cases i <;> (simp only [BitVec.getLsbD_append, BitVec.getLsbD_extractLsb'] <;> try simp))))]
  congr <;> (first
      | (simp only [BitVec.getLsbD_append]; simp; done)
      | (apply BitVec.eq_of_getLsbD_eq; intro i hi; interval_cases i <;> (simp only [BitVec.getLsbD_append, BitVec.getLsbD_extractLsb'] <;> try simp)))

theorem takeMs_fields (mk : BitVec 4 → BitVec 6 → BitVec 6 → BitVec 4 → BitVec 2 → BitVec 8 → Instr) (cl : BitVec 3) (op : BitVec 6) (g : BitVec 4) (r : BitVec 6) (a : BitVec 6) (cls : BitVec 4) (sz : BitVec 2) (off : BitVec 8) :
    takeMs mk ⟨true, cl, g, op, r, a, (cls ++ sz), off⟩ = .ok (mk g r a cls sz off) := by
  unfold takeMs
  congr <;> (first
      | (simp only [BitVec.getLsbD_append]; simp; done)
      | (apply BitVec.eq_of_getLsbD_eq; intro i hi; interval_cases i <;> (simp only [BitVec.getLsbD_append, BitVec.getLsbD_extractLsb'] <;> try simp)))

theorem takeMv_fields (mk : BitVec 4 → BitVec 6 → BitVec 6 → BitVec 4 → BitVec 4 → BitVec 4 → Instr) (cl : BitVec 3) (op : BitVec 6) (g : BitVec 4) (v : BitVec 6) (a : BitVec 6) (cls : BitVec 4) (off : BitVec 4) (k : BitVec 4) :
    takeMv mk ⟨true, cl, g, op, v, a, (cls ++ 0#2), (off ++ k)⟩ = .ok (mk g v a cls off k) := by
  unfold takeMv
  rw [if_pos (by and_intros <;> (first
      | (simp only [BitVec.getLsbD_append]; simp; done)
      | (apply BitVec.eq_of_getLsbD_eq; intro i hi; interval_cases i <;> (simp only [BitVec.getLsbD_append, BitVec.getLsbD_extractLsb'] <;> try simp))))]
  congr <;> (first
      | (simp only [BitVec.getLsbD_append]; simp; done)
      | (apply BitVec.eq_of_getLsbD_eq; intro i hi; interval_cases i <;> (simp only [BitVec.getLsbD_append, BitVec.getLsbD_extractLsb'] <;> try simp)))

theorem takeMx_fields (mk : BitVec 4 → BitVec 6 → BitVec 6 → BitVec 6 → BitVec 4 → BitVec 4 → Instr) (cl : BitVec 3) (op : BitVec 6) (g : BitVec 4) (v : BitVec 6) (a : BitVec 6) (x : BitVec 6) (cls : BitVec 4) (k : BitVec 4) :
    takeMx mk ⟨true, cl, g, op, v, a, x, (cls ++ k)⟩ = .ok (mk g v a x cls k) := by
  unfold takeMx
  congr <;> (first
      | (simp only [BitVec.getLsbD_append]; simp; done)
      | (apply BitVec.eq_of_getLsbD_eq; intro i hi; interval_cases i <;> (simp only [BitVec.getLsbD_append, BitVec.getLsbD_extractLsb'] <;> try simp)))

theorem takeMxx_fields (mk : BitVec 4 → BitVec 6 → BitVec 6 → BitVec 3 → BitVec 4 → BitVec 4 → Instr) (cl : BitVec 3) (op : BitVec 6) (g : BitVec 4) (v : BitVec 6) (a : BitVec 6) (x : BitVec 3) (cls : BitVec 4) (k : BitVec 4) :
    takeMxx mk ⟨true, cl, g, op, v, a, (0#3 ++ x), (cls ++ k)⟩ = .ok (mk g v a x cls k) := by
  unfold takeMxx
  rw [if_pos (by and_intros <;> (first
      | (simp only [BitVec.getLsbD_append]; simp; done)
      | (apply BitVec.eq_of_getLsbD_eq; intro i hi; interval_cases i <;> (simp only [BitVec.getLsbD_append, BitVec.getLsbD_extractLsb'] <;> try simp))))]
  congr <;> (first
      | (simp only [BitVec.getLsbD_append]; simp; done)
      | (apply BitVec.eq_of_getLsbD_eq; intro i hi; interval_cases i <;> (simp only [BitVec.getLsbD_append, BitVec.getLsbD_extractLsb'] <;> try simp)))

theorem takeMa_fields (mk : BitVec 4 → BitVec 6 → BitVec 6 → BitVec 6 → BitVec 4 → Bool → Instr) (cl : BitVec 3) (op : BitVec 6) (g : BitVec 4) (d : BitVec 6) (a : BitVec 6) (t : BitVec 6) (cls : BitVec 4) (near : Bool) :
    takeMa mk ⟨true, cl, g, op, d, a, t, (cls ++ (BitVec.ofBool near) ++ 0#3)⟩ = .ok (mk g d a t cls near) := by
  unfold takeMa
  rw [if_pos (by and_intros <;> (first
      | (simp only [BitVec.getLsbD_append]; simp; done)
      | (apply BitVec.eq_of_getLsbD_eq; intro i hi; interval_cases i <;> (simp only [BitVec.getLsbD_append, BitVec.getLsbD_extractLsb'] <;> try simp))))]
  congr <;> (first
      | (simp only [BitVec.getLsbD_append]; simp; done)
      | (apply BitVec.eq_of_getLsbD_eq; intro i hi; interval_cases i <;> (simp only [BitVec.getLsbD_append, BitVec.getLsbD_extractLsb'] <;> try simp)))

theorem takeFn_fields (mk : BitVec 4 → BitVec 2 → Bool → Bool → BitVec 16 → Instr) (cl : BitVec 3) (op : BitVec 6) (g : BitVec 4) (scope : BitVec 2) (wb : Bool) (inv : Bool) (mask : BitVec 16) :
    takeFn mk ⟨true, cl, g, op, (0#2 ++ (BitVec.ofBool inv) ++ (BitVec.ofBool wb) ++ scope), (mask.extractLsb' 2 6), (0#4 ++ mask.extractLsb' 0 2), (mask.extractLsb' 8 8)⟩ = .ok (mk g scope wb inv mask) := by
  unfold takeFn
  rw [if_pos (by and_intros <;> (first
      | (simp only [BitVec.getLsbD_append]; simp; done)
      | (apply BitVec.eq_of_getLsbD_eq; intro i hi; interval_cases i <;> (simp only [BitVec.getLsbD_append, BitVec.getLsbD_extractLsb'] <;> try simp))))]
  congr <;> (first
      | (simp only [BitVec.getLsbD_append]; simp; done)
      | (apply BitVec.eq_of_getLsbD_eq; intro i hi; interval_cases i <;> (simp only [BitVec.getLsbD_append, BitVec.getLsbD_extractLsb'] <;> try simp)))

theorem takeRgw_fields (mk : BitVec 4 → BitVec 6 → BitVec 5 → Instr) (cl : BitVec 3) (op : BitVec 6) (g : BitVec 4) (d : BitVec 6) (n : BitVec 5) :
    takeRgw mk ⟨true, cl, g, op, d, (0#1 ++ n), 0, 0⟩ = .ok (mk g d n) := by
  unfold takeRgw
  rw [if_pos (by and_intros <;> (first
      | (simp only [BitVec.getLsbD_append]; simp; done)
      | (apply BitVec.eq_of_getLsbD_eq; intro i hi; interval_cases i <;> (simp only [BitVec.getLsbD_append, BitVec.getLsbD_extractLsb'] <;> try simp))))]
  congr <;> (first
      | (simp only [BitVec.getLsbD_append]; simp; done)
      | (apply BitVec.eq_of_getLsbD_eq; intro i hi; interval_cases i <;> (simp only [BitVec.getLsbD_append, BitVec.getLsbD_extractLsb'] <;> try simp)))

theorem takeRgr_fields (mk : BitVec 4 → BitVec 5 → Instr) (cl : BitVec 3) (op : BitVec 6) (g : BitVec 4) (n : BitVec 5) :
    takeRgr mk ⟨true, cl, g, op, 0, (0#1 ++ n), 0, 0⟩ = .ok (mk g n) := by
  unfold takeRgr
  rw [if_pos (by and_intros <;> (first
      | (simp only [BitVec.getLsbD_append]; simp; done)
      | (apply BitVec.eq_of_getLsbD_eq; intro i hi; interval_cases i <;> (simp only [BitVec.getLsbD_append, BitVec.getLsbD_extractLsb'] <;> try simp))))]
  congr <;> (first
      | (simp only [BitVec.getLsbD_append]; simp; done)
      | (apply BitVec.eq_of_getLsbD_eq; intro i hi; interval_cases i <;> (simp only [BitVec.getLsbD_append, BitVec.getLsbD_extractLsb'] <;> try simp)))

theorem takeRgp_fields (mk : BitVec 4 → BitVec 5 → BitVec 6 → Instr) (cl : BitVec 3) (op : BitVec 6) (g : BitVec 4) (n : BitVec 5) (s : BitVec 6) :
    takeRgp mk ⟨true, cl, g, op, 0, (0#1 ++ n), s, 0⟩ = .ok (mk g n s) := by
  unfold takeRgp
  rw [if_pos (by and_intros <;> (first
      | (simp only [BitVec.getLsbD_append]; simp; done)
      | (apply BitVec.eq_of_getLsbD_eq; intro i hi; interval_cases i <;> (simp only [BitVec.getLsbD_append, BitVec.getLsbD_extractLsb'] <;> try simp))))]
  congr <;> (first
      | (simp only [BitVec.getLsbD_append]; simp; done)
      | (apply BitVec.eq_of_getLsbD_eq; intro i hi; interval_cases i <;> (simp only [BitVec.getLsbD_append, BitVec.getLsbD_extractLsb'] <;> try simp)))

theorem takeAcs_fields (mk : BitVec 4 → BitVec 6 → BitVec 6 → BitVec 4 → Instr) (cl : BitVec 3) (op : BitVec 6) (g : BitVec 4) (c : BitVec 6) (x : BitVec 6) (cls : BitVec 4) :
    takeAcs mk ⟨true, cl, g, op, c, x, 0, (cls ++ 0#4)⟩ = .ok (mk g c x cls) := by
  unfold takeAcs
  rw [if_pos (by and_intros <;> (first
      | (simp only [BitVec.getLsbD_append]; simp; done)
      | (apply BitVec.eq_of_getLsbD_eq; intro i hi; interval_cases i <;> (simp only [BitVec.getLsbD_append, BitVec.getLsbD_extractLsb'] <;> try simp))))]
  congr <;> (first
      | (simp only [BitVec.getLsbD_append]; simp; done)
      | (apply BitVec.eq_of_getLsbD_eq; intro i hi; interval_cases i <;> (simp only [BitVec.getLsbD_append, BitVec.getLsbD_extractLsb'] <;> try simp)))

theorem takeAw_fields (mk : BitVec 4 → BitVec 6 → BitVec 6 → BitVec 6 → BitVec 4 → Bool → BitVec 2 → Instr) (cl : BitVec 3) (op : BitVec 6) (g : BitVec 4) (d : BitVec 6) (a : BitVec 6) (v : BitVec 6) (cls : BitVec 4) (glob : Bool) (cc : BitVec 2) :
    takeAw mk ⟨true, cl, g, op, d, a, v, (cls ++ 0#1 ++ (BitVec.ofBool glob) ++ cc)⟩ = .ok (mk g d a v cls glob cc) := by
  unfold takeAw
  rw [if_pos (by and_intros <;> (first
      | (simp only [BitVec.getLsbD_append]; simp; done)
      | (apply BitVec.eq_of_getLsbD_eq; intro i hi; interval_cases i <;> (simp only [BitVec.getLsbD_append, BitVec.getLsbD_extractLsb'] <;> try simp))))]
  congr <;> (first
      | (simp only [BitVec.getLsbD_append]; simp; done)
      | (apply BitVec.eq_of_getLsbD_eq; intro i hi; interval_cases i <;> (simp only [BitVec.getLsbD_append, BitVec.getLsbD_extractLsb'] <;> try simp)))

theorem takeGs_fields (mk : BitVec 4 → BitVec 3 → Instr) (cl : BitVec 3) (op : BitVec 6) (g : BitVec 4) (n : BitVec 3) :
    takeGs mk ⟨true, cl, g, op, (0#3 ++ n), 0, 0, 0⟩ = .ok (mk g n) := by
  unfold takeGs
  rw [if_pos (by and_intros <;> (first
      | (simp only [BitVec.getLsbD_append]; simp; done)
      | (apply BitVec.eq_of_getLsbD_eq; intro i hi; interval_cases i <;> (simp only [BitVec.getLsbD_append, BitVec.getLsbD_extractLsb'] <;> try simp))))]
  congr <;> (first
      | (simp only [BitVec.getLsbD_append]; simp; done)
      | (apply BitVec.eq_of_getLsbD_eq; intro i hi; interval_cases i <;> (simp only [BitVec.getLsbD_append, BitVec.getLsbD_extractLsb'] <;> try simp)))

/-! ### The family -/

/-- Decoding the bits of a well-formed instruction gives it back. -/
def Laws.RoundTrip.Statement (i : Instr) : Prop :=
  i.wf = true → ∀ n w, encode i = some (n, w) → decodeTableWord n w = some i

theorem roundTrip_slot {i : Instr} {x : Slot} (hv : encodeVirga i = none) (he : encodeSlot i = some x)
    (hd : decodeRaw x = .ok i) : Laws.RoundTrip.Statement i := by
  intro hw n w h
  simp only [encode, hv, he, Option.some.injEq, Prod.mk.injEq] at h
  obtain ⟨rfl, rfl⟩ := h
  have h1 : BitVec.ofNat 32 ((slotWord x).toNat + 2 ^ 32 * x.l.toNat) = slotWord x := by
    apply BitVec.eq_of_toNat_eq
    have := (slotWord x).isLt
    simp only [BitVec.toNat_ofNat]
    omega
  have h2 : BitVec.ofNat 8 (((slotWord x).toNat + 2 ^ 32 * x.l.toNat) / 2 ^ 32) = x.l := by
    apply BitVec.eq_of_toNat_eq
    have := (slotWord x).isLt
    have := x.l.isLt
    simp only [BitVec.toNat_ofNat]
    omega
  simp only [decodeTableWord, h1, h2, decodeSikan, slotOf_slotWord, decodeSlot, hd, hw]
  rfl

theorem roundTrip_virga {i : Instr} {x : VirgaFields} (he : encodeVirgaFields i = some x)
    (hd : decodeVirgaRaw x = .ok i) : Laws.RoundTrip.Statement i := by
  intro hw n w h
  simp only [encode, encodeVirga, he, Option.map_some, Option.some.injEq, Prod.mk.injEq] at h
  obtain ⟨rfl, rfl⟩ := h
  simp only [decodeTableWord, BitVec.ofNat_toNat, BitVec.setWidth_eq, decodeVirga, virgaFieldsOf_virgaWord, hd, hw]
  rfl

theorem roundTrip_uop {i : Instr} {x : UopFields} (hv : encodeVirga i = none) (hs : encodeSlot i = none)
    (he : encodeUopFields i = some x) (hd : decodeUopRaw x = .ok i) : Laws.RoundTrip.Statement i := by
  intro hw n w h
  simp only [encode, hv, hs, encodeUop, he, Option.map_some, Option.some.injEq, Prod.mk.injEq] at h
  obtain ⟨rfl, rfl⟩ := h
  simp only [decodeTableWord, BitVec.ofNat_toNat, BitVec.setWidth_eq, decodeUop, uopFieldsOf_uopWord, hd, hw]
  rfl

theorem roundTrip_none {i : Instr} (h : encode i = none) : Laws.RoundTrip.Statement i := by
  intro _ n w h1
  rw [h] at h1
  cases h1

theorem decodeRaw_mtsr (g : BitVec 4) (a b c : BitVec 6) (l : BitVec 8) :
    decodeRaw ⟨true, 2, g, 0x0F, a, b, c, l⟩ = takeMtsr ⟨true, 2, g, 0x0F, a, b, c, l⟩ := rfl

/-! ### One lemma per constructor -/

theorem Laws.RoundTrip.nop (g : BitVec 4) : Statement (.nop g) :=
  roundTrip_slot rfl rfl rfl

theorem Laws.RoundTrip.add (g : BitVec 4) (d : BitVec 6) (s : BitVec 6) (t : BitVec 6) : Statement (.add g d s t) :=
  roundTrip_slot rfl rfl rfl

theorem Laws.RoundTrip.sub (g : BitVec 4) (d : BitVec 6) (s : BitVec 6) (t : BitVec 6) : Statement (.sub g d s t) :=
  roundTrip_slot rfl rfl rfl

theorem Laws.RoundTrip.mul (g : BitVec 4) (d : BitVec 6) (s : BitVec 6) (t : BitVec 6) : Statement (.mul g d s t) :=
  roundTrip_slot rfl rfl rfl

theorem Laws.RoundTrip.mulhI64 (g : BitVec 4) (d : BitVec 6) (s : BitVec 6) (t : BitVec 6) : Statement (.mulhI64 g d s t) :=
  roundTrip_slot rfl rfl rfl

theorem Laws.RoundTrip.mulhN64 (g : BitVec 4) (d : BitVec 6) (s : BitVec 6) (t : BitVec 6) : Statement (.mulhN64 g d s t) :=
  roundTrip_slot rfl rfl rfl

theorem Laws.RoundTrip.divI64 (g : BitVec 4) (d : BitVec 6) (s : BitVec 6) (t : BitVec 6) : Statement (.divI64 g d s t) :=
  roundTrip_slot rfl rfl rfl

theorem Laws.RoundTrip.divN64 (g : BitVec 4) (d : BitVec 6) (s : BitVec 6) (t : BitVec 6) : Statement (.divN64 g d s t) :=
  roundTrip_slot rfl rfl rfl

theorem Laws.RoundTrip.remI64 (g : BitVec 4) (d : BitVec 6) (s : BitVec 6) (t : BitVec 6) : Statement (.remI64 g d s t) :=
  roundTrip_slot rfl rfl rfl

theorem Laws.RoundTrip.remN64 (g : BitVec 4) (d : BitVec 6) (s : BitVec 6) (t : BitVec 6) : Statement (.remN64 g d s t) :=
  roundTrip_slot rfl rfl rfl

theorem Laws.RoundTrip.and (g : BitVec 4) (d : BitVec 6) (s : BitVec 6) (t : BitVec 6) : Statement (.and g d s t) :=
  roundTrip_slot rfl rfl rfl

theorem Laws.RoundTrip.or (g : BitVec 4) (d : BitVec 6) (s : BitVec 6) (t : BitVec 6) : Statement (.or g d s t) :=
  roundTrip_slot rfl rfl rfl

theorem Laws.RoundTrip.xor (g : BitVec 4) (d : BitVec 6) (s : BitVec 6) (t : BitVec 6) : Statement (.xor g d s t) :=
  roundTrip_slot rfl rfl rfl

theorem Laws.RoundTrip.shl (g : BitVec 4) (d : BitVec 6) (s : BitVec 6) (t : BitVec 6) : Statement (.shl g d s t) :=
  roundTrip_slot rfl rfl rfl

theorem Laws.RoundTrip.shrI64 (g : BitVec 4) (d : BitVec 6) (s : BitVec 6) (t : BitVec 6) : Statement (.shrI64 g d s t) :=
  roundTrip_slot rfl rfl rfl

theorem Laws.RoundTrip.shrN64 (g : BitVec 4) (d : BitVec 6) (s : BitVec 6) (t : BitVec 6) : Statement (.shrN64 g d s t) :=
  roundTrip_slot rfl rfl rfl

theorem Laws.RoundTrip.minI64 (g : BitVec 4) (d : BitVec 6) (s : BitVec 6) (t : BitVec 6) : Statement (.minI64 g d s t) :=
  roundTrip_slot rfl rfl rfl

theorem Laws.RoundTrip.minN64 (g : BitVec 4) (d : BitVec 6) (s : BitVec 6) (t : BitVec 6) : Statement (.minN64 g d s t) :=
  roundTrip_slot rfl rfl rfl

theorem Laws.RoundTrip.maxI64 (g : BitVec 4) (d : BitVec 6) (s : BitVec 6) (t : BitVec 6) : Statement (.maxI64 g d s t) :=
  roundTrip_slot rfl rfl rfl

theorem Laws.RoundTrip.maxN64 (g : BitVec 4) (d : BitVec 6) (s : BitVec 6) (t : BitVec 6) : Statement (.maxN64 g d s t) :=
  roundTrip_slot rfl rfl rfl

theorem Laws.RoundTrip.addI64S (g : BitVec 4) (d : BitVec 6) (s : BitVec 6) (t : BitVec 6) : Statement (.addI64S g d s t) :=
  roundTrip_slot rfl rfl rfl

theorem Laws.RoundTrip.addN64S (g : BitVec 4) (d : BitVec 6) (s : BitVec 6) (t : BitVec 6) : Statement (.addN64S g d s t) :=
  roundTrip_slot rfl rfl rfl

theorem Laws.RoundTrip.subI64S (g : BitVec 4) (d : BitVec 6) (s : BitVec 6) (t : BitVec 6) : Statement (.subI64S g d s t) :=
  roundTrip_slot rfl rfl rfl

theorem Laws.RoundTrip.subN64S (g : BitVec 4) (d : BitVec 6) (s : BitVec 6) (t : BitVec 6) : Statement (.subN64S g d s t) :=
  roundTrip_slot rfl rfl rfl

theorem Laws.RoundTrip.addi (g : BitVec 4) (d : BitVec 6) (s : BitVec 6) (imm : BitVec 14) : Statement (.addi g d s imm) :=
  roundTrip_slot rfl rfl (takeRri_fields _ _ _ _ _ _ _)

theorem Laws.RoundTrip.andi (g : BitVec 4) (d : BitVec 6) (s : BitVec 6) (imm : BitVec 14) : Statement (.andi g d s imm) :=
  roundTrip_slot rfl rfl (takeRri_fields _ _ _ _ _ _ _)

theorem Laws.RoundTrip.ori (g : BitVec 4) (d : BitVec 6) (s : BitVec 6) (imm : BitVec 14) : Statement (.ori g d s imm) :=
  roundTrip_slot rfl rfl (takeRri_fields _ _ _ _ _ _ _)

theorem Laws.RoundTrip.xori (g : BitVec 4) (d : BitVec 6) (s : BitVec 6) (imm : BitVec 14) : Statement (.xori g d s imm) :=
  roundTrip_slot rfl rfl (takeRri_fields _ _ _ _ _ _ _)

theorem Laws.RoundTrip.shli (g : BitVec 4) (d : BitVec 6) (s : BitVec 6) (n : BitVec 6) : Statement (.shli g d s n) :=
  roundTrip_slot rfl rfl rfl

theorem Laws.RoundTrip.shriI64 (g : BitVec 4) (d : BitVec 6) (s : BitVec 6) (n : BitVec 6) : Statement (.shriI64 g d s n) :=
  roundTrip_slot rfl rfl rfl

theorem Laws.RoundTrip.shriN64 (g : BitVec 4) (d : BitVec 6) (s : BitVec 6) (n : BitVec 6) : Statement (.shriN64 g d s n) :=
  roundTrip_slot rfl rfl rfl

theorem Laws.RoundTrip.li (g : BitVec 4) (d : BitVec 6) (imm : BitVec 20) : Statement (.li g d imm) :=
  roundTrip_slot rfl rfl (takeRi_fields _ _ _ _ _ _)

theorem Laws.RoundTrip.lis (g : BitVec 4) (d : BitVec 6) (imm : BitVec 16) : Statement (.lis g d imm) :=
  roundTrip_slot rfl rfl (takeRis_fields _ _ _ _ _ _)

theorem Laws.RoundTrip.sel (g : BitVec 4) (d : BitVec 6) (s : BitVec 6) (t : BitVec 6) (k : BitVec 4) : Statement (.sel g d s t k) :=
  roundTrip_slot rfl rfl (takeRrp_fields _ _ _ _ _ _ _ _)

theorem Laws.RoundTrip.cmp (g : BitVec 4) (cond : BitVec 3) (pair : BitVec 3) (s : BitVec 6) (t : BitVec 6) : Statement (.cmp g cond pair s t) :=
  roundTrip_slot rfl rfl (takeCp_fields _ _ _ _ _ _ _ _)

theorem Laws.RoundTrip.cmpi (g : BitVec 4) (cond : BitVec 3) (pair : BitVec 3) (s : BitVec 6) (imm : BitVec 14) : Statement (.cmpi g cond pair s imm) :=
  roundTrip_slot rfl rfl (takeCpi_fields _ _ _ _ _ _ _ _)

theorem Laws.RoundTrip.cmpq (g : BitVec 4) (cond : BitVec 3) (s : BitVec 6) (t : BitVec 6) : Statement (.cmpq g cond s t) :=
  roundTrip_slot rfl rfl (takeCq_fields _ _ _ _ _ _ _)

theorem Laws.RoundTrip.fadd (g : BitVec 4) (d : BitVec 6) (s : BitVec 6) (t : BitVec 6) : Statement (.fadd g d s t) :=
  roundTrip_slot rfl rfl rfl

theorem Laws.RoundTrip.fsub (g : BitVec 4) (d : BitVec 6) (s : BitVec 6) (t : BitVec 6) : Statement (.fsub g d s t) :=
  roundTrip_slot rfl rfl rfl

theorem Laws.RoundTrip.fmul (g : BitVec 4) (d : BitVec 6) (s : BitVec 6) (t : BitVec 6) : Statement (.fmul g d s t) :=
  roundTrip_slot rfl rfl rfl

theorem Laws.RoundTrip.fdiv (g : BitVec 4) (d : BitVec 6) (s : BitVec 6) (t : BitVec 6) : Statement (.fdiv g d s t) :=
  roundTrip_slot rfl rfl rfl

theorem Laws.RoundTrip.fmin (g : BitVec 4) (d : BitVec 6) (s : BitVec 6) (t : BitVec 6) : Statement (.fmin g d s t) :=
  roundTrip_slot rfl rfl rfl

theorem Laws.RoundTrip.fmax (g : BitVec 4) (d : BitVec 6) (s : BitVec 6) (t : BitVec 6) : Statement (.fmax g d s t) :=
  roundTrip_slot rfl rfl rfl

theorem Laws.RoundTrip.fma (g : BitVec 4) (d : BitVec 6) (s : BitVec 6) (t : BitVec 6) (q : BitVec 6) : Statement (.fma g d s t q) :=
  roundTrip_slot rfl rfl (takeRrrr_fields _ _ _ _ _ _ _ _)

theorem Laws.RoundTrip.fcmp (g : BitVec 4) (cond : BitVec 3) (pair : BitVec 3) (s : BitVec 6) (t : BitVec 6) : Statement (.fcmp g cond pair s t) :=
  roundTrip_slot rfl rfl (takeCp_fields _ _ _ _ _ _ _ _)

theorem Laws.RoundTrip.fcmpq (g : BitVec 4) (cond : BitVec 3) (s : BitVec 6) (t : BitVec 6) : Statement (.fcmpq g cond s t) :=
  roundTrip_slot rfl rfl (takeCq_fields _ _ _ _ _ _ _)

theorem Laws.RoundTrip.fcvt (g : BitVec 4) (d : BitVec 6) (s : BitVec 6) (src : BitVec 3) (dst : BitVec 3) : Statement (.fcvt g d s src dst) :=
  roundTrip_slot rfl rfl (takeCv_fields _ _ _ _ _ _ _ _)

theorem Laws.RoundTrip.clz (g : BitVec 4) (d : BitVec 6) (s : BitVec 6) : Statement (.clz g d s) :=
  roundTrip_slot rfl rfl rfl

theorem Laws.RoundTrip.popc (g : BitVec 4) (d : BitVec 6) (s : BitVec 6) : Statement (.popc g d s) :=
  roundTrip_slot rfl rfl rfl

theorem Laws.RoundTrip.pand (g : BitVec 4) (d : BitVec 4) (s : BitVec 4) (t : BitVec 4) : Statement (.pand g d s t) :=
  roundTrip_slot rfl rfl (takePl_fields _ _ _ _ _ _ _)

theorem Laws.RoundTrip.por (g : BitVec 4) (d : BitVec 4) (s : BitVec 4) (t : BitVec 4) : Statement (.por g d s t) :=
  roundTrip_slot rfl rfl (takePl_fields _ _ _ _ _ _ _)

theorem Laws.RoundTrip.pxor (g : BitVec 4) (d : BitVec 4) (s : BitVec 4) (t : BitVec 4) : Statement (.pxor g d s t) :=
  roundTrip_slot rfl rfl (takePl_fields _ _ _ _ _ _ _)

theorem Laws.RoundTrip.pandn (g : BitVec 4) (d : BitVec 4) (s : BitVec 4) (t : BitVec 4) : Statement (.pandn g d s t) :=
  roundTrip_slot rfl rfl (takePl_fields _ _ _ _ _ _ _)

theorem Laws.RoundTrip.sext (g : BitVec 4) (d : BitVec 6) (s : BitVec 6) (n : BitVec 7) : Statement (.sext g d s n) :=
  roundTrip_slot rfl rfl (takeRxt_fields _ _ _ _ _ _ _)

theorem Laws.RoundTrip.zext (g : BitVec 4) (d : BitVec 6) (s : BitVec 6) (n : BitVec 7) : Statement (.zext g d s n) :=
  roundTrip_slot rfl rfl (takeRxt_fields _ _ _ _ _ _ _)

theorem Laws.RoundTrip.br (g : BitVec 4) (off : BitVec 26) : Statement (.br g off) :=
  roundTrip_slot rfl rfl (takeJ_fields _ _ _ _ _)

theorem Laws.RoundTrip.call (g : BitVec 4) (off : BitVec 26) : Statement (.call g off) :=
  roundTrip_slot rfl rfl (takeJ_fields _ _ _ _ _)

theorem Laws.RoundTrip.brq (g : BitVec 4) (off : BitVec 26) : Statement (.brq g off) :=
  roundTrip_slot rfl rfl (takeJ_fields _ _ _ _ _)

theorem Laws.RoundTrip.brqn (g : BitVec 4) (off : BitVec 26) : Statement (.brqn g off) :=
  roundTrip_slot rfl rfl (takeJ_fields _ _ _ _ _)

theorem Laws.RoundTrip.brr (g : BitVec 4) (s : BitVec 6) : Statement (.brr g s) :=
  roundTrip_slot rfl rfl rfl

theorem Laws.RoundTrip.callr (g : BitVec 4) (s : BitVec 6) : Statement (.callr g s) :=
  roundTrip_slot rfl rfl rfl

theorem Laws.RoundTrip.loop (g : BitVec 4) (n : BitVec 2) (off : BitVec 24) : Statement (.loop g n off) :=
  roundTrip_slot rfl rfl (takeJl_fields _ _ _ _ _ _)

theorem Laws.RoundTrip.lcset (g : BitVec 4) (n : BitVec 2) (s : BitVec 6) : Statement (.lcset g n s) :=
  roundTrip_slot rfl rfl (takeLc_fields _ _ _ _ _ _)

theorem Laws.RoundTrip.barw (g : BitVec 4) (b : BitVec 3) : Statement (.barw g b) :=
  roundTrip_slot rfl rfl (takeBa_fields _ _ _ _ _)

theorem Laws.RoundTrip.yield (g : BitVec 4) : Statement (.yield g) :=
  roundTrip_slot rfl rfl rfl

theorem Laws.RoundTrip.halt (g : BitVec 4) : Statement (.halt g) :=
  roundTrip_slot rfl rfl rfl

theorem Laws.RoundTrip.eret (g : BitVec 4) : Statement (.eret g) :=
  roundTrip_slot rfl rfl rfl

theorem Laws.RoundTrip.cqclr (g : BitVec 4) : Statement (.cqclr g) :=
  roundTrip_slot rfl rfl rfl

theorem Laws.RoundTrip.syscall (g : BitVec 4) (code : BitVec 20) : Statement (.syscall g code) :=
  roundTrip_slot rfl rfl (takeSy_fields _ _ _ _ _)

theorem Laws.RoundTrip.mfsr (g : BitVec 4) (d : BitVec 6) (num : BitVec 12) : Statement (.mfsr g d num) :=
  roundTrip_slot rfl rfl (takeSr_fields _ _ _ _ _ _)

theorem Laws.RoundTrip.mtsr (g : BitVec 4) (s : BitVec 6) (num : BitVec 12) : Statement (.mtsr g s num) :=
  fun hw => roundTrip_slot rfl rfl (by
    have hj : num.extractLsb' 6 6 ++ num.extractLsb' 0 6 = num := by
      (first
      | (simp only [BitVec.getLsbD_append]; simp; done)
      | (apply BitVec.eq_of_getLsbD_eq; intro i hi; interval_cases i <;> (simp only [BitVec.getLsbD_append, BitVec.getLsbD_extractLsb'] <;> try simp)))
    simp only [Instr.wf, Bool.and_eq_true, bne_iff_ne, ne_eq] at hw
    rw [decodeRaw_mtsr]
    simp only [takeMtsr, if_true, hj, if_neg hw.2, if_neg hw.1.2]) hw

theorem Laws.RoundTrip.mtsrTrapcauseHost (g : BitVec 4) (s : BitVec 6) : Statement (.mtsrTrapcauseHost g s) :=
  roundTrip_slot rfl rfl (by
    rw [decodeRaw_mtsr]
    simp [takeMtsr])

theorem Laws.RoundTrip.mtsrFmtctlSeedw (g : BitVec 4) (s : BitVec 6) : Statement (.mtsrFmtctlSeedw g s) :=
  roundTrip_slot rfl rfl (by
    rw [decodeRaw_mtsr]
    simp [takeMtsr])

theorem Laws.RoundTrip.tdset (g : BitVec 4) (d : BitVec 6) (s : BitVec 6) (t : BitVec 6) : Statement (.tdset g d s t) :=
  roundTrip_slot rfl rfl rfl

theorem Laws.RoundTrip.tdget (g : BitVec 4) (d : BitVec 6) (s : BitVec 6) (t : BitVec 6) : Statement (.tdget g d s t) :=
  roundTrip_slot rfl rfl rfl

theorem Laws.RoundTrip.tdinv (g : BitVec 4) (d : BitVec 6) (s : BitVec 6) : Statement (.tdinv g d s) :=
  roundTrip_slot rfl rfl rfl

theorem Laws.RoundTrip.vadd (g : BitVec 4) (d : BitVec 6) (s : BitVec 6) (t : BitVec 6) (ty : BitVec 4) (k : BitVec 4) : Statement (.vadd g d s t ty k) :=
  roundTrip_slot rfl rfl (takeV3_fields _ _ _ _ _ _ _ _ _)

theorem Laws.RoundTrip.vsub (g : BitVec 4) (d : BitVec 6) (s : BitVec 6) (t : BitVec 6) (ty : BitVec 4) (k : BitVec 4) : Statement (.vsub g d s t ty k) :=
  roundTrip_slot rfl rfl (takeV3_fields _ _ _ _ _ _ _ _ _)

theorem Laws.RoundTrip.vmul (g : BitVec 4) (d : BitVec 6) (s : BitVec 6) (t : BitVec 6) (ty : BitVec 4) (k : BitVec 4) : Statement (.vmul g d s t ty k) :=
  roundTrip_slot rfl rfl (takeV3_fields _ _ _ _ _ _ _ _ _)

theorem Laws.RoundTrip.vdiv (g : BitVec 4) (d : BitVec 6) (s : BitVec 6) (t : BitVec 6) (ty : BitVec 4) (k : BitVec 4) : Statement (.vdiv g d s t ty k) :=
  roundTrip_slot rfl rfl (takeV3_fields _ _ _ _ _ _ _ _ _)

theorem Laws.RoundTrip.vmin (g : BitVec 4) (d : BitVec 6) (s : BitVec 6) (t : BitVec 6) (ty : BitVec 4) (k : BitVec 4) : Statement (.vmin g d s t ty k) :=
  roundTrip_slot rfl rfl (takeV3_fields _ _ _ _ _ _ _ _ _)

theorem Laws.RoundTrip.vmax (g : BitVec 4) (d : BitVec 6) (s : BitVec 6) (t : BitVec 6) (ty : BitVec 4) (k : BitVec 4) : Statement (.vmax g d s t ty k) :=
  roundTrip_slot rfl rfl (takeV3_fields _ _ _ _ _ _ _ _ _)

theorem Laws.RoundTrip.vaddS (g : BitVec 4) (d : BitVec 6) (s : BitVec 6) (t : BitVec 6) (ty : BitVec 4) (k : BitVec 4) : Statement (.vaddS g d s t ty k) :=
  roundTrip_slot rfl rfl (takeV3_fields _ _ _ _ _ _ _ _ _)

theorem Laws.RoundTrip.vsubS (g : BitVec 4) (d : BitVec 6) (s : BitVec 6) (t : BitVec 6) (ty : BitVec 4) (k : BitVec 4) : Statement (.vsubS g d s t ty k) :=
  roundTrip_slot rfl rfl (takeV3_fields _ _ _ _ _ _ _ _ _)

theorem Laws.RoundTrip.vand (g : BitVec 4) (d : BitVec 6) (s : BitVec 6) (t : BitVec 6) (ty : BitVec 4) (k : BitVec 4) : Statement (.vand g d s t ty k) :=
  roundTrip_slot rfl rfl (takeV3_fields _ _ _ _ _ _ _ _ _)

theorem Laws.RoundTrip.vor (g : BitVec 4) (d : BitVec 6) (s : BitVec 6) (t : BitVec 6) (ty : BitVec 4) (k : BitVec 4) : Statement (.vor g d s t ty k) :=
  roundTrip_slot rfl rfl (takeV3_fields _ _ _ _ _ _ _ _ _)

theorem Laws.RoundTrip.vxor (g : BitVec 4) (d : BitVec 6) (s : BitVec 6) (t : BitVec 6) (ty : BitVec 4) (k : BitVec 4) : Statement (.vxor g d s t ty k) :=
  roundTrip_slot rfl rfl (takeV3_fields _ _ _ _ _ _ _ _ _)

theorem Laws.RoundTrip.vshl (g : BitVec 4) (d : BitVec 6) (s : BitVec 6) (t : BitVec 6) (ty : BitVec 4) (k : BitVec 4) : Statement (.vshl g d s t ty k) :=
  roundTrip_slot rfl rfl (takeV3_fields _ _ _ _ _ _ _ _ _)

theorem Laws.RoundTrip.vshr (g : BitVec 4) (d : BitVec 6) (s : BitVec 6) (t : BitVec 6) (ty : BitVec 4) (k : BitVec 4) : Statement (.vshr g d s t ty k) :=
  roundTrip_slot rfl rfl (takeV3_fields _ _ _ _ _ _ _ _ _)

theorem Laws.RoundTrip.vabs (g : BitVec 4) (d : BitVec 6) (s : BitVec 6) (ty : BitVec 4) (k : BitVec 4) : Statement (.vabs g d s ty k) :=
  roundTrip_slot rfl rfl (takeV2_fields _ _ _ _ _ _ _ _)

theorem Laws.RoundTrip.vneg (g : BitVec 4) (d : BitVec 6) (s : BitVec 6) (ty : BitVec 4) (k : BitVec 4) : Statement (.vneg g d s ty k) :=
  roundTrip_slot rfl rfl (takeV2_fields _ _ _ _ _ _ _ _)

theorem Laws.RoundTrip.vmov (g : BitVec 4) (d : BitVec 6) (s : BitVec 6) (ty : BitVec 4) (k : BitVec 4) : Statement (.vmov g d s ty k) :=
  roundTrip_slot rfl rfl (takeV2_fields _ _ _ _ _ _ _ _)

theorem Laws.RoundTrip.vfmaF32 (g : BitVec 4) (d : BitVec 6) (s : BitVec 6) (t : BitVec 6) (q : BitVec 6) (k : BitVec 2) : Statement (.vfmaF32 g d s t q k) :=
  roundTrip_slot rfl rfl (takeV4_fields _ _ _ _ _ _ _ _ _)

theorem Laws.RoundTrip.vfmaBf16 (g : BitVec 4) (d : BitVec 6) (s : BitVec 6) (t : BitVec 6) (q : BitVec 6) (k : BitVec 2) : Statement (.vfmaBf16 g d s t q k) :=
  roundTrip_slot rfl rfl (takeV4_fields _ _ _ _ _ _ _ _ _)

theorem Laws.RoundTrip.vsel (g : BitVec 4) (d : BitVec 6) (s : BitVec 6) (t : BitVec 6) (ty : BitVec 4) (k : BitVec 4) : Statement (.vsel g d s t ty k) :=
  roundTrip_slot rfl rfl (takeV3_fields _ _ _ _ _ _ _ _ _)

theorem Laws.RoundTrip.vcmp (g : BitVec 4) (cond : BitVec 3) (pair : BitVec 3) (s : BitVec 6) (t : BitVec 6) (ty : BitVec 4) (k : BitVec 4) : Statement (.vcmp g cond pair s t ty k) :=
  roundTrip_slot rfl rfl (takeVc_fields _ _ _ _ _ _ _ _ _ _)

theorem Laws.RoundTrip.vcmpq (g : BitVec 4) (cond : BitVec 3) (s : BitVec 6) (t : BitVec 6) (ty : BitVec 4) (k : BitVec 4) : Statement (.vcmpq g cond s t ty k) :=
  roundTrip_slot rfl rfl (takeVcq_fields _ _ _ _ _ _ _ _ _)

theorem Laws.RoundTrip.vbcast (g : BitVec 4) (d : BitVec 6) (s : BitVec 6) (ty : BitVec 4) (k : BitVec 4) : Statement (.vbcast g d s ty k) :=
  roundTrip_slot rfl rfl (takeV2_fields _ _ _ _ _ _ _ _)

theorem Laws.RoundTrip.vget (g : BitVec 4) (d : BitVec 6) (s : BitVec 6) (t : BitVec 6) (ty : BitVec 4) : Statement (.vget g d s t ty) :=
  roundTrip_slot rfl rfl (takeVxg_fields _ _ _ _ _ _ _ _)

theorem Laws.RoundTrip.vset (g : BitVec 4) (d : BitVec 6) (s : BitVec 6) (t : BitVec 6) (ty : BitVec 4) (k : BitVec 4) : Statement (.vset g d s t ty k) :=
  roundTrip_slot rfl rfl (takeV3_fields _ _ _ _ _ _ _ _ _)

theorem Laws.RoundTrip.mand (g : BitVec 4) (d : BitVec 4) (s : BitVec 4) (t : BitVec 4) : Statement (.mand g d s t) :=
  roundTrip_slot rfl rfl (takePl_fields _ _ _ _ _ _ _)

theorem Laws.RoundTrip.mor (g : BitVec 4) (d : BitVec 4) (s : BitVec 4) (t : BitVec 4) : Statement (.mor g d s t) :=
  roundTrip_slot rfl rfl (takePl_fields _ _ _ _ _ _ _)

theorem Laws.RoundTrip.mxor (g : BitVec 4) (d : BitVec 4) (s : BitVec 4) (t : BitVec 4) : Statement (.mxor g d s t) :=
  roundTrip_slot rfl rfl (takePl_fields _ _ _ _ _ _ _)

theorem Laws.RoundTrip.mandn (g : BitVec 4) (d : BitVec 4) (s : BitVec 4) (t : BitVec 4) : Statement (.mandn g d s t) :=
  roundTrip_slot rfl rfl (takePl_fields _ _ _ _ _ _ _)

theorem Laws.RoundTrip.vcvt (g : BitVec 4) (d : BitVec 6) (s : BitVec 6) (dst : BitVec 4) (src : BitVec 4) (k : BitVec 4) : Statement (.vcvt g d s dst src k) :=
  roundTrip_slot rfl rfl (takeVcv_fields _ _ _ _ _ _ _ _ _)

theorem Laws.RoundTrip.vqnt (g : BitVec 4) (d : BitVec 6) (s : BitVec 6) (t : BitVec 6) (ty : BitVec 4) (k : BitVec 4) : Statement (.vqnt g d s t ty k) :=
  roundTrip_slot rfl rfl (takeV3_fields _ _ _ _ _ _ _ _ _)

theorem Laws.RoundTrip.vdqnt (g : BitVec 4) (d : BitVec 6) (s : BitVec 6) (t : BitVec 6) (ty : BitVec 4) (k : BitVec 4) : Statement (.vdqnt g d s t ty k) :=
  roundTrip_slot rfl rfl (takeV3_fields _ _ _ _ _ _ _ _ _)

theorem Laws.RoundTrip.vbamax (g : BitVec 4) (d : BitVec 6) (s : BitVec 6) (t : BitVec 6) (ty : BitVec 4) (k : BitVec 4) : Statement (.vbamax g d s t ty k) :=
  roundTrip_slot rfl rfl (takeV3_fields _ _ _ _ _ _ _ _ _)

theorem Laws.RoundTrip.vrsum (g : BitVec 4) (d : BitVec 6) (s : BitVec 6) (ty : BitVec 4) (k : BitVec 4) : Statement (.vrsum g d s ty k) :=
  roundTrip_slot rfl rfl (takeV2_fields _ _ _ _ _ _ _ _)

theorem Laws.RoundTrip.vrmax (g : BitVec 4) (d : BitVec 6) (s : BitVec 6) (ty : BitVec 4) (k : BitVec 4) : Statement (.vrmax g d s ty k) :=
  roundTrip_slot rfl rfl (takeV2_fields _ _ _ _ _ _ _ _)

theorem Laws.RoundTrip.vrmin (g : BitVec 4) (d : BitVec 6) (s : BitVec 6) (ty : BitVec 4) (k : BitVec 4) : Statement (.vrmin g d s ty k) :=
  roundTrip_slot rfl rfl (takeV2_fields _ _ _ _ _ _ _ _)

theorem Laws.RoundTrip.vscan (g : BitVec 4) (d : BitVec 6) (s : BitVec 6) (ty : BitVec 4) (k : BitVec 4) : Statement (.vscan g d s ty k) :=
  roundTrip_slot rfl rfl (takeV2_fields _ _ _ _ _ _ _ _)

theorem Laws.RoundTrip.vperm (g : BitVec 4) (d : BitVec 6) (s : BitVec 6) (t : BitVec 6) (ty : BitVec 4) (k : BitVec 4) : Statement (.vperm g d s t ty k) :=
  roundTrip_slot rfl rfl (takeV3_fields _ _ _ _ _ _ _ _ _)

theorem Laws.RoundTrip.vrot (g : BitVec 4) (d : BitVec 6) (s : BitVec 6) (t : BitVec 6) (ty : BitVec 4) (k : BitVec 4) : Statement (.vrot g d s t ty k) :=
  roundTrip_slot rfl rfl (takeV3_fields _ _ _ _ _ _ _ _ _)

theorem Laws.RoundTrip.vexp2 (g : BitVec 4) (d : BitVec 6) (s : BitVec 6) (ty : BitVec 4) (k : BitVec 4) : Statement (.vexp2 g d s ty k) :=
  roundTrip_slot rfl rfl (takeV2_fields _ _ _ _ _ _ _ _)

theorem Laws.RoundTrip.vlog2 (g : BitVec 4) (d : BitVec 6) (s : BitVec 6) (ty : BitVec 4) (k : BitVec 4) : Statement (.vlog2 g d s ty k) :=
  roundTrip_slot rfl rfl (takeV2_fields _ _ _ _ _ _ _ _)

theorem Laws.RoundTrip.vrcp (g : BitVec 4) (d : BitVec 6) (s : BitVec 6) (ty : BitVec 4) (k : BitVec 4) : Statement (.vrcp g d s ty k) :=
  roundTrip_slot rfl rfl (takeV2_fields _ _ _ _ _ _ _ _)

theorem Laws.RoundTrip.vrsqrt (g : BitVec 4) (d : BitVec 6) (s : BitVec 6) (ty : BitVec 4) (k : BitVec 4) : Statement (.vrsqrt g d s ty k) :=
  roundTrip_slot rfl rfl (takeV2_fields _ _ _ _ _ _ _ _)

theorem Laws.RoundTrip.vsqrt (g : BitVec 4) (d : BitVec 6) (s : BitVec 6) (ty : BitVec 4) (k : BitVec 4) : Statement (.vsqrt g d s ty k) :=
  roundTrip_slot rfl rfl (takeV2_fields _ _ _ _ _ _ _ _)

theorem Laws.RoundTrip.vtanh (g : BitVec 4) (d : BitVec 6) (s : BitVec 6) (ty : BitVec 4) (k : BitVec 4) : Statement (.vtanh g d s ty k) :=
  roundTrip_slot rfl rfl (takeV2_fields _ _ _ _ _ _ _ _)

theorem Laws.RoundTrip.mcall (g : BitVec 4) (d : BitVec 6) (p : BitVec 6) (q : BitVec 6) (r : BitVec 8) : Statement (.mcall g d p q r) :=
  roundTrip_slot rfl rfl rfl

theorem Laws.RoundTrip.mwait (g : BitVec 4) (s : BitVec 6) : Statement (.mwait g s) :=
  roundTrip_slot rfl rfl rfl

theorem Laws.RoundTrip.mstat (g : BitVec 4) (d : BitVec 6) (s : BitVec 6) : Statement (.mstat g d s) :=
  roundTrip_slot rfl rfl rfl

theorem Laws.RoundTrip.mpset (g : BitVec 4) (n : BitVec 3) (s : BitVec 6) : Statement (.mpset g n s) :=
  roundTrip_slot rfl rfl (takeMps_fields _ _ _ _ _ _)

theorem Laws.RoundTrip.mpget (g : BitVec 4) (d : BitVec 6) (n : BitVec 3) : Statement (.mpget g d n) :=
  roundTrip_slot rfl rfl (takeMpg_fields _ _ _ _ _ _)

theorem Laws.RoundTrip.mucw (g : BitVec 4) (i : BitVec 6) (v : BitVec 6) : Statement (.mucw g i v) :=
  roundTrip_slot rfl rfl rfl

theorem Laws.RoundTrip.mucwT (g : BitVec 4) (i : BitVec 6) (v : BitVec 6) : Statement (.mucwT g i v) :=
  roundTrip_slot rfl rfl rfl

theorem Laws.RoundTrip.mav (g : BitVec 4) (d : BitVec 6) (tile : BitVec 6) (r : BitVec 6) : Statement (.mav g d tile r) :=
  roundTrip_slot rfl rfl rfl

theorem Laws.RoundTrip.mva (g : BitVec 4) (tile : BitVec 6) (s : BitVec 6) (r : BitVec 6) : Statement (.mva g tile s r) :=
  roundTrip_slot rfl rfl rfl

theorem Laws.RoundTrip.ldN (g : BitVec 4) (r : BitVec 6) (a : BitVec 6) (cls : BitVec 4) (sz : BitVec 2) (off : BitVec 8) : Statement (.ldN g r a cls sz off) :=
  roundTrip_slot rfl rfl (takeMs_fields _ _ _ _ _ _ _ _ _)

theorem Laws.RoundTrip.ldI (g : BitVec 4) (r : BitVec 6) (a : BitVec 6) (cls : BitVec 4) (sz : BitVec 2) (off : BitVec 8) : Statement (.ldI g r a cls sz off) :=
  roundTrip_slot rfl rfl (takeMs_fields _ _ _ _ _ _ _ _ _)

theorem Laws.RoundTrip.st (g : BitVec 4) (r : BitVec 6) (a : BitVec 6) (cls : BitVec 4) (sz : BitVec 2) (off : BitVec 8) : Statement (.st g r a cls sz off) :=
  roundTrip_slot rfl rfl (takeMs_fields _ _ _ _ _ _ _ _ _)

theorem Laws.RoundTrip.ldnN (g : BitVec 4) (r : BitVec 6) (a : BitVec 6) (cls : BitVec 4) (sz : BitVec 2) (off : BitVec 8) : Statement (.ldnN g r a cls sz off) :=
  roundTrip_slot rfl rfl (takeMs_fields _ _ _ _ _ _ _ _ _)

theorem Laws.RoundTrip.ldnI (g : BitVec 4) (r : BitVec 6) (a : BitVec 6) (cls : BitVec 4) (sz : BitVec 2) (off : BitVec 8) : Statement (.ldnI g r a cls sz off) :=
  roundTrip_slot rfl rfl (takeMs_fields _ _ _ _ _ _ _ _ _)

theorem Laws.RoundTrip.stn (g : BitVec 4) (r : BitVec 6) (a : BitVec 6) (cls : BitVec 4) (sz : BitVec 2) (off : BitVec 8) : Statement (.stn g r a cls sz off) :=
  roundTrip_slot rfl rfl (takeMs_fields _ _ _ _ _ _ _ _ _)

theorem Laws.RoundTrip.vld (g : BitVec 4) (v : BitVec 6) (a : BitVec 6) (cls : BitVec 4) (off : BitVec 4) (k : BitVec 4) : Statement (.vld g v a cls off k) :=
  roundTrip_slot rfl rfl (takeMv_fields _ _ _ _ _ _ _ _ _)

theorem Laws.RoundTrip.vst (g : BitVec 4) (v : BitVec 6) (a : BitVec 6) (cls : BitVec 4) (off : BitVec 4) (k : BitVec 4) : Statement (.vst g v a cls off k) :=
  roundTrip_slot rfl rfl (takeMv_fields _ _ _ _ _ _ _ _ _)

theorem Laws.RoundTrip.vldn (g : BitVec 4) (v : BitVec 6) (a : BitVec 6) (cls : BitVec 4) (off : BitVec 4) (k : BitVec 4) : Statement (.vldn g v a cls off k) :=
  roundTrip_slot rfl rfl (takeMv_fields _ _ _ _ _ _ _ _ _)

theorem Laws.RoundTrip.vstn (g : BitVec 4) (v : BitVec 6) (a : BitVec 6) (cls : BitVec 4) (off : BitVec 4) (k : BitVec 4) : Statement (.vstn g v a cls off k) :=
  roundTrip_slot rfl rfl (takeMv_fields _ _ _ _ _ _ _ _ _)

theorem Laws.RoundTrip.vlds (g : BitVec 4) (v : BitVec 6) (a : BitVec 6) (x : BitVec 6) (cls : BitVec 4) (k : BitVec 4) : Statement (.vlds g v a x cls k) :=
  roundTrip_slot rfl rfl (takeMx_fields _ _ _ _ _ _ _ _ _)

theorem Laws.RoundTrip.vsts (g : BitVec 4) (v : BitVec 6) (a : BitVec 6) (x : BitVec 6) (cls : BitVec 4) (k : BitVec 4) : Statement (.vsts g v a x cls k) :=
  roundTrip_slot rfl rfl (takeMx_fields _ _ _ _ _ _ _ _ _)

theorem Laws.RoundTrip.vgth (g : BitVec 4) (v : BitVec 6) (a : BitVec 6) (x : BitVec 6) (cls : BitVec 4) (k : BitVec 4) : Statement (.vgth g v a x cls k) :=
  roundTrip_slot rfl rfl (takeMx_fields _ _ _ _ _ _ _ _ _)

theorem Laws.RoundTrip.vsct (g : BitVec 4) (v : BitVec 6) (a : BitVec 6) (x : BitVec 6) (cls : BitVec 4) (k : BitVec 4) : Statement (.vsct g v a x cls k) :=
  roundTrip_slot rfl rfl (takeMx_fields _ _ _ _ _ _ _ _ _)

theorem Laws.RoundTrip.vgthn (g : BitVec 4) (v : BitVec 6) (a : BitVec 6) (x : BitVec 6) (cls : BitVec 4) (k : BitVec 4) : Statement (.vgthn g v a x cls k) :=
  roundTrip_slot rfl rfl (takeMx_fields _ _ _ _ _ _ _ _ _)

theorem Laws.RoundTrip.vsctn (g : BitVec 4) (v : BitVec 6) (a : BitVec 6) (x : BitVec 6) (cls : BitVec 4) (k : BitVec 4) : Statement (.vsctn g v a x cls k) :=
  roundTrip_slot rfl rfl (takeMx_fields _ _ _ _ _ _ _ _ _)

theorem Laws.RoundTrip.vldx (g : BitVec 4) (v : BitVec 6) (a : BitVec 6) (x : BitVec 3) (cls : BitVec 4) (k : BitVec 4) : Statement (.vldx g v a x cls k) :=
  roundTrip_slot rfl rfl (takeMxx_fields _ _ _ _ _ _ _ _ _)

theorem Laws.RoundTrip.aaddI32 (g : BitVec 4) (d : BitVec 6) (a : BitVec 6) (t : BitVec 6) (cls : BitVec 4) (near : Bool) : Statement (.aaddI32 g d a t cls near) :=
  roundTrip_slot rfl rfl (takeMa_fields _ _ _ _ _ _ _ _ _)

theorem Laws.RoundTrip.aaddI64 (g : BitVec 4) (d : BitVec 6) (a : BitVec 6) (t : BitVec 6) (cls : BitVec 4) (near : Bool) : Statement (.aaddI64 g d a t cls near) :=
  roundTrip_slot rfl rfl (takeMa_fields _ _ _ _ _ _ _ _ _)

theorem Laws.RoundTrip.aaddF32 (g : BitVec 4) (d : BitVec 6) (a : BitVec 6) (t : BitVec 6) (cls : BitVec 4) (near : Bool) : Statement (.aaddF32 g d a t cls near) :=
  roundTrip_slot rfl rfl (takeMa_fields _ _ _ _ _ _ _ _ _)

theorem Laws.RoundTrip.amaxI32 (g : BitVec 4) (d : BitVec 6) (a : BitVec 6) (t : BitVec 6) (cls : BitVec 4) (near : Bool) : Statement (.amaxI32 g d a t cls near) :=
  roundTrip_slot rfl rfl (takeMa_fields _ _ _ _ _ _ _ _ _)

theorem Laws.RoundTrip.amaxF32 (g : BitVec 4) (d : BitVec 6) (a : BitVec 6) (t : BitVec 6) (cls : BitVec 4) (near : Bool) : Statement (.amaxF32 g d a t cls near) :=
  roundTrip_slot rfl rfl (takeMa_fields _ _ _ _ _ _ _ _ _)

theorem Laws.RoundTrip.acas (g : BitVec 4) (d : BitVec 6) (a : BitVec 6) (t : BitVec 6) (cls : BitVec 4) (near : Bool) : Statement (.acas g d a t cls near) :=
  roundTrip_slot rfl rfl (takeMa_fields _ _ _ _ _ _ _ _ _)

theorem Laws.RoundTrip.amaxrrI32 (g : BitVec 4) (d : BitVec 6) (a : BitVec 6) (t : BitVec 6) (cls : BitVec 4) (near : Bool) : Statement (.amaxrrI32 g d a t cls near) :=
  roundTrip_slot rfl rfl (takeMa_fields _ _ _ _ _ _ _ _ _)

theorem Laws.RoundTrip.amaxrrF32 (g : BitVec 4) (d : BitVec 6) (a : BitVec 6) (t : BitVec 6) (cls : BitVec 4) (near : Bool) : Statement (.amaxrrF32 g d a t cls near) :=
  roundTrip_slot rfl rfl (takeMa_fields _ _ _ _ _ _ _ _ _)

theorem Laws.RoundTrip.fence (g : BitVec 4) (scope : BitVec 2) (wb : Bool) (inv : Bool) (mask : BitVec 16) : Statement (.fence g scope wb inv mask) :=
  roundTrip_slot rfl rfl (takeFn_fields _ _ _ _ _ _ _ _)

theorem Laws.RoundTrip.cpy (g : BitVec 4) (h : BitVec 6) (x : BitVec 6) (y : BitVec 6) (cls : BitVec 4) (ring : BitVec 4) : Statement (.cpy g h x y cls ring) :=
  roundTrip_slot rfl rfl (takeMx_fields _ _ _ _ _ _ _ _ _)

theorem Laws.RoundTrip.cpyf (g : BitVec 4) (h : BitVec 6) (x : BitVec 6) (y : BitVec 6) (cls : BitVec 4) (ring : BitVec 4) : Statement (.cpyf g h x y cls ring) :=
  roundTrip_slot rfl rfl (takeMx_fields _ _ _ _ _ _ _ _ _)

theorem Laws.RoundTrip.rwait (g : BitVec 4) (d : BitVec 6) (n : BitVec 5) : Statement (.rwait g d n) :=
  roundTrip_slot rfl rfl (takeRgw_fields _ _ _ _ _ _)

theorem Laws.RoundTrip.rrel (g : BitVec 4) (n : BitVec 5) : Statement (.rrel g n) :=
  roundTrip_slot rfl rfl (takeRgr_fields _ _ _ _ _)

theorem Laws.RoundTrip.rpub (g : BitVec 4) (n : BitVec 5) (s : BitVec 6) : Statement (.rpub g n s) :=
  roundTrip_slot rfl rfl (takeRgp_fields _ _ _ _ _ _)

theorem Laws.RoundTrip.chsend (g : BitVec 4) (c : BitVec 6) (x : BitVec 6) (cls : BitVec 4) : Statement (.chsend g c x cls) :=
  roundTrip_slot rfl rfl (takeAcs_fields _ _ _ _ _ _ _)

theorem Laws.RoundTrip.chrecv (g : BitVec 4) (d : BitVec 6) (c : BitVec 6) : Statement (.chrecv g d c) :=
  roundTrip_slot rfl rfl rfl

theorem Laws.RoundTrip.waita (g : BitVec 4) (d : BitVec 6) (a : BitVec 6) (v : BitVec 6) (cls : BitVec 4) (glob : Bool) (cc : BitVec 2) : Statement (.waita g d a v cls glob cc) :=
  roundTrip_slot rfl rfl (takeAw_fields _ _ _ _ _ _ _ _ _ _)

theorem Laws.RoundTrip.bankcfg (g : BitVec 4) (s : BitVec 6) : Statement (.bankcfg g s) :=
  roundTrip_slot rfl rfl rfl

theorem Laws.RoundTrip.gstep (g : BitVec 4) (n : BitVec 3) : Statement (.gstep g n) :=
  roundTrip_slot rfl rfl (takeGs_fields _ _ _ _ _)

theorem Laws.RoundTrip.bcast (g : BitVec 4) (b : BitVec 6) (a : BitVec 6) : Statement (.bcast g b a) :=
  roundTrip_slot rfl rfl rfl

theorem Laws.RoundTrip.latch (g : BitVec 4) (b : BitVec 6) (a : BitVec 6) : Statement (.latch g b a) :=
  roundTrip_slot rfl rfl rfl

theorem Laws.RoundTrip.deadl (g : BitVec 4) (s : BitVec 6) : Statement (.deadl g s) :=
  roundTrip_slot rfl rfl rfl

theorem Laws.RoundTrip.deadlF (g : BitVec 4) (s : BitVec 6) : Statement (.deadlF g s) :=
  roundTrip_slot rfl rfl rfl

theorem Laws.RoundTrip.deadlXp (g : BitVec 4) (s : BitVec 6) (j : BitVec 3) : Statement (.deadlXp g s j) :=
  roundTrip_slot rfl rfl (by
    show takeDeadl _ = _
    have h : ∀ j : BitVec 3, 0#4 ++ 1#1 ++ j ≠ 0#8 ∧ 0#4 ++ 1#1 ++ j ≠ 1#8 := by decide
    show (if _ = 0#8 then _ else if _ = 1#8 then _ else _) = _
    rw [if_neg (h j).1, if_neg (h j).2]
    unfold takeAdx
    rw [if_pos (by and_intros <;> (first
      | (simp only [BitVec.getLsbD_append]; simp; done)
      | (apply BitVec.eq_of_getLsbD_eq; intro i hi; interval_cases i <;> (simp only [BitVec.getLsbD_append, BitVec.getLsbD_extractLsb'] <;> try simp))))]
    congr <;> (first
      | (simp only [BitVec.getLsbD_append]; simp; done)
      | (apply BitVec.eq_of_getLsbD_eq; intro i hi; interval_cases i <;> (simp only [BitVec.getLsbD_append, BitVec.getLsbD_extractLsb'] <;> try simp))))

theorem Laws.RoundTrip.uopMma (ha : BitVec 2) (hb : BitVec 2) (f1 : BitVec 4) (f2 : BitVec 4) (t : BitVec 6) (tr : BitVec 4) (keepB : Bool) : Statement (.uopMma ha hb f1 f2 t tr keepB) :=
  roundTrip_uop rfl rfl rfl (by
    refine (if_pos ?_).trans ?_
    · and_intros <;> (first
      | (simp only [BitVec.getLsbD_append]; simp; done)
      | (apply BitVec.eq_of_getLsbD_eq; intro i hi; interval_cases i <;> (simp only [BitVec.getLsbD_append, BitVec.getLsbD_extractLsb'] <;> try simp)))
    · congr <;> (first
      | (simp only [BitVec.getLsbD_append]; simp; done)
      | (apply BitVec.eq_of_getLsbD_eq; intro i hi; interval_cases i <;> (simp only [BitVec.getLsbD_append, BitVec.getLsbD_extractLsb'] <;> try simp))))

theorem Laws.RoundTrip.uopLdb (hb : BitVec 2) (f2 : BitVec 4) : Statement (.uopLdb hb f2) :=
  roundTrip_uop rfl rfl rfl rfl

theorem Laws.RoundTrip.uopZacc (t : BitVec 6) (tr : BitVec 4) : Statement (.uopZacc t tr) :=
  roundTrip_uop rfl rfl rfl rfl

theorem Laws.RoundTrip.uopStacc (ha : BitVec 2) (f1 : BitVec 4) (t : BitVec 6) (tr : BitVec 4) (z : Bool) : Statement (.uopStacc ha f1 t tr z) :=
  roundTrip_uop rfl rfl rfl (by
    refine (if_pos ?_).trans ?_
    · and_intros <;> (first
      | (simp only [BitVec.getLsbD_append]; simp; done)
      | (apply BitVec.eq_of_getLsbD_eq; intro i hi; interval_cases i <;> (simp only [BitVec.getLsbD_append, BitVec.getLsbD_extractLsb'] <;> try simp)))
    · congr <;> (first
      | (simp only [BitVec.getLsbD_append]; simp; done)
      | (apply BitVec.eq_of_getLsbD_eq; intro i hi; interval_cases i <;> (simp only [BitVec.getLsbD_append, BitVec.getLsbD_extractLsb'] <;> try simp))))

theorem Laws.RoundTrip.uopScale (f1 : BitVec 4) (imm : BitVec 32) : Statement (.uopScale f1 imm) :=
  roundTrip_uop rfl rfl rfl rfl

theorem Laws.RoundTrip.uopSetc (f1 : BitVec 4) (f2 : BitVec 4) (j : BitVec 2) (v : BitVec 16) : Statement (.uopSetc f1 f2 j v) :=
  roundTrip_uop rfl rfl rfl (by
    refine (if_pos ?_).trans ?_
    · and_intros <;> (first
      | (simp only [BitVec.getLsbD_append]; simp; done)
      | (apply BitVec.eq_of_getLsbD_eq; intro i hi; interval_cases i <;> (simp only [BitVec.getLsbD_append, BitVec.getLsbD_extractLsb'] <;> try simp)))
    · congr <;> (first
      | (simp only [BitVec.getLsbD_append]; simp; done)
      | (apply BitVec.eq_of_getLsbD_eq; intro i hi; interval_cases i <;> (simp only [BitVec.getLsbD_append, BitVec.getLsbD_extractLsb'] <;> try simp))))

theorem Laws.RoundTrip.uopAddc (f1 : BitVec 4) (f2 : BitVec 4) (f3 : BitVec 4) : Statement (.uopAddc f1 f2 f3) :=
  roundTrip_uop rfl rfl rfl rfl

theorem Laws.RoundTrip.uopAddci (f1 : BitVec 4) (j : BitVec 2) (v : BitVec 16) : Statement (.uopAddci f1 j v) :=
  roundTrip_uop rfl rfl rfl (by
    refine (if_pos ?_).trans ?_
    · and_intros <;> (first
      | (simp only [BitVec.getLsbD_append]; simp; done)
      | (apply BitVec.eq_of_getLsbD_eq; intro i hi; interval_cases i <;> (simp only [BitVec.getLsbD_append, BitVec.getLsbD_extractLsb'] <;> try simp)))
    · congr <;> (first
      | (simp only [BitVec.getLsbD_append]; simp; done)
      | (apply BitVec.eq_of_getLsbD_eq; intro i hi; interval_cases i <;> (simp only [BitVec.getLsbD_append, BitVec.getLsbD_extractLsb'] <;> try simp))))

theorem Laws.RoundTrip.uopLoop (n : BitVec 2) (f2 : BitVec 4) (r : Bool) (count : BitVec 12) (target : BitVec 12) : Statement (.uopLoop n f2 r count target) :=
  roundTrip_uop rfl rfl rfl (by
    refine (if_pos ?_).trans ?_
    · and_intros <;> (first
      | (simp only [BitVec.getLsbD_append]; simp; done)
      | (apply BitVec.eq_of_getLsbD_eq; intro i hi; interval_cases i <;> (simp only [BitVec.getLsbD_append, BitVec.getLsbD_extractLsb'] <;> try simp)))
    · congr <;> (first
      | (simp only [BitVec.getLsbD_append]; simp; done)
      | (apply BitVec.eq_of_getLsbD_eq; intro i hi; interval_cases i <;> (simp only [BitVec.getLsbD_append, BitVec.getLsbD_extractLsb'] <;> try simp))))

theorem Laws.RoundTrip.uopWtile (f1 : BitVec 4) (ring : BitVec 5) : Statement (.uopWtile f1 ring) :=
  roundTrip_uop rfl rfl rfl (by
    refine (if_pos ?_).trans ?_
    · and_intros <;> (first
      | (simp only [BitVec.getLsbD_append]; simp; done)
      | (apply BitVec.eq_of_getLsbD_eq; intro i hi; interval_cases i <;> (simp only [BitVec.getLsbD_append, BitVec.getLsbD_extractLsb'] <;> try simp)))
    · congr <;> (first
      | (simp only [BitVec.getLsbD_append]; simp; done)
      | (apply BitVec.eq_of_getLsbD_eq; intro i hi; interval_cases i <;> (simp only [BitVec.getLsbD_append, BitVec.getLsbD_extractLsb'] <;> try simp))))

theorem Laws.RoundTrip.uopWflag (f1 : BitVec 4) (f2 : BitVec 4) (cc : BitVec 2) : Statement (.uopWflag f1 f2 cc) :=
  roundTrip_uop rfl rfl rfl (by
    refine (if_pos ?_).trans ?_
    · and_intros <;> (first
      | (simp only [BitVec.getLsbD_append]; simp; done)
      | (apply BitVec.eq_of_getLsbD_eq; intro i hi; interval_cases i <;> (simp only [BitVec.getLsbD_append, BitVec.getLsbD_extractLsb'] <;> try simp)))
    · congr <;> (first
      | (simp only [BitVec.getLsbD_append]; simp; done)
      | (apply BitVec.eq_of_getLsbD_eq; intro i hi; interval_cases i <;> (simp only [BitVec.getLsbD_append, BitVec.getLsbD_extractLsb'] <;> try simp))))

theorem Laws.RoundTrip.uopSignal (f1 : BitVec 4) (f2 : BitVec 4) (kind : Bool) (ring : BitVec 5) : Statement (.uopSignal f1 f2 kind ring) :=
  roundTrip_uop rfl rfl rfl (by
    refine (if_pos ?_).trans ?_
    · and_intros <;> (first
      | (simp only [BitVec.getLsbD_append]; simp; done)
      | (apply BitVec.eq_of_getLsbD_eq; intro i hi; interval_cases i <;> (simp only [BitVec.getLsbD_append, BitVec.getLsbD_extractLsb'] <;> try simp)))
    · congr <;> (first
      | (simp only [BitVec.getLsbD_append]; simp; done)
      | (apply BitVec.eq_of_getLsbD_eq; intro i hi; interval_cases i <;> (simp only [BitVec.getLsbD_append, BitVec.getLsbD_extractLsb'] <;> try simp))))

theorem Laws.RoundTrip.virgaAdd (d : BitVec 5) (s : BitVec 5) (t : BitVec 5) : Statement (.virgaAdd d s t) :=
  roundTrip_virga rfl rfl

theorem Laws.RoundTrip.virgaSub (d : BitVec 5) (s : BitVec 5) (t : BitVec 5) : Statement (.virgaSub d s t) :=
  roundTrip_virga rfl rfl

theorem Laws.RoundTrip.virgaMul (d : BitVec 5) (s : BitVec 5) (t : BitVec 5) : Statement (.virgaMul d s t) :=
  roundTrip_virga rfl rfl

theorem Laws.RoundTrip.virgaAnd (d : BitVec 5) (s : BitVec 5) (t : BitVec 5) : Statement (.virgaAnd d s t) :=
  roundTrip_virga rfl rfl

theorem Laws.RoundTrip.virgaOr (d : BitVec 5) (s : BitVec 5) (t : BitVec 5) : Statement (.virgaOr d s t) :=
  roundTrip_virga rfl rfl

theorem Laws.RoundTrip.virgaXor (d : BitVec 5) (s : BitVec 5) (t : BitVec 5) : Statement (.virgaXor d s t) :=
  roundTrip_virga rfl rfl

theorem Laws.RoundTrip.virgaShl (d : BitVec 5) (s : BitVec 5) (t : BitVec 5) : Statement (.virgaShl d s t) :=
  roundTrip_virga rfl rfl

theorem Laws.RoundTrip.virgaShr (d : BitVec 5) (s : BitVec 5) (t : BitVec 5) : Statement (.virgaShr d s t) :=
  roundTrip_virga rfl rfl

theorem Laws.RoundTrip.virgaSra (d : BitVec 5) (s : BitVec 5) (t : BitVec 5) : Statement (.virgaSra d s t) :=
  roundTrip_virga rfl rfl

theorem Laws.RoundTrip.virgaSlt (d : BitVec 5) (s : BitVec 5) (t : BitVec 5) : Statement (.virgaSlt d s t) :=
  roundTrip_virga rfl rfl

theorem Laws.RoundTrip.virgaSltu (d : BitVec 5) (s : BitVec 5) (t : BitVec 5) : Statement (.virgaSltu d s t) :=
  roundTrip_virga rfl rfl

theorem Laws.RoundTrip.virgaAddi (d : BitVec 5) (s : BitVec 5) (i : BitVec 16) : Statement (.virgaAddi d s i) :=
  roundTrip_virga rfl (by
    show Except.ok _ = _
    congr <;> (first
      | (simp only [BitVec.getLsbD_append]; simp; done)
      | (apply BitVec.eq_of_getLsbD_eq; intro i hi; interval_cases i <;> (simp only [BitVec.getLsbD_append, BitVec.getLsbD_extractLsb'] <;> try simp))))

theorem Laws.RoundTrip.virgaAndi (d : BitVec 5) (s : BitVec 5) (i : BitVec 16) : Statement (.virgaAndi d s i) :=
  roundTrip_virga rfl (by
    show Except.ok _ = _
    congr <;> (first
      | (simp only [BitVec.getLsbD_append]; simp; done)
      | (apply BitVec.eq_of_getLsbD_eq; intro i hi; interval_cases i <;> (simp only [BitVec.getLsbD_append, BitVec.getLsbD_extractLsb'] <;> try simp))))

theorem Laws.RoundTrip.virgaOri (d : BitVec 5) (s : BitVec 5) (i : BitVec 16) : Statement (.virgaOri d s i) :=
  roundTrip_virga rfl (by
    show Except.ok _ = _
    congr <;> (first
      | (simp only [BitVec.getLsbD_append]; simp; done)
      | (apply BitVec.eq_of_getLsbD_eq; intro i hi; interval_cases i <;> (simp only [BitVec.getLsbD_append, BitVec.getLsbD_extractLsb'] <;> try simp))))

theorem Laws.RoundTrip.virgaXori (d : BitVec 5) (s : BitVec 5) (i : BitVec 16) : Statement (.virgaXori d s i) :=
  roundTrip_virga rfl (by
    show Except.ok _ = _
    congr <;> (first
      | (simp only [BitVec.getLsbD_append]; simp; done)
      | (apply BitVec.eq_of_getLsbD_eq; intro i hi; interval_cases i <;> (simp only [BitVec.getLsbD_append, BitVec.getLsbD_extractLsb'] <;> try simp))))

theorem Laws.RoundTrip.virgaShli (d : BitVec 5) (s : BitVec 5) (i : BitVec 6) : Statement (.virgaShli d s i) :=
  roundTrip_virga rfl (by
    refine (if_pos ?_).trans ?_
    · and_intros <;> (first
      | (simp only [BitVec.getLsbD_append]; simp; done)
      | (apply BitVec.eq_of_getLsbD_eq; intro i hi; interval_cases i <;> (simp only [BitVec.getLsbD_append, BitVec.getLsbD_extractLsb'] <;> try simp)))
    · congr <;> (first
      | (simp only [BitVec.getLsbD_append]; simp; done)
      | (apply BitVec.eq_of_getLsbD_eq; intro i hi; interval_cases i <;> (simp only [BitVec.getLsbD_append, BitVec.getLsbD_extractLsb'] <;> try simp))))

theorem Laws.RoundTrip.virgaShri (d : BitVec 5) (s : BitVec 5) (i : BitVec 6) : Statement (.virgaShri d s i) :=
  roundTrip_virga rfl (by
    refine (if_pos ?_).trans ?_
    · and_intros <;> (first
      | (simp only [BitVec.getLsbD_append]; simp; done)
      | (apply BitVec.eq_of_getLsbD_eq; intro i hi; interval_cases i <;> (simp only [BitVec.getLsbD_append, BitVec.getLsbD_extractLsb'] <;> try simp)))
    · congr <;> (first
      | (simp only [BitVec.getLsbD_append]; simp; done)
      | (apply BitVec.eq_of_getLsbD_eq; intro i hi; interval_cases i <;> (simp only [BitVec.getLsbD_append, BitVec.getLsbD_extractLsb'] <;> try simp))))

theorem Laws.RoundTrip.virgaSrai (d : BitVec 5) (s : BitVec 5) (i : BitVec 6) : Statement (.virgaSrai d s i) :=
  roundTrip_virga rfl (by
    refine (if_pos ?_).trans ?_
    · and_intros <;> (first
      | (simp only [BitVec.getLsbD_append]; simp; done)
      | (apply BitVec.eq_of_getLsbD_eq; intro i hi; interval_cases i <;> (simp only [BitVec.getLsbD_append, BitVec.getLsbD_extractLsb'] <;> try simp)))
    · congr <;> (first
      | (simp only [BitVec.getLsbD_append]; simp; done)
      | (apply BitVec.eq_of_getLsbD_eq; intro i hi; interval_cases i <;> (simp only [BitVec.getLsbD_append, BitVec.getLsbD_extractLsb'] <;> try simp))))

theorem Laws.RoundTrip.virgaSlti (d : BitVec 5) (s : BitVec 5) (i : BitVec 16) : Statement (.virgaSlti d s i) :=
  roundTrip_virga rfl (by
    show Except.ok _ = _
    congr <;> (first
      | (simp only [BitVec.getLsbD_append]; simp; done)
      | (apply BitVec.eq_of_getLsbD_eq; intro i hi; interval_cases i <;> (simp only [BitVec.getLsbD_append, BitVec.getLsbD_extractLsb'] <;> try simp))))

theorem Laws.RoundTrip.virgaLis (d : BitVec 5) (i : BitVec 16) : Statement (.virgaLis d i) :=
  roundTrip_virga rfl (by
    show Except.ok _ = _
    congr <;> (first
      | (simp only [BitVec.getLsbD_append]; simp; done)
      | (apply BitVec.eq_of_getLsbD_eq; intro i hi; interval_cases i <;> (simp only [BitVec.getLsbD_append, BitVec.getLsbD_extractLsb'] <;> try simp))))

theorem Laws.RoundTrip.virgaLd (d : BitVec 5) (s : BitVec 5) (i : BitVec 16) : Statement (.virgaLd d s i) :=
  roundTrip_virga rfl (by
    show Except.ok _ = _
    congr <;> (first
      | (simp only [BitVec.getLsbD_append]; simp; done)
      | (apply BitVec.eq_of_getLsbD_eq; intro i hi; interval_cases i <;> (simp only [BitVec.getLsbD_append, BitVec.getLsbD_extractLsb'] <;> try simp))))

theorem Laws.RoundTrip.virgaLw (d : BitVec 5) (s : BitVec 5) (i : BitVec 16) : Statement (.virgaLw d s i) :=
  roundTrip_virga rfl (by
    show Except.ok _ = _
    congr <;> (first
      | (simp only [BitVec.getLsbD_append]; simp; done)
      | (apply BitVec.eq_of_getLsbD_eq; intro i hi; interval_cases i <;> (simp only [BitVec.getLsbD_append, BitVec.getLsbD_extractLsb'] <;> try simp))))

theorem Laws.RoundTrip.virgaSt (d : BitVec 5) (s : BitVec 5) (i : BitVec 16) : Statement (.virgaSt d s i) :=
  roundTrip_virga rfl (by
    show Except.ok _ = _
    congr <;> (first
      | (simp only [BitVec.getLsbD_append]; simp; done)
      | (apply BitVec.eq_of_getLsbD_eq; intro i hi; interval_cases i <;> (simp only [BitVec.getLsbD_append, BitVec.getLsbD_extractLsb'] <;> try simp))))

theorem Laws.RoundTrip.virgaSw (d : BitVec 5) (s : BitVec 5) (i : BitVec 16) : Statement (.virgaSw d s i) :=
  roundTrip_virga rfl (by
    show Except.ok _ = _
    congr <;> (first
      | (simp only [BitVec.getLsbD_append]; simp; done)
      | (apply BitVec.eq_of_getLsbD_eq; intro i hi; interval_cases i <;> (simp only [BitVec.getLsbD_append, BitVec.getLsbD_extractLsb'] <;> try simp))))

theorem Laws.RoundTrip.virgaBeq (s : BitVec 5) (t : BitVec 5) (o : BitVec 16) : Statement (.virgaBeq s t o) :=
  roundTrip_virga rfl (by
    show Except.ok _ = _
    congr <;> (first
      | (simp only [BitVec.getLsbD_append]; simp; done)
      | (apply BitVec.eq_of_getLsbD_eq; intro i hi; interval_cases i <;> (simp only [BitVec.getLsbD_append, BitVec.getLsbD_extractLsb'] <;> try simp))))

theorem Laws.RoundTrip.virgaBne (s : BitVec 5) (t : BitVec 5) (o : BitVec 16) : Statement (.virgaBne s t o) :=
  roundTrip_virga rfl (by
    show Except.ok _ = _
    congr <;> (first
      | (simp only [BitVec.getLsbD_append]; simp; done)
      | (apply BitVec.eq_of_getLsbD_eq; intro i hi; interval_cases i <;> (simp only [BitVec.getLsbD_append, BitVec.getLsbD_extractLsb'] <;> try simp))))

theorem Laws.RoundTrip.virgaBlt (s : BitVec 5) (t : BitVec 5) (o : BitVec 16) : Statement (.virgaBlt s t o) :=
  roundTrip_virga rfl (by
    show Except.ok _ = _
    congr <;> (first
      | (simp only [BitVec.getLsbD_append]; simp; done)
      | (apply BitVec.eq_of_getLsbD_eq; intro i hi; interval_cases i <;> (simp only [BitVec.getLsbD_append, BitVec.getLsbD_extractLsb'] <;> try simp))))

theorem Laws.RoundTrip.virgaBge (s : BitVec 5) (t : BitVec 5) (o : BitVec 16) : Statement (.virgaBge s t o) :=
  roundTrip_virga rfl (by
    show Except.ok _ = _
    congr <;> (first
      | (simp only [BitVec.getLsbD_append]; simp; done)
      | (apply BitVec.eq_of_getLsbD_eq; intro i hi; interval_cases i <;> (simp only [BitVec.getLsbD_append, BitVec.getLsbD_extractLsb'] <;> try simp))))

theorem Laws.RoundTrip.virgaBltu (s : BitVec 5) (t : BitVec 5) (o : BitVec 16) : Statement (.virgaBltu s t o) :=
  roundTrip_virga rfl (by
    show Except.ok _ = _
    congr <;> (first
      | (simp only [BitVec.getLsbD_append]; simp; done)
      | (apply BitVec.eq_of_getLsbD_eq; intro i hi; interval_cases i <;> (simp only [BitVec.getLsbD_append, BitVec.getLsbD_extractLsb'] <;> try simp))))

theorem Laws.RoundTrip.virgaBgeu (s : BitVec 5) (t : BitVec 5) (o : BitVec 16) : Statement (.virgaBgeu s t o) :=
  roundTrip_virga rfl (by
    show Except.ok _ = _
    congr <;> (first
      | (simp only [BitVec.getLsbD_append]; simp; done)
      | (apply BitVec.eq_of_getLsbD_eq; intro i hi; interval_cases i <;> (simp only [BitVec.getLsbD_append, BitVec.getLsbD_extractLsb'] <;> try simp))))

theorem Laws.RoundTrip.virgaJ (o : BitVec 26) : Statement (.virgaJ o) :=
  roundTrip_virga rfl (by
    show Except.ok _ = _
    congr <;> (first
      | (simp only [BitVec.getLsbD_append]; simp; done)
      | (apply BitVec.eq_of_getLsbD_eq; intro i hi; interval_cases i <;> (simp only [BitVec.getLsbD_append, BitVec.getLsbD_extractLsb'] <;> try simp))))

theorem Laws.RoundTrip.virgaJal (o : BitVec 26) : Statement (.virgaJal o) :=
  roundTrip_virga rfl (by
    show Except.ok _ = _
    congr <;> (first
      | (simp only [BitVec.getLsbD_append]; simp; done)
      | (apply BitVec.eq_of_getLsbD_eq; intro i hi; interval_cases i <;> (simp only [BitVec.getLsbD_append, BitVec.getLsbD_extractLsb'] <;> try simp))))

theorem Laws.RoundTrip.virgaJr (s : BitVec 5) : Statement (.virgaJr s) :=
  roundTrip_virga rfl rfl

theorem Laws.RoundTrip.virgaMfv (d : BitVec 5) (n : BitVec 12) : Statement (.virgaMfv d n) :=
  roundTrip_virga rfl (by
    refine (if_pos ?_).trans ?_
    · and_intros <;> (first
      | (simp only [BitVec.getLsbD_append]; simp; done)
      | (apply BitVec.eq_of_getLsbD_eq; intro i hi; interval_cases i <;> (simp only [BitVec.getLsbD_append, BitVec.getLsbD_extractLsb'] <;> try simp)))
    · congr <;> (first
      | (simp only [BitVec.getLsbD_append]; simp; done)
      | (apply BitVec.eq_of_getLsbD_eq; intro i hi; interval_cases i <;> (simp only [BitVec.getLsbD_append, BitVec.getLsbD_extractLsb'] <;> try simp))))

theorem Laws.RoundTrip.virgaMtv (s : BitVec 5) (n : BitVec 12) : Statement (.virgaMtv s n) :=
  roundTrip_virga rfl (by
    refine (if_pos ?_).trans ?_
    · and_intros <;> (first
      | (simp only [BitVec.getLsbD_append]; simp; done)
      | (apply BitVec.eq_of_getLsbD_eq; intro i hi; interval_cases i <;> (simp only [BitVec.getLsbD_append, BitVec.getLsbD_extractLsb'] <;> try simp)))
    · congr <;> (first
      | (simp only [BitVec.getLsbD_append]; simp; done)
      | (apply BitVec.eq_of_getLsbD_eq; intro i hi; interval_cases i <;> (simp only [BitVec.getLsbD_append, BitVec.getLsbD_extractLsb'] <;> try simp))))

theorem Laws.RoundTrip.virgaEvtake (d : BitVec 5) (w : Bool) : Statement (.virgaEvtake d w) :=
  roundTrip_virga rfl (by
    refine (if_pos ?_).trans ?_
    · and_intros <;> (first
      | (simp only [BitVec.getLsbD_append]; simp; done)
      | (apply BitVec.eq_of_getLsbD_eq; intro i hi; interval_cases i <;> (simp only [BitVec.getLsbD_append, BitVec.getLsbD_extractLsb'] <;> try simp)))
    · congr <;> (first
      | (simp only [BitVec.getLsbD_append]; simp; done)
      | (apply BitVec.eq_of_getLsbD_eq; intro i hi; interval_cases i <;> (simp only [BitVec.getLsbD_append, BitVec.getLsbD_extractLsb'] <;> try simp))))

theorem Laws.RoundTrip.virgaTmset (p : BitVec 5) (n : BitVec 5) (t : BitVec 5) : Statement (.virgaTmset p n t) :=
  roundTrip_virga rfl rfl

theorem Laws.RoundTrip.virgaPdcrd (d : BitVec 5) (s : BitVec 5) : Statement (.virgaPdcrd d s) :=
  roundTrip_virga rfl rfl

theorem Laws.RoundTrip.virgaPdcwr (s : BitVec 5) (t : BitVec 5) (f : BitVec 3) : Statement (.virgaPdcwr s t f) :=
  roundTrip_virga rfl (by
    refine (if_pos ?_).trans ?_
    · and_intros <;> (first
      | (simp only [BitVec.getLsbD_append]; simp; done)
      | (apply BitVec.eq_of_getLsbD_eq; intro i hi; interval_cases i <;> (simp only [BitVec.getLsbD_append, BitVec.getLsbD_extractLsb'] <;> try simp)))
    · congr <;> (first
      | (simp only [BitVec.getLsbD_append]; simp; done)
      | (apply BitVec.eq_of_getLsbD_eq; intro i hi; interval_cases i <;> (simp only [BitVec.getLsbD_append, BitVec.getLsbD_extractLsb'] <;> try simp))))

theorem Laws.RoundTrip.virgaPdcfail (d : BitVec 5) (s : BitVec 5) : Statement (.virgaPdcfail d s) :=
  roundTrip_virga rfl rfl

theorem Laws.RoundTrip.virgaRetx (c : BitVec 5) (s : BitVec 5) (t : BitVec 5) : Statement (.virgaRetx c s t) :=
  roundTrip_virga rfl rfl

theorem Laws.RoundTrip.virgaRetxm (m : BitVec 5) (s : BitVec 5) (t : BitVec 5) : Statement (.virgaRetxm m s t) :=
  roundTrip_virga rfl rfl

theorem Laws.RoundTrip.virgaLosnext (d : BitVec 5) (s : BitVec 5) (r : Bool) : Statement (.virgaLosnext d s r) :=
  roundTrip_virga rfl (by
    refine (if_pos ?_).trans ?_
    · and_intros <;> (first
      | (simp only [BitVec.getLsbD_append]; simp; done)
      | (apply BitVec.eq_of_getLsbD_eq; intro i hi; interval_cases i <;> (simp only [BitVec.getLsbD_append, BitVec.getLsbD_extractLsb'] <;> try simp)))
    · congr <;> (first
      | (simp only [BitVec.getLsbD_append]; simp; done)
      | (apply BitVec.eq_of_getLsbD_eq; intro i hi; interval_cases i <;> (simp only [BitVec.getLsbD_append, BitVec.getLsbD_extractLsb'] <;> try simp))))

theorem Laws.RoundTrip.virgaPsrd (d : BitVec 5) (s : BitVec 5) (t : BitVec 5) : Statement (.virgaPsrd d s t) :=
  roundTrip_virga rfl rfl

theorem Laws.RoundTrip.virgaPsdis (s : BitVec 5) (t : BitVec 5) : Statement (.virgaPsdis s t) :=
  roundTrip_virga rfl rfl

theorem Laws.RoundTrip.virgaPscnt (d : BitVec 5) (s : BitVec 5) : Statement (.virgaPscnt d s) :=
  roundTrip_virga rfl rfl

theorem Laws.RoundTrip.virgaRcbrd (d : BitVec 5) (s : BitVec 5) : Statement (.virgaRcbrd d s) :=
  roundTrip_virga rfl rfl

theorem Laws.RoundTrip.virgaBmrd (d : BitVec 5) (s : BitVec 5) (t : BitVec 5) : Statement (.virgaBmrd d s t) :=
  roundTrip_virga rfl rfl

theorem Laws.RoundTrip.virgaWinrd (d : BitVec 5) (s : BitVec 5) : Statement (.virgaWinrd d s) :=
  roundTrip_virga rfl rfl

theorem Laws.RoundTrip.virgaPeerrd (d : BitVec 5) (s : BitVec 5) : Statement (.virgaPeerrd d s) :=
  roundTrip_virga rfl rfl

theorem Laws.RoundTrip.virgaEprd (d : BitVec 5) (s : BitVec 5) : Statement (.virgaEprd d s) :=
  roundTrip_virga rfl rfl

theorem Laws.RoundTrip.virgaHev (s : BitVec 5) (t : BitVec 5) : Statement (.virgaHev s t) :=
  roundTrip_virga rfl rfl

theorem Laws.RoundTrip.perstAssert : Statement .perstAssert :=
  roundTrip_none rfl

theorem Laws.RoundTrip.startupPhase1 : Statement .startupPhase1 :=
  roundTrip_none rfl

theorem Laws.RoundTrip.startupPhase2 : Statement .startupPhase2 :=
  roundTrip_none rfl

theorem Laws.RoundTrip.startupPhase3 : Statement .startupPhase3 :=
  roundTrip_none rfl

theorem Laws.RoundTrip.startupPhase4 : Statement .startupPhase4 :=
  roundTrip_none rfl

theorem Laws.RoundTrip.startupPhase5 : Statement .startupPhase5 :=
  roundTrip_none rfl

theorem Laws.RoundTrip.configRequest : Statement .configRequest :=
  roundTrip_none rfl

theorem Laws.RoundTrip.sidebandFirmwareWrite : Statement .sidebandFirmwareWrite :=
  roundTrip_none rfl

theorem Laws.RoundTrip.thermtrip : Statement .thermtrip :=
  roundTrip_none rfl

theorem Laws.RoundTrip.throttleStep : Statement .throttleStep :=
  roundTrip_none rfl

theorem Laws.RoundTrip.cxlLinkDown : Statement .cxlLinkDown :=
  roundTrip_none rfl

theorem Laws.RoundTrip.cxlResetComplete : Statement .cxlResetComplete :=
  roundTrip_none rfl

theorem Laws.RoundTrip.lossOfLight : Statement .lossOfLight :=
  roundTrip_none rfl

theorem Laws.RoundTrip.linkRetrained : Statement .linkRetrained :=
  roundTrip_none rfl

theorem Laws.RoundTrip.ptpExchangeComplete : Statement .ptpExchangeComplete :=
  roundTrip_none rfl

theorem Laws.RoundTrip.pauseFrameReceived : Statement .pauseFrameReceived :=
  roundTrip_none rfl

theorem Laws.RoundTrip.rmaWriteStreamArrival : Statement .rmaWriteStreamArrival :=
  roundTrip_none rfl

theorem Laws.RoundTrip.taggedSendArrival : Statement .taggedSendArrival :=
  roundTrip_none rfl

theorem Laws.RoundTrip.productionQueueDrain : Statement .productionQueueDrain :=
  roundTrip_none rfl

theorem Laws.RoundTrip.remoteReadArrival : Statement .remoteReadArrival :=
  roundTrip_none rfl

theorem Laws.RoundTrip.remoteWriteArrival : Statement .remoteWriteArrival :=
  roundTrip_none rfl

theorem Laws.RoundTrip.remoteAtomicArrival : Statement .remoteAtomicArrival :=
  roundTrip_none rfl

theorem Laws.RoundTrip.ackReceived : Statement .ackReceived :=
  roundTrip_none rfl

theorem Laws.RoundTrip.nackReceived : Statement .nackReceived :=
  roundTrip_none rfl

theorem Laws.RoundTrip.pdcCloseAckReceived : Statement .pdcCloseAckReceived :=
  roundTrip_none rfl

theorem Laws.RoundTrip.ackCoalesceTimeout : Statement .ackCoalesceTimeout :=
  roundTrip_none rfl

theorem Laws.RoundTrip.rtoExpiry : Statement .rtoExpiry :=
  roundTrip_none rfl

theorem Laws.RoundTrip.parkedBackoffExpiry : Statement .parkedBackoffExpiry :=
  roundTrip_none rfl

theorem Laws.RoundTrip.ccsigTimer : Statement .ccsigTimer :=
  roundTrip_none rfl

theorem Laws.RoundTrip.packetTransmit : Statement .packetTransmit :=
  roundTrip_none rfl

theorem Laws.RoundTrip.retxSend : Statement .retxSend :=
  roundTrip_none rfl

theorem Laws.RoundTrip.pdcIdleTimeout : Statement .pdcIdleTimeout :=
  roundTrip_none rfl

theorem Laws.RoundTrip.pdcCloseTimeout : Statement .pdcCloseTimeout :=
  roundTrip_none rfl

theorem Laws.RoundTrip.keyEpochSwitch : Statement .keyEpochSwitch :=
  roundTrip_none rfl

theorem Laws.RoundTrip.keyEpochGraceEnd : Statement .keyEpochGraceEnd :=
  roundTrip_none rfl

theorem Laws.RoundTrip.rcbReopenDelayEnd : Statement .rcbReopenDelayEnd :=
  roundTrip_none rfl

theorem Laws.RoundTrip.windowRevokeComplete : Statement .windowRevokeComplete :=
  roundTrip_none rfl

theorem Laws.RoundTrip.registerWrite : Statement .registerWrite :=
  roundTrip_none rfl

theorem Laws.RoundTrip.gctlFeat : Statement .gctlFeat :=
  roundTrip_none rfl

theorem Laws.RoundTrip.gctlEn : Statement .gctlEn :=
  roundTrip_none rfl

theorem Laws.RoundTrip.gctlEven : Statement .gctlEven :=
  roundTrip_none rfl

theorem Laws.RoundTrip.evconsWrite : Statement .evconsWrite :=
  roundTrip_none rfl

theorem Laws.RoundTrip.sempoke : Statement .sempoke :=
  roundTrip_none rfl

theorem Laws.RoundTrip.qnotify : Statement .qnotify :=
  roundTrip_none rfl

theorem Laws.RoundTrip.qcfgEnable : Statement .qcfgEnable :=
  roundTrip_none rfl

theorem Laws.RoundTrip.qcfgDisable : Statement .qcfgDisable :=
  roundTrip_none rfl

theorem Laws.RoundTrip.qcfgResume : Statement .qcfgResume :=
  roundTrip_none rfl

theorem Laws.RoundTrip.commandFetch : Statement .commandFetch :=
  roundTrip_none rfl

theorem Laws.RoundTrip.stampRefetch : Statement .stampRefetch :=
  roundTrip_none rfl

theorem Laws.RoundTrip.bar2Access : Statement .bar2Access :=
  roundTrip_none rfl

theorem Laws.RoundTrip.spdmGetVersion : Statement .spdmGetVersion :=
  roundTrip_none rfl

theorem Laws.RoundTrip.spdmGetCapabilities : Statement .spdmGetCapabilities :=
  roundTrip_none rfl

theorem Laws.RoundTrip.spdmNegotiateAlgorithms : Statement .spdmNegotiateAlgorithms :=
  roundTrip_none rfl

theorem Laws.RoundTrip.spdmGetDigests : Statement .spdmGetDigests :=
  roundTrip_none rfl

theorem Laws.RoundTrip.spdmGetCertificate : Statement .spdmGetCertificate :=
  roundTrip_none rfl

theorem Laws.RoundTrip.spdmChallenge : Statement .spdmChallenge :=
  roundTrip_none rfl

theorem Laws.RoundTrip.spdmGetMeasurements : Statement .spdmGetMeasurements :=
  roundTrip_none rfl

theorem Laws.RoundTrip.launch : Statement .launch :=
  roundTrip_none rfl

theorem Laws.RoundTrip.hcopy : Statement .hcopy :=
  roundTrip_none rfl

theorem Laws.RoundTrip.signal : Statement .signal :=
  roundTrip_none rfl

theorem Laws.RoundTrip.waitsem : Statement .waitsem :=
  roundTrip_none rfl

theorem Laws.RoundTrip.waitsemReevaluate : Statement .waitsemReevaluate :=
  roundTrip_none rfl

theorem Laws.RoundTrip.waitsemTimeout : Statement .waitsemTimeout :=
  roundTrip_none rfl

theorem Laws.RoundTrip.ctxnew : Statement .ctxnew :=
  roundTrip_none rfl

theorem Laws.RoundTrip.ctxkill : Statement .ctxkill :=
  roundTrip_none rfl

theorem Laws.RoundTrip.ctxkillStageDrained : Statement .ctxkillStageDrained :=
  roundTrip_none rfl

theorem Laws.RoundTrip.ctxRemoveStuck : Statement .ctxRemoveStuck :=
  roundTrip_none rfl

theorem Laws.RoundTrip.ctxpreemptYield : Statement .ctxpreemptYield :=
  roundTrip_none rfl

theorem Laws.RoundTrip.ctxpreemptScan : Statement .ctxpreemptScan :=
  roundTrip_none rfl

theorem Laws.RoundTrip.graceWindowEnd : Statement .graceWindowEnd :=
  roundTrip_none rfl

theorem Laws.RoundTrip.saveComplete : Statement .saveComplete :=
  roundTrip_none rfl

theorem Laws.RoundTrip.saveTimeout : Statement .saveTimeout :=
  roundTrip_none rfl

theorem Laws.RoundTrip.imgrestore : Statement .imgrestore :=
  roundTrip_none rfl

theorem Laws.RoundTrip.restoreComplete : Statement .restoreComplete :=
  roundTrip_none rfl

theorem Laws.RoundTrip.mapsetInvalidate : Statement .mapsetInvalidate :=
  roundTrip_none rfl

theorem Laws.RoundTrip.mapsetReplaceRoot : Statement .mapsetReplaceRoot :=
  roundTrip_none rfl

theorem Laws.RoundTrip.rcbsetOpen : Statement .rcbsetOpen :=
  roundTrip_none rfl

theorem Laws.RoundTrip.rcbsetClose : Statement .rcbsetClose :=
  roundTrip_none rfl

theorem Laws.RoundTrip.rcbsetExport : Statement .rcbsetExport :=
  roundTrip_none rfl

theorem Laws.RoundTrip.rcbsetImport : Statement .rcbsetImport :=
  roundTrip_none rfl

theorem Laws.RoundTrip.peersetEntry : Statement .peersetEntry :=
  roundTrip_none rfl

theorem Laws.RoundTrip.peersetMcastList : Statement .peersetMcastList :=
  roundTrip_none rfl

theorem Laws.RoundTrip.peersetNextKey : Statement .peersetNextKey :=
  roundTrip_none rfl

theorem Laws.RoundTrip.peersetCloseFailed : Statement .peersetCloseFailed :=
  roundTrip_none rfl

theorem Laws.RoundTrip.peersetRepoint : Statement .peersetRepoint :=
  roundTrip_none rfl

theorem Laws.RoundTrip.pathset : Statement .pathset :=
  roundTrip_none rfl

theorem Laws.RoundTrip.winset : Statement .winset :=
  roundTrip_none rfl

theorem Laws.RoundTrip.winrevoke : Statement .winrevoke :=
  roundTrip_none rfl

theorem Laws.RoundTrip.featurePowerLimit : Statement .featurePowerLimit :=
  roundTrip_none rfl

theorem Laws.RoundTrip.featurePtpPort : Statement .featurePtpPort :=
  roundTrip_none rfl

theorem Laws.RoundTrip.featureUdpPort : Statement .featureUdpPort :=
  roundTrip_none rfl

theorem Laws.RoundTrip.featureWatchdog : Statement .featureWatchdog :=
  roundTrip_none rfl

theorem Laws.RoundTrip.featureCxlReset : Statement .featureCxlReset :=
  roundTrip_none rfl

theorem Laws.RoundTrip.featureRemapReload : Statement .featureRemapReload :=
  roundTrip_none rfl

theorem Laws.RoundTrip.cntset : Statement .cntset :=
  roundTrip_none rfl

theorem Laws.RoundTrip.fwload : Statement .fwload :=
  roundTrip_none rfl

theorem Laws.RoundTrip.counterWrap : Statement .counterWrap :=
  roundTrip_none rfl

theorem Laws.RoundTrip.ctxHang : Statement .ctxHang :=
  roundTrip_none rfl

theorem Laws.RoundTrip.teamPlace : Statement .teamPlace :=
  roundTrip_none rfl

theorem Laws.RoundTrip.swapTest : Statement .swapTest :=
  roundTrip_none rfl

theorem Laws.RoundTrip.swapComplete : Statement .swapComplete :=
  roundTrip_none rfl

theorem Laws.RoundTrip.waitMonitorPoll : Statement .waitMonitorPoll :=
  roundTrip_none rfl

theorem Laws.RoundTrip.gstepComplete : Statement .gstepComplete :=
  roundTrip_none rfl

theorem Laws.RoundTrip.broadcastBeat : Statement .broadcastBeat :=
  roundTrip_none rfl

theorem Laws.RoundTrip.latchComplete : Statement .latchComplete :=
  roundTrip_none rfl

theorem Laws.RoundTrip.wcsLineDrainTimeout : Statement .wcsLineDrainTimeout :=
  roundTrip_none rfl

theorem Laws.RoundTrip.copyStart : Statement .copyStart :=
  roundTrip_none rfl

theorem Laws.RoundTrip.copyComplete : Statement .copyComplete :=
  roundTrip_none rfl

theorem Laws.RoundTrip.matrixCommandStart : Statement .matrixCommandStart :=
  roundTrip_none rfl

theorem Laws.RoundTrip.stalledGroupCommit : Statement .stalledGroupCommit :=
  roundTrip_none rfl

theorem Laws.RoundTrip.deferredTrap : Statement .deferredTrap :=
  roundTrip_none rfl

theorem Laws.RoundTrip.eccUncorrectable : Statement .eccUncorrectable :=
  roundTrip_none rfl

theorem Laws.RoundTrip.eccCorrected : Statement .eccCorrected :=
  roundTrip_none rfl

theorem Laws.RoundTrip.parityError : Statement .parityError :=
  roundTrip_none rfl

theorem Laws.RoundTrip.remapTableUe : Statement .remapTableUe :=
  roundTrip_none rfl

theorem Laws.RoundTrip.virgaTimerExpiry : Statement .virgaTimerExpiry :=
  roundTrip_none rfl

theorem Laws.RoundTrip.gtstepWrite : Statement .gtstepWrite :=
  roundTrip_none rfl

theorem Laws.RoundTrip.gtrateWrite : Statement .gtrateWrite :=
  roundTrip_none rfl

theorem Laws.RoundTrip.uopRet : Statement .uopRet :=
  roundTrip_uop rfl rfl rfl rfl

theorem Laws.RoundTrip.uopMnop : Statement .uopMnop :=
  roundTrip_uop rfl rfl rfl rfl

theorem Laws.RoundTrip.virgaNop : Statement .virgaNop :=
  roundTrip_virga rfl rfl

theorem Laws.RoundTrip.virgaVret : Statement .virgaVret :=
  roundTrip_virga rfl rfl

theorem Laws.RoundTrip.accessResponseReturn : Statement .accessResponseReturn :=
  roundTrip_none rfl

theorem Laws.RoundTrip.hcopyComplete : Statement .hcopyComplete :=
  roundTrip_none rfl

theorem Laws.RoundTrip.pdcCloseRequestReceived : Statement .pdcCloseRequestReceived :=
  roundTrip_none rfl

theorem Laws.RoundTrip.contextKeyTransfer : Statement .contextKeyTransfer :=
  roundTrip_none rfl

theorem Laws.RoundTrip.unassignedOpcode : Statement .unassignedOpcode :=
  roundTrip_none rfl

theorem Laws.RoundTrip.virgaUnassignedOpcode : Statement .virgaUnassignedOpcode :=
  roundTrip_none rfl

end Sys2Proof
end

