-- ==== Sys2Proof/Tests/Slice0.lean ====
section
/-!
SUPPORT. Sys2Proof/Tests/Slice0.lean: terms that the well-formedness checks refuse, words decoded as the manual encodes them, and
for every claim states and operands that meet its hypotheses, with results worked out from the manual.
-/
namespace Sys2Proof.Tests

open Sys2Proof Sys2Proof.Machine

set_option Elab.async false

/-! ### Well-formedness and decoding -/

/-- One ill-formed term for each check of scalar and control fields (R275, R278, R283, R295, R297, R301). -/
theorem test_wf_refuses_scalar_fields :
    (Instr.cmp 0 6 0 1 2).wf = false ∧ (Instr.cmpi 0 7 0 1 2).wf = false ∧ (Instr.cmpq 0 6 1 2).wf = false
    ∧ (Instr.fcmp 0 7 0 1 2).wf = false ∧ (Instr.fcmpq 0 7 1 2).wf = false
    ∧ (Instr.fcvt 0 1 2 6 0).wf = false ∧ (Instr.fcvt 0 1 2 0 6).wf = false ∧ (Instr.fcvt 0 1 2 3 3).wf = false
    ∧ (Instr.sext 0 1 2 0).wf = false ∧ (Instr.sext 0 1 2 65).wf = false
    ∧ (Instr.zext 0 1 2 0).wf = false ∧ (Instr.zext 0 1 2 65).wf = false ∧ (Instr.zext 0 1 2 64).wf = true
    ∧ (Instr.mfsr 0 1 0x00A).wf = false ∧ (Instr.mfsr 0 1 0x026).wf = false ∧ (Instr.mfsr 0 1 0x02A).wf = false
    ∧ (Instr.mtsr 0 1 0x00F).wf = false ∧ (Instr.mtsr 0 1 0x027).wf = false ∧ (Instr.mfsr 0 1 0x029).wf = true := by
  decide

/-- One ill-formed term for each check of vector types and conditions (R275, R318, R325, R329). -/
theorem test_wf_refuses_vector_fields :
    (Instr.vadd 0 1 2 3 8 0).wf = false ∧ (Instr.vsub 0 1 2 3 8 0).wf = false ∧ (Instr.vmul 0 1 2 3 9 0).wf = false
    ∧ (Instr.vdiv 0 1 2 3 4 0).wf = false ∧ (Instr.vmin 0 1 2 3 8 0).wf = false ∧ (Instr.vmax 0 1 2 3 8 0).wf = false
    ∧ (Instr.vaddS 0 1 2 3 1 0).wf = false ∧ (Instr.vsubS 0 1 2 3 8 0).wf = false ∧ (Instr.vshl 0 1 2 3 0 0).wf = false
    ∧ (Instr.vshr 0 1 2 3 1 0).wf = false ∧ (Instr.vand 0 1 2 3 12 0).wf = false ∧ (Instr.vor 0 1 2 3 12 0).wf = false
    ∧ (Instr.vxor 0 1 2 3 12 0).wf = false ∧ (Instr.vabs 0 1 2 3 0).wf = false ∧ (Instr.vneg 0 1 2 5 0).wf = false
    ∧ (Instr.vmov 0 1 2 12 0).wf = false ∧ (Instr.vsel 0 1 2 3 12 0).wf = false ∧ (Instr.vbcast 0 1 2 12 0).wf = false
    ∧ (Instr.vget 0 1 2 3 12).wf = false ∧ (Instr.vset 0 1 2 3 12 0).wf = false ∧ (Instr.vperm 0 1 2 3 12 0).wf = false
    ∧ (Instr.vrot 0 1 2 3 12 0).wf = false ∧ (Instr.vcmp 0 0 0 1 2 1 0).wf = false ∧ (Instr.vcmp 0 7 0 1 2 0 0).wf = false
    ∧ (Instr.vcmpq 0 6 1 2 2 0).wf = false ∧ (Instr.vcmpq 0 6 1 2 0 0).wf = true
    ∧ (Instr.vcvt 0 1 2 12 0 0).wf = false ∧ (Instr.vcvt 0 1 2 3 3 0).wf = false ∧ (Instr.vcvt 0 1 2 2 11 0).wf = false
    ∧ (Instr.vcvt 0 1 2 11 5 0).wf = false ∧ (Instr.vqnt 0 1 2 3 7 0).wf = false ∧ (Instr.vdqnt 0 1 2 3 11 0).wf = false
    ∧ (Instr.vbamax 0 1 2 3 2 0).wf = false ∧ (Instr.vrsum 0 1 2 4 0).wf = false ∧ (Instr.vrmax 0 1 2 8 0).wf = false
    ∧ (Instr.vrmin 0 1 2 8 0).wf = false ∧ (Instr.vscan 0 1 2 1 0).wf = false ∧ (Instr.vexp2 0 1 2 2 0).wf = false
    ∧ (Instr.vlog2 0 1 2 2 0).wf = false ∧ (Instr.vrcp 0 1 2 2 0).wf = false ∧ (Instr.vrsqrt 0 1 2 2 0).wf = false
    ∧ (Instr.vsqrt 0 1 2 2 0).wf = false ∧ (Instr.vtanh 0 1 2 2 0).wf = false := by
  decide

/-- One ill-formed term for each check of asynchronous, micro-operation and Virga fields (R354, R358, R385, R387, R389, R395, R396,
R409). -/
theorem test_wf_refuses_other_fields :
    (Instr.cpyf 0 1 2 3 0 0).wf = false ∧ (Instr.cpyf 0 1 2 4 0 0).wf = true ∧ (Instr.waita 0 1 2 3 0 true 3).wf = false
    ∧ (Instr.uopMma 0 1 0 0 0 0 true).wf = false ∧ (Instr.uopMma 0 0 0 1 0 0 true).wf = false
    ∧ (Instr.uopLoop 0 1 false 0 0).wf = false ∧ (Instr.uopWflag 0 0 3).wf = false ∧ (Instr.uopSignal 0 0 false 1).wf = false
    ∧ (Instr.virgaMfv 1 0x009).wf = false ∧ (Instr.virgaMtv 1 0x014).wf = false ∧ (Instr.virgaEvtake 2 false).wf = false
    ∧ (Instr.virgaPdcrd 6 1).wf = false ∧ (Instr.virgaWinrd 1 1).wf = false ∧ (Instr.virgaLosnext 3 1 false).wf = false
    ∧ (Instr.virgaRcbrd 4 1).wf = false ∧ (Instr.virgaPeerrd 12 1).wf = false ∧ (Instr.virgaPdcwr 1 2 5).wf = false := by
  decide

/-- The words of the worked example of R304, and FENCE, CPY and DEADL written out from R338 and R339. -/
theorem test_decode_sikan_words :
    (decodeSikan 0x900430C4 0).toOption = some (.add 0 3 3 4) ∧ (decodeSikan 0x90604101 0).toOption = some (.addi 0 4 4 1)
    ∧ (decodeSikan 0x90000000 0).toOption = some (.nop 0) ∧ (decodeSikan 0xA018FFFB 0xFF).toOption = some (.loop 0 0 0xFFFFFB)
    ∧ (decodeSikan 0x907C500F 0).toOption = some (.li 0 5 15) ∧ (decodeSikan 0x909000C5 0).toOption = some (.cmpq 0 0 3 5)
    ∧ (decodeSikan 0xA0080002 0).toOption = some (.brq 0 2) ∧ (decodeSikan 0xA0280000 0).toOption = some (.halt 0)
    ∧ (decodeSikan 0xE0642042 0).toOption = some (.fence 0 2 false false 0x0006) ∧ (decodeSikan 0xF0314000 0).toOption = some (.deadl 0 20)
    ∧ (decodeSikan 0xF000A2CC 0x12).toOption = some (.cpy 0 10 11 12 1 2) := by
  decide

/-- Words of class 2 to 7 written out bit by bit from R291, R316, R338, R339 and R370. -/
theorem test_decode_written_fields :
    -- SYSCALL 5: class 2, opcode 0x0D
    (decodeSikan 0b10100000001101000000000000000101#32 0).toOption = some (.syscall 0 5)
    -- @p3 VAND.i32 v1, v2, v3 under m1, type code 2
    ∧ (decodeSikan 0b10110011000000000001000010000011#32 0x21).toOption = some (.vadd 3 1 2 3 2 1)
    -- STN.n64 s1, s2, 8 : class 6, opcode 0x05, size code 3, L = 1
    ∧ (decodeSikan 0b11100000000101000001000010000011#32 1).toOption = some (.stn 0 1 2 0 3 1)
    -- RREL 7: class 7, opcode 0x03
    ∧ (decodeSikan 0b11110000000011000000000111000000#32 0).toOption = some (.rrel 0 7)
    -- MWAIT s9: class 5, opcode 0x01
    ∧ (decodeSikan 0b11010000000001000000001001000000#32 0).toOption = some (.mwait 0 9) := by
  decide

/-- The words of the Virga listing (R417): EVTAKE g4, 1; ANDI g8, g4, 0xFF; RETX g11, g9, g10; and MFV of a number that is none. -/
theorem test_decode_virga_words :
    (decodeVirga 0x94800001).toOption = some (.virgaEvtake 4 true) ∧ (decodeVirga 0x350400FF).toOption = some (.virgaAndi 8 4 0xFF)
    ∧ (decodeVirga 0xA9695000).toOption = some (.virgaRetx 11 9 10) ∧ (decodeVirga 0).toOption = some .virgaNop
    ∧ (decodeVirga 0x00000001).toOption = none ∧ (decodeVirga 0xD8000000).toOption = none := by
  decide

/-! ### States to test on -/

/-- The state after an outcome that goes on. -/
def after (o : Host.Outcome State Fault Refusal) : State :=
  match o with
  | .next t => t
  | _ => State.reset

/-- Cell 0 of team 0 of context 1, running in user mode, with s2 = -1, s3 = 2, s4 = 2^63 and s5 = 0x40490FDB. -/
def cell0 : Cell :=
  { Cell.empty with
    live := true
    ctx := 1
    s := [(2, 0xFFFFFFFFFFFFFFFF), (3, 2), (4, 0x8000000000000000), (5, 0x3FC00000)] }

/-- A package past start-up whose slot 0 holds a cell about to issue the group at 0x100. -/
def withCell (c : Cell) : State :=
  { State.reset with
    cells := [(0, c)]
    teams := [(65536, { teamEmpty with run := .placed, seats := [0] })]
    ctxs := [(1, { ctxEmpty with live := true })]
    pkg := { Package.reset with phase := 6 }
    iss := ⟨0, 0x100, 0x100, 0x104, 0x900430C4, 0, none, 0, 0⟩ }

/-- Cell 0 as it stands. -/
def state0 : State := withCell cell0

/-- Cell 0 after an instruction. -/
def cellAfter (i : Instr) (s : State) : Cell := getCell (after (exec i s)) 0

/-- A scalar after an instruction, where it may issue. -/
def sAfter (i : Instr) (s : State) (r : BitVec 6) : Option (BitVec 64) :=
  if ready i s then some (rdS (cellAfter i s) r) else none

/-- Does an instruction, which may issue, leave the whole state as it is? -/
def stays (i : Instr) (s : State) : Bool :=
  ready i s && match exec i s with
    | .next t => decide (t = s)
    | _ => false

/-! ### Class 1 -/

/-- IntegerFormResults: register forms, by hand from R292. -/
theorem test_integer_register_forms :
    sAfter (.add 0 1 2 3) state0 1 = some 1 ∧ sAfter (.sub 0 1 3 2) state0 1 = some 3
    ∧ sAfter (.mul 0 1 2 3) state0 1 = some 0xFFFFFFFFFFFFFFFE ∧ sAfter (.mulhI64 0 1 2 3) state0 1 = some 0xFFFFFFFFFFFFFFFF
    ∧ sAfter (.mulhN64 0 1 2 3) state0 1 = some 1 ∧ sAfter (.divI64 0 1 4 3) state0 1 = some 0xC000000000000000
    ∧ sAfter (.divN64 0 1 4 0) state0 1 = some 0xFFFFFFFFFFFFFFFF ∧ sAfter (.divI64 0 1 4 0) state0 1 = some 0x8000000000000000
    ∧ sAfter (.remI64 0 1 2 3) state0 1 = some 0xFFFFFFFFFFFFFFFF ∧ sAfter (.remN64 0 1 2 3) state0 1 = some 1
    ∧ sAfter (.and 0 1 2 4) state0 1 = some 0x8000000000000000 ∧ sAfter (.or 0 1 3 4) state0 1 = some 0x8000000000000002
    ∧ sAfter (.xor 0 1 2 3) state0 1 = some 0xFFFFFFFFFFFFFFFD ∧ sAfter (.shl 0 1 3 2) state0 1 = some 0
    ∧ sAfter (.shrI64 0 1 4 3) state0 1 = some 0xE000000000000000 ∧ sAfter (.shrN64 0 1 4 3) state0 1 = some 0x2000000000000000 := by
  decide

/-- IntegerFormResults: minima, maxima and saturation, by hand from R292. -/
theorem test_integer_min_max_saturate :
    sAfter (.minI64 0 1 2 3) state0 1 = some 0xFFFFFFFFFFFFFFFF ∧ sAfter (.minN64 0 1 2 3) state0 1 = some 2
    ∧ sAfter (.maxI64 0 1 2 3) state0 1 = some 2 ∧ sAfter (.maxN64 0 1 2 3) state0 1 = some 0xFFFFFFFFFFFFFFFF
    ∧ sAfter (.addI64S 0 1 4 2) state0 1 = some 0x8000000000000000 ∧ sAfter (.addN64S 0 1 2 3) state0 1 = some 0xFFFFFFFFFFFFFFFF
    ∧ sAfter (.subI64S 0 1 3 4) state0 1 = some 0x7FFFFFFFFFFFFFFF ∧ sAfter (.subN64S 0 1 3 2) state0 1 = some 0
    ∧ sAfter (.add 0 0 2 3) state0 0 = some 0 := by
  decide

/-- IntegerFormResults: immediate forms, by hand from R293 and R294. -/
theorem test_integer_immediate_forms :
    sAfter (.addi 0 1 3 0x3FFD) state0 1 = some 0xFFFFFFFFFFFFFFFF ∧ sAfter (.andi 0 1 2 0x3FF0) state0 1 = some 0xFFFFFFFFFFFFFFF0
    ∧ sAfter (.ori 0 1 3 0x2000) state0 1 = some 0xFFFFFFFFFFFFE002 ∧ sAfter (.xori 0 1 3 3) state0 1 = some 1
    ∧ sAfter (.shli 0 1 3 63) state0 1 = some 0 ∧ sAfter (.shriI64 0 1 4 63) state0 1 = some 0xFFFFFFFFFFFFFFFF
    ∧ sAfter (.shriN64 0 1 4 63) state0 1 = some 1 ∧ sAfter (.li 0 1 0x80000) state0 1 = some 0xFFFFFFFFFFF80000
    ∧ sAfter (.lis 0 3 0x4567) state0 3 = some 0x24567 := by
  decide

/-- BitAndSelectResults: both ends of CLZ, SEXT and ZEXT, and both choices of SEL (R295). -/
theorem test_bit_and_select :
    sAfter (.clz 0 1 6) state0 1 = some 64 ∧ sAfter (.clz 0 1 2) state0 1 = some 0 ∧ sAfter (.clz 0 1 3) state0 1 = some 62
    ∧ sAfter (.popc 0 1 2) state0 1 = some 64 ∧ sAfter (.sext 0 1 2 1) state0 1 = some 0xFFFFFFFFFFFFFFFF
    ∧ sAfter (.sext 0 1 4 64) state0 1 = some 0x8000000000000000 ∧ sAfter (.zext 0 1 2 1) state0 1 = some 1
    ∧ sAfter (.zext 0 1 2 64) state0 1 = some 0xFFFFFFFFFFFFFFFF ∧ sAfter (.sel 0 1 2 3 0) state0 1 = some 0xFFFFFFFFFFFFFFFF
    ∧ sAfter (.sel 0 1 2 3 5) state0 1 = some 2 ∧ (cellAfter (.nop 0) state0).pc = 0x104 ∧ ready (.nop 0) state0 = true := by
  decide

/-- The predicates of a pair after an instruction. -/
def pairAfter (i : Instr) (s : State) (k : Nat) : Bool × Bool := (rdP (cellAfter i s) (2 * k), rdP (cellAfter i s) (2 * k + 1))

/-- CompareAndPredicateResults: each condition code, pair 0, and both sides of a full queue (R276, R296, R298, R299). -/
theorem test_compares :
    pairAfter (.cmp 0 0 1 2 2) state0 1 = (true, false) ∧ pairAfter (.cmp 0 1 1 2 3) state0 1 = (true, false)
    ∧ pairAfter (.cmp 0 2 1 2 3) state0 1 = (true, false) ∧ pairAfter (.cmp 0 3 1 2 3) state0 1 = (false, true)
    ∧ pairAfter (.cmp 0 4 1 2 3) state0 1 = (false, true) ∧ pairAfter (.cmp 0 5 7 2 3) state0 7 = (true, false)
    ∧ pairAfter (.cmp 0 0 0 2 3) state0 0 = (true, true) ∧ pairAfter (.cmpi 0 4 1 4 0x3FFF) state0 1 = (true, false)
    ∧ (cellAfter (.cmpq 0 0 2 2) (withCell { cell0 with cq := List.replicate 15 false })).cq = List.replicate 15 false ++ [true]
    ∧ stays (.cmpq 0 0 2 2) (withCell { cell0 with cq := List.replicate 16 false }) = true
    ∧ (cellAfter (.cqclr 0) (withCell { cell0 with cq := [true] })).cq = []
    ∧ rdP (cellAfter (.pand 0 3 0 0) state0) 3 = true ∧ rdP (cellAfter (.por 0 3 1 2) state0) 3 = false
    ∧ rdP (cellAfter (.pxor 0 3 1 0) state0) 3 = true ∧ rdP (cellAfter (.pandn 0 3 0 0) state0) 3 = false := by
  decide

/-- FloatScalarResults: 1.5 + 1.5 = 3, 1.5 x 1.5 = 2.25, FCVT of 1.5 to I32 rounds to 2 and sets NX, a compare with NaN (R297, R300,
R301). -/
theorem test_float_scalar :
    sAfter (.fadd 0 1 5 5) state0 1 = some 0x40400000 ∧ sAfter (.fsub 0 1 5 5) state0 1 = some 0
    ∧ sAfter (.fmul 0 1 5 5) state0 1 = some 0x40100000 ∧ sAfter (.fdiv 0 1 5 5) state0 1 = some 0x3F800000
    ∧ sAfter (.fma 0 1 5 5 5) state0 1 = some 0x40700000 ∧ sAfter (.fmin 0 1 5 6) state0 1 = some 0
    ∧ sAfter (.fmax 0 1 5 6) state0 1 = some 0x3FC00000 ∧ sAfter (.fcvt 0 1 5 2 4) state0 1 = some 2
    ∧ pairAfter (.fcmp 0 6 1 2 5) state0 1 = (true, false) ∧ pairAfter (.fcmp 0 0 1 5 5) state0 1 = (true, false)
    ∧ (cellAfter (.fcmpq 0 4 5 5) state0).cq = [true] := by
  decide

/-! ### Class 2 -/

/-- The trap cause, address and INFO that an instruction leaves, where it may issue and TVEC is enabled. -/
def trapAfter (i : Instr) (s : State) : Option (BitVec 8 × BitVec 64 × BitVec 64) :=
  if ready i s then
    let c := cellAfter i s
    if c.busy then some (c.cause, c.trapaddr, c.trapaux) else none
  else none

/-- Cell 0 with its trap vector at 0x4000. -/
def cellVec : Cell := { cell0 with tvec := 0x4001 }

/-- BranchAndLoopResults: targets at both ends of the space, loop counts 2, 1 and 0 (R302, R303, R304). -/
theorem test_branches :
    (cellAfter (.br 0 2) state0).pc = 0x108 ∧ (cellAfter (.br 0 0x3FFFFFF) state0).pc = 0xFC
    ∧ ready (.br 0 2) state0 = true ∧ (state0.iss.addr + BitVec.ofInt 64 (2 * 4)).toNat < 2 ^ 52
    ∧ sAfter (.call 0 2) state0 63 = some 0x104 ∧ (cellAfter (.call 0 2) state0).pc = 0x108 ∧ state0.iss.nextFault = none
    ∧ (cellAfter (.brr 0 6) (withCell { cell0 with s := [(6, 0xFFFFFFFFFFFFC)] })).pc = 0xFFFFFFFFFFFFC
    ∧ (cellAfter (.callr 0 63) (withCell { cell0 with s := [(63, 0x200)] })).pc = 0x200
    ∧ sAfter (.callr 0 63) (withCell { cell0 with s := [(63, 0x200)] }) 63 = some 0x104
    ∧ (cellAfter (.loop 0 0 0xFFFFFB) (withCell { cell0 with lc := [(0, 2)] })).pc = 0xEC
    ∧ rdLc (cellAfter (.loop 0 0 0xFFFFFB) (withCell { cell0 with lc := [(0, 2)] })) 0 = 1
    ∧ (cellAfter (.loop 0 0 0xFFFFFB) (withCell { cell0 with lc := [(0, 1)] })).pc = 0x104
    ∧ rdLc (cellAfter (.loop 0 0 0xFFFFFB) (withCell { cell0 with lc := [(0, 1)] })) 0 = 0
    ∧ rdLc (cellAfter (.lcset 0 3 3) state0) 3 = 2 := by
  decide +kernel

/-- BranchAndLoopResults: a target below address 0, one with low bits, one just past the space, and a fetch that faulted. -/
theorem test_branch_traps :
    trapAfter (.br 0 0x2000000) (withCell cellVec) = some (0x12, 0xFFFFFFFFF8000100, 3)
    ∧ trapAfter (.brr 0 6) (withCell { cellVec with s := [(6, 0x202)] }) = some (0x10, 0x202, 4)
    ∧ trapAfter (.callr 0 6) (withCell { cellVec with s := [(6, 0x10000000000000)] }) = some (0x12, 0x10000000000000, 3)
    ∧ trapAfter (.call 0 2) { withCell cellVec with iss := { state0.iss with nextFault := some ⟨0x12, 0x110, 0, 0, 3, false⟩ } } =
        some (0x12, 0x110, 3) := by
  decide +kernel

/-- QueueBranchResults: both values of the head, and an empty queue (R302). -/
theorem test_queue_branches :
    (cellAfter (.brq 0 2) (withCell { cell0 with cq := [true, false] })).pc = 0x108
    ∧ (cellAfter (.brq 0 2) (withCell { cell0 with cq := [true, false] })).cq = [false]
    ∧ (cellAfter (.brqn 0 2) (withCell { cell0 with cq := [true] })).pc = 0x104
    ∧ (cellAfter (.brqn 0 2) (withCell { cell0 with cq := [false] })).pc = 0x108
    ∧ (self state0).cq = [] ∧ ready (.brq 0 2) state0 = true ∧ (cellAfter (.brq 0 2) state0).run = .wait
    ∧ (cellAfter (.brqn 0 2) state0).run = .wait := by
  decide +kernel

/-- A launch of one team of two cells, both members of barrier 0 and step group 0, cell 1 alone of barrier 1 and step group 1. -/
def launch2 : Launch :=
  ⟨zeroBytes 42 ++ [2] ++ zeroBytes 101 ++ [3, 0, 2, 0] ++ zeroBytes 12 ++ [3, 0, 2, 0] ++ zeroBytes 92, [], [], 1, 0, 0, 0, 0,
    0, 0⟩

/-- Two cells of one team, on cores 0 and 1, cell 0 about to issue. -/
def withTeam (c d : Cell) : State :=
  { withCell c with
    cells := [(0, c), (2, { d with cell := 1 })]
    teams := [(65536, { teamEmpty with run := .placed, seats := [0, 2] })]
    ctxs := [(1, { ctxEmpty with live := true, launch := some launch2 })] }

/-- BarrierArrival: a member arrives while another is missing; barrier 1 has no member, and ILLOP names it (R305). -/
theorem test_barrier :
    ready (.barw 0 0) (withTeam cell0 cell0) = true ∧ isMember (withTeam cell0 cell0) 1 144 0 = true
    ∧ bitOf (barrierMembers (withTeam cell0 cell0) 1 0 0) 1 = true
    ∧ bitOf (tblGet 0 (getTeam (withTeam cell0 cell0) 65536).barriers 0) 1 = false
    ∧ (cellAfter (.barw 0 0) (withTeam cell0 cell0)).run = .wait
    ∧ tblGet 0 (getTeam (after (exec (.barw 0 0) (withTeam cell0 cell0))) 65536).barriers 0 = 1
    ∧ isMember (withTeam cellVec cell0) 1 146 0 = false
    ∧ trapAfter (.barw 0 1) (withTeam cellVec cell0) = some (0x01, 0, 1) := by
  decide +kernel

/-- A copy operation that is enqueued. -/
def copy0 : CopyOp := newCopy cell0 ⟨0, none, none⟩ none 0 0 0 0

/-- A matrix command that has faulted. -/
def cmd0 : MatCmd :=
  ⟨1, 0, 0, 0, [], 0, [], 0, 0, .faulted, none, 0, [], [], 0, none, [], [], [], some ⟨0x12, 0x40, 2, 1, 0, true⟩⟩

/-- YieldAndHaltResults: each clause of YIELD (R306). -/
theorem test_yield :
    cell0.yreq = false ∧ (cellAfter (.yield 0) state0).run = .run ∧ (cellAfter (.yield 0) state0).pc = 0x104
    ∧ (cellAfter (.yield 0) (withCell { cell0 with yreq := true })).run = .stopped
    ∧ cmdsLive { cell0 with yreq := true } = false ∧ ready (.yield 0) (withCell { cell0 with yreq := true }) = true
    ∧ stays (.yield 0) (withCell { cell0 with yreq := true, copies := [copy0] }) = true
    ∧ (cellAfter (.yield 0) (withCell { cell0 with yreq := true, busy := true })).run = .run := by
  decide +kernel

/-- YieldAndHaltResults: each clause of HALT (R307). -/
theorem test_halt :
    firstUnraised (withTeam cell0 cell0) 0 = none ∧ cellDrained cell0 = true ∧ cell0.deferred = []
    ∧ (cellAfter (.halt 0) (withTeam cell0 cell0)).run = .halted
    ∧ cellDrained { cell0 with copies := [copy0] } = false ∧ firstUnraised (withCell { cell0 with copies := [copy0] }) 0 = none
    ∧ stays (.halt 0) (withCell { cell0 with copies := [copy0] }) = true
    ∧ (firstUnraised (withCell { cellVec with cmds := [cmd0] }) 0).isSome = true
    ∧ earlierLive { cellVec with cmds := [cmd0] } 0 = false
    ∧ (cellAfter (.halt 0) (withCell { cellVec with cmds := [cmd0] })).cause = 0x12
    ∧ (cellAfter (.halt 0) (withCell { cellVec with cmds := [cmd0] })).engine = true
    ∧ (cellAfter (.halt 0) (withCell { cellVec with cmds := [cmd0] })).cmds = [] := by
  decide +kernel

/-- SyscallReturnAndPrivilegeTraps: SYSCALL 0xFFFFF and ERET (R308, R309). -/
theorem test_syscall_and_eret :
    ready (.syscall 0 0xFFFFF) (withCell cellVec) = true ∧ trapAfter (.syscall 0 0xFFFFF) (withCell cellVec) = some (0x3F, 0, 0xFFFFF)
    ∧ (cellAfter (.syscall 0 0xFFFFF) (withCell cellVec)).trappc = 0x104
    ∧ (cellAfter (.syscall 0 0xFFFFF) (withCell cellVec)).pc = 0x4000
    ∧ ready (.eret 0) (withCell { cellVec with super := true, busy := true, trappc := 0x208, pm := false }) = true
    ∧ (cellAfter (.eret 0) (withCell { cellVec with super := true, busy := true, trappc := 0x208 })).pc = 0x208
    ∧ (cellAfter (.eret 0) (withCell { cellVec with super := true, busy := true, trappc := 0x208 })).super = false
    ∧ (cellAfter (.eret 0) (withCell { cellVec with super := true, busy := true, trappc := 0x208 })).busy = false := by
  decide +kernel

/-- SyscallReturnAndPrivilegeTraps: PRIV in user mode, and in either mode for MTSR to CTXID (R278, R309, R310). -/
theorem test_privilege :
    trapAfter (.eret 0) (withCell cellVec) = some (0x05, 0, 0x900430C4)
    ∧ trapAfter (.mfsr 0 1 0x020) (withCell cellVec) = some (0x05, 0, 0x900430C4)
    ∧ trapAfter (.mtsr 0 1 0x000) (withCell { cellVec with super := true }) = some (0x05, 0, 0x900430C4)
    ∧ trapAfter (.mtsr 0 1 0x009) (withCell cellVec) = some (0x05, 0, 0x900430C4)
    ∧ trapAfter (.mtsr 0 1 0x002) (withCell cellVec) = some (0x05, 0, 0x900430C4)
    ∧ trapAfter (.mtsr 0 1 0x010) (withCell cellVec) = some (0x05, 0, 0x900430C4)
    ∧ trapAfter (.mtsrTrapcauseHost 0 1) (withCell cellVec) = some (0x05, 0, 0x900430C4) := by
  decide +kernel

/-- TrapEntryResults: a trap that vectors, and one that goes to the host for either reason (R245). -/
theorem test_trap_entry :
    cellVec.tvec.getLsbD 0 = true ∧ cellVec.busy = false
    ∧ (getCell (takeTrap (withCell cellVec) 0 ⟨0x12, 0x44, 0, 0, 3, false⟩ 0x100 1 true) 0).pc = 0x4000
    ∧ (getCell (takeTrap (withCell cellVec) 0 ⟨0x12, 0x44, 0, 0, 3, false⟩ 0x100 1 true) 0).trappc = 0x100
    ∧ (getCell (takeTrap (withCell cellVec) 0 ⟨0x12, 0x44, 0, 0, 3, false⟩ 0x100 1 true) 0).super = true
    ∧ (getCell (takeTrap (withCell cellVec) 0 ⟨0x12, 0x44, 0, 0, 3, false⟩ 0x100 1 true) 0).pm = false
    ∧ cell0.tvec.getLsbD 0 = false
    ∧ (getCell (takeTrap state0 0 ⟨0x12, 0x44, 0, 0, 3, false⟩ 0x100 1 true) 0).issueStopped = true
    ∧ (getCell (takeTrap (withCell { cellVec with busy := true }) 0 ⟨0x12, 0x44, 0, 0, 3, false⟩ 0x100 1 true) 0).issueStopped
        = true := by
  decide +kernel

/-- SystemRegisterReads: every register at a value of its own (R278). -/
theorem test_mfsr :
    sAfter (.mfsr 0 1 0x000) state0 1 = some 1 ∧ sAfter (.mfsr 0 1 0x001) (withTeam cell0 cell0) 1 = some 0
    ∧ sAfter (.mfsr 0 1 0x002) (withCell { cell0 with stepcnt := 5 }) 1 = some 5
    ∧ sAfter (.mfsr 0 1 0x003) (withCell { cell0 with fmtctl := 0xFFFFFFFFFFFFFFFF }) 1 = some 0xFFFFFFFF00001F67
    ∧ sAfter (.mfsr 0 1 0x004) (withCell { cell0 with yreq := true, thresh := 9 }) 1 = some 0x8000000000000009
    ∧ sAfter (.mfsr 0 1 0x005) (withCell { cell0 with latFilled := true, latBeat := 7 }) 1 = some 0x700000001
    ∧ sAfter (.mfsr 0 1 0x006) state0 1 = some 0 ∧ sAfter (.mfsr 0 1 0x007) state0 1 = some 0
    ∧ sAfter (.mfsr 0 1 0x008) (withCell { cell0 with evsel := 3 }) 1 = some 3
    ∧ sAfter (.mfsr 0 1 0x009) (withCell { cell0 with cq := [true, false, true] }) 1 = some 0x50003
    ∧ sAfter (.mfsr 0 1 0x01F) (withCell { cell0 with super := true, evcnt := [(15, 8)] }) 1 = some 8
    ∧ sAfter (.mfsr 0 1 0x020) (withCell { cellVec with super := true }) 1 = some 0x4001
    ∧ sAfter (.mfsr 0 1 0x022) (withCell { cell0 with super := true, busy := true, cause := 0x12 }) 1 = some 0x4000000000000012
    ∧ sAfter (.mfsr 0 1 0x029) (withCell { cell0 with super := true, watchc := 0x101 }) 1 = some 0x101 := by
  decide +kernel

/-- SystemRegisterWrites: fields under their access codes, in either mode (R9, R310). -/
theorem test_mtsr :
    (cellAfter (.mtsr 0 2 0x005) (withCell { cell0 with latColl := true })).latColl = false
    ∧ (cellAfter (.mtsr 0 2 0x008) state0).evsel = 0xFFFFFFFFFFFFFFFF
    ∧ (cellAfter (.mtsrFmtctlSeedw 0 6) (withCell { cell0 with fmtctl := 0x1F00 })).fmtctl = 0x1F00
    ∧ (cellAfter (.mtsrFmtctlSeedw 0 2) (withCell { cell0 with fmtctl := 0x1F00 })).fmtctl = 0xFFFFFFFF00000067
    ∧ (rdS cell0 2).getLsbD 7 = true ∧ (rdS cell0 6).getLsbD 7 = false
    ∧ (cellAfter (.mtsr 0 3 0x002) (withCell { cell0 with super := true })).stepcnt = 2
    ∧ (cellAfter (.mtsr 0 2 0x020) (withCell { cell0 with super := true })).tvec = 0x000FFFFFFFFFFFFD
    ∧ (cellAfter (.mtsr 0 2 0x021) (withCell { cell0 with super := true })).trappc = 0x000FFFFFFFFFFFFC
    ∧ (cellAfter (.mtsr 0 2 0x029) (withCell { cell0 with super := true })).watchc = 0x1FF
    ∧ (cellAfter (.mtsrTrapcauseHost 0 3) (withCell { cell0 with super := true })).cause = 2
    ∧ ready (.mtsrTrapcauseHost 0 4) (withCell { cell0 with super := true }) = true
    ∧ (cellAfter (.mtsrTrapcauseHost 0 4) (withCell { cell0 with super := true })).issueStopped = true := by
  decide +kernel

/-- A descriptor of 16 elements of rank 1 in space `sp`, valid in generation 1. -/
def desc0 (fmt sp : Nat) : Desc :=
  BitVec.ofNat 512 (2 ^ 511 + 2 ^ 480 + sp * 2 ^ 458 + fmt * 2 ^ 448 + (16 + 2 ^ 16 + 2 ^ 32 + 2 ^ 48) * (2 ^ 320 + 2 ^ 64))

/-- Virtual addresses below 2 MiB mapped on HBM from 0 by a TLB entry with every right, for context 1 on core 0; the table of
descriptors begins at 0x2000. -/
def mapped (s : State) : State :=
  { s with
    cores := [(0, { coreEmpty with tlb := [⟨1, 0, 21, 0xE00F, 0x1000⟩], dcache := (getCore s 0).dcache })]
    ctxs := [(1, { ctxEmpty with live := true, tdt := 0x2000 })] }

/-- A state with bytes in HBM from an address on. -/
def withBytes (s : State) (pa : Nat) (bs : List Byte) : State :=
  { s with mem := tblSetList 0 s.mem pa bs }

/-- Cell 0 with a descriptor of generation 1 in slot 5, its handle in s6, and 0x4000 in s7. -/
def cellDesc : Cell := { cell0 with s := [(6, 0x1005), (7, 0x4000)] }

/-- Core 0 holding, in its cache, the descriptors of `l` for the slots of context 1. -/
def caching (l : List (Nat × Desc)) (s : State) : State :=
  modCore s 0 fun u => { u with dcache := l.map fun x => (dcacheKey 1 x.1, some x.2) }

/-- DescriptorInstructionResults: TDSET of an image at 0x4000 to slot 5, TDINV and TDGET of a cached handle (R312 to R315). -/
theorem test_descriptors :
    dGood (desc0 0 3) = false ∧ dGood (desc0 0 0 &&& BitVec.ofNat 512 (2 ^ 480 - 1)) = true
    ∧ sAfter (.tdset 0 1 6 7) (withBytes (mapped (withCell { cell0 with s := [(6, 5), (7, 0x4000)] })) 0x4000
        (toBytes (desc0 0 0).toNat 60 ++ [0, 0, 0, 0])) 1 = some 0x1005
    ∧ sAfter (.tdget 0 1 6 0) (mapped (caching [(5, desc0 0 0)] (withCell cellDesc))) 1 = some 0x8000000100000000
    ∧ sAfter (.tdinv 0 1 6) (withBytes (mapped (caching [(5, desc0 0 0)] (withCell cellDesc))) 0x2140 (toBytes (desc0 0 0).toNat 64)) 1 = some 0x2005
    ∧ sAfter (.tdget 0 1 6 7) (mapped (caching [(5, desc0 0 0)] (withCell cellDesc))) 1 = some 0x8000000100000000 := by
  decide +kernel

/-- GuardScoreboardAndPoison: a false guard, a register that waits for a load, and a poisoned register (R260, R273, R274). -/
theorem test_guard_score_poison :
    guardTrue cell0 (.add 1 6 2 3) = false ∧ rdS (cellAfter (.add 1 6 2 3) state0) 6 = 0
    ∧ (cellAfter (.add 1 6 2 3) state0).pc = 0x104 ∧ (encodeSlot (.add 0 6 2 3)).isSome = true
    ∧ scoreBlocked { cell0 with accesses := [⟨0, 0, 0, 8, 0, .load false, .near 0, .s 2, false, false, none⟩] } (.add 0 6 2 3) = true
    ∧ after (exec (.add 0 6 2 3) (withCell { cell0 with accesses :=
        [⟨0, 0, 0, 8, 0, .load false, .near 0, .s 2, false, false, none⟩] })) = withCell { cell0 with accesses :=
        [⟨0, 0, 0, 8, 0, .load false, .near 0, .s 2, false, false, none⟩] }
    ∧ poisonRead { cellVec with poisonS := [(3, true)] } (.add 0 6 2 3) = some 3
    ∧ (cellAfter (.add 0 6 2 3) (withCell { cellVec with poisonS := [(3, true)] })).cause = 0x31
    ∧ (cellAfter (.add 0 6 2 3) (withCell { cellVec with poisonS := [(3, true)] })).trapaux = 3 := by
  decide +kernel

/-! ### Classes 3 and 4 -/

/-- Lanes of a vector register from lane 0 on. -/
def lanesOf (r : Nat) (xs : List (BitVec 32)) : Tbl (BitVec 32) := tblSetList 0 [] (64 * r) xs

/-- Cell 0 with v2 to v6 in three lanes, the block of the manual's example in v7, its scale in v8, its codes in v9, m1 on lanes 0 and 2, m2 on 1 and 2. -/
def cellV : Cell :=
  { cell0 with
    m := [(1, 5), (2, 6)]
    v := lanesOf 2 [0x7FFFFFFF, 7, 0xFFFFFFFF] ++ lanesOf 3 [1, 9, 3] ++ lanesOf 5 [0x40800000, 0x3FC00000, 0x7FC00000]
      ++ lanesOf 6 [0x3F000000, 0x40000000, 0x40400000]
      ++ lanesOf 7 [0x3E99999A, 0xBF99999A, 0x40200000, 0, 0x40A00000, 0xBF400000, 0x3F8CCCCD, 0x4079999A] ++ lanesOf 8 [0x55] ++ lanesOf 9 [0x63A705B1] }

/-- Three lanes of v4 after an instruction on `cellV`, where it may issue. -/
def vAfter (i : Instr) : Option (BitVec 32 × BitVec 32 × BitVec 32) :=
  let s := withCell cellV
  if ready i s then
    let c := cellAfter i s
    some (rdV c 4 0, rdV c 4 1, rdV c 4 2)
  else none

/-- VectorElementwiseResults and VectorIntegerLanes: 32-bit integers under m1, by hand from R317 and R319. -/
theorem test_vector_integers :
    vAfter (.vadd 0 4 2 3 2 1) = some (0x80000000, 0, 2) ∧ vAfter (.vsub 0 4 2 3 2 1) = some (0x7FFFFFFE, 0, 0xFFFFFFFC)
    ∧ vAfter (.vmul 0 4 2 3 2 1) = some (0x7FFFFFFF, 0, 0xFFFFFFFD) ∧ vAfter (.vmin 0 4 2 3 2 1) = some (1, 0, 0xFFFFFFFF)
    ∧ vAfter (.vmin 0 4 2 3 3 1) = some (1, 0, 3) ∧ vAfter (.vmax 0 4 2 3 2 1) = some (0x7FFFFFFF, 0, 3)
    ∧ vAfter (.vmax 0 4 2 3 3 1) = some (0x7FFFFFFF, 0, 0xFFFFFFFF) ∧ vAfter (.vdiv 0 4 2 3 2 0) = some (0x7FFFFFFF, 0, 0)
    ∧ vAfter (.vdiv 0 4 2 3 3 1) = some (0x7FFFFFFF, 0, 0x55555555) := by
  decide +kernel

/-- VectorElementwiseResults and VectorIntegerLanes: saturation (R320). -/
theorem test_vector_saturate :
    vAfter (.vaddS 0 4 2 3 2 1) = some (0x7FFFFFFF, 0, 2) ∧ vAfter (.vaddS 0 4 2 3 3 1) = some (0x80000000, 0, 0xFFFFFFFF)
    ∧ vAfter (.vsubS 0 4 3 2 3 1) = some (0, 0, 0) ∧ vAfter (.vsubS 0 4 3 2 2 1) = some (0x80000002, 0, 4) := by
  decide +kernel

/-- VectorElementwiseResults and VectorIntegerLanes: shifts, logic, magnitude (R321, R322). -/
theorem test_vector_shift_and_logic :
    vAfter (.vshl 0 4 2 3 2 1) = some (0xFFFFFFFE, 0, 0xFFFFFFF8) ∧ vAfter (.vshr 0 4 2 3 2 1) = some (0x3FFFFFFF, 0, 0xFFFFFFFF)
    ∧ vAfter (.vshr 0 4 2 3 3 1) = some (0x3FFFFFFF, 0, 0x1FFFFFFF) ∧ vAfter (.vand 0 4 2 3 0 1) = some (1, 0, 3)
    ∧ vAfter (.vor 0 4 2 3 0 0) = some (0x7FFFFFFF, 15, 0xFFFFFFFF) ∧ vAfter (.vxor 0 4 2 3 0 1) = some (0x7FFFFFFE, 0, 0xFFFFFFFC)
    ∧ vAfter (.vabs 0 4 2 2 0) = some (0x7FFFFFFF, 7, 1) ∧ vAfter (.vneg 0 4 2 4 0) = some (0x80010001, 0xFFF9, 0x10001)
    ∧ vAfter (.vmov 0 4 2 0 1) = some (0x7FFFFFFF, 0, 0xFFFFFFFF) := by
  decide +kernel

/-- VectorElementwiseResults: floats, by hand: v5 = 4, 1.5, NaN and v6 = 0.5, 2, 3 (R319, R323, R335, R336). -/
theorem test_vector_floats :
    vAfter (.vadd 0 4 5 6 0 1) = some (0x40900000, 0, 0x7FC00000) ∧ vAfter (.vmul 0 4 5 6 0 0) = some (0x40000000, 0x40400000, 0x7FC00000)
    ∧ vAfter (.vdiv 0 4 5 6 0 1) = some (0x41000000, 0, 0x7FC00000) ∧ vAfter (.vmin 0 4 5 6 0 1) = some (0x3F000000, 0, 0x7FC00000)
    ∧ vAfter (.vsub 0 4 5 6 0 1) = some (0x40600000, 0, 0x7FC00000) ∧ vAfter (.vmax 0 4 5 6 0 1) = some (0x40800000, 0, 0x7FC00000) := by
  decide +kernel

/-- VectorElementwiseResults: fused products and functions (R323, R335, R336). -/
theorem test_vector_functions :
    vAfter (.vfmaF32 0 4 5 6 6 0) = some (0x40200000, 0x40A00000, 0x7FC00000)
    ∧ vAfter (.vfmaBf16 0 4 5 6 6 1) = some (0x40200000, 0, 0x7FC00000)
    ∧ vAfter (.vexp2 0 4 6 0 2) = some (0, 0x40800000, 0x41000000)
    ∧ vAfter (.vlog2 0 4 5 0 1) = some (0x40000000, 0, 0x7FC00000) ∧ vAfter (.vsqrt 0 4 5 0 1) = some (0x40000000, 0, 0x7FC00000)
    ∧ vAfter (.vrcp 0 4 5 0 1) = some (0x3E800000, 0, 0x7FC00000)
    ∧ vAfter (.vrsqrt 0 4 5 0 1) = some (0x3F000000, 0, 0x7FC00000) ∧ vAfter (.vtanh 0 4 4 0 0) = some (0, 0, 0) := by
  decide +kernel

/-- VectorMoveMaskAndCompareResults: moves of lanes (R324, R327, R328); s3 is 2. -/
theorem test_vector_moves :
    vAfter (.vsel 0 4 2 3 0 1) = some (0x7FFFFFFF, 9, 0xFFFFFFFF) ∧ vAfter (.vperm 0 4 2 3 0 0) = some (7, 0, 0)
    ∧ vAfter (.vrot 0 4 2 3 0 0) = some (0, 0, 0x7FFFFFFF) ∧ vAfter (.vbcast 0 4 3 1 1) = some (0x20002, 0, 0x20002)
    ∧ vAfter (.vset 0 4 3 3 2 1) = some (0, 0, 2) ∧ vAfter (.vset 0 4 3 3 4 1) = some (0, 0, 0)
    ∧ vAfter (.vset 0 4 3 3 6 1) = some (0x20000, 0, 0) ∧ (rdM cellV 1).getLsbD (2 * 32 / 32) = true
    ∧ (rdM cellV 1).getLsbD (2 * 16 / 32) = false ∧ sAfter (.vget 0 1 2 3 3) (withCell cellV) 1 = some 0xFFFFFFFF
    ∧ sAfter (.vget 0 1 2 3 2) (withCell cellV) 1 = some 0xFFFFFFFFFFFFFFFF
    ∧ sAfter (.vget 0 1 2 3 4) (withCell cellV) 1 = some 7 := by
  decide +kernel

/-- A mask after an instruction on `cellV`. -/
def mAfter (i : Instr) (n : Nat) : BitVec 64 := rdM (cellAfter i (withCell cellV)) n

/-- VectorMoveMaskAndCompareResults: mask logic, compares and the pushed bit (R325, R326). -/
theorem test_masks_and_compares :
    mAfter (.mand 0 3 1 0) 3 = 5 ∧ mAfter (.mor 0 3 1 2) 3 = 7 ∧ mAfter (.mxor 0 3 1 0) 3 = 0xFFFFFFFFFFFFFFFA
    ∧ mAfter (.mandn 0 3 0 1) 3 = 0xFFFFFFFFFFFFFFFA ∧ mAfter (.mand 0 0 1 0) 0 = 0xFFFFFFFFFFFFFFFF
    ∧ (.vcmp 0 2 3 2 3 2 1 : Instr).wf = true ∧ mAfter (.vcmp 0 2 3 2 3 2 1) 6 = 4 ∧ mAfter (.vcmp 0 2 3 2 3 2 1) 7 = 1
    ∧ mAfter (.vcmp 0 2 3 2 3 3 1) 6 = 0 ∧ mAfter (.vcmp 0 2 3 2 3 3 1) 7 = 5 ∧ mAfter (.vcmp 0 6 3 5 6 0 1) 6 = 4
    ∧ (cellAfter (.vcmp 0 6 3 5 6 0 1) (withCell cellV)).fmtctl = 0x1000
    ∧ (cellAfter (.vcmpq 0 2 2 3 2 1) (withCell cellV)).cq = [true]
    ∧ (cellAfter (.vcmpq 0 2 2 3 3 3) (withCell cellV)).cq = [false] ∧ ready (.vcmpq 0 2 2 3 2 1) (withCell cellV) = true := by
  decide +kernel

/-- VectorConversionAndReductionResults: the manual's example of block scales (R330 to R332), a conversion of either kind. -/
theorem test_conversions :
    vAfter (.vbamax 0 4 7 10 0 0) = some (0x40A00000, 0, 0) ∧ vAfter (.vqnt 0 4 7 8 10 0) = some (0x63A705B1, 0, 0)
    ∧ vAfter (.vdqnt 0 4 9 8 10 1) = some (0x3ED40000, 0, 0x401F0000)
    ∧ vAfter (.vcvt 0 4 5 0 1 0) = some (0, 0x40800000, 0) ∧ vAfter (.vcvt 0 4 6 1 0 0) = some (0x40003F00, 0x4040, 0)
    ∧ vAfter (.vcvt 0 4 6 2 0 0) = some (0, 2, 3) := by
  decide +kernel

/-- VectorConversionAndReductionResults: sums, extremes and prefixes (R333, R334). -/
theorem test_reductions :
    vAfter (.vrsum 0 4 3 2 1) = some (4, 4, 4) ∧ vAfter (.vrmax 0 4 2 2 1) = some (0x7FFFFFFF, 0x7FFFFFFF, 0x7FFFFFFF)
    ∧ vAfter (.vrmin 0 4 2 2 1) = some (0xFFFFFFFF, 0xFFFFFFFF, 0xFFFFFFFF) ∧ vAfter (.vrmin 0 4 2 0 3) = some (0x7F800000, 0x7F800000, 0x7F800000)
    ∧ vAfter (.vrsum 0 4 6 0 0) = some (0x40B00000, 0x40B00000, 0x40B00000) ∧ vAfter (.vscan 0 4 3 2 1) = some (1, 0, 4) := by
  decide +kernel

/-! ### Class 6 -/

/-- The trap of a check that fails. -/
def failOf {α : Type} : Except TrapInfo α → Option TrapInfo
  | .error t => some t
  | .ok _ => none

/-- What a check that succeeds gives. -/
def passOf {α : Type} : Except TrapInfo α → Option α
  | .error _ => none
  | .ok x => some x

/-- RegisterInstructionFrame: ADD, VADD and FCMPQ take effect and read no poisoned register (R11, R277). -/
theorem test_register_frame :
    (encodeSlot (.add 0 1 2 3)).map Slot.cls = some 1 ∧ (encodeSlot (.vadd 0 4 2 3 2 1)).map Slot.cls = some 3
    ∧ (encodeSlot (.vscan 0 4 3 2 1)).map Slot.cls = some 4 ∧ poisonRead cellV (.vadd 0 4 2 3 2 1) = none
    ∧ pushesBit (.fcmpq 0 4 5 5) = true ∧ pushesBit (.add 0 1 2 3) = false ∧ leavesFlags (.add 0 1 2 3) = true
    ∧ 1 ∈ regWrites (.add 0 1 2 3) ∧ 2 ∉ regWrites (.add 0 1 2 3) := by
  decide +kernel

/-- Context 1 with tables from 0x10000 on that give 0x40000 to 0x4FFFF the leaf `w`. -/
def paged (w : BitVec 64) (s : State) : State :=
  let at8 := fun (pa : Nat) (v : Nat) (s : State) => withBytes s pa (toBytes v 8)
  at8 0x10000 0x11001 (at8 0x11000 0x12001 (at8 0x12000 0x13001 (at8 0x13020 w.toNat
    { s with ctxs := [(1, { ctxEmpty with live := true, root := 0x10000 })] })))

/-- The check of an 8-byte access of cell 0 at 0x40008. -/
def checked (c : Cell) (w : BitVec 64) (va : BitVec 64) (kind : Kind) : Except TrapInfo Leaf :=
  (globalCheck (paged w (withCell c)) 0 va 8 3 kind).1

/-- GlobalCheckOrder: the end of the space, alignment, no translation, each right (R14, R195, R244). -/
theorem test_global_checks :
    failOf (checked cell0 0x4600F 0x10000000000000 .write) = some ⟨0x12, 0x10000000000000, 0, 0, 0x301, false⟩
    ∧ failOf (checked cell0 0x4600F 0xFFFFFFFFFFFFC .write) = some ⟨0x10, 0xFFFFFFFFFFFFC, 0, 0, 8, false⟩
    ∧ failOf (checked cell0 0x4600E 0x40008 .write) = some ⟨0x12, 0x40008, 0, 0, 0x301, false⟩
    ∧ passOf (checked cell0 0x4600F 0x40008 .write) = some ⟨0x4600F, 0x13020, 16⟩
    ∧ failOf (checked cell0 0x4600D 0x40008 .write) = some ⟨0x13, 0x40008, 0, 0, 0x301, false⟩
    ∧ failOf (checked cell0 0x4600D 0x40008 .atomic) = some ⟨0x13, 0x40008, 0, 0, 0x302, false⟩
    ∧ failOf (checked cell0 0x4600B 0x40008 .fetch) = some ⟨0x13, 0x40008, 0, 0, 0x303, false⟩
    ∧ failOf (checked cell0 0x46007 0x40008 .read) = some ⟨0x13, 0x40008, 0, 0, 0x300, false⟩ := by
  decide +kernel

/-- GlobalCheckOrder: supervisor mode, aperture pages with and without RAP, the watchpoint (R193, R282). -/
theorem test_global_checks_rest :
    passOf (checked { cell0 with super := true } 0x46007 0x40008 .read) = some ⟨0x46007, 0x13020, 16⟩
    ∧ failOf (checked cell0 0x680F 0x40008 .fetch) = some ⟨0x13, 0x40008, 0, 0, 0x303, false⟩
    ∧ failOf (checked cell0 0x680F 0x40008 .atomic) = some ⟨0x14, 0x40008, 0, 0, 0x302, false⟩
    ∧ passOf (checked cell0 0x780F 0x40008 .atomic) = some ⟨0x780F, 0x13020, 16⟩
    ∧ failOf (checked { cell0 with watcha := 0x4000F, watchc := 1 } 0x4600F 0x40008 .read) = some ⟨0x38, 0x40008, 0, 0, 0x300, false⟩
    ∧ tlbFind (getCore (paged 0x4600F state0) 0).tlb 1 0x40008 = none
    ∧ walk (paged 0x4600F state0) (getCtx (paged 0x4600F state0) 1).root.toNat 0x40008 = some ⟨0x4600F, 0x13020, 16⟩
    ∧ walk (paged 0x4600E state0) (getCtx (paged 0x4600E state0) 1).root.toNat 0x40008 = none := by
  decide +kernel

/-- Cell 0 with s7 = 0x4000, s8 = 0x1122334455667788, s9 = -8, two SPAD banks with bytes from offset 8 of bank 0, bank 4 a
region. -/
def cellMem : Cell :=
  { cell0 with
    s := [(7, 0x4000), (8, 0x1122334455667788), (9, 0xFFFFFFFFFFFFFFF8), (10, 8), (11, 0x40000), (12, 0x20000)]
    banks := [(0, ⟨true, .spad, 16, none⟩), (1, ⟨true, .spad, 16, none⟩), (4, ⟨true, .plane, 16, none⟩),
      (5, ⟨true, .plane, 16, none⟩)]
    bytes := [(8, 0xFE), (9, 0xFF), (10, 0xFF), (11, 0xFF), (12, 1)]
    v := lanesOf 3 [8, 12] ++ lanesOf 4 [0xAABBCCDD, 0x11223344, 0x55667788]
    m := [(1, 3)]
    xp := [(1, 0x500030083)] }

/-- A mapped package with cell 0 about to make an access. -/
def stateMem : State := mapped (withCell { cellMem with tvec := 0x4001 })

/-- What an access is, less its numbers. -/
structure Issued where
  size : Nat
  va : BitVec 64
  kind : AccKind
  place : AccPlace
  dest : AccDest
  deriving DecidableEq, Repr

/-- The accesses that an instruction commits. -/
def issued (i : Instr) : List Issued :=
  if ready i stateMem then (cellAfter i stateMem).accesses.map fun a => ⟨a.size, a.va, a.kind, a.place, a.dest⟩
  else []

/-- GlobalAccessIssue: an access with a negative offset of each kind, an atomic, and a trap on a misaligned one (R340, R346). -/
theorem test_global_issue :
    issued (.ldN 0 1 7 3 2 0xFF) = [⟨4, 0x3FFC, .load false, .phys 0x3FFC 0 0 0, .s 1⟩]
    ∧ issued (.ldI 0 1 7 3 0 1) = [⟨1, 0x4001, .load true, .phys 0x4001 0 0 0, .s 1⟩]
    ∧ issued (.st 0 8 7 3 3 1) = [⟨8, 0x4008, .store 0x1122334455667788, .phys 0x4008 0 0 0, .none⟩]
    ∧ issued (.acas 0 10 7 8 3 false) = [⟨8, 0x4000, .amo 5 0x1122334455667788 8, .phys 0x4000 0 0 0, .s 10⟩]
    ∧ issued (.aaddF32 0 10 7 8 3 false) = [⟨4, 0x4000, .amo 2 0x1122334455667788 8, .phys 0x4000 0 0 0, .s 10⟩]
    ∧ trapAfter (.ldN 0 1 8 3 3 0) stateMem = some (0x12, 0x1122334455667788, 0x300)
    ∧ trapAfter (.amaxI32 0 1 9 3 3 false) stateMem = some (0x12, 0xFFFFFFFFFFFFFFF8, 0x302) := by
  decide +kernel

/-- A state whose cell 0 has one access, of 4 bytes at physical address 0x4000 that holds 0xFFFFFFFE. -/
def pendingOne (a : Access) : State :=
  { withBytes (withTeam { cellMem with accesses := [a] } cell0) 0x4000 [0xFE, 0xFF, 0xFF, 0xFF] with input := .pair 0 7 }

/-- Access 7 of cell 0. -/
def access7 (k : AccKind) (r : Option AccAnswer) : Access := ⟨7, 0, 3, 4, 0x4000, k, .phys 0x4000 0 0 0, .s 1, false, false, r⟩

/-- The answer of access 7 once it has performed, and memory's four bytes. -/
def performed7 (k : AccKind) : Option (BitVec 64) × List Byte :=
  let t := after (exec .accessResponseReturn (pendingOne (access7 k none)))
  (((getCell t 0).accesses.head?.bind Access.answered).map AccAnswer.value, physBytes t 0x4000 4)

/-- AccessPerformsAndReturns: loads of both signs, a store, atomics; and the return of the answer to s1 (R200, R204, R346). -/
theorem test_access_performs :
    mayPerform cellMem (access7 (.load true) none) = true
    ∧ performed7 (.load true) = (some 0xFFFFFFFFFFFFFFFE, [0xFE, 0xFF, 0xFF, 0xFF])
    ∧ performed7 (.load false) = (some 0xFFFFFFFE, [0xFE, 0xFF, 0xFF, 0xFF])
    ∧ performed7 (.store 0x1122334455667788) = (some 0, [0x88, 0x77, 0x66, 0x55])
    ∧ performed7 (.amo 0 3 0) = (some 0xFFFFFFFFFFFFFFFE, [1, 0, 0, 0])
    ∧ performed7 (.amo 3 3 0) = (some 0xFFFFFFFFFFFFFFFE, [3, 0, 0, 0])
    ∧ performed7 (.amo 7 3 0) = (some 0xFFFFFFFE, [3, 0, 0, 0])
    ∧ amoNew 5 8 9 8 = 9 ∧ amoNew 5 8 9 7 = 8 := by
  decide +kernel

/-- AccessPerformsAndReturns: the answer reaches s1 and the access is over, the cell of its team not yet halted. -/
theorem test_access_returns :
    (getCell (after (exec .accessResponseReturn (pendingOne (access7 (.load true) (some ⟨5, false, none⟩))))) 0).accesses = []
    ∧ rdS (getCell (after (exec .accessResponseReturn (pendingOne (access7 (.load true) (some ⟨5, false, none⟩))))) 0) 1 = 5
    ∧ tileRuns (pendingOne (access7 (.load true) none)) 0 = true
    ∧ ncell (pendingOne (access7 (.load true) none)) 1 = 2 ∧ bitOf (getTeam (pendingOne (access7 (.load true) none)) 65536).halted 0 = false := by
  decide +kernel

/-- NearAccessResults: loads of both kinds, a store, an atomic and an access to a team cell (R158, R340, R348). -/
theorem test_near_access :
    sAfter (.ldnN 0 1 10 3 2 0) stateMem 1 = some 0xFFFFFFFE ∧ sAfter (.ldnI 0 1 10 3 2 0) stateMem 1 = some 0xFFFFFFFFFFFFFFFE
    ∧ sAfter (.ldnN 0 1 10 3 3 0) stateMem 1 = some 0x1FFFFFFFE
    ∧ nearBytes (cellAfter (.stn 0 8 7 3 1 0xFF) stateMem) 0 0x3FFE 3 = [0x88, 0x77, 0]
    ∧ sAfter (.aaddI32 0 2 10 10 3 true) stateMem 2 = some 0xFFFFFFFFFFFFFFFE
    ∧ nearBytes (cellAfter (.aaddI32 0 2 10 10 3 true) stateMem) 0 8 4 = [6, 0, 0, 0]
    ∧ passOf (nearCheck stateMem 0 8 4 4 .load) = some (0, 0, 8) ∧ presentPoisoned cellMem 0 8 4 = false := by
  decide +kernel

/-- Two cells of a team, cell 1 on core 1 with a SPAD bank 0; s2 of cell 0 names offset 8 of that bank. -/
def stateTeamMem : State := withTeam { cellMem with s := [(2, 0x2200008), (10, 8)] } cellMem

/-- NearAccessResults: an access to the bank of a team cell is committed (R158, R205). -/
theorem test_near_peer :
    passOf (nearCheck stateTeamMem 0 0x2200008 4 4 .load) = some (2, 0, 8)
    ∧ (cellAfter (.ldnI 0 1 2 3 2 0) stateTeamMem).accesses = [⟨0, 1, 3, 4, 0x2200008, .load true, .near 0x2200008, .s 1, false, false, none⟩]
    ∧ (cellAfter (.stn 0 10 2 3 2 0) stateTeamMem).accesses = [⟨0, 1, 3, 4, 0x2200008, .store 8, .near 0x2200008, .none, false, false, none⟩]
    ∧ (cellAfter (.amaxrrI32 0 10 2 2 3 true) stateTeamMem).accesses =
        [⟨0, 1, 3, 4, 0x2200008, .amo 6 0x2200008 8, .near 0x2200008, .s 10, false, false, none⟩] := by
  decide +kernel

/-- The trap of a near load of 4 bytes at an address. -/
def nearTrapAt (a : BitVec 64) : Option (BitVec 8 × BitVec 64 × BitVec 64) :=
  trapAfter (.ldnN 0 1 6 3 2 0) (withCell { cellMem with s := [(6, a)], tvec := 0x4001 })

/-- NearChecksAndTraps: each clause at a boundary of its range (R13, R154, R158). -/
theorem test_near_traps :
    nearTrapAt 0x100000000 = some (0x11, 0x100000000, 4) ∧ nearTrapAt 0xFFFFFFFC = some (0x11, 0xFFFFFFFC, 4)
    ∧ nearTrapAt 0x4000000 = some (0x11, 0x4000000, 4) ∧ nearTrapAt 0x200000 = some (0x11, 0x200000, 4)
    ∧ nearTrapAt 0x1FFFFFC = some (0x11, 0x1FFFFFC, 4) ∧ nearTrapAt 0x20000 = some (0x16, 0x20000, 4) := by
  decide +kernel

/-- NearChecksAndTraps: modes and alignment (R13, R154, R158). -/
theorem test_near_modes :
    nearTrapAt 0x50000 = some (0x16, 0x50000, 4) ∧ nearTrapAt 0x1FFFE = some (0x10, 0x1FFFE, 4)
    ∧ trapAfter (.stn 0 8 11 3 1 0) (withCell { cellMem with tvec := 0x4001 }) = some (0x16, 0x40000, 2)
    ∧ ready (.ldnN 0 1 11 3 2 0) (withCell cellMem) = true ∧ passOf (nearCheck (withCell cellMem) 0 0x1FFFC 4 4 .store) = some (0, 1, 0xFFFC) := by
  decide +kernel

/-- StoredBytesAndNoOthers: two bytes at the end of a line and of HBM, merged or not (R186, R200). -/
theorem test_stored_bytes :
    physKind state0 0xFE = .hbm ∧ physLost state0 0xFE = false ∧ 0xFE % 256 + 2 ≤ 256 ∧ (getDie state0 0).lines = []
    ∧ physBytes (physWrite state0 0xFE [1, 2] true ⟨some 1, some 0, 3, false⟩) 0xFD 4 = [0, 1, 2, 0]
    ∧ physBytes (physWrite state0 0xFE [1, 2] false ⟨some 1, some 0, 3, false⟩) 0xFD 4 = [0, 1, 2, 0] := by
  decide +kernel

/-- VectorAccessIssue: the lanes of global loads and stores under m1, and a trap of the lowest lane (R341, R342, R343). -/
theorem test_vector_access :
    issued (.vld 0 5 7 3 15 1) = [⟨4, 0x3F00, .load false, .phys 0x3F00 0 0 0, .v 5 0⟩, ⟨4, 0x3F04, .load false, .phys 0x3F04 0 0 0, .v 5 1⟩]
    ∧ issued (.vlds 0 5 7 9 3 1) = [⟨4, 0x4000, .load false, .phys 0x4000 0 0 0, .v 5 0⟩, ⟨4, 0x3FF8, .load false, .phys 0x3FF8 0 0 0, .v 5 1⟩]
    ∧ issued (.vsct 0 4 7 3 3 1) = [⟨4, 0x4008, .store 0xAABBCCDD, .phys 0x4008 0 0 0, .none⟩, ⟨4, 0x400C, .store 0x11223344, .phys 0x400C 0 0 0, .none⟩]
    ∧ trapAfter (.vsts 0 4 7 8 3 1) stateMem = some (0x12, 0x112233445566B788, 0x301)
    ∧ issued (.vst 0 4 7 3 1 1) = [⟨4, 0x4100, .store 0xAABBCCDD, .phys 0x4100 0 0 0, .none⟩, ⟨4, 0x4104, .store 0x11223344, .phys 0x4104 0 0 0, .none⟩] := by
  decide +kernel

/-- VectorAccessIssue and BitFieldExtraction: near forms of the cell's own banks. The pattern takes 3 signed bits every 5 from
bit 3 on: of the bytes FE FF FF FF, bits 3 to 5 are ones, and so are bits 8 to 10 (R343, R344, R345). -/
theorem test_near_vector :
    (rdV (cellAfter (.vldn 0 5 10 3 0 1) stateMem) 5 0, rdV (cellAfter (.vldn 0 5 10 3 0 1) stateMem) 5 1) = (0xFFFFFFFE, 1)
    ∧ rdV (cellAfter (.vgthn 0 5 0 3 3 1) stateMem) 5 1 = 1
    ∧ nearBytes (cellAfter (.vstn 0 4 10 3 1 1) stateMem) 0 0x108 9 = [0xDD, 0xCC, 0xBB, 0xAA, 0x44, 0x33, 0x22, 0x11, 0]
    ∧ nearBytes (cellAfter (.vsctn 0 4 0 3 3 1) stateMem) 0 8 8 = [0xDD, 0xCC, 0xBB, 0xAA, 0x44, 0x33, 0x22, 0x11]
    ∧ (rdV (cellAfter (.vldx 0 5 10 1 3 1) stateMem) 5 0, rdV (cellAfter (.vldx 0 5 10 1 3 1) stateMem) 5 1) = (0xFFFFFFFF, 0xFFFFFFFF)
    ∧ ready (.vldx 0 5 10 1 3 1) stateMem = true := by
  decide +kernel

/-- FenceResults: an earlier store holds a FENCE of its class at PACKAGE, not at CORE; without one each form commits (R207, R349). -/
theorem test_fence :
    stays (.fence 0 2 false false 8) (pendingOne (access7 (.store 1) none)) = true
    ∧ (cellAfter (.fence 0 1 false false 8) (pendingOne (access7 (.store 1) none))).pc = 0x104
    ∧ (cellAfter (.fence 0 2 false false 4) (pendingOne (access7 (.store 1) none))).pc = 0x104
    ∧ stays (.fence 0 0 false false 8) (pendingOne (access7 (.load true) none)) = true
    ∧ (cellAfter (.fence 0 0 true true 0) stateMem).pc = 0x104 ∧ (cellAfter (.fence 0 3 true false 0xFFFF) stateMem).pc = 0x104
    ∧ ready (.fence 0 0 false false 8) stateMem = true := by
  decide +kernel

/-! ### Class 7 -/

/-- Cell 0 with descriptors 5 and 6 of generation 1, their handles in s6, a null second handle in s9, coordinates in s7 and s8,
ring 1 of the copy engine with 2 slots of 16 bytes at 0x100, ring 2 of software at 0x200, and SPAD bank 0. -/
def cellCpy : Cell :=
  { cell0 with
    s := [(6, 0x100600001005), (7, 0x20001), (8, 0x30004), (9, 77), (10, 0x1005), (11, 0x40)]
    rings := [(1, ⟨1, 0x100, 16, 1, 0, 0, []⟩), (2, ⟨4, 0x200, 16, 1, 0, 0, []⟩)]
    banks := [(0, ⟨true, .spad, 16, none⟩)]
    bytes := [(0x40, 0xAB), (0x4F, 0xCD)]
    cflag := 8
    tvec := 0x4001 }

/-- A state of cell 0 alone whose core caches both descriptors. -/
def cpyState (c : Cell) : State := caching [(5, desc0 0 0), (6, desc0 0 1)] (withCell c)

/-- What a copy operation carries: number, order, handles, source and destination coordinates, ring, flag. -/
structure Moved where
  seq : BitVec 16
  order : Nat
  handles : BitVec 64
  srcC : BitVec 64
  dstC : BitVec 64
  ring : Nat
  flag : Option (BitVec 32 × BitVec 64)
  deriving DecidableEq, Repr

/-- The copy operations of cell 0 after an instruction. -/
def copiesAfter (i : Instr) (c : Cell) : List Moved :=
  (cellAfter i (cpyState c)).copies.map fun o => ⟨o.seq, o.order, o.handles, o.srcC, o.dstC, o.ring, o.flag⟩

/-- CopyIssueResults: CPY and CPYF enqueue, the number 0 is skipped, and a full queue stalls (R356, R357, R358). -/
theorem test_copy_issue :
    copiesAfter (.cpy 0 6 7 8 3 1) cellCpy = [⟨1, 0, 0x100600001005, 0x20001, 0x30004, 1, none⟩]
    ∧ copiesAfter (.cpyf 0 6 7 8 3 0) { cellCpy with copySeq := 0xFFFF } = [⟨1, 0, 0x100600001005, 0x20001, 0x30004, 0, some (8, 77)⟩]
    ∧ (passOf (tdtChain (cpyState cellCpy) 0 0x1006).1).map DescChain.d = some (desc0 0 1)
    ∧ stays (.cpy 0 6 7 8 3 1) (cpyState { cellCpy with copies := List.replicate 64 copy0 }) = true
    ∧ passOf (nearCheck (withCell cellCpy) 0 8 8 8 .engineWrite) = some (0, 0, 8) := by
  decide +kernel

/-- CopyIssueResults: a null second handle, a ring of another kind, a flag outside SPAD (R358). -/
theorem test_copy_issue_traps :
    trapAfter (.cpy 0 10 7 8 3 1) (cpyState cellCpy) = some (0x08, 0, 0)
    ∧ trapAfter (.cpyf 0 9 7 8 3 1) (cpyState cellCpy) = some (0x08, 0, 77)
    ∧ trapAfter (.cpy 0 6 7 8 3 2) (cpyState cellCpy) = some (0x18, 0, 2)
    ∧ trapAfter (.cpyf 0 6 7 8 3 3) (cpyState cellCpy) = some (0x18, 0, 3)
    ∧ trapAfter (.cpyf 0 6 7 8 3 0) (cpyState { cellCpy with cflag := 0x10000 }) = some (0x16, 0x10000, 8) := by
  decide +kernel

/-- Operation 4 without a deadline, operation 5 with one. -/
def copyA : CopyOp := { newCopy cellCpy ⟨desc0 0 0, none, none⟩ (some ⟨desc0 0 1, none, none⟩) 0x100600001005 1 0x30004 3 with order := 4, seq := 9 }
/-- Operation 5, later in issue order, with a deadline. -/
def copyB : CopyOp := { copyA with order := 5, seq := 10, deadline := 1000 }
/-- Operation 5 once every element has performed, late, for ring 1. -/
def copyDone : CopyOp := { copyB with started := true, finished := some true, ring := 1 }

/-- A team of two cells whose cell 0 is `c`, with an input. -/
def teamWith (c : Cell) (x : Input) : State := { withTeam c cell0 with input := x }

/-- CopyEngineEvents: the operation with a deadline starts first; a finished one fills the slot at WP (R356, R360, R362). -/
theorem test_copy_engine :
    (getCell (after (exec .copyStart (teamWith { cellCpy with copies := [copyA, copyB] } (.num 0)))) 0).copies
        = [copyA, { copyB with started := true }]
    ∧ startFault (teamWith cellCpy (.num 0)) copyB = none ∧ copyRemote copyB = false ∧ tileRuns (teamWith cellCpy (.num 0)) 0 = true
    ∧ (getCell (after (exec .copyComplete (teamWith { cellCpy with copies := [copyDone] } (.pair 0 5)))) 0).copies = []
    ∧ nearBytes (getCell (after (exec .copyComplete (teamWith { cellCpy with copies := [copyDone] } (.pair 0 5)))) 0) 0 0x100 16
        = [4, 0, 3, 0, 0, 0, 0, 0, 6, 0x10, 0, 0, 10, 0, 1, 0]
    ∧ (getRing (getCell (after (exec .copyComplete (teamWith { cellCpy with copies := [copyDone] } (.pair 0 5)))) 0) 1).wp = 1 := by
  decide +kernel

/-- A launch with channel 0 from cell 0 to ring 1 of cell 1, channel 1 from another package to ring 1, and channel 2 unused. -/
def launchCh : Launch :=
  { launch2 with
    desc := zeroBytes 40 ++ [3, 0, 2] ++ zeroBytes 300
    channels := toBytes (2 ^ 96 * 0x1005 + 2 ^ 56 + 2 ^ 51 + 2 ^ 43 + 2 ^ 41) 16 ++ toBytes (2 ^ 51 + 3 * 2 ^ 41) 16 ++ zeroBytes 16 }

/-- Two cells of a team with the channels. -/
def withChannels (c d : Cell) : State := { caching [(5, desc0 0 0), (6, desc0 0 1)] (withTeam c d) with ctxs := [(1, { ctxEmpty with live := true, launch := some launchCh })] }

/-- Ring 1 with one slot filled, at counts 3 and 2; with a fault mark on it. -/
def ringFull : Ring := ⟨1, 0x100, 16, 1, 2, 3, []⟩
/-- The fault mark that POISON of operation 9 leaves. -/
def mark9 : Mark := ⟨some 5, ⟨0x31, 0x44, 1, 9, 0, true⟩⟩
/-- The same ring with the fault mark. -/
def ringMarked : Ring := { ringFull with marks := [(0, some mark9)] }

/-- RingResults: RWAIT and RREL of an unset, an empty, a filled and a marked ring (R363, R364). -/
theorem test_ring_consumer :
    trapAfter (.rwait 0 1 3) (withCell cellCpy) = some (0x18, 0, 3) ∧ (cellAfter (.rwait 0 1 1) (withCell cellCpy)).run = .wait
    ∧ sAfter (.rwait 0 1 1) (withCell { cellCpy with rings := [(1, { ringFull with rp := 3, wp := 4 })] }) 1 = some 0x110
    ∧ (cellAfter (.rwait 0 1 1) (withCell { cellCpy with rings := [(1, ringMarked)] })).cause = 0x31
    ∧ (getRing (cellAfter (.rwait 0 1 1) (withCell { cellCpy with rings := [(1, ringMarked)] })) 1) = ringFull
    ∧ trapAfter (.rrel 0 1) (withCell cellCpy) = some (0x18, 0, 1)
    ∧ (getRing (cellAfter (.rrel 0 1) (withCell { cellCpy with rings := [(1, ringFull)] })) 1).rp = 3
    ∧ (cellAfter (.rrel 0 1) (withCell { cellCpy with rings := [(1, ringMarked)] })).engine = true := by
  decide +kernel

/-- RingResults: CHRECV of a channel that is unused, of another cell, and of another package, empty, filled and marked (R368). -/
theorem test_channel_receive :
    trapAfter (.chrecv 0 1 6) (withChannels { cellCpy with s := [(6, 2)] } cell0) = some (0x19, 0, 2)
    ∧ trapAfter (.chrecv 0 1 6) (withChannels { cellCpy with s := [(6, 3)] } cell0) = some (0x19, 0, 3)
    ∧ trapAfter (.chrecv 0 1 6) (withChannels { cellCpy with s := [] } cell0) = some (0x19, 0, 0)
    ∧ (cellAfter (.chrecv 0 1 6) (withChannels { cellCpy with s := [(6, 1)] } cell0)).run = .wait
    ∧ sAfter (.chrecv 0 1 6) (withChannels { cellCpy with s := [(6, 1)], rings := [(1, ringFull)] } cell0) 1 = some 0x100
    ∧ (cellAfter (.chrecv 0 1 6) (withChannels { cellCpy with s := [(6, 1)], rings := [(1, ringMarked)] } cell0)).trapaux
        = 0x4000000100000000 := by
  decide +kernel

/-- RingResults: RPUB takes 16 bytes from 0x40 to slot 0 of ring 2, stalls on a full ring, and traps on another's kind (R365). -/
theorem test_rpub :
    nearBytes (cellAfter (.rpub 0 2 11) (withCell cellCpy)) 0 0x200 16 = [0xAB] ++ zeroBytes 14 ++ [0xCD]
    ∧ getRing (cellAfter (.rpub 0 2 11) (withCell cellCpy)) 2 = ⟨4, 0x200, 16, 1, 0, 1, []⟩
    ∧ passOf (pubSource (withCell cellCpy) 0 0x40 16) = some (0, 0x40) ∧ banksAdmit cellCpy 0x200 16 .engineWrite = true
    ∧ stays (.rpub 0 2 11) (withCell { cellCpy with rings := [(2, ⟨4, 0x200, 16, 1, 0, 2, []⟩)] }) = true
    ∧ trapAfter (.rpub 0 1 11) (withCell cellCpy) = some (0x18, 0, 1) := by
  decide +kernel

/-- Cell 1 with the ring that channel 0 fills. -/
def cellRecv : Cell := { cell0 with rings := [(1, ⟨1, 0x100, 64, 1, 0, 0, []⟩)] }

/-- RingResults: CHSEND of channel 0, and of channels that are no sender's (R367). -/
theorem test_channel_send :
    (cellAfter (.chsend 0 12 7 3) (withChannels cellCpy cellRecv)).copies.map (fun o => o.chan) = [some ⟨0, false, 1, 1⟩]
    ∧ tblGet 0 (cellAfter (.chsend 0 12 7 3) (withChannels cellCpy cellRecv)).chSent 0 = 1
    ∧ (chanEntry (withChannels cellCpy cellRecv) 1 0).map (chanRingGood (withChannels cellCpy cellRecv) 0) = some true
    ∧ (chanEntry (withChannels cellCpy cellRecv) 1 0).map (fun e => chanSlotShort (withChannels cellCpy cellRecv) 0 e (desc0 0 0)) = some false
    ∧ trapAfter (.chsend 0 9 7 3) (withChannels cellCpy cellRecv) = some (0x19, 0, 77)
    ∧ trapAfter (.chsend 0 12 7 3) (withChannels { cellCpy with s := [(12, 1)] } cellRecv) = some (0x19, 0, 1)
    ∧ trapAfter (.chsend 0 12 7 3) (withChannels { cellCpy with cell := 1 } cellRecv) = some (0x19, 0, 0) := by
  decide +kernel

/-- Cell 0 with the word 0x1FFFFFFFE at near address 8, s10 = 8, and values to wait for in s11, s12 and s13. -/
def cellWait : Cell := { cellMem with s := [(10, 8), (11, 0x1FFFFFFFE), (12, 0x1FFFFFFFF), (13, 0x1FFFFFFFD), (7, 0x4000)] }

/-- WaitWordAndParameterResults: each condition met and not, near and global, a check that fails (R354). -/
theorem test_waita :
    sAfter (.waita 0 1 10 11 3 false 0) (withCell cellWait) 1 = some 0x1FFFFFFFE
    ∧ (cellAfter (.waita 0 1 10 12 3 false 0) (withCell cellWait)).run = .wait
    ∧ sAfter (.waita 0 1 10 12 3 false 1) (withCell cellWait) 1 = some 0x1FFFFFFFE
    ∧ sAfter (.waita 0 1 10 13 3 false 2) (withCell cellWait) 1 = some 0x1FFFFFFFE
    ∧ (cellAfter (.waita 0 1 10 12 3 false 2) (withCell cellWait)).waitWord = some (8, false, 2, 0x1FFFFFFFF)
    ∧ trapAfter (.waita 0 1 7 12 3 false 2) (withCell { cellWait with s := [(7, 12)], tvec := 0x4001 }) = some (0x10, 12, 8)
    ∧ sAfter (.waita 0 1 7 11 3 true 1) (mapped (withCell cellWait)) 1 = some 0
    ∧ (cellAfter (.waita 0 1 7 11 3 true 0) (mapped (withCell cellWait))).waitWord = some (0x4000, true, 0, 0x1FFFFFFFE) := by
  decide +kernel

/-- WaitWordAndParameterResults: an aperture page, and the parameters of DEADL with a pattern that is malformed (R354, R355). -/
theorem test_deadl :
    trapAfter (.waita 0 1 7 11 3 true 0) (paged 0x680F (withCell { cellWait with s := [(7, 0x40008)], tvec := 0x4001 }))
        = some (0x13, 0x40008, 0x300)
    ∧ (cellAfter (.deadl 0 2) state0).cdead = 0xFFFFFFFFFFFFFFFF ∧ (cellAfter (.deadlF 0 2) state0).cflag = 0xFFFFFFFF
    ∧ tblGet 0 (cellAfter (.deadlXp 0 3 7) state0).xp 7 = 2
    ∧ trapAfter (.deadlXp 0 2 7) (withCell cellVec) = some (0x01, 0, 0x900430C4) := by
  decide +kernel

/-- Cell 0 with banks 0 to 3 allocated, bank 0 and 1 SPAD, bank 2 a region whose word 1 stands in bank 3. -/
def cellBank (q : BitVec 64) : Cell :=
  { cell0 with
    s := [(6, q)]
    banks := [(0, ⟨true, .spad, 16, none⟩), (1, ⟨true, .off, 4, none⟩), (2, ⟨true, .plane, 16, none⟩), (3, ⟨true, .plane, 16, none⟩)]
    bytes := [(0x20000, 1), (0x20004, 2), (0x30000, 3), (0x30004, 4)]
    selOdd := [(16385, true)]
    tvec := 0x4001 }

/-- The trap of a BANKCFG. -/
def bankTrap (q : BitVec 64) : Option (BitVec 8 × BitVec 64 × BitVec 64) := trapAfter (.bankcfg 0 6) (withTeam (cellBank q) cell0)

/-- BankModeResults: each request that is refused (R351). -/
theorem test_bankcfg_refused :
    bankTrap 0x110040 = some (0x16, 0, 0) ∧ bankTrap 0x50020 = some (0x16, 0, 0) ∧ bankTrap 0x50044 = some (0x16, 0, 0)
    ∧ bankTrap 0x50140 = some (0x16, 0, 0) ∧ bankTrap 0x5C0 = some (0x16, 0, 0) ∧ bankTrap 0xC1 = some (0x16, 0, 0)
    ∧ bankTrap 0xD0 = some (0x16, 0, 0) := by
  decide +kernel

/-- Cell 0 after a BANKCFG. -/
def afterBank (q : BitVec 64) : Cell := cellAfter (.bankcfg 0 6) (withTeam (cellBank q) cell0)

/-- BankModeResults: SPAD to OFF, a pair to PLANE, PLANE to SPAD with its present words, and the wait for engine work (R155, R350). -/
theorem test_bankcfg :
    getBank (afterBank 0x50001) 1 = ⟨true, .off, 5, none⟩ ∧ getBank (afterBank 0x100041) 1 = ⟨true, .spad, 16, none⟩
    ∧ (getBank (afterBank 0x41C0) 1).mode = .off ∧ (getBank (afterBank 0x101C0) 1).mode = .plane
    ∧ getRegion (afterBank 0x101C0) 0 = ⟨1, 0⟩ ∧ (getBank (afterBank 0x70042) 2) = ⟨true, .spad, 7, none⟩
    ∧ nearBytes (afterBank 0x70042) 2 0 5 = [1, 0, 0, 0, 4] ∧ (getBank (afterBank 0x70042) 3).mode = .spad := by
  decide +kernel

/-- BankModeResults: engine work holds the change (R350). -/
theorem test_bankcfg_waits :
    stays (.bankcfg 0 6) (withTeam { cellBank 0x50001 with copies := [copy0] } cell0) = true
    ∧ isMember (withTeam (cellBank 0) cell0) 1 160 0 = true ∧ planesUsed (withTeam (cellBank 0) cell0) 0 < 8
    ∧ tblWf false (cellBank 0).selOdd = true ∧ ready (.bankcfg 0 6) (withTeam (cellBank 0x50001) cell0) = true := by
  decide +kernel

/-- Cell 0 that waits in step group 1, of which it is the one member, with a word of region 1 written. -/
def cellStep : Cell :=
  { cellBank 0 with run := .wait, regions := [(1, some ⟨0, 1⟩)], writer := [(16384, 1), (16385, 1)], stepcnt := 6 }

/-- Cell 1 as it waits in the same group. -/
def cellStep1 : Cell := { cell0 with run := .wait }

/-- The team at the beat on which step group 1 completes. -/
def stateStep (arrived : Nat) : State :=
  let s := { withTeam cellStep cellStep1 with input := .triple 1 0 1 }
  { s with
    teams := [(65536, { teamEmpty with run := .placed, seats := [0, 2], steps := [(1, arrived)], stepBeat := [(1, 6)] })]
    ctxs := [(1, { ctxEmpty with live := true, launch := some { launch2 with desc := zeroBytes 42 ++ [2] ++ zeroBytes 119 ++ [1, 0] ++ zeroBytes 92 } })]
    pkg := { Package.reset with phase := 6, beat := 10 } }

/-- StepResults: an arrival, a cell that is no member, and a step that completes 4 beats after the last arrival (R165, R168, R352). -/
theorem test_gstep :
    (cellAfter (.gstep 0 0) (withTeam cellVec cell0)).run = .wait
    ∧ tblGet 0 (getTeam (after (exec (.gstep 0 0) (withTeam cellVec cell0))) 65536).steps 0 = 1
    ∧ isMember (withTeam cellVec cell0) 1 160 0 = true ∧ isMember (withTeam cellVec cell0) 1 162 0 = false
    ∧ trapAfter (.gstep 0 1) (withTeam cellVec cell0) = some (0x16, 0, 0)
    ∧ stepMembers (stateStep 1) 1 0 1 = 1 ∧ (getCell (after (exec .gstepComplete (stateStep 1))) 0).stepcnt = 7
    ∧ (getCell (after (exec .gstepComplete (stateStep 1))) 0).run = .run
    ∧ (getCell (after (exec .gstepComplete (stateStep 1))) 0).selOdd = [(16384, true)] ∧ boundTo cellStep 1 1 = true := by
  decide +kernel

/-- StepResults: a cell that also waits at a barrier counts the step and goes on waiting (R270, R142). -/
theorem test_waits_twice :
    let t := after (exec .gstepComplete (modTeam (stateStep 1) 65536 fun t => { t with barriers := [(0, 1)] }))
    (getCell t 0).run = .wait ∧ (getCell t 0).stepcnt = 7 := by
  decide +kernel

/-- Cell 0 about to broadcast: beats in s6, addresses in s7. -/
def cellBus (beat addr : BitVec 64) : Cell :=
  { cell0 with
    s := [(6, beat), (7, addr)]
    banks := [(0, ⟨true, .spad, 16, none⟩)]
    bytes := [(0x100, 0xAB)]
    tvec := 0x4001 }

/-- A package at beat 100. -/
def atBeat (s : State) : State := { s with pkg := { s.pkg with beat := 100 } }

/-- BroadcastResults: BCAST at both ends of its window, a full buffer, addresses that are no bank's (R171, R353). -/
theorem test_bcast :
    (cellAfter (.bcast 0 6 7) (atBeat (withCell (cellBus 102 0x100)))).sends.map (fun x => (x.beat, x.data)) = [(102, [0xAB] ++ zeroBytes 255)]
    ∧ ((cellAfter (.bcast 0 6 7) (atBeat (withCell (cellBus 4196 0x100)))).sends.length) = 1
    ∧ trapAfter (.bcast 0 6 7) (atBeat (withCell (cellBus 101 0x100))) = some (0x1A, 0, 101)
    ∧ trapAfter (.bcast 0 6 7) (atBeat (withCell (cellBus 4197 0x100))) = some (0x1A, 0, 4197)
    ∧ trapAfter (.bcast 0 6 7) (atBeat (withCell (cellBus 102 0x100000100))) = some (0x11, 0x100000100, 256)
    ∧ trapAfter (.latch 0 6 7) (atBeat (withCell (cellBus 102 0x2000000))) = some (0x11, 0x2000000, 256)
    ∧ stays (.bcast 0 6 7) (atBeat (withCell { cellBus 102 0x100 with sends := List.replicate 4 ⟨200, [], false, false⟩ })) = true := by
  decide +kernel

/-- BroadcastResults: LATCH armed at both ends of its window, unfilled at once outside it, and the ninth that stalls (R172). -/
theorem test_latch :
    (cellAfter (.latch 0 6 7) (atBeat (withCell (cellBus 101 0x100)))).latches = [⟨101, 0x100, none, none⟩]
    ∧ (cellAfter (.latch 0 6 7) (atBeat (withCell (cellBus 4196 0x100)))).latches = [⟨4196, 0x100, none, none⟩]
    ∧ (cellAfter (.latch 0 6 7) (atBeat (withCell (cellBus 100 0x100)))).latches = []
    ∧ (cellAfter (.latch 0 6 7) (atBeat (withCell (cellBus 4197 0x100)))).latBeat = 4197
    ∧ stays (.latch 0 6 7) (atBeat (withCell { cellBus 102 0x100 with latches := List.replicate 8 ⟨200, 0, none, none⟩ })) = true
    ∧ passOf (nearCheck (withCell (cellBus 102 0x100)) 0 0x100 256 256 .latch) = some (0, 0, 0x100) := by
  decide +kernel

/-- Beat 100 of a cluster: cell 0 sends, cell 1 of its team has a latch, and `d` is what else cell 1 does. -/
def stateBus (sends : List Send) : State :=
  let s := atBeat (withTeam { cellBus 0 0 with sends := [⟨100, zeroBytes 255 ++ [7], false, false⟩] } { cell0 with latches := [⟨100, 0x100, none, none⟩], sends := sends })
  { s with input := .num 0 }

/-- What cell 1's latch caught on the beat. -/
def caughtBy (s : State) : List (Option Caught) := (getCell (after (exec .broadcastBeat s)) 2).latches.map Latch.caught

/-- BroadcastResults: a beat with one sender and with two (R172, R173). -/
theorem test_broadcast_beat :
    busDue (stateBus []) 0 = some 100 ∧ caughtBy (stateBus []) = [some (.data (zeroBytes 255 ++ [7]) false)]
    ∧ (getCell (after (exec .broadcastBeat (stateBus []))) 0).sends = []
    ∧ caughtBy (stateBus [⟨100, [], false, false⟩]) = [some .collision]
    ∧ (getCell (after (exec .broadcastBeat (stateBus [⟨100, [], false, false⟩]))) 0).deferred = [⟨⟨0x1A, 0, 0, 0, 100, false⟩, none⟩] := by
  decide +kernel

/-- A cell at beat 107 with a latch of beat 100 that caught something. -/
def stateCaught (x : Caught) : State :=
  let s := withCell { cellBus 0 0 with issueStopped := true, latches := [⟨100, 0x100, some x, none⟩] }
  { s with pkg := { s.pkg with beat := 107 }, input := .num 0 }

/-- BroadcastResults: a latch completes 7 beats after its beat, with data and with a collision (R174). -/
theorem test_latch_complete :
    nearBytes (getCell (after (exec .latchComplete (stateCaught (.data (zeroBytes 255 ++ [7]) false)))) 0) 0 0x1FE 3 = [0, 7, 0]
    ∧ (getCell (after (exec .latchComplete (stateCaught (.data (zeroBytes 255 ++ [7]) false)))) 0).latFilled = false
    ∧ (getCell (after (exec .latchComplete (stateCaught .collision))) 0).latches = [⟨100, 0x100, some .collision, some false⟩] := by
  decide +kernel

/-- Beat 107 after a completion, one beat before LATSTAT shows it. -/
def stateShown : State :=
  let s := after (exec .latchComplete (stateCaught .collision))
  { s with pkg := { s.pkg with phase := 6 }, agenda := [.elapse 1 0] }

/-- BroadcastResults: LATSTAT shows the completion from the next beat on (R174). -/
theorem test_latch_shown :
    mayElapse { stateShown with agenda := [], tick := stateShown.tick + 1 } 1 = true
    ∧ (getCell (after (step stateShown)) 0).latColl = true ∧ (getCell (after (step stateShown)) 0).latFilled = false
    ∧ (getCell (after (step stateShown)) 0).latBeat = 100 ∧ (getCell (after (step stateShown)) 0).latches = []
    ∧ (getCell stateShown 0).live = true ∧ tileRuns stateShown 0 = true ∧ tblWf Cell.empty stateShown.cells = true := by
  decide +kernel

/-! ### Class 5 and the micro-operations -/

/-- Cell 0 with 4 tiles, a mask of them, routine 1 from index 5 on, and a handle in s6. -/
def cellMat : Cell :=
  { cell0 with
    s := [(3, 2), (6, 1), (7, 4096), (8, 0x80000123), (9, 64)]
    mp := [(0, 10), (6, 16), (7, 0xF)]
    nacc := 4
    routines := [(1, some 0x80000005), (2, some 0x00000005)]
    a := [(4096 + 64 * 2 + 1, 7)]
    v := lanesOf 5 [1, 2]
    tvec := 0x4001 }

/-- A command of cell 0 that waits. -/
def cmdWait : MatCmd := ⟨3, 1, 0, 0, [(0, 10), (6, 16), (7, 0xF)], 0, [], 0, 0, .waiting, none, 0, [], [], 0, none, [], [], [], none⟩
/-- The command as it runs on array X. -/
def cmdRun1 : MatCmd := { cmdWait with run := .running, array := some false, index := 9, sc := 0x3F800000, c := [(1, 0x4000300020001), (2, 0x100000000FFFF)] }

/-- MatrixInstructionResults: MCALL with two IDs, a full sequencer, and each check (R371, R372). -/
theorem test_mcall :
    sAfter (.mcall 0 1 0 0 1) (withCell cellMat) 1 = some 1
    ∧ (cellAfter (.mcall 0 1 0 0 1) (withCell { cellMat with idNext := 0xFFFF })).cmds.map (fun m => (m.id, m.routine)) = [(0xFFFF, 1)]
    ∧ (cellAfter (.mcall 0 1 0 0 1) (withCell { cellMat with idNext := 0xFFFF })).idNext = 1
    ∧ stays (.mcall 0 1 0 0 1) (withCell { cellMat with cmds := List.replicate 32 cmdWait }) = true
    ∧ trapAfter (.mcall 0 1 0 0 2) (withCell cellMat) = some (0x21, 0, 2)
    ∧ trapAfter (.mcall 0 1 0 0 1) (withCell { cellMat with nacc := 3 }) = some (0x21, 0, 1)
    ∧ trapAfter (.mcall 0 1 0 0 1) (caching [(5, desc0 0 0)] (withCell { cellMat with mp := [(4, 0x200500000000)] })) = some (0x08, 0, 0x2005)
    ∧ (passOf (takeDescs (caching [(5, desc0 0 0)] (withCell cellMat)) 0 0 [0, 0, 0x1005, 0]).1).isSome = true := by
  decide +kernel

/-- MatrixInstructionResults: MWAIT and MSTAT of commands in each state (R375, R376, R377). -/
theorem test_mwait_and_mstat :
    (cellAfter (.mwait 0 6) (withCell cellMat)).pc = 0x104 ∧ sAfter (.mstat 0 1 6) (withCell cellMat) 1 = some 0
    ∧ (cellAfter (.mwait 0 3) (withCell { cellMat with idNewest := 2, cmds := [{ cmdWait with id := 2 }] })).run = .wait
    ∧ sAfter (.mstat 0 1 3) (withCell { cellMat with idNewest := 2, cmds := [{ cmdWait with id := 2 }] }) 1 = some 0x200010001
    ∧ sAfter (.mstat 0 1 3) (withCell { cellMat with idNewest := 2, cmds := [{ cmdRun1 with id := 2 }] }) 1 = some 0x200010002
    ∧ (cellAfter (.mwait 0 6) (withCell { cellMat with idNewest := 1, cmds := [cmd0] })).cause = 0x12
    ∧ (cellAfter (.mwait 0 6) (withCell { cellMat with idNewest := 1, cmds := [cmd0] })).cmds = []
    ∧ sAfter (.mstat 0 1 6) (withCell { cellMat with idNewest := 1, cmds := [cmd0] }) 1 = some 0x100010003 := by
  decide +kernel

/-- MatrixInstructionResults: parameters, the store and the table (R371, R380, R381). -/
theorem test_mp_and_mucw :
    tblGet 0 (cellAfter (.mpset 0 7 3) (withCell cellMat)).mp 7 = 2 ∧ sAfter (.mpget 0 1 6) (withCell cellMat) 1 = some 16
    ∧ tblGet none (cellAfter (.mucw 0 3 7) (withCell cellMat)).mucode 2 = some 4096
    ∧ trapAfter (.mucw 0 7 3) (withCell cellMat) = some (0x22, 0, 0)
    ∧ tblGet none (cellAfter (.mucwT 0 3 8) (withCell cellMat)).routines 2 = some 0x80000123
    ∧ trapAfter (.mucwT 0 3 7) (withCell { cellMat with s := [(3, 2), (7, 4096)] }) = some (0x22, 0, 0x200)
    ∧ trapAfter (.mucwT 0 8 6) (withCell cellMat) = some (0x22, 0, 0x12300) := by
  decide +kernel

/-- MatrixInstructionResults: rows of a tile, at the last row and past it, and past the last tile (R379). -/
theorem test_mav_and_mva :
    rdV (cellAfter (.mav 0 4 1 3) (withCell cellMat)) 4 1 = 7 ∧ rdV (cellAfter (.mav 0 4 1 3) (withCell cellMat)) 4 0 = 0
    ∧ rdA (cellAfter (.mva 0 3 5 3) (withCell cellMat)) 3 2 1 = 2 ∧ rdA (cellAfter (.mva 0 3 5 3) (withCell cellMat)) 1 2 1 = 7
    ∧ trapAfter (.mav 0 4 1 9) (withCell cellMat) = some (0x21, 0, 0) ∧ trapAfter (.mva 0 4 5 3) (withCell cellMat) = some (0x21, 0, 0)
    ∧ accPoisoned cellMat 1 2 1 = false ∧ ready (.mva 0 3 5 3) (withCell cellMat) = true := by
  decide +kernel

/-- Cell 0 with command 3 on array X of core 0. -/
def stateMicro (m : MatCmd) : State :=
  let s := withTeam { cellMat with cmds := [m], rings := [(2, ⟨3, 0x100, 16, 1, 0, 0, []⟩), (1, ⟨2, 0x120, 16, 1, 0, 1, []⟩)], banks := [(0, ⟨true, .spad, 16, none⟩)], bytes := [(0x120, 9), (0x40, 1)] } cell0
  { s with iss := { s.iss with cmd := 3 }, cores := [(0, { coreEmpty with arrayX := some (0, 3) })], input := .num 0 }

/-- Command 3 after a micro-operation. -/
def cmdAfter (i : Instr) : Option MatCmd := (getCell (after (exec i (stateMicro cmdRun1))) 0).cmds.head?

/-- MicroOperationResults: a command starts on a free array (R374, R383). -/
theorem test_command_start :
    (getCell (after (exec .matrixCommandStart { stateMicro cmdWait with cores := [] })) 0).cmds.map (fun m => (m.index, m.array, m.sc))
        = [(5, some false, 0x3F800000)]
    ∧ (getCell (after (exec .matrixCommandStart { stateMicro cmdWait with cores := [] })) 0).cmds.map (fun m => (tblGet 0 m.c 0, tblGet 0 m.c 6, tblGet 0 m.c 7))
        = [(10, 16, 0)]
    ∧ (getCore (after (exec .matrixCommandStart { stateMicro cmdWait with cores := [] })) 0).arrayX = some (0, 3)
    ∧ predClean (getCell (stateMicro cmdWait) 0) 0 = true ∧ cmdsRun (stateMicro cmdWait) 0 = true
    ∧ findCmd (getCell (stateMicro cmdRun1) 0) 3 = some cmdRun1 := by
  decide +kernel

/-- MicroOperationResults: coordinates, scale and loops, and RET (R384, R387). -/
theorem test_micro_registers :
    (cmdAfter (.uopSetc 3 1 2 0xABCD)).map (fun m => tblGet 0 m.c 3) = some 0x4ABCD00020001
    ∧ (cmdAfter (.uopAddc 3 1 2)).map (fun m => tblGet 0 m.c 3) = some 0x5000300020000
    ∧ (cmdAfter (.uopAddci 1 0 0xFFFF)).map (fun m => tblGet 0 m.c 1) = some 0x4000300020000
    ∧ (cmdAfter (.uopScale 0 0x40000000)).map MatCmd.sc = some 0x40000000 ∧ (cmdAfter (.uopScale 2 0)).map MatCmd.sc = some 0xFFFF
    ∧ (cmdAfter (.uopLoop 1 0 false 2 4)).map (fun m => (m.index, tblGet 0 m.lk 1)) = some (4, 1)
    ∧ (cmdAfter (.uopLoop 1 0 false 1 4)).map (fun m => (m.index, tblGet 0 m.lk 1)) = some (10, 0)
    ∧ (cmdAfter (.uopLoop 1 1 true 0 4)).map (fun m => (m.index, tblGet 0 m.lk 1)) = some (10, 0)
    ∧ (cmdAfter .uopMnop).map MatCmd.index = some 10 ∧ cmdAfter .uopRet = none := by
  decide +kernel

/-- The same state with c3 = 0x40, c4 = 1 and c5 = 5. -/
def cmdFlags : MatCmd := { cmdRun1 with c := [(3, 0x40), (4, 1), (5, 5)] }

/-- Cell 0 after a micro-operation of that command. -/
def flagsAfter (i : Instr) : Cell := getCell (after (exec i (stateMicro cmdFlags))) 0

/-- MicroOperationResults: rings and flags (R388, R389). -/
theorem test_micro_rings :
    (flagsAfter (.uopWtile 6 1)).cmds.map (fun m => tblGet 0 m.c 6) = [9] ∧ (getRing (flagsAfter (.uopWtile 6 1)) 1).rp = 1
    ∧ flagsAfter (.uopWtile 6 2) = getCell (stateMicro cmdFlags) 0 ∧ flagsAfter (.uopWflag 3 5 0) = getCell (stateMicro cmdFlags) 0
    ∧ (flagsAfter (.uopWflag 3 4 0)).cmds.map MatCmd.index = [10] ∧ (flagsAfter (.uopWflag 3 5 1)).cmds.map MatCmd.index = [10]
    ∧ nearBytes (flagsAfter (.uopSignal 3 5 false 0)) 0 0x40 2 = [5, 0]
    ∧ nearBytes (flagsAfter (.uopSignal 3 5 true 2)) 0 0x100 16 = [5, 0, 0, 0, 0, 0, 0, 0, 3, 0, 9, 0, 0, 0, 0, 0]
    ∧ (getRing (flagsAfter (.uopSignal 3 5 true 2)) 2).wp = 1 := by
  decide +kernel

/-- A descriptor of an I8 operand whose tile is 192 by 64, and one of 64 by 64 words, both of extent 1. -/
def descOp : Desc :=
  BitVec.ofNat 512 (2 ^ 511 + 2 ^ 480 + (192 + 64 * 2 ^ 16 + 2 ^ 32 + 2 ^ 48) * 2 ^ 320 + (1 + 2 ^ 16 + 2 ^ 32 + 2 ^ 48) * 2 ^ 64)
/-- The destination of STACC, in I32. -/
def descOut : Desc :=
  BitVec.ofNat 512 (2 ^ 511 + 2 ^ 480 + 2 * 2 ^ 448 + (64 + 64 * 2 ^ 16 + 2 ^ 32 + 2 ^ 48) * 2 ^ 320 + (1 + 2 ^ 16 + 2 ^ 32 + 2 ^ 48) * 2 ^ 64)
/-- Command 3 with both, its coordinates outside every extent. -/
def cmdTiles : MatCmd := { cmdRun1 with descs := [(0, some ⟨descOp, none, none⟩), (1, some ⟨descOut, none, none⟩)], c := [(1, 5)] }
/-- The agent of command 3. -/
def agent0 : Agent := ⟨0, 1, false, 0, .layout 0, []⟩

/-- MicroOperationResults: ZACC, a tile that the command may not name, and the checks of STACC (R384, R386, R390). -/
theorem test_micro_tiles :
    rdA (getCell (after (exec (.uopZacc 1 0) (stateMicro cmdRun1))) 0) 1 2 1 = 0
    ∧ (cmdAfter (.uopZacc 4 0)).map MatCmd.run = some .faulted
    ∧ (cmdAfter (.uopZacc 4 0)).bind MatCmd.fault = some ⟨0x21, 0, 2, 3, 0x901, true⟩
    ∧ (getCore (after (exec (.uopZacc 4 0) (stateMicro cmdRun1))) 0).arrayX = none
    ∧ pairTrap ⟨descOp, none, none⟩ ⟨descOp, none, none⟩ 0 0 = none ∧ operandTrap ⟨descOp, none, none⟩ 0 = none
    ∧ dSpace descOut = 0 ∧ dTile descOut 0 = 64 ∧ dTile descOut 1 = 64 ∧ staccGood (dFmt descOut) = true := by
  decide +kernel

/-- Coordinates at 5 or beyond in dimension 0 lie outside a tensor of extent 1 that does not wrap. -/
theorem clipped_at_five (d : Desc) (hc : dCirc d 0 = false) (he : dExt d 0 = 1) (x : Coord) (hx : 5 ≤ x.x0) : clipped d x := by
  simp only [clipped, coordInside, allIndex, wrapCoord, wrapDim, hc, coordAt, he]
  simp
  omega

/-- MicroOperationResults: an operand is read without a fault, and STACC writes without one (R185, R385, R386). -/
theorem test_micro_operands :
    (∃ q, readOperand (stateMicro cmdTiles) agent0 ⟨descOp, none, none⟩ 0 5 = (stateMicro cmdTiles, .ok q) ∧ q.bad = [] ∧ q.badAddr = none)
    ∧ ∃ g, staccRun 0 1 agent0 descOut (coordOf 5) cmdTiles (stateMicro cmdTiles) [] false 0 4096
        = (stateMicro cmdTiles, g, false, none) := by
  refine ⟨readOperand_clipped _ _ _ _ _ fun k i _ _ => clipped_at_five _ (by decide +kernel) (by decide +kernel) _ ?_,
    staccRun_clipped _ _ _ _ _ _ _ _ _ _ (fun i _ => clipped_at_five _ (by decide +kernel) (by decide +kernel) _ ?_)
      fun i _ => rfl⟩
  · show (5 : Int) ≤ (5 : Int) + k
    omega
  · show (5 : Int) ≤ (5 : Int) + (i % 64 : Nat)
    omega

/-- The dot product of rows of I8 codes, and of E4M3 rows whose exact sum is -0, rounded to F32 (R237). -/
theorem test_dot_products :
    dotI8 [0xFF, 2, 0x80] [3, 4, 0x80] = 16389
    ∧ dotF32 .e4m3 .e4m3 false ⟨[.fin true 0 0], [0], [1], false, .fin false 1 0⟩ ⟨[.fin false 8 (-3)], [512], [1], false, .fin false 1 0⟩ = 0x80000000
    ∧ accAdd 0x3F800000 0x40000000 = 0x40400000 := by
  decide +kernel

/-! ### Virga cores -/

/-- A Virga core at 0x100 that runs, with g2 = -1, g3 = 2, g4 = 0x4321, g5 = 0x203F8 and data at DMEM 0x400. -/
def virga0 : Virga :=
  { virgaEmpty with
    run := .run
    g := [(2, 0xFFFFFFFFFFFFFFFF), (3, 2), (4, 0x4321), (5, 0x3F8), (6, 0x1FFFC), (7, 0x3FFF8), (8, 1025)]
    dmem := [(0x400, 0xEF), (0x401, 0xCD), (0x407, 0x80)]
    pc := 0x100 }

/-- A package whose Virga core `n` is about to run. -/
def stateV (n : Nat) (v : Virga) : State :=
  { State.reset with
    pkg := { Package.reset with phase := 3, gtime := 1000, gtrate := 0xFFFFFFFF, ptpofs := 7, ptpseq := 9 }
    virga := [(n, v)]
    iss := ⟨0, 0, 0, 0, 0, 0, none, 0, n⟩ }

/-- The core after an instruction. -/
def coreAfter (n : Nat) (i : Instr) (v : Virga) : Virga := vself (after (exec i (stateV n v)))

/-- A register of core 0 after an instruction. -/
def gAfter (i : Instr) (r : BitVec 5) : BitVec 64 := vreg (coreAfter 0 i virga0) r

/-- VirgaComputeResults: each form, by hand from R401. -/
theorem test_virga_alu :
    gAfter (.virgaAdd 1 2 3) 1 = 1 ∧ gAfter (.virgaSub 1 3 2) 1 = 3 ∧ gAfter (.virgaMul 1 2 3) 1 = 0xFFFFFFFFFFFFFFFE
    ∧ gAfter (.virgaAnd 1 2 4) 1 = 0x4321 ∧ gAfter (.virgaOr 1 3 4) 1 = 0x4323 ∧ gAfter (.virgaXor 1 4 3) 1 = 0x4323
    ∧ gAfter (.virgaShl 1 4 2) 1 = 0x8000000000000000 ∧ gAfter (.virgaShr 1 2 3) 1 = 0x3FFFFFFFFFFFFFFF
    ∧ gAfter (.virgaSra 1 2 3) 1 = 0xFFFFFFFFFFFFFFFF ∧ gAfter (.virgaSlt 1 2 3) 1 = 1 ∧ gAfter (.virgaSltu 1 2 3) 1 = 0
    ∧ gAfter (.virgaAdd 0 2 3) 0 = 0 ∧ (coreAfter 0 (.virgaAdd 1 2 3) virga0).pc = 0x104 := by
  decide +kernel

/-- VirgaComputeResults: immediates with both signs, LIS, and a shift immediate of 64 (R399, R401). -/
theorem test_virga_immediates :
    gAfter (.virgaAddi 1 3 0xFFFF) 1 = 1 ∧ gAfter (.virgaSlti 1 2 0xFFFF) 1 = 0 ∧ gAfter (.virgaAndi 1 2 0xFFF0) 1 = 0xFFF0
    ∧ gAfter (.virgaOri 1 3 0x8000) 1 = 0x8002 ∧ gAfter (.virgaXori 1 2 0xFFFF) 1 = 0xFFFFFFFFFFFF0000
    ∧ gAfter (.virgaShli 1 3 63) 1 = 0 ∧ gAfter (.virgaShri 1 2 63) 1 = 1 ∧ gAfter (.virgaSrai 1 2 63) 1 = 0xFFFFFFFFFFFFFFFF
    ∧ gAfter (.virgaLis 4 0x8765) 4 = 0x43218765 ∧ (coreAfter 0 .virgaNop virga0) = { virga0 with pc := 0x104 }
    ∧ (decodeVirga 0x40220040).toOption = none ∧ (decodeVirga 0x4022003F).toOption = some (.virgaShli 1 2 63)
    ∧ (coreAfter 0 .virgaUnassignedOpcode { virga0 with vtvec := 0x201 }).vcause = 0x101 := by
  decide +kernel

/-- VirgaComputeResults: system registers, on core 0 and another (R396, R397). -/
theorem test_virga_mfv :
    vreg (coreAfter 5 (.virgaMfv 1 0x000) virga0) 1 = 9 ∧ gAfter (.virgaMfv 1 0x001) 1 = 0 ∧ gAfter (.virgaMfv 1 0x002) 1 = 1000
    ∧ vreg (coreAfter 0 (.virgaMfv 1 0x003) { virga0 with vcyc := 77 }) 1 = 77
    ∧ vreg (coreAfter 0 (.virgaMfv 1 0x008) { virga0 with clrMask := 3, ovfw := 5 }) 1 = 0x30005
    ∧ vreg (coreAfter 0 (.virgaMfv 1 0x00D) { virga0 with losMask := 0x10000000000000002 }) 1 = 1
    ∧ gAfter (.virgaMfv 1 0x010) 1 = 0xFFFFFFFF ∧ gAfter (.virgaMfv 1 0x011) 1 = 7 ∧ gAfter (.virgaMfv 1 0x012) 1 = 9
    ∧ vreg (coreAfter 1 (.virgaMfv 1 0x012) virga0) 1 = 0
    ∧ (coreAfter 0 (.virgaMfv 1 0x00A) { virga0 with vtvec := 0x201 }).vcause = 0x101 := by
  decide +kernel

/-- VirgaComputeResults: writable fields, GTRATE at its bound and GTSTEP once, on core 0 alone (R36, R396, R397). -/
theorem test_virga_mtv :
    (coreAfter 0 (.virgaMtv 2 0x004) virga0).vtvec = 0x1FFFD ∧ (coreAfter 0 (.virgaMtv 2 0x005) virga0).vepc = 0x1FFFC
    ∧ (coreAfter 0 (.virgaMtv 2 0x006) virga0).vcause = 0x1FF ∧ (coreAfter 0 (.virgaMtv 2 0x007) virga0).vtval = 0xFFFFFFFFFFFFFFFF
    ∧ (coreAfter 0 (.virgaMtv 2 0x003) virga0) = { virga0 with pc := 0x104 }
    ∧ (after (exec (.virgaMtv 2 0x010) (stateV 0 virga0))).pkg.gtrate = 0xFFFFFFFF
    ∧ (after (exec (.virgaMtv 2 0x010) (stateV 0 { virga0 with g := [(2, 2147484)] }))).pkg.gtrate = 2147483
    ∧ (after (exec (.virgaMtv 3 0x013) (stateV 0 virga0))).pkg.gtime = 1002
    ∧ (after (exec (.virgaMtv 3 0x013) (stateV 1 virga0))).pkg.gtime = 1000
    ∧ (coreAfter 0 (.virgaMtv 2 0x00F) { virga0 with vtvec := 0x201 }).vcause = 0x101 := by
  decide +kernel

/-- The fault that an instruction of core 0 takes: its cause, its value and where the core goes. -/
def vtrap (i : Instr) (v : Virga) : BitVec 64 × BitVec 64 × Nat :=
  let u := coreAfter 0 i { v with vtvec := 0x201 }
  (u.vcause, u.vtval, u.pc)

/-- VirgaMemoryBranchAndFaultResults: loads and stores, and each fault (R402). -/
theorem test_virga_memory :
    gAfter (.virgaLd 1 5 8) 1 = 0x800000000000CDEF ∧ gAfter (.virgaLw 1 5 8) 1 = 0xCDEF
    ∧ dmemBytes (coreAfter 0 (.virgaSt 4 7 0) virga0) 0 0x3FFF8 8 = [0x21, 0x43, 0, 0, 0, 0, 0, 0]
    ∧ dmemBytes (coreAfter 0 (.virgaSw 2 5 0xFFFC) virga0) 0 0x3F3 6 = [0, 0xFF, 0xFF, 0xFF, 0xFF, 0]
    ∧ vtrap (.virgaLd 1 5 4) virga0 = (0x110, 0x3FC, 0x200) ∧ vtrap (.virgaSw 1 5 2) virga0 = (0x110, 0x3FA, 0x200)
    ∧ vtrap (.virgaSt 1 7 8) virga0 = (0x111, 0x40000, 0x200) ∧ vtrap (.virgaLw 1 7 8) virga0 = (0x111, 0x40000, 0x200)
    ∧ vtrap (.virgaLd 1 7 4) virga0 = (0x110, 0x3FFFC, 0x200) := by
  decide +kernel

/-- Where core 0 goes after a branch. -/
def goesTo (i : Instr) : Nat := (coreAfter 0 i virga0).pc

/-- VirgaMemoryBranchAndFaultResults: each condition taken and not, the last word of IMEM and beyond either end (R403). -/
theorem test_virga_branches :
    goesTo (.virgaBeq 3 3 0xFFFF) = 0xFC ∧ goesTo (.virgaBeq 2 3 4) = 0x104 ∧ goesTo (.virgaBne 2 3 4) = 0x110
    ∧ goesTo (.virgaBlt 2 3 4) = 0x110 ∧ goesTo (.virgaBltu 2 3 4) = 0x104 ∧ goesTo (.virgaBge 3 2 4) = 0x110
    ∧ goesTo (.virgaBgeu 3 2 4) = 0x104 ∧ goesTo (.virgaJ 0x7FBF) = 0x1FFFC ∧ gAfter (.virgaJal 4) 31 = 0x104
    ∧ vtrap (.virgaJ 0x7FC0) virga0 = (0x111, 0x20000, 0x200) ∧ vtrap (.virgaBeq 3 3 0xFFBF) virga0 = (0x111, 0xFFFFFFFFFFFFFFFC, 0x200)
    ∧ goesTo (.virgaJr 6) = 0x1FFFC ∧ vtrap (.virgaJr 3) virga0 = (0x110, 2, 0x200)
    ∧ vtrap (.virgaJr 7) virga0 = (0x111, 0x3FFF8, 0x200) := by
  decide +kernel

/-- VirgaMemoryBranchAndFaultResults: VRET, a fault that vectors, and one that stops the core for either reason (R404, R405). -/
theorem test_virga_faults :
    (coreAfter 0 .virgaVret { virga0 with vepc := 0x1FFFC, vcause := 0x111 }).pc = 0x1FFFC
    ∧ (coreAfter 0 .virgaVret { virga0 with vepc := 0x1FFFC, vcause := 0x111 }).vcause = 0x11
    ∧ vtrap .virgaVret { virga0 with vepc := 0x20000 } = (0x111, 0x20000, 0x200)
    ∧ (coreAfter 0 (.virgaJr 3) { virga0 with vtvec := 0x201 }).vepc = 0x100
    ∧ (coreAfter 0 (.virgaJr 3) virga0) = { virga0 with run := .stopped }
    ∧ (coreAfter 0 (.virgaJr 3) { virga0 with vtvec := 1, vcause := 0x100 }).run = .stopped := by
  decide +kernel

/-- A record of code 5, and the record of timer 3. -/
def rec5 : EventRec := ⟨5, false, false, 4, 26, some 5, 1, 0x1B58, 3, 0⟩
/-- The record of timer 3, whose count is fixed at the take. -/
def rec13 : EventRec := ⟨13, false, false, 0, 0, none, 1, 0, 0, 3⟩

/-- VirgaStateInstructionResults: EVTAKE of a record, of a timer's record, and of an empty queue (R66, R406). -/
theorem test_virga_evtake :
    (coreAfter 0 (.virgaEvtake 4 true) virga0).run = .wait ∧ vreg (coreAfter 0 (.virgaEvtake 4 false) virga0) 4 = 0
    ∧ (coreAfter 0 (.virgaEvtake 4 false) virga0).pc = 0x104
    ∧ vreg (coreAfter 0 (.virgaEvtake 4 true) { virga0 with queue := [rec5, rec13] }) 6 = 0x300001B58
    ∧ (coreAfter 0 (.virgaEvtake 4 true) { virga0 with queue := [rec5, rec13] }).queue = [rec13]
    ∧ vreg (coreAfter 0 (.virgaEvtake 4 true) { virga0 with queue := [rec13], timers := [(3, ⟨0, 0, 4⟩)] }) 6 = 0x400000000
    ∧ (getTimer (coreAfter 0 (.virgaEvtake 4 true) { virga0 with queue := [rec13], timers := [(3, ⟨0, 0, 4⟩)] }) 3).expiries = 0 := by
  decide +kernel

/-- VirgaStateInstructionResults: TMSET of an idle and of a due timer, and the 17th timer (R407). -/
theorem test_virga_tmset :
    getTimer (coreAfter 0 (.virgaTmset 2 3 4) virga0) 2 = ⟨0x4321, 0xFFFFFFFFFFFFFFFF, 0⟩
    ∧ getTimer (coreAfter 0 (.virgaTmset 0 3 4) { virga0 with timers := [(2, ⟨900, 0, 0⟩)] }) 2 = ⟨0x4321, 0, 1⟩
    ∧ vtrap (.virgaTmset 2 8 4) virga0 = (0x121, 1025, 0x200) := by
  decide +kernel

/-- A header that names context 1 in mode RUD. -/
def header0 : Header := ⟨4, 4793, 5, false, 1, 0, 7000, 0, true, true, false, false, none⟩
/-- A write of 4 bytes. -/
def packet0 : Packet := ⟨header0, .write, 0, 0, 4, 0, 0, 0, [1, 2, 3, 4]⟩

/-- Core 2 with PDC 26 in OPEN, of which PSN 7000 left on port 4, 7001 is acknowledged and 7002 left on port 4; path set 1 of
two entries, on port 4 and on port 5, which is down. -/
def statePdc (v : Virga) : State :=
  let s := stateV 2 v
  let sent := fun (acked : Bool) => some (Sent.mk (.chunk 0 0 0 0) packet0 100 (some 4) acked 0 none)
  let p := { pdcEmpty with state := 1, unaPsn := 7000, nextPsn := 7003, rtous := 5, sent := [(7000, sent false), (7001, sent true), (7002, sent false)], entry := BitVec.ofNat 512 (7 * 2 ^ 304) }
  { s with net := { s.net with pdcs := [(26, p)], peers := [(0, BitVec.ofNat 512 (9 * 2 ^ 304))], pathsets := [(1, [0x84000000, 0x85000000])], ports := [(4, ⟨true, true⟩)] } }

/-- Core 2 with PDC 26 in g1, 20 in g2, the window 70000 in g3, port 4 in g5 and a mask in g6. -/
def virga2 : Virga := { virga0 with g := [(1, 26), (2, 20), (3, 70000), (5, 4), (6, 5), (7, 1), (9, 7000), (10, 3), (11, 27)], vtvec := 0x201 }

/-- The state after an instruction of core 2. -/
def after2 (i : Instr) : State := after (exec i (statePdc virga2))

/-- The fault of an instruction of core 2. -/
def vtrap2 (i : Instr) : BitVec 64 × BitVec 64 := ((vself (after2 i)).vcause, (vself (after2 i)).vtval)

/-- VirgaStateInstructionResults: PDCRD, and PDCWR of each field at its bounds (R45, R409). -/
theorem test_virga_pdc :
    vreg (vself (after2 (.virgaPdcrd 4 1))) 7 = 0x1B5B00001B58 ∧ (vreg (vself (after2 (.virgaPdcrd 4 1))) 4).extractLsb' 40 4 = 1
    ∧ (getPdc (after2 (.virgaPdcwr 1 7 0)) 26).cwnd = 16 ∧ (getPdc (after2 (.virgaPdcwr 1 3 0)) 26).cwnd = 65535
    ∧ (getPdc (after2 (.virgaPdcwr 1 0 1)) 26).rtous = 1 ∧ (getPdc (after2 (.virgaPdcwr 1 2 1)) 26).rtous = 9
    ∧ (getPdc (after2 (.virgaPdcwr 1 3 2)) 26).ccacks = 255 ∧ (getPdc (after2 (.virgaPdcwr 1 6 3)) 26).ccus = 5
    ∧ vreg (vself (after2 (.virgaPdcfail 4 1))) 4 = 1 ∧ (getPdc (after2 (.virgaPdcfail 4 1)) 26).state = 4 := by
  decide +kernel

/-- VirgaStateInstructionResults: a foreign PDC, indexes beyond the range, a field that is none (R408, R409). -/
theorem test_virga_pdc_faults :
    vtrap2 (.virgaPdcwr 2 7 0) = (0x120, 20) ∧ vtrap2 (.virgaPdcfail 4 11) = (0x120, 27) ∧ vtrap2 (.virgaPdcrd 4 3) = (0x121, 70000)
    ∧ vtrap2 (.virgaRetx 10 2 9) = (0x120, 20) ∧ vtrap2 (.virgaRetxm 6 3 9) = (0x121, 70000)
    ∧ vtrap2 (.virgaPdcwr 1 7 5) = (0x101, 0) ∧ vtrap2 (.virgaRetx 3 1 9) = (0x121, 70000) := by
  decide +kernel

/-- VirgaStateInstructionResults: RETX and RETXM queue a request, nothing, or wait for room (R410). -/
theorem test_virga_retx :
    (getPdc (after2 (.virgaRetx 10 1 9)) 26).retx = [⟨7000, [0, 1, 2]⟩] ∧ (getPdc (after2 (.virgaRetxm 6 1 9)) 26).retx = [⟨7000, [0, 2]⟩]
    ∧ (getPdc (after2 (.virgaRetx 0 1 9)) 26).retx = [] ∧ (vself (after2 (.virgaRetx 10 1 9))).pc = 0x104
    ∧ (vself (after (exec (.virgaRetx 10 1 9) (modPdc (statePdc virga2) 26 fun p => { p with retx := List.replicate 16 ⟨0, [0]⟩ })))).run = .wait := by
  decide +kernel

/-- VirgaStateInstructionResults: LOSNEXT lists 7000 and 7002, and then nothing (R411). -/
theorem test_virga_losnext :
    (vreg (vself (after2 (.virgaLosnext 4 5 true))) 4, vreg (vself (after2 (.virgaLosnext 4 5 true))) 5) = (0x1A00001B58, 5)
    ∧ tblGet none (vself (after2 (.virgaLosnext 4 5 true))).cursors 4 = some (26, 7064)
    ∧ vreg (vself (after2 (.virgaLosnext 4 7 true))) 4 = 0xFFFFFFFFFFFFFFFF ∧ losFind (statePdc virga2) 2 4 none = some (26, 7000)
    ∧ losFind (statePdc virga2) 2 1 none = none ∧ vtrap2 (.virgaLosnext 4 9 true) = (0x121, 7000)
    ∧ tblWf pdcEmpty (statePdc virga2).net.pdcs = true := by
  decide +kernel

/-- VirgaStateInstructionResults: the path-set instructions, at the last entry and beyond (R412). -/
theorem test_virga_paths :
    vreg (vself (after2 (.virgaPsrd 4 7 0))) 4 = 0x384000000 ∧ vreg (vself (after2 (.virgaPsrd 4 7 7))) 4 = 0x85000000
    ∧ vreg (vself (after2 (.virgaPscnt 4 7))) 4 = 0x201
    ∧ getPathset (after2 (.virgaPsdis 7 0)) 1 = [0x04000000, 0x85000000] ∧ getPathset (after2 (.virgaPsdis 7 5)) 1 = [0x84000000, 0x85000000]
    ∧ vtrap2 (.virgaPsrd 4 3 0) = (0x121, 70000) ∧ vtrap2 (.virgaPsrd 4 7 9) = (0x121, 7000) ∧ vtrap2 (.virgaPscnt 4 9) = (0x121, 7000) := by
  decide +kernel

/-- Entries to read: RCB 26 open with two bits arrived, window 26, peer 26, domain 26 with a next epoch. -/
def stateReads : State :=
  let s := statePdc { virga2 with g := [(1, 26), (2, 64), (3, 70000), (4, 65)], dmem := [(64, 0xAA), (103, 0xBB)] }
  { s with net := { s.net with
      rcbs := [(26, { rcbEmpty with state := 2, nchk := 70, bitmap := [(1, true), (65, true), (75, true)] })]
      windows := [(26, { windowEmpty with gen := 3 })]
      peers := [(26, BitVec.ofNat 512 (5 * 2 ^ 448))]
      domains := [(26, ⟨7, some (8, 0), [], []⟩)] } }

/-- Core 2 after a read. -/
def readsAfter (i : Instr) : Virga := vself (after (exec i stateReads))

/-- VirgaStateInstructionResults: the entries read, and their faults (R408, R413). -/
theorem test_virga_reads :
    (vreg (readsAfter (.virgaRcbrd 8 1)) 11).extractLsb' 37 3 = 2 ∧ vreg (readsAfter (.virgaBmrd 8 1 2)) 8 = 2
    ∧ vreg (readsAfter (.virgaBmrd 8 1 0)) 8 = 2 ∧ (readsAfter (.virgaBmrd 8 1 4)).vcause = 0x110
    ∧ vreg (readsAfter (.virgaWinrd 8 1)) 10 = 0x30000 ∧ vreg (readsAfter (.virgaPeerrd 8 1)) 15 = 5
    ∧ vreg (readsAfter (.virgaEprd 8 1)) 8 = 0x800010007 ∧ (readsAfter (.virgaRcbrd 8 3)).vcause = 0x121
    ∧ (readsAfter (.virgaEprd 8 3)).vtval = 70000 ∧ (readsAfter (.virgaPeerrd 8 3)).vcause = 0x121 := by
  decide +kernel

/-- Core 2 with a header of LINK_LOS in g1, of a record that is none in g2, and addresses in g3 to g5; the ring has room. -/
def stateHev : State :=
  { stateReads with
    gafin := { Gafin.reset with even := true }
    virga := [(2, { virga2 with g := [(1, 0x100000030010), (2, 0x13), (3, 64), (4, 0x3FFDC), (5, 0x3FFE0)], dmem := [(64, 0xAA), (103, 0xBB)] })] }

/-- VirgaStateInstructionResults: HEV and each of its faults (R414). -/
theorem test_virga_hev :
    (vself (after (exec (.virgaHev 1 3) stateHev))).pc = 0x104 ∧ (vself (after (exec (.virgaHev 2 3) stateHev))).vcause = 0x121
    ∧ (vself (after (exec (.virgaHev 1 4) stateHev))).vcause = 0x110 ∧ (vself (after (exec (.virgaHev 1 5) stateHev))).vcause = 0x111
    ∧ (after (exec (.virgaHev 1 3) stateHev)) = vmod (postHost stateHev ⟨0x10, 3, some 0, [0xAA] ++ zeroBytes 38 ++ [0xBB]⟩) vnext := by
  decide +kernel

/-! ### Steps and group boundaries -/

/-- Core 0 about to execute ADDI g1, g2, 1 from IMEM, and a word that is no instruction after it. -/
def stateStepV (pc : Nat) : State :=
  { stateV 0 { virga0 with pc := pc, imem := [(64, 0x30220001), (65, 1)] } with agenda := [.virga 0] }

/-- StepRunsDecodedInstruction: a Virga core and a micro-operation. -/
theorem test_step_virga :
    vreg (getVirga (after (step (stateStepV 0x100))) 0) 1 = 0 ∧ (getVirga (after (step (stateStepV 0x100))) 0).pc = 0x104
    ∧ (decodeVirga (imemWord (getVirga (stateStepV 0x100) 0) 0 0x100)).toOption = some (.virgaAddi 1 2 1)
    ∧ (decodeVirga (imemWord (getVirga (stateStepV 0x104) 0) 0 0x104)).toOption = none
    ∧ (getVirga (after (step (stateStepV 0x104))) 0).run = .stopped ∧ (after (step (stateStepV 0x104))).tick = 1
    ∧ fetchMicro { cellMat with mucode := [(9, some 0x1C048C0000000000)] } cmdRun1 = some (.uopAddc 1 2 3) := by
  decide +kernel

/-- Code at 0x100 of a mapped package: ADD s3, s3, s4 alone; at 0x110 the same beside VADD v1, v2, v3; at 0x120 a word of no
class. -/
def stateCode (c : Cell) : State :=
  let s := mapped (withCell { c with nacc := 1 })
  { withBytes (withBytes (withBytes s 0x100 (toBytes 0x900430C4 4 ++ zeroBytes 12)) 0x110 (toBytes 0x100430C4 4 ++ toBytes 0xB0001083 4 ++ zeroBytes 8))
      0x120 (toBytes 0xFFFFFFFF 4) with agenda := [.cell 0], input := .num 0 }

/-- The slots that a cell fetches, the words alone, and was a stop found? -/
def fetched (s : State) : Option (List (BitVec 32) × Bool) :=
  (passOf' (fetchGroup s 0).2).map fun x => (x.1.map Scanned.word, x.2)
where
  /-- What a fetch that succeeds gives. -/
  passOf' : Except (Nat × TrapInfo) (List Scanned × Bool) → Option (List Scanned × Bool)
    | .ok x => some x
    | .error _ => none

/-- StepRunsDecodedInstruction: a group of one slot and a group of two, which issue from memory (R264, R269). -/
theorem test_step_cell :
    fetched (stateCode { cell0 with pc := 0x100 }) = some ([0x900430C4], true)
    ∧ canIssue (stateCode { cell0 with pc := 0x100 }) 0 = true ∧ dutyPermits (stateCode { cell0 with pc := 0x100 }) 0 = true
    ∧ rdS (getCell (after (step (stateCode { cell0 with pc := 0x100 }))) 0) 3 = 0x8000000000000002
    ∧ (getCell (after (step (stateCode { cell0 with pc := 0x100 }))) 0).pc = 0x104
    ∧ fetched (stateCode { cell0 with pc := 0x110 }) = some ([0x100430C4, 0xB0001083], true)
    ∧ rdV (getCell (after (step (stateCode { cellV with pc := 0x110, v := lanesOf 2 [0x3FC00000] }))) 0) 1 0 = 0x3FC00000
    ∧ rdS (getCell (after (step (stateCode { cellV with pc := 0x110 }))) 0) 3 = 0x8000000000000002
    ∧ (getCell (after (step (stateCode { cellVec with pc := 0x120 }))) 0).cause = 0x01 := by
  decide +kernel

/-- GroupBoundaryResults: a turn of a stalled group, a deferred trap, a header out of place (R246, R267, R273). -/
theorem test_group_boundary :
    rdS (getCell (after (exec .stalledGroupCommit (stateCode { cell0 with pc := 0x100 }))) 0) 3 = 0x8000000000000002
    ∧ (getCell (after (exec .deferredTrap (stateCode { cellVec with pc := 0x100, deferred := [⟨⟨0x30, 9, 0, 0, 1, false⟩, none⟩, ⟨⟨0x1A, 0, 0, 0, 0, false⟩, none⟩] }))) 0).cause = 0x30
    ∧ (getCell (after (exec .deferredTrap (stateCode { cellVec with pc := 0x100, deferred := [⟨⟨0x30, 9, 0, 0, 1, false⟩, none⟩, ⟨⟨0x1A, 0, 0, 0, 0, false⟩, none⟩] }))) 0).deferred = [⟨⟨0x1A, 0, 0, 0, 0, false⟩, none⟩]
    ∧ (getCell (after (exec .deferredTrap (stateCode { cellVec with pc := 0x100, deferred := [⟨⟨0x30, 9, 0, 0, 1, false⟩, none⟩, ⟨⟨0x1A, 0, 0, 0, 0, false⟩, none⟩] }))) 0).trappc = 0x100
    ∧ (cellAfter .unassignedOpcode { withCell cellVec with iss := { state0.iss with word := 0x80000000 } }).cause = 0x04
    ∧ (cellAfter .unassignedOpcode { withCell cellVec with iss := { state0.iss with word := 0x9FFFFFFF } }).cause = 0x01
    ∧ structuralCauses [] true [⟨0x100, 0x900430C4, none, .ok (.add 0 3 3 4), true, false⟩] = [] := by
  decide +kernel

/-- A die with one pending line that holds bytes 4 and 5 of line 16. -/
def stateLine (now : BitVec 64) : State :=
  { withBytes state0 0x1004 [1, 2, 3] with
    dies := [(0, { dieEmpty with lines := [(16, some ⟨[(4, some 9), (5, some 8)], 500, []⟩)] })]
    pkg := { state0.pkg with gtime := now }
    input := .pair 0 16 }

/-- GroupBoundaryResults: a pending line stays until 2 µs have passed, and then goes to HBM (R186). -/
theorem test_line_drain :
    after (exec .wcsLineDrainTimeout (stateLine 2499)) = stateLine 2499
    ∧ (List.range 5).map (fun i => memByte (after (exec .wcsLineDrainTimeout (stateLine 2500))) (0x1003 + i)) = [0, 9, 8, 3, 0]
    ∧ (getDie (after (exec .wcsLineDrainTimeout (stateLine 2500))) 0).lines = [] ∧ physByte (stateLine 2499) 0x1004 = 9 := by
  decide +kernel

/-! ### The package and the host -/

/-- The state with a start-up phase to come. -/
def atPhase (n : Nat) : State := { State.reset with pkg := { Package.reset with phase := n, firmware := [7] }, dies := [(1, { dieEmpty with badChannels := 1 })] }

/-- ResetHoldsResetValues, and StartupResults: phases 2 to 4 in turn, and a phase that is not next (R39, R394). -/
theorem test_startup :
    ownTurn State.reset = .event .startupPhase1 .none ∧ (after (exec .startupPhase2 (atPhase 2))).pkg.phase = 3
    ∧ (getVirga (after (exec .startupPhase2 (atPhase 2))) 7).run = .run ∧ (getVirga (after (exec .startupPhase2 (atPhase 2))) 7).image = some [7]
    ∧ (after (exec .startupPhase3 (atPhase 3))).dies = [] ∧ (after (exec .startupPhase4 (atPhase 4))).pkg.phase = 5
    ∧ after (exec .startupPhase3 (atPhase 2)) = atPhase 2 ∧ (after (exec .perstAssert (atPhase 4))).pkg.phase = 1
    ∧ (after (exec .perstAssert (atPhase 4))).pkg.firmware = [7] ∧ Package.reset.failed = false := by
  decide +kernel

/-- StartupResults: whatever phase 1 finds of the image, it does one of the two things that the claim states. -/
theorem test_startup_phase1 :
    (after (exec .startupPhase1 (atPhase 1))).pkg.phase = 2 ∨ (after (exec .startupPhase1 (atPhase 1))).pkg.failed = true := by
  have he : after (exec .startupPhase1 (atPhase 1)) = verifyFirmware (atPhase 1) := by rfl
  rw [he, verifyFirmware]
  split
  · exact .inl rfl
  · exact .inr rfl

/-- A running package with an event's data. -/
def atEvent (x : Input) : State :=
  { State.reset with
    pkg := { Package.reset with phase := 6, gtime := 1000 }
    cells := [(0, cell0)]
    virga := [(1, { virga0 with timers := [(2, ⟨400, 250, 0⟩), (3, ⟨400, 0, 1⟩)] })]
    net := { Net.reset with ports := [(0, ⟨true, true⟩), (17, ⟨true, true⟩)] }
    cxl := [(3, { cxlEmpty with up := true, capacity := 4096 })]
    gafin := { Gafin.reset with cntsrc := [(5, 0x7002)] }
    input := x }

/-- The package with PTP accepted, on port 17, in a mode. -/
def atPtp (m : PtpMode) (x : Input) : State :=
  let s := atEvent x
  { s with pkg := { s.pkg with ptp := m, ptpPort := 17 }, gafin := { s.gafin with drvfeat := 0x1FF, featok := true } }

/-- PackageEventResults: an exchange counts in one mode alone, and loss of light on its port holds GTRATE (R36). -/
theorem test_ptp :
    feature (atPtp .follow (.num 99)) 8 = true ∧ feature (atEvent (.num 99)) 8 = false
    ∧ (after (exec .ptpExchangeComplete (atPtp .follow (.num 99)))).pkg.ptpofs = 99
    ∧ (after (exec .ptpExchangeComplete (atPtp .follow (.num 99)))).pkg.ptpseq = 1
    ∧ (after (exec .ptpExchangeComplete (atPtp .hold (.num 99)))).pkg.ptpseq = 0
    ∧ (after (exec .lossOfLight (atPtp .follow (.num 17)))).pkg.ptp = .hold
    ∧ (after (exec .gtrateWrite (atPtp .hold (.num 4)))).pkg.gtrate = 0
    ∧ (after (exec .gtrateWrite (atPtp .follow (.num 4)))).pkg.gtrate = 4 := by
  decide +kernel

/-- PackageEventResults: THERMTRIP of an IO die, GTSTEP forward and with bit 63, GTRATE at its bound (R36, R38, R397). -/
theorem test_package_time :
    canIssue (atEvent (.num 17)) 0 = true ∧ canIssue (after (exec .thermtrip (atEvent (.num 17)))) 0 = false
    ∧ (after (exec .gtstepWrite (atEvent (.num 0x8000000000000000)))).pkg.gtime = 1000
    ∧ (after (exec .gtstepWrite (atEvent (.num 5)))).pkg.gtime = 1005 ∧ (after (exec .gtstepWrite (atEvent (.num 5)))).pkg.gtstepDone = true
    ∧ (after (exec .gtrateWrite (atEvent (.num 0x80000000)))).pkg.gtrate = 0xFFDF3B65
    ∧ (after (exec .gtrateWrite (atEvent (.num 4)))).pkg.gtrate = 4 := by
  decide +kernel

/-- PackageEventResults: timers with and without a period (R407): deadlines 400, 650 and 900 have passed at 1000. -/
theorem test_timer_expiry :
    getTimer (getVirga (after (exec .virgaTimerExpiry (atEvent (.pair 1 2)))) 1) 2 = ⟨1150, 250, 3⟩
    ∧ getTimer (getVirga (after (exec .virgaTimerExpiry (atEvent (.pair 1 3)))) 1) 3 = ⟨0, 0, 2⟩
    ∧ (getVirga (after (exec .virgaTimerExpiry (atEvent (.pair 1 3)))) 1).queue = [⟨13, false, false, 0, 0, none, 1000, 0, 0, 3⟩] := by
  decide +kernel

/-- PackageEventResults: errors of memories and logic (R123, R260, R261). -/
theorem test_errors :
    physPoisoned (after (exec .eccUncorrectable (atEvent (.triple 0 0x1234 0)))) 0x1230 1 = true
    ∧ nearPoisoned (getCell (after (exec .eccUncorrectable (atEvent (.triple 1 0 0x10008)))) 0) 1 8 1 = true
    ∧ regPoisoned (getCell (after (exec .eccUncorrectable (atEvent (.triple 5 0 3)))) 0) 3 = true
    ∧ (getVirga (after (exec .eccUncorrectable (atEvent (.triple 4 1 0)))) 1).run = .stopped
    ∧ tblGet 0 (after (exec .eccCorrected (atEvent (.pair 7 2)))).gafin.cnt 5 = 1
    ∧ canIssue (after (exec .parityError (atEvent (.num 0)))) 0 = false
    ∧ (getDie (after (exec .remapTableUe (atEvent (.pair 2 31)))) 2).badChannels = 0x80000000 := by
  decide +kernel

/-- PackageEventResults: links (R23, R29, R50). -/
theorem test_links :
    (getCxl (after (exec .cxlLinkDown (atEvent (.num 3)))) 3).up = false ∧ (getCxl (after (exec .cxlLinkDown (atEvent (.num 3)))) 3).reported = true
    ∧ getPort (after (exec .lossOfLight (atEvent (.num 17)))) 17 = ⟨false, false⟩
    ∧ getPort (after (exec .linkRetrained (atEvent (.num 16)))) 16 = ⟨true, false⟩
    ∧ ((getVirga (after (exec .linkRetrained (atEvent (.num 16)))) 1).queue.map EventRec.code) = [6]
    ∧ (after (exec .pauseFrameReceived (atEvent (.num 17)))).net = (atEvent (.num 17)).net
    ∧ (after (exec .sidebandFirmwareWrite (atEvent (.bytes 0 [1, 2])))).pkg.firmware = [1, 2]
    ∧ (getCxl { atEvent (.num 3) with cxl := [(3, { cxlEmpty with resetting := true })] } 3).resetting = true := by
  decide +kernel

/-- A package whose host interface is ready, queue 3 set up, with an event's data. -/
def atHost (x : Input) : State :=
  { atEvent x with
    gafin := { Gafin.reset with ready := true, drvfeat := 0x1FF, evbase := 0x1234000, evlost := 7, queues := [(3, { queueEmpty with log2sz := 4, base := 0x5000 })] } }

/-- A host whose features were accepted. -/
def withFeatures (s : State) : State := { s with gafin := { s.gafin with featok := true } }

/-- Gafin after a register access. -/
def gafinAfter (i : Instr) (x : Input) : Gafin := (after (exec i (atHost x))).gafin

/-- HostRegisterResults: reads before and after READY, and plain writes (R40, R104, R105). -/
theorem test_host_registers :
    readBar (atHost .none) 0x100 4 = 0x1FF ∧ readBar (atHost .none) 0x300 8 = 0x1234000 ∧ readBar (atHost .none) 0x104 2 = 0
    ∧ readBar (atEvent .none) 0x300 8 = 0 ∧ (gafinAfter .registerWrite (.pair 0x320 4)).reads = [[7, 0, 0, 0]]
    ∧ (gafinAfter .registerWrite (.triple 0x300 8 0x12345FFF)).evbase = 0x12345000
    ∧ (gafinAfter .registerWrite (.triple 0x320 4 5)).evlost = 2 ∧ (gafinAfter .registerWrite (.triple 0x408 4 9)).semcount = 9
    ∧ (gafinAfter .registerWrite (.triple 0x120 4 3)).drvfeat = 3 := by
  decide +kernel

/-- HostRegisterResults: queue fields, and a queue that is enabled (R108). -/
theorem test_host_queue_registers :
    getQueue (after (exec .registerWrite (atHost (.triple (0x10008 + 192) 8 0x7FFF)))) 3 = { queueEmpty with log2sz := 4, base := 0x7000 }
    ∧ (getQueue (after (exec .registerWrite (atHost (.triple (0x10000 + 192) 4 0x507)))) 3).prio = 5
    ∧ (getQueue (after (exec .qcfgEnable (atHost (.triple (0x10004 + 192) 4 0x80000000)))) 3).en = false
    ∧ (getQueue (after (exec .qcfgEnable (withFeatures (atHost (.triple (0x10004 + 192) 4 0x80000000))))) 3).en = true
    ∧ (getQueue (after (exec .qcfgDisable (atHost (.triple (0x10004 + 192) 4 0)))) 3).en = false
    ∧ (getQueue (after (exec .qnotify (atHost (.triple (0x400000 + 3 * 4096) 4 17)))) 3).notified = 16
    ∧ (getQueue (after (exec .qcfgEnable { atHost (.triple (0x10004 + 192) 4 0x80000000) with gafin := { Gafin.reset with ready := true } })) 3).en = false
    ∧ (getQueue (after (exec .qcfgResume { atHost (.triple (0x10004 + 192) 4 0x20000000) with gafin := { Gafin.reset with ready := true, queues := [(3, { queueEmpty with halted := true, haltCause := 2 })] } })) 3).halted = false := by
  decide +kernel

/-- HostRegisterResults: features, EN, the ring and an access before READY (R40, R106, R107, R120). -/
theorem test_host_control :
    (gafinAfter .gctlFeat (.triple 0x200 4 1)).featok = true
    ∧ (after (exec .gctlFeat { atHost (.triple 0x200 4 1) with gafin := { (atHost .none).gafin with drvfeat := 0x200 } })).gafin.featerr = true
    ∧ (gafinAfter .gctlEn (.triple 0x200 4 2)).en = false
    ∧ (after (exec .gctlEn { atHost (.triple 0x200 4 2) with gafin := { (atHost .none).gafin with featok := true } })).gafin.en = true
    ∧ (gafinAfter .gctlEven (.triple 0x200 4 4)).even = true ∧ (gafinAfter .evconsWrite (.triple 0x318 4 77)).evcons = 77
    ∧ after (exec .gctlFeat (atEvent (.triple 0x200 4 1))) = atEvent (.triple 0x200 4 1) := by
  decide +kernel

/-- A command: code, flags, context, header semaphore, and payload bytes from byte 16 on; index 5 of queue 3, lap 0. -/
def cmdOf (code flags ctx : Nat) (payload : List Byte) : Cmd :=
  ⟨3, 5, 0, toBytes code 1 ++ toBytes flags 1 ++ zeroBytes 2 ++ toBytes ctx 2 ++ toBytes 2 2 ++ toBytes 8 8 ++ payload ++ zeroBytes (48 - payload.length), false⟩

/-- A ready package: queue 3 of 16 slots at host 0x5000 with its completions at 0x6000, semaphores at HBM 0x7000. -/
def atReady (x : Input) : State :=
  { atEvent x with
    ctxs := [(1, { ctxEmpty with live := true })]
    gafin := { Gafin.reset with ready := true, en := true, drvfeat := 0x1FF, featok := true, sembase := 0x7000, semcount := 16, queues := [(3, { queueEmpty with en := true, log2sz := 4, base := 0x5000, cbase := 0x6000, notified := 6, cons := 5 })] } }

/-- The package with a command running, at the event of its row. -/
def atCmd (c : Cmd) : State :=
  let s := atReady (.command 3 5 c.bytes)
  { s with gafin := { s.gafin with running := [⟨c, 500, 0, 0⟩] } }

/-- The package with the running command named by its queue and index. -/
def againCmd (c : Cmd) : State := { atCmd c with input := .pair 3 5 }

/-- The completion slot of index 5: index, lap, status, code, detail. -/
def slotOf (s : State) : Nat × Nat × Nat × Nat × Nat :=
  (physNat s 0x8000000006050 4, physNat s 0x8000000006054 2, physNat s 0x8000000006056 1, physNat s 0x8000000006057 1, physNat s 0x8000000006058 8)

/-! ### Turns that bring events and commands -/

/-- SIGNAL of semaphore 15 with 9. -/
def cmdSignal : Cmd := cmdOf 3 0 1 (toBytes 15 2 ++ zeroBytes 6 ++ toBytes 9 8)

/-- A turn of the command processor, with accepted commands. -/
def stateCommand (l : List Cmd) : State :=
  let s := atReady .none
  { s with agenda := [.command], gafin := { s.gafin with accepted := l } }

/-- StepRunsEventsAndCommands: a turn that brings an event, one that starts a command, and one of a malformed command (R111, R114). -/
theorem test_step_events :
    (after (step { atEvent .none with agenda := [.event .gtstepWrite (.num 5)] })).pkg.gtime = 1005
    ∧ isEvent .gtstepWrite = true ∧ nextCmd (stateCommand [cmdSignal]) = some cmdSignal ∧ cmdBad (stateCommand [cmdSignal]) cmdSignal = none
    ∧ cmdKilled (stateCommand [cmdSignal]) cmdSignal = false ∧ cmdRow cmdSignal.bytes = some .signal
    ∧ semValue (after (step (stateCommand [cmdSignal]))) 15 = 9
    ∧ cmdBad (stateCommand [cmdOf 3 4 0 []]) (cmdOf 3 4 0 []) = some 1 ∧ slotOf (after (step (stateCommand [cmdOf 3 4 0 []]))) = (5, 0, 2, 1, 0) := by
  decide +kernel

/-- StepRunsEventsAndCommands: the codes of malformed commands in their order (R114). -/
theorem test_malformed_codes :
    cmdBad (stateCommand []) (cmdOf 0x12 0 0 []) = some 1 ∧ cmdBad (stateCommand []) (cmdOf 3 0 0x1000 []) = some 1
    ∧ cmdBad (stateCommand []) (cmdOf 3 0 0 [0, 0, 1]) = some 1 ∧ cmdBad (stateCommand []) (cmdOf 2 0 0 []) = some 2
    ∧ cmdBad (stateCommand []) (cmdOf 5 0 9 [1]) = some 2 ∧ cmdBad (stateCommand []) (cmdOf 6 0 2 []) = some 4
    ∧ cmdBad (stateCommand []) (cmdOf 3 0 1 [16]) = some 5 ∧ cmdBad (stateCommand []) (cmdOf 3 0 1 [15]) = none := by
  decide +kernel

/-- EveryStepKeepsInvariant and InvariantHoldsAtReset: a memory that lists two bytes in order, and one that is not canonical. -/
theorem test_canonical :
    Memory.wf State.reset.mem = true ∧ Memory.wf [(1, 5), (9, 6)] = true ∧ Memory.wf [(9, 5), (1, 6)] = false ∧ Memory.wf [(1, 0)] = false := by
  decide +kernel

/-! ### The host port -/

/-- A package with queue 3 at index 20 of a ring of 16, its command in slot 4 with a lap stamp. -/
def stateFetch (lap : Nat) (tries : Nat) (when_ : Nat) : State :=
  let s := withBytes (atReady (.num 3)) 0x8000000005100 ((3 : Byte) :: 0 :: toBytes lap 2 ++ zeroBytes 60)
  modQueue s 3 fun q => { q with cons := 20, notified := 21, tries := tries, retryAt := when_ }

/-- HostPortResults: a fetch with the right stamp, a wrong one, the ninth wrong one (R110). -/
theorem test_command_fetch :
    (after (exec .commandFetch (stateFetch 1 0 0))).gafin.accepted.map (fun c => (c.queue, c.index, c.lap)) = [(3, 20, 1)]
    ∧ (getQueue (after (exec .commandFetch (stateFetch 1 0 0))) 3).cons = 21
    ∧ (getQueue (after (exec .commandFetch (stateFetch 2 0 0))) 3).retryAt = 2000
    ∧ (getQueue (after (exec .stampRefetch (stateFetch 2 1 1000))) 3).tries = 2
    ∧ (getQueue (after (exec .stampRefetch (stateFetch 2 8 1000))) 3).haltCause = 1
    ∧ (after (exec .stampRefetch (stateFetch 2 8 1000))).gafin.evprod = 0
    ∧ (getQueue (after (exec .stampRefetch (stateFetch 1 1 1000))) 3).cons = 21
    ∧ after (exec .stampRefetch (stateFetch 1 0 0)) = stateFetch 1 0 0 := by
  decide +kernel

/-- The package in a phase of start-up, with a configuration request. -/
def atConfig (phase : Nat) (x : Input) : State := { atReady x with pkg := { Package.reset with phase := phase } }

/-- HostPortResults: configuration requests, and BAR 2 at the end of the memory (R40, R103). -/
theorem test_config_and_bar2 :
    (after (exec .configRequest (atConfig 2 (.num 8)))).gafin.config = [] ∧ (after (exec .configRequest (atConfig 4 (.num 8)))).gafin.config = [.retry]
    ∧ (after (exec .configRequest (atConfig 5 (.num 0x10)))).gafin.config = [.value 4]
    ∧ tblGet 0 (after (exec .configRequest (atConfig 5 (.pair 0x14 7)))).gafin.bars 0 = 0x700000000
    ∧ tblGet 0 (after (exec .configRequest (atConfig 5 (.triple 0 0 11)))).gafin.bars 2 = 11
    ∧ (after (exec .bar2Access (withBytes (atConfig 5 (.pair 0xFFFFFFE 2)) 0xFFFFFFE [7, 8]))).gafin.reads = [[7, 8]]
    ∧ memByte (after (exec .bar2Access (atConfig 5 (.bytes 0xFFFFFFF [9])))) 0xFFFFFFF = 9
    ∧ after (exec .bar2Access (atConfig 5 (.bytes 0x10000000 [9]))) = atConfig 5 (.bytes 0x10000000 [9]) := by
  decide +kernel

/-- HostPortResults: BAR 2 of 512 GiB, from its last byte of memory on (R103); the answers of the root of trust (R125). -/
theorem test_bar2_hole_and_spdm :
    (after (exec .bar2Access (withBytes { atConfig 5 (.pair 0x5FFFFFFFFF 2) with gafin := { Gafin.reset with bars := [(2, 11)] } } 0x5FFFFFFFFF [7]))).gafin.reads = [[7, 0xFF]]
    ∧ (after (exec .spdmGetVersion (atConfig 5 (.bytes 0 [0x10])))).pkg.spdm.map (fun a => (a.code, a.values)) = [(0x84, [])]
    ∧ (after (exec .spdmChallenge (atConfig 5 (.bytes 0 [0x10])))).pkg.spdm.map (fun a => a.code) = [0x83]
    ∧ (after (exec .spdmGetMeasurements (atConfig 5 (.bytes 0 [0x10])))).pkg.spdm.map (fun a => a.values.map Prod.fst) = [[1, 2, 3, 4]] := by
  decide +kernel

/-! ### Commands -/

/-- CommandResults: a signal in the header of a command that is DONE, SIGNAL of a smaller value (R116, R117). -/
theorem test_signal :
    slotOf (after (exec .signal (atCmd cmdSignal))) = (5, 0, 0, 0, 0) ∧ (after (exec .signal (atCmd cmdSignal))).gafin.msix = [4]
    ∧ semValue (after (exec .signal (atCmd (cmdOf 3 2 0 (toBytes 1 2))))) 2 = 8
    ∧ semValue (after (exec .signal (withBytes (atCmd cmdSignal) 0x7078 [10]))) 15 = 10
    ∧ (after (exec .signal (atCmd cmdSignal))).gafin.running = [] ∧ runningCmd (atCmd cmdSignal) 3 5 = some cmdSignal := by
  decide +kernel

/-- WAITSEM for 8 in semaphore 1, with a timeout of 1 ms. -/
def cmdWaitsem : Cmd := cmdOf 4 0 0 (toBytes 1 2 ++ zeroBytes 6 ++ toBytes 8 8 ++ toBytes 1000 4)

/-- CommandResults: WAITSEM reached, not reached, and timed out (R118). -/
theorem test_waitsem :
    slotOf (after (exec .waitsem (withBytes (atCmd cmdWaitsem) 0x7008 [8]))) = (5, 0, 0, 0, 0)
    ∧ after (exec .waitsem (atCmd cmdWaitsem)) = atCmd cmdWaitsem ∧ after (exec .waitsemReevaluate (againCmd cmdWaitsem)) = againCmd cmdWaitsem
    ∧ slotOf (after (exec .waitsemReevaluate (withBytes (againCmd cmdWaitsem) 0x7008 [9]))) = (5, 0, 0, 0, 0)
    ∧ after (exec .waitsemTimeout (againCmd cmdWaitsem)) = againCmd cmdWaitsem
    ∧ slotOf (after (exec .waitsemTimeout { againCmd cmdWaitsem with pkg := { (atReady .none).pkg with gtime := 1000500 } })) = (5, 0, 3, 0, 0)
    ∧ (getQueue (after (exec .waitsemTimeout { againCmd cmdWaitsem with pkg := { (atReady .none).pkg with gtime := 1000500 } })) 3).haltCause = 2 := by
  decide +kernel

/-- HCOPY of n bytes from 0x2003 to 0x3006, virtual or not. -/
def cmdHcopy (n : Nat) (virt : Byte) : Cmd := cmdOf 2 0 1 (toBytes 0x2003 8 ++ toBytes 0x3006 8 ++ toBytes n 8 ++ [virt])

/-- CommandResults: HCOPY starts, ends with the word of its destination, and stops at a page that is not mapped (R113, R115). -/
theorem test_hcopy :
    slotOf (after (exec .hcopy (atCmd (cmdHcopy 2 0)))) = (0, 0, 0, 0, 0)
    ∧ physBytes (after (exec .hcopyComplete (withBytes (againCmd (cmdHcopy 2 0)) 0x2003 [7, 8, 9]))) 0x3006 3 = [7, 8, 0]
    ∧ slotOf (after (exec .hcopyComplete (againCmd (cmdHcopy 2 0)))) = (5, 0, 0, 0, 0)
    ∧ physBytes (after (exec .hcopyComplete (withBytes (againCmd (cmdHcopy 11 0)) 0x2003 [7, 8, 9]))) 0x3006 3 = [7, 8, 9]
    ∧ slotOf (after (exec .hcopyComplete (againCmd (cmdHcopy 1 1)))) = (5, 0, 4, 1, 0x2003) := by
  decide +kernel

/-- CTXNEW of context 9 with its root at 0x9000. -/
def cmdCtxnew (ctx : Nat) : Cmd := cmdOf 5 0 ctx (toBytes 0x9000 8 ++ toBytes 0xA000 8)
/-- MAPSET of context 1: operation, 3 pages from 0x20000, a root at 0x9000. -/
def cmdMapset (op : Byte) : Cmd := cmdOf 9 0 1 (toBytes 0x20000 8 ++ toBytes 3 8 ++ [op] ++ zeroBytes 7 ++ toBytes 0x9000 8)
/-- The same package with translations in a core and a layout unit. -/
def withTlbs (s : State) : State :=
  let l : List TlbEntry := [⟨1, 1, 16, 0xE00F, 0⟩, ⟨1, 4, 16, 0xE00F, 0⟩, ⟨1, 5, 16, 0xE00F, 0⟩, ⟨2, 4, 16, 0xE00F, 0⟩]
  { s with cores := [(7, { coreEmpty with tlb := l })], dies := [(3, { dieEmpty with tlb := l })] }

/-- CommandResults: contexts and translations (R114, R190, R197). -/
theorem test_context_commands :
    (getCtx (after (exec .ctxnew (atCmd (cmdCtxnew 9)))) 9).root = 0x9000 ∧ slotOf (after (exec .ctxnew (atCmd (cmdCtxnew 1)))) = (5, 0, 1, 1, 0)
    ∧ ((getCore (after (exec .mapsetInvalidate (withTlbs (atCmd (cmdMapset 0))))) 7).tlb.map fun e => (e.ctx, e.page)) = [(1, 1), (1, 5), (2, 4)]
    ∧ ((getDie (after (exec .mapsetInvalidate (withTlbs (atCmd (cmdMapset 0))))) 3).tlb.map fun e => (e.ctx, e.page)) = [(1, 1), (1, 5), (2, 4)]
    ∧ tblWf coreEmpty (withTlbs (atCmd (cmdMapset 0))).cores = true ∧ tblWf dieEmpty (withTlbs (atCmd (cmdMapset 0))).dies = true
    ∧ ((getCore (after (exec .mapsetReplaceRoot (withTlbs (atCmd (cmdMapset 1))))) 7).tlb.map fun e => (e.ctx, e.page)) = [(2, 4)]
    ∧ (getCtx (after (exec .mapsetReplaceRoot (withTlbs (atCmd (cmdMapset 1))))) 1).root = 0x9000 := by
  decide +kernel

/-- FEATURE of a parameter. -/
def cmdFeat (p v : Nat) : Cmd := cmdOf 15 0 0 (toBytes p 2 ++ zeroBytes 6 ++ toBytes v 8)

/-- CommandResults: FEATURE of each parameter (R29, R36, R42, R113, R259, R261). -/
theorem test_feature :
    (after (exec .featurePowerLimit (atCmd (cmdFeat 1 4000)))).pkg.powerLimit = 4000 ∧ (after (exec .featurePtpPort (atCmd (cmdFeat 2 127)))).pkg.ptpPort = 127
    ∧ (after (exec .featureUdpPort (atCmd (cmdFeat 3 65535)))).pkg.udpPort = 65535 ∧ (after (exec .featureWatchdog (atCmd (cmdFeat 4 1)))).pkg.watchdog = 1
    ∧ (getCxl (after (exec .featureCxlReset (atCmd (cmdFeat 5 7)))) 7).resetCmds = [(3, 5)]
    ∧ (getDie (after (exec .featureRemapReload { atCmd (cmdFeat 6 7) with dies := [(7, { dieEmpty with badChannels := 3 })] })) 7).badChannels = 0 := by
  decide +kernel

/-- CommandResults: CNTSET resets counter 63 and keeps the others; an armed counter wraps (R123). -/
theorem test_counters :
    (tblGet 0 (after (exec .cntset (atCmd (cmdOf 16 0 0 [63, 0, 0x12, 0x34, 3])))).gafin.cntsrc 63).toNat = 0x33412
    ∧ tblGet 0 (after (exec .cntset (let s := atCmd (cmdOf 16 0 0 [63, 0, 0x12, 0x34, 1]); { s with gafin := { s.gafin with cnt := [(62, 4), (63, 5)] } }))).gafin.cnt 63 = 0
    ∧ tblGet 0 (after (exec .cntset (let s := atCmd (cmdOf 16 0 0 [63, 0, 0x12, 0x34, 1]); { s with gafin := { s.gafin with cnt := [(62, 4), (63, 5)] } }))).gafin.cnt 62 = 4
    ∧ tblGet 0 (after (exec .counterWrap (let s := atReady (.num 63); { s with gafin := { s.gafin with cntsrc := [(63, 0x47002)] } }))).gafin.cntsrc 63 = 0x7002 := by
  decide +kernel

/-- FWLOAD of two bytes at 0x4000. -/
def cmdFwload : Cmd := cmdOf 17 0 0 (toBytes 0x4000 8 ++ toBytes 2 8)

/-- CommandResults: FWLOAD of an image, whatever its check answers (R124). -/
theorem test_fwload :
    (after (exec .fwload (atCmd cmdFwload))).pkg.firmware = [0, 0] ∨ slotOf (after (exec .fwload (atCmd cmdFwload))) = (5, 0, 1, 1, 0) := by
  have hb : physBytes (atCmd cmdFwload) (cmdNat cmdFwload.bytes 16 8) (cmdNat cmdFwload.bytes 24 8) = [0, 0] := by decide +kernel
  have he : after (exec .fwload (atCmd cmdFwload)) = fwloadCmd (atCmd cmdFwload) cmdFwload := by rfl
  rw [he, fwloadCmd, hb]
  split
  · exact .inl (by decide +kernel)
  · exact .inr (by decide +kernel)
/-! ### Launches, placement and the scheduler -/

/-- A descriptor of a launch of n cells of one stage, code at 0x10000, argument 0x77, swap area at 0x400000, NACC 3, bank 0 SPAD. -/
def descOf (n acc : Nat) : List Byte :=
  toBytes 0x10000 8 ++ toBytes 0x77 8 ++ toBytes 0x400000 8 ++ zeroBytes 18 ++ toBytes n 1 ++ [1] ++ toBytes acc 1 ++ zeroBytes 19 ++ toBytes 0x20 4 ++ zeroBytes 60 ++ [1] ++ zeroBytes 127

/-- The launch of that descriptor by the command at index 5 of queue 3: 3 teams, priority 2, class 1, threshold and grace window of 1 µs. -/
def launchOne (n : Nat) : Launch := ⟨descOf n 3, [], [], 3, 2, 1, 1, 1, 3, 5⟩

/-- LAUNCH of a descriptor at 0x4000. -/
def cmdLaunch : Cmd := cmdOf 1 0 1 (toBytes 0x4000 8 ++ toBytes 3 2 ++ [2, 1] ++ toBytes 1 4 ++ toBytes 1 4)

/-- LaunchAndSchedulerResults: a launch creates its teams; a bad one names its first offending field; a second is refused (R127, R131, R133). -/
theorem test_launch :
    (getCtx (after (exec .launch (withBytes (atCmd cmdLaunch) 0x4000 (descOf 2 3)))) 1).launch = some (launchOne 2)
    ∧ (getTeam (after (exec .launch (withBytes (atCmd cmdLaunch) 0x4000 (descOf 2 3)))) 65538) = { teamEmpty with run := .queued, queuedAt := 2 }
    ∧ (getTeam (after (exec .launch (withBytes (atCmd cmdLaunch) 0x4000 (descOf 2 3)))) 65539).run = .absent
    ∧ slotOf (after (exec .launch (withBytes (atCmd cmdLaunch) 0x4000 (descOf 17 3)))) = (5, 0, 1, 2, 42)
    ∧ slotOf (after (exec .launch (withBytes (atCmd cmdLaunch) 0x4000 (descOf 16 49)))) = (5, 0, 1, 2, 44)
    ∧ slotOf (after (exec .launch { atCmd cmdLaunch with ctxs := [(1, { ctxEmpty with live := true, launch := some (launchOne 2) })] })) = (5, 0, 1, 3, 0)
    ∧ (readLaunchTable (atCmd cmdLaunch) 1 0 512 true).2 = some [] ∧ launchBad (descOf 2 3) (some []) (some []) = none := by
  decide +kernel

/-- Teams of context 1 under a launch of n cells, an event's data. -/
def stateTeams (n : Nat) (l : Tbl Team) (x : Input) : State :=
  { atReady x with
    ctxs := [(1, { ctxEmpty with live := true, launch := some (launchOne n) })]
    cells := []
    teams := l
    pkg := { Package.reset with phase := 6, gtime := 20000 } }

/-- A team that waits in the queue. -/
def teamQueued : Team := { teamEmpty with run := .queued }

/-- LaunchAndSchedulerResults: the head of the queue is placed on cores of one cluster (R138, R139). -/
theorem test_team_place :
    (headTeam (stateTeams 2 [(65538, teamQueued)] .none)).map Prod.fst = some 65538 ∧ fitTeam (stateTeams 2 [(65538, teamQueued)] .none) (descOf 2 3) teamQueued = some [0, 2]
    ∧ (getTeam (after (exec .teamPlace (stateTeams 2 [(65538, teamQueued)] .none))) 65538).seats = [0, 2]
    ∧ (getCell (after (exec .teamPlace (stateTeams 2 [(65538, teamQueued)] .none))) 2).pc = 0x10020
    ∧ (fun (c : Cell) => (c.team, c.cell, c.nacc, rdS c 1, (getBank c 0).alloc, (getBank c 1).alloc)) (getCell (after (exec .teamPlace (stateTeams 2 [(65538, teamQueued)] .none))) 2) = (2, 1, 3, 0x77, true, false)
    ∧ headTeam (stateTeams 2 [] .none) = none ∧ after (exec .teamPlace (stateTeams 2 [] .none)) = stateTeams 2 [] .none
    ∧ fitTeam (stateTeams 17 [(65538, teamQueued)] .none) (descOf 17 3) teamQueued = none := by
  decide +kernel

/-- A placed team on slot 0, and another that waits. -/
def teamsTwo : Tbl Team := [(65536, { teamEmpty with run := .placed, seats := [0] }), (65537, teamQueued)]

/-- Cell 0 waiting until the word at 0x40008, mapped, is 5. -/
def cellIdle0 : Cell := { cell0 with run := .wait, thresh := 1, waitSince := 19000, waitWord := some (0x40008, true, 0, 5) }

/-- The first team idle while the second waits. -/
def stateSwap : State :=
  { paged 0x4600F (stateTeams 1 teamsTwo (.pair 1 0)) with
    cells := [(0, cellIdle0)]
    ctxs := [(1, { ctxEmpty with live := true, launch := some (launchOne 1), root := 0x10000 })] }

/-- The swap of the first team, with cells still to be written. -/
def swapJob (left : List Nat) : SaveJob := ⟨1, 0, .swap, 0x400000, 1, left, [], [], none, 0, 0⟩

/-- LaunchAndSchedulerResults: an idle team is swapped, one that is not idle long enough stays (R147). -/
theorem test_swap :
    swapConditions stateSwap 1 0 = some [.word 1 0x40008 0 5]
    ∧ (fun (t : Team) => (t.run, t.wakes)) (getTeam (after (exec .swapTest stateSwap)) 65536) = (.swapping, [.word 1 0x40008 0 5])
    ∧ (after (exec .swapTest stateSwap)).saves = [swapJob [0]] ∧ (getCtx (after (exec .swapTest stateSwap)) 1).savecnt = 1
    ∧ swapConditions { stateSwap with pkg := { Package.reset with gtime := 19999 } } 1 0 = none
    ∧ after (exec .swapTest { stateSwap with pkg := { Package.reset with gtime := 19999 } }) = { stateSwap with pkg := { Package.reset with gtime := 19999 } } := by
  decide +kernel

/-- A swapped team that waits for 5 at 0x3000. -/
def stateSwapped : State := stateTeams 1 [(65536, { teamEmpty with run := .swapped, started := true, wakes := [.word 1 0x3000 0 5] })] (.pair 1 0)

/-- LaunchAndSchedulerResults: a swap ends, and the wait monitor returns its team to the queue (R147, R148). -/
theorem test_wake :
    swapWritten { stateSwap with saves := [swapJob []] } 1 0 = true
    ∧ (getTeam (after (exec .swapComplete { stateSwap with saves := [swapJob []] })) 65536).run = .swapped
    ∧ (after (exec .swapComplete { stateSwap with saves := [swapJob []] })).saves = []
    ∧ (getTeam (after (exec .waitMonitorPoll (withBytes stateSwapped 0x3000 [5]))) 65536).run = .queued
    ∧ cmpWord 0 (BitVec.ofNat 64 (physNat (withBytes stateSwapped 0x3000 [5]) 0x3000 8)) 5 = true
    ∧ after (exec .waitMonitorPoll stateSwapped) = stateSwapped := by
  decide +kernel

/-- A team of a state with a hang period of 1 µs. -/
def stateHang (r : TeamRun) (idle : Nat) : State :=
  let s := stateTeams 1 [(65536, { teamEmpty with run := r, seats := [0], idle := idle })] (.pair 1 0)
  { s with pkg := { s.pkg with watchdog := 1 } }

/-- LaunchAndSchedulerResults: a hang is reported once, or latched while the team is saved (R259). -/
theorem test_hang :
    (getTeam (after (exec .ctxHang (stateHang .placed 1000))) 65536).hung = true ∧ (getTeam (after (exec .ctxHang (stateHang .placed 1000))) 65536).hangLatched = false
    ∧ (getTeam (after (exec .ctxHang (stateHang .saving 1000))) 65536).hangLatched = true
    ∧ (getTeam (after (exec .ctxHang (stateHang .placed 999))) 65536).hung = false
    ∧ after (exec .ctxHang (stateTeams 1 teamsTwo (.pair 1 0))) = stateTeams 1 teamsTwo (.pair 1 0) := by
  decide +kernel

/-- LaunchAndSchedulerResults: a step of the power manager lowers or raises the duty, once in 10 µs (R145). -/
theorem test_throttle :
    throttled (stateTeams 1 teamsTwo (.pair 0 1)) 0 true = [65536] ∧ powerClass (stateTeams 1 teamsTwo (.pair 0 1)) 65536 = 1
    ∧ (getTeam (after (exec .throttleStep (stateTeams 1 teamsTwo (.pair 0 1)))) 65536).dutyNext = 15
    ∧ (getTeam (after (exec .throttleStep (stateTeams 1 [(65536, { teamEmpty with run := .placed, seats := [0], dutyNext := 15 })] (.pair 0 0)))) 65536).dutyNext = 16
    ∧ (getTeam (after (exec .throttleStep (stateTeams 1 [(65536, { teamEmpty with run := .placed, seats := [0], dutyNext := 1 })] (.pair 0 1)))) 65536).dutyNext = 1
    ∧ (getTeam (after (exec .throttleStep { stateTeams 1 teamsTwo (.pair 0 1) with dies := [(0, { dieEmpty with lastThrottle := 10001 })] })) 65536).dutyNext = 16
    ∧ (getTeam (after (exec .throttleStep { stateTeams 1 teamsTwo (.pair 0 1) with dies := [(0, { dieEmpty with lastThrottle := 10000 })] })) 65536).dutyNext = 15 := by
  decide +kernel

/-! ### Saves, restores and removal -/

/-- CTXPREEMPT of a team to 0x2000000 with room for one or more teams. -/
def cmdPreempt (team cap : Nat) (mode : Byte) : Cmd := cmdOf 7 0 1 (toBytes 0x2000000 8 ++ toBytes cap 8 ++ toBytes team 2 ++ [mode])

/-- The running command over two teams. -/
def atTeams (c : Cmd) (l : Tbl Team) : State :=
  let s := stateTeams 1 l (.command 3 5 c.bytes)
  { s with cells := [(0, cell0)], gafin := { s.gafin with running := [⟨c, 500, 0, 0⟩] } }

/-- The save that it starts. -/
def jobOf (left : List Nat) (g : Option Nat) : SaveJob := ⟨1, 0, .preempt, 0x2000000, 1, left, [], [], g, 3, 5⟩

/-- SaveAndRestoreResults: CTXPREEMPT in both modes, of a team that is not placed, and malformed (R149). -/
theorem test_preempt :
    (after (exec .ctxpreemptYield (atTeams (cmdPreempt 0 0x4000000 0) teamsTwo))).saves = [jobOf [0] (some 21000)]
    ∧ (getCell (after (exec .ctxpreemptYield (atTeams (cmdPreempt 0 0x4000000 0) teamsTwo))) 0).yreq = true
    ∧ (after (exec .ctxpreemptScan (atTeams (cmdPreempt 0 0x4000000 1) teamsTwo))).saves = [jobOf [0] none]
    ∧ (getCore (after (exec .ctxpreemptScan (atTeams (cmdPreempt 0 0x4000000 1) teamsTwo))) 0).stopped = true
    ∧ slotOf (after (exec .ctxpreemptYield (atTeams (cmdPreempt 1 0x4000000 0) teamsTwo))) = (5, 0, 0, 0, 0)
    ∧ slotOf (after (exec .ctxpreemptScan (atTeams (cmdPreempt 0 0x3FFFFFF 1) teamsTwo))) = (5, 0, 2, 2, 0)
    ∧ slotOf (after (exec .ctxpreemptScan (atTeams (cmdPreempt 3 0x4000000 1) teamsTwo))) = (5, 0, 2, 2, 0)
    ∧ slotOf (after (exec .ctxpreemptScan (atCmd (cmdPreempt 0 0x4000000 1)))) = (5, 0, 2, 2, 0)
    ∧ recordsFree (atTeams (cmdPreempt 0 0x4000000 0) teamsTwo) 1 [0] = true := by
  decide +kernel

/-- A save in progress of team 0 on slot 0, at an event. -/
def stateSave (c : Cell) (j : SaveJob) (x : Input) : State :=
  { stateTeams 1 [(65536, { teamEmpty with run := .saving, seats := [0] })] x with
    cells := [(0, c)]
    saves := [j] }

/-- SaveAndRestoreResults: the grace window, and what a save waits for (R149, R255). -/
theorem test_save :
    (after (exec .graceWindowEnd (stateSave cell0 (jobOf [0] (some 20000)) (.pair 3 5)))).saves = [jobOf [0] none]
    ∧ (getCore (after (exec .graceWindowEnd (stateSave cell0 (jobOf [0] (some 20000)) (.pair 3 5)))) 0).stopped = true
    ∧ after (exec .graceWindowEnd (stateSave cell0 (jobOf [0] (some 20001)) (.pair 3 5))) = stateSave cell0 (jobOf [0] (some 20001)) (.pair 3 5)
    ∧ after (exec .saveComplete (stateSave cell0 (jobOf [0] none) (.triple 1 0 0))) = stateSave cell0 (jobOf [0] none) (.triple 1 0 0)
    ∧ saveReady (stateSave { cell0 with run := .stopped } (jobOf [0] none) .none) (jobOf [0] none) 0 = true
    ∧ saveReady (atBeat (stateSave { cell0 with stopBeat := 36 } (jobOf [0] none) .none)) (jobOf [0] none) 0 = true
    ∧ saveReady (atBeat (stateSave { cell0 with stopBeat := 37 } (jobOf [0] none) .none)) (jobOf [0] none) 0 = false
    ∧ seatFor (stateSave cell0 (jobOf [0] none) .none) 1 0 0 = some 0 ∧ settleSave (atReady .none) 1 0 = atReady .none := by
  decide +kernel

/-- SaveAndRestoreResults: a save is lost after 2 ms, not at 2 ms (R255). -/
theorem test_save_lost :
    ((after (exec .saveTimeout { stateSave cell0 (jobOf [0] none) (.triple 1 0 0) with pkg := { Package.reset with gtime := 2000001 } })).saves.map fun j => (j.left, j.lost)) = [([], [0])]
    ∧ ((after (exec .saveTimeout { stateSave cell0 (jobOf [0] none) (.triple 1 0 0) with pkg := { Package.reset with gtime := 2000000 } })).saves.map fun j => (j.left, j.lost)) = [([0], [])]
    ∧ saveOf (stateSave cell0 (jobOf [0] none) .none) 1 0 = some (jobOf [0] none) := by
  decide +kernel

/-- The header of an image of cell 0 of team 0 of context 1, with its counter and the length of the image. -/
def headOf (count length : Nat) : List Byte :=
  toBytes 0x314E414353564E44 8 ++ toBytes 1 4 ++ toBytes tileRevision 4 ++ toBytes 1 2 ++ zeroBytes 6 ++ toBytes count 8 ++ zeroBytes 24 ++ toBytes length 4 ++ zeroBytes 4

/-- IMGRESTORE of an image at 0x8000. -/
def cmdRestore (length target : Nat) : Cmd := cmdOf 8 0 1 (toBytes 0x8000 8 ++ toBytes length 8 ++ toBytes target 4)

/-- The running command over a team, with words of a header at 0x8000 that do not depend on the revision; protected or not. -/
def stateRestore (c : Cmd) (prot : Bool) (t : Team) : State :=
  let h := toBytes 0x314E414353564E44 8 ++ toBytes 1 4 ++ zeroBytes 4 ++ toBytes 1 2 ++ zeroBytes 6 ++ toBytes 7 8 ++ zeroBytes 24 ++ toBytes 80 4
  let s := withBytes (atTeams c [(65536, t)]) 0x8000 h
  { s with ctxs := [(1, { ctxEmpty with live := true, launch := some (launchOne 1), prot := prot })] }

/-- A saved team whose counter is 7, and one that is being restored on slot 2. -/
def teamSaved : Team := { teamEmpty with run := .saved, counter := some 7 }
/-- See `teamSaved`. -/
def teamRestoring : Team := { teamSaved with run := .restoring, seats := [2] }

/-- SaveAndRestoreResults: IMGRESTORE starts a restore on a free core or the one reserved (R151, R427). -/
theorem test_imgrestore :
    ((after (exec .imgrestore (stateRestore (cmdRestore 80 0xFFFFFFFF) false teamSaved))).restores.map fun j => (j.team, j.cell, j.base, j.length)) = [(0, 0, 0x8000, 80)]
    ∧ (fun (t : Team) => (t.run, t.seats)) (getTeam (after (exec .imgrestore (stateRestore (cmdRestore 80 0xFFFFFFFF) false teamSaved))) 65536) = (.restoring, [0])
    ∧ (after (exec .imgrestore (stateRestore (cmdRestore 80 1) true teamRestoring))).restores.length = 1
    ∧ slotOf (after (exec .imgrestore (stateRestore (cmdRestore 80 2) true teamRestoring))) = (5, 0, 2, 2, 0) := by
  decide +kernel

/-- SaveAndRestoreResults: IMGRESTORE refused as STALE, and MALFORMED (R151, R427). -/
theorem test_imgrestore_refused :
    slotOf (after (exec .imgrestore (stateRestore (cmdRestore 80 1) true { teamRestoring with counter := some 8 }))) = (5, 0, 1, 1, 0)
    ∧ slotOf (after (exec .imgrestore (stateRestore (cmdRestore 79 1) true teamRestoring))) = (5, 0, 2, 2, 0)
    ∧ slotOf (after (exec .imgrestore (stateRestore (cmdRestore 80 1) true teamQueued))) = (5, 0, 2, 2, 0)
    ∧ slotOf (after (exec .imgrestore (atCmd (cmdRestore 80 1)))) = (5, 0, 2, 2, 0) := by
  decide +kernel

/-- A cluster, the only one that CLMASK admits, of fenced cores. -/
def stateFenced : State :=
  { stateRestore (cmdRestore 80 0xFFFFFFFF) false teamSaved with
    ctxs := [(1, { ctxEmpty with live := true, launch := some { launchOne 1 with desc := (descOf 1 3).take 48 ++ [1] ++ (descOf 1 3).drop 49 } })]
    cores := (List.range 16).map fun k => (k, { coreEmpty with fenced := true }) }

/-- A key of a protected context that arrives. -/
def stateKey : State :=
  { stateRestore (cmdRestore 80 1) true teamSaved with
    pkg := { Package.reset with spdmState := 1 }
    input := .bytes 1 (toBytes 99 32 ++ toBytes 0 2 ++ toBytes 8 8) }

/-- SaveAndRestoreResults: no cluster that CLMASK admits holds the team (R151); a key arrives over a secured session (R256). -/
theorem test_no_cluster_and_key :
    slotOf (after (exec .imgrestore stateFenced)) = (5, 0, 1, 4, 0)
    ∧ (getCtx (after (exec .contextKeyTransfer stateKey)) 1).key = 99 ∧ (getTeam (after (exec .contextKeyTransfer stateKey)) 65536).counter = some 8 := by
  decide +kernel

/-- A restore under way on slot 2. -/
def stateRestoring : State := { stateRestore (cmdRestore 80 1) false teamRestoring with restores := [⟨1, 0, 0, 0x8000, 80, headOf 7 80, 3, 5, false⟩], cells := [(2, { cell0 with run := .stopped })], input := .triple 1 0 0 }

/-- An image of no section whose tag holds. -/
def imageOne : List Byte := headOf 7 80 ++ fitBytes (Config.gcmTag 0 (toBytes 1 2 ++ toBytes 7 8 ++ toBytes 0 2) (headOf 7 80) []) 16

/-- SaveAndRestoreResults: a restore that has its slot and reaches its image. -/
theorem test_restoring :
    seatFor stateRestoring 1 0 0 = some 2 ∧ (getCtx stateRestoring 1).launch = some (launchOne 1)
    ∧ ((restoreImage stateRestoring ⟨1, 0, 0, 0x8000, 80, headOf 7 80, 3, 5, false⟩).2.map fun x => (x.1.length, x.2)) = some (80, false) := by
  decide +kernel

/-- The restore as its image stands in memory. -/
def stateImage : State := { stateRestoring with mem := (List.range 16).map fun i => (0x8040 + i, (imageOne.drop 64).getD i 0) }

/-- A padded list has its length. -/
theorem fitBytes_length (l : List Byte) (n : Nat) : (fitBytes l n).length = n := by
  induction n generalizing l with
  | zero => rfl
  | succ n ih => cases l <;> simp [fitBytes, ih]

/-- The image has 80 bytes. -/
theorem image_one_length : imageOne.length = 80 := by
  simp only [imageOne, List.length_append, fitBytes_length]
  have : (headOf 7 80).length = 64 := by decide +kernel
  omega

/-- Its tag holds. -/
theorem tag_one : tagGood stateImage 1 imageOne = true := by
  have hn : clearBytes imageOne = 64 := by decide +kernel
  simp only [tagGood, hn, image_one_length, Bool.and_eq_true, decide_eq_true_eq, beq_iff_eq]
  exact ⟨by decide, by rfl⟩

/-- A revision has 32 bits. -/
theorem revision_fits (a b : Nat) (h1 : a < 256) (h2 : b < 4096) : 0x640 * 2 ^ 20 + a * 2 ^ 12 + b < 2 ^ 32 := by
  have h : a * 2 ^ 12 + b < 2 ^ 20 := by omega
  have h3 := Nat.add_lt_add_left h (0x640 * 2 ^ 20)
  rw [← Nat.add_assoc] at h3
  exact Nat.lt_of_lt_of_le h3 (by decide +kernel)

/-- The revision of a tile comes back from its four bytes. -/
theorem ofBytes_revision : ofBytes (toBytes tileRevision 4) = tileRevision := by
  have h : tileRevision < 2 ^ 32 := revision_fits _ _ Config.stepping.isLt Config.scanMap.isLt
  generalize tileRevision = x at h
  simp [ofBytes, toBytes]
  omega

set_option maxRecDepth 4000 in
/-- SaveAndRestoreResults: its verdict is good (R257). -/
theorem test_verdict_one : verdictOf stateImage 1 imageOne false = 0 := by
  have hr : descNat imageOne 12 4 = tileRevision := by
    have : descNat imageOne 12 4 = ofBytes (toBytes tileRevision 4) := by rfl
    rw [this]
    exact ofBytes_revision
  have hs : sectionAt stateImage 1 imageOne 8 0 = none := by
    have hn : descNat imageOne 22 2 = 0 := by decide +kernel
    simp [sectionAt, hn]
  simp [verdictOf, tag_one, hr, hs, reconGood]


/-- A list is its own elements in order. -/
theorem map_getD_range (l : List Byte) : (List.range l.length).map (fun i => l.getD i 0) = l := by
  refine List.ext_getElem (by simp) fun i h1 h2 => ?_
  simp [List.getD, h2]

/-- SaveAndRestoreResults: the restore reads that image from memory. -/
theorem test_restore_one : restoreImage stateImage ⟨1, 0, 0, 0x8000, 80, headOf 7 80, 3, 5, false⟩ = (stateImage, some (imageOne, false)) := by
  have h : restoreImage stateImage ⟨1, 0, 0, 0x8000, 80, headOf 7 80, 3, 5, false⟩
      = (stateImage, some (headOf 7 80 ++ (List.range 16).map fun i => (imageOne.drop 64).getD i 0, false)) := by rfl
  have hl : (imageOne.drop 64).length = 16 := by simp [image_one_length]
  have hm := map_getD_range (imageOne.drop 64)
  rw [hl] at hm
  rw [h, hm]
  rfl

/-- The removal of context 1, at a stage that began at time `since`. -/
def stateKill (stage since : Nat) (c : Cell) : State :=
  let s := atTeams (cmdOf 6 0 1 []) [(65536, { teamEmpty with run := .killed, seats := [0] })]
  { s with cells := [(0, c)], ctxs := [(1, { ctxEmpty with live := true, killing := some (stage, since), killCmd := some (3, 5) })], input := .num 1 }

/-- The stage of the removal and the time at which it began. -/
def stageAfter (i : Instr) (s : State) : Option (Nat × Nat) := (getCtx (after (exec i s)) 1).killing

/-- RemovalResults: CTXKILL kills every team that is not DONE and stops the cells; a second is CANCELLED (R115, R134, R262). -/
theorem test_ctxkill :
    stageAfter .ctxkill (atTeams (cmdOf 6 0 1 []) teamsTwo) = some (1, 20000)
    ∧ (getTeam (after (exec .ctxkill (atTeams (cmdOf 6 0 1 []) teamsTwo))) 65537).run = .killed
    ∧ (getCell (after (exec .ctxkill (atTeams (cmdOf 6 0 1 []) teamsTwo))) 0).issueStopped = true
    ∧ (getTeam (killTeams (atTeams (cmdOf 6 0 1 []) [(65536, { teamEmpty with run := .done })]) 1) 65536).run = .done
    ∧ slotOf (after (exec .ctxkill { stateKill 3 0 cell0 with input := .command 3 5 (cmdOf 6 0 1 []).bytes })) = (5, 0, 5, 0, 0)
    ∧ killSeats (stateKill 3 0 cell0) 1 = [0] := by
  decide +kernel

/-- RemovalResults: each stage drains, and the last completes the command (R262, R263). -/
theorem test_kill_stages :
    stageAfter .ctxkillStageDrained (stateKill 2 0 cell0) = some (3, 20000)
    ∧ stageAfter .ctxkillStageDrained (stateKill 3 0 cell0) = some (4, 20000) ∧ stageAfter .ctxkillStageDrained (stateKill 4 0 cell0) = some (5, 20000)
    ∧ stageAfter .ctxkillStageDrained (stateKill 5 0 cell0) = some (6, 20000) ∧ stageAfter .ctxkillStageDrained (stateKill 6 0 cell0) = some (7, 20000)
    ∧ (getTeam (after (exec .ctxkillStageDrained (stateKill 6 0 cell0))) 65536).seats = [] ∧ (getCtx (after (exec .ctxkillStageDrained (stateKill 7 0 cell0))) 1).live = false
    ∧ slotOf (after (exec .ctxkillStageDrained (stateKill 7 0 cell0))) = (5, 0, 0, 0, 0) := by
  decide +kernel

/-- RemovalResults: stage 2 begins, whether or not commands on an array run on (R262, R391). -/
theorem test_kill_stage_two : stageAfter .ctxkillStageDrained (stateKill 1 0 cell0) = some (2, 20000) := by
  have h : exec .ctxkillStageDrained (stateKill 1 0 cell0) =
      .next (killStage2 (modCtx (stateKill 1 0 cell0) 1 fun x => { x with killing := some (2, 20000) }) 1) := by rfl
  rw [stageAfter, h, killStage2]
  split <;> decide +kernel

/-- A copy that keeps stage 3 waiting. -/
def cellCopying : Cell := { cell0 with copies := [copy0] }

/-- RemovalResults: a stage that has not drained waits, and after 10 ms its tile is fenced and the next begins (R262). -/
theorem test_kill_stuck :
    killCount (stateKill 3 0 cellCopying) 1 3 = 1 ∧ after (exec .ctxkillStageDrained (stateKill 3 0 cellCopying)) = stateKill 3 0 cellCopying
    ∧ after (exec .ctxRemoveStuck (stateKill 3 0 cellCopying)) = stateKill 3 0 cellCopying
    ∧ waitedCores { stateKill 3 0 cellCopying with pkg := { Package.reset with gtime := 10000000 } } 1 3 = [0]
    ∧ stageAfter .ctxRemoveStuck { stateKill 3 0 cellCopying with pkg := { Package.reset with gtime := 10000000 } } = some (4, 10000000)
    ∧ (getCore (after (exec .ctxRemoveStuck { stateKill 3 0 cellCopying with pkg := { Package.reset with gtime := 10000000 } })) 0).fenced = true
    ∧ waitedCores (stateKill 2 0 cellCopying) 1 2 = [] := by
  decide +kernel
/-! ### Tensor delivery, peers and windows: commands -/

/-- The image of an RCB of 2 tiles of one chunk of 1 KiB each, of bytes, in context 1, with its ring 1; its handle, the extent of a tile, MODES and BMBASE. -/
def rcbImage (handle shape modes base : Nat) : Nat :=
  handle * 2 ^ 480 + (shape + 2 ^ 16 + 2 ^ 32 + 2 ^ 48) * 2 ^ 352 + (2 + 2 ^ 12 + 2 ^ 24 + 2 ^ 36) * 2 ^ 240 + 0xE4 * 2 ^ 232 + 2 ^ 217 + modes * 2 ^ 201 + 2 ^ 185 + base * 2 ^ 158

/-- That image as it should be. -/
def rcbGood : Nat := rcbImage 0x1005 1024 1 0

/-- RCBSET of RCB 26 for cell 0 of team 0, at 0x50000. -/
def cmdRcb1 (op : Byte) (cap : Nat) : Cmd := cmdOf 10 0 1 (toBytes 26 2 ++ [op] ++ zeroBytes 5 ++ toBytes 0x50000 8 ++ zeroBytes 8 ++ toBytes cap 8)

/-- The running command with an image in memory, a table of descriptors at 0x40000, and RCB 26 as it stands. -/
def stateRcb (c : Cmd) (image : Nat) (b : Rcb) : State :=
  let s := paged 0x4600F (atTeams c [])
  let s1 := withBytes (withBytes s 0x50000 (toBytes image 64)) 0x40140 (toBytes (desc0 0 0).toNat 64)
  { s1 with
    ctxs := [(1, { ctxEmpty with live := true, root := 0x10000, tdt := 0x40000 })]
    net := { s1.net with rcbs := [(26, b)] } }

/-- RCB 26 after an event. -/
def rcbAfter (i : Instr) (s : State) : Rcb := getRcb (after (exec i s)) 26

/-- RCB 26, closed once. -/
def rcbFree : Rcb := { rcbEmpty with gen := 2, closedAt := some 0 }

/-- ReceiveControlBlockResults: an open, each refusal, and the delay after a close (R74, R75, R76). -/
theorem test_rcb_open :
    (fun (b : Rcb) => (b.state, b.pend, b.tpend, b.gen)) (rcbAfter .rcbsetOpen (stateRcb (cmdRcb1 0 0) rcbGood { rcbEmpty with gen := 2 })) = (1, 2, 2, 2)
    ∧ slotOf (after (exec .rcbsetOpen (stateRcb (cmdRcb1 0 0) rcbGood { rcbEmpty with state := 4 }))) = (5, 0, 1, 1, 0)
    ∧ slotOf (after (exec .rcbsetOpen (stateRcb (cmdRcb1 0 0) (rcbImage 0x2005 1024 1 0) rcbEmpty))) = (5, 0, 1, 2, 0)
    ∧ slotOf (after (exec .rcbsetOpen (stateRcb (cmdRcb1 0 0) (rcbImage 0x1005 1025 1 0) rcbEmpty))) = (5, 0, 1, 3, 0)
    ∧ slotOf (after (exec .rcbsetOpen (stateRcb (cmdRcb1 0 0) (rcbImage 0x1005 1024 0 0) rcbEmpty))) = (5, 0, 1, 4, 0)
    ∧ slotOf (after (exec .rcbsetOpen (stateRcb (cmdRcb1 0 0) (rcbImage 0x1005 1024 1 0x1FFFF) rcbEmpty))) = (5, 0, 1, 5, 0) := by
  decide +kernel

/-- ReceiveControlBlockResults: the last block of the store that fits, the delay after a close and its end (R74, R76). -/
theorem test_rcb_reopen :
    slotOf (after (exec .rcbsetOpen (stateRcb (cmdRcb1 0 0) (rcbImage 0x1005 1024 1 0x1FFFE) rcbEmpty))) = (5, 0, 0, 0, 0)
    ∧ (rcbAfter .rcbsetOpen (stateRcb (cmdRcb1 0 0) rcbGood rcbFree)).state = 0
    ∧ (rcbAfter .rcbReopenDelayEnd { stateRcb (cmdRcb1 0 0) rcbGood rcbFree with input := .pair 3 5 }).state = 0
    ∧ (rcbAfter .rcbReopenDelayEnd { stateRcb (cmdRcb1 0 0) rcbGood rcbFree with input := .pair 3 5, pkg := { Package.reset with phase := 6, gtime := 1000000 } }).state = 1
    ∧ (fun (b : Rcb) => (b.state, b.gen, b.closedAt)) (rcbAfter .rcbsetClose (stateRcb (cmdRcb1 1 0) 0 { rcbFree with state := 2 })) = (0, 3, some 20000)
    ∧ (readDesc (stateRcb (cmdRcb1 0 0) rcbGood rcbFree) 1 0x1005).2 = some (desc0 0 0) := by
  decide +kernel

/-- RCB 26 OPEN, its descriptor and image. -/
def rcbOpen : Rcb := { rcbEmpty with image := BitVec.ofNat 512 rcbGood, desc := desc0 0 0, state := 1, gen := 3, nchk := 2, pend := 2, tpend := 2 }

/-- An export of it, with chunk 0 arrived and tile 0 waiting. -/
def exportOf : Nat := rcbGood + 2 ^ 229 + 3 * 2 ^ 175 + 2 * 2 ^ 128 + 2 ^ 104 + 2 * 2 ^ 32 + 2 ^ 512 + 2 ^ 1024 + 2 ^ 1536

/-- ReceiveControlBlockResults: an export of 256 bytes, its refusals, and an import (R93). -/
theorem test_rcb_export_import :
    (rcbAfter .rcbsetExport (stateRcb (cmdRcb1 2 256) 0 rcbOpen)).state = 4
    ∧ slotOf (after (exec .rcbsetExport (stateRcb (cmdRcb1 2 255) 0 rcbOpen))) = (5, 0, 1, 7, 0)
    ∧ slotOf (after (exec .rcbsetExport (stateRcb (cmdRcb1 2 256) 0 rcbFree))) = (5, 0, 1, 6, 0)
    ∧ physNat (after (exec .rcbsetExport (stateRcb (cmdRcb1 2 256) 0 rcbOpen))) 0x50000 64 = rcbGood + 2 ^ 229 + 3 * 2 ^ 175 + 2 * 2 ^ 128 + 2 * 2 ^ 104 + 2 * 2 ^ 32
    ∧ (fun (b : Rcb) => (b.state, b.gen, b.pend, b.tpend, tblGet false b.bitmap 0, tblGet 0 b.counters 0)) (rcbAfter .rcbsetImport (withBytes (stateRcb (cmdRcb1 3 0) 0 rcbEmpty) 0x50000 (toBytes exportOf 256))) = (1, 3, 1, 2, true, 1)
    ∧ (after (exec .rcbsetImport (withBytes (stateRcb (cmdRcb1 3 0) 0 rcbEmpty) 0x50000 (toBytes exportOf 256)))).net.prod = [⟨26, 0, none⟩]
    ∧ (rcbAfter .rcbReopenDelayEnd { withBytes (stateRcb (cmdRcb1 3 0) 0 rcbFree) 0x50000 (toBytes exportOf 256) with input := .pair 3 5 }).state = 0 := by
  decide +kernel

/-- The consumer with its ring 1 and bank 0, and a tile that waits in the production queue of IO die 0. -/
def stateProduce (r : Ring) (t : Option TrapInfo) : State :=
  { withCell { cell0 with rings := [(1, r)], banks := [(0, ⟨true, .spad, 16, none⟩)] } with
    net := { Net.reset with rcbs := [(26, rcbOpen)], prod := [⟨26, 1, t⟩] }
    input := .num 0 }

/-- Cell 0 after the production queue has moved. -/
def produced (s : State) : Cell := getCell (after (exec .productionQueueDrain s)) 0

/-- ReceiveControlBlockResults: a completion is produced; a ring of another kind, one in no bank, a full one, a faulted slot (R85, R86). -/
theorem test_production :
    rcbReady (stateProduce ⟨2, 0x120, 16, 1, 0, 1, []⟩ none) rcbOpen = some 0
    ∧ nearBytes (produced (stateProduce ⟨2, 0x120, 16, 1, 0, 1, []⟩ none)) 0 0x130 16 = [0, 4, 0, 0, 0, 0, 0, 0, 1, 0, 0, 0, 26, 0xC0, 0, 0]
    ∧ (rcbAfter .productionQueueDrain (stateProduce ⟨2, 0x120, 16, 1, 0, 1, []⟩ none)).tpend = 1
    ∧ (rcbAfter .productionQueueDrain (stateProduce ⟨1, 0x120, 16, 1, 0, 1, []⟩ none)).fcause = 0x18
    ∧ (rcbAfter .productionQueueDrain (stateProduce ⟨2, 0x10120, 16, 1, 0, 1, []⟩ none)).state = 3
    ∧ after (exec .productionQueueDrain (stateProduce ⟨2, 0x120, 16, 1, 0, 2, []⟩ none)) = stateProduce ⟨2, 0x120, 16, 1, 0, 2, []⟩ none
    ∧ (rcbAfter .productionQueueDrain (stateProduce ⟨2, 0x120, 16, 1, 0, 1, []⟩ (some ⟨0x12, 0, 0, 0, 0, true⟩))).tpend = 2
    ∧ (getRing (produced (stateProduce ⟨2, 0x120, 16, 1, 0, 1, []⟩ (some ⟨0x12, 0, 0, 0, 0, true⟩))) 1).marks.length = 1
    ∧ after (exec .productionQueueDrain { stateProduce Ring.unset none with teams := [] }) = { stateProduce Ring.unset none with teams := [] } := by
  decide +kernel

/-- ReceiveControlBlockResults: chunk 1 of two lies outside the logical extent, so it is marked from the start (R78). -/
theorem test_clipped :
    rcbClipped { rcbOpen with image := BitVec.ofNat 512 (rcbGood + 1024 * 2 ^ 288) } 1 = true ∧ rcbClipped { rcbOpen with image := BitVec.ofNat 512 (rcbGood + 1025 * 2 ^ 288) } 1 = false
    ∧ (markClipped { rcbOpen with image := BitVec.ofNat 512 (rcbGood + 1024 * 2 ^ 288) }).nclip = 1
    ∧ tblGet 0 (markClipped { rcbOpen with image := BitVec.ofNat 512 (rcbGood + 1024 * 2 ^ 288) }).counters 1 = 1 := by
  decide +kernel

/-- A peer entry: address 9, path set 1, security domain 2, VALID. -/
def peerEntry : Nat := 9 * 2 ^ 384 + 2 ^ 320 + 2 * 2 ^ 264 + 2 ^ 252

/-- PEERSET of peer 7: operation, all contexts, an entry or list at 0x50000, a length or domain 4, epoch 8, its time. -/
def cmdPeerset (op all : Byte) : Cmd := cmdOf 11 0 1 (toBytes 7 2 ++ [op, all] ++ zeroBytes 4 ++ toBytes 0x50000 8 ++ [4, 0] ++ toBytes 8 2 ++ zeroBytes 4 ++ toBytes 77 8)

/-- PDC 26 of peer 7, with PSN 7001 not acknowledged, under path set 3. -/
def pdc7 : Pdc :=
  { pdcEmpty with state := 1, peer := 7, pset := 3, ptr := 2, unaPsn := 7000, nextPsn := 7002, ctx := 1, entry := BitVec.ofNat 512 (2 ^ 272), sent := [(7001, some ⟨.access 0 0, packet0, 4, some 4, false, 0, none⟩)] }

/-- The running command with PDCs 26 and 27, bytes at 0x50000, ports 4 up and 5 down. -/
def statePeer (c : Cmd) (p : Pdc) (w : Nat) : State :=
  let s := withBytes (atTeams c []) 0x50000 (toBytes w 64)
  { s with
    ctxs := [(1, { ctxEmpty with live := true })]
    net := { s.net with pdcs := [(26, p), (27, { p with peer := 8 })], pathsets := [(1, [0x84000000]), (3, [0x84000000])], ports := [(4, ⟨true, true⟩), (6, ⟨true, false⟩)] } }

/-- PDC 26 after an event. -/
def pdcAfter (i : Instr) (s : State) : Pdc := getPdc (after (exec i s)) 26

/-- PeerAndWindowResults: a peer entry changes the path set of its PDCs alone; a list; a next key (R62, R64, R91, R119). -/
theorem test_peerset :
    getPeer (after (exec .peersetEntry (statePeer (cmdPeerset 0 0) pdc7 (peerEntry + 2 ^ 250)))) 7 = BitVec.ofNat 512 peerEntry
    ∧ pdcAfter .peersetEntry (statePeer (cmdPeerset 0 0) pdc7 peerEntry) = { pdc7 with pset := 1, ptr := 0 }
    ∧ getPdc (after (exec .peersetEntry (statePeer (cmdPeerset 0 0) pdc7 peerEntry))) 27 = { pdc7 with peer := 8 }
    ∧ (tblGet none (after (exec .peersetMcastList (statePeer (cmdPeerset 1 0) pdc7 (5 * 2 ^ 48 + 2 ^ 64 * 0xFFFFF)))).net.mcast 7) = some [0x5000000000000, 0, 0, 0]
    ∧ (getDomain (after (exec .peersetNextKey (statePeer (cmdPeerset 2 0) pdc7 0))) 4).next = some (8, 77) := by
  decide +kernel

/-- PeerAndWindowResults: failed PDCs of a context or of all are closed, and a peer is re-pointed (R46, R94). -/
theorem test_peerset_pdcs :
    (pdcAfter .peersetCloseFailed (statePeer (cmdPeerset 3 0) { pdc7 with state := 4 } 0)).state = 0
    ∧ (pdcAfter .peersetCloseFailed (statePeer (cmdPeerset 3 0) { pdc7 with state := 4, ctx := 2 } 0)).state = 4
    ∧ (pdcAfter .peersetCloseFailed (statePeer (cmdPeerset 3 1) { pdc7 with state := 4, ctx := 2 } 0)).state = 0
    ∧ (pdcAfter .peersetCloseFailed (statePeer (cmdPeerset 3 1) pdc7 0)).state = 1
    ∧ pdcAfter .peersetRepoint (statePeer (cmdPeerset 4 0) pdc7 peerEntry) = { pdc7 with est := true, entry := BitVec.ofNat 512 (9 * 2 ^ 384 + 2 ^ 272), retx := [⟨7000, [1]⟩] }
    ∧ (pdcAfter .peersetRepoint (statePeer (cmdPeerset 4 0) { pdc7 with sent := [] } peerEntry)).retx = []
    ∧ tblWf pdcEmpty (statePeer (cmdPeerset 4 0) pdc7 peerEntry).net.pdcs = true := by
  decide +kernel

/-- PATHSET of set 3 with three entries at 0x50000: ports 6, 5 and 4. -/
def cmdPathset : Cmd := cmdOf 12 0 0 (toBytes 3 2 ++ [3] ++ zeroBytes 5 ++ toBytes 0x50000 8)
/-- Its entries; bits 23 to 16 are reserved. -/
def pathEntries : Nat := 0x86FF0001 + 2 ^ 32 * 0x85000002 + 2 ^ 64 * 0x84000003

/-- PeerAndWindowResults: a path set admits its ports whose link is up and names the others (R48, R64, R115). -/
theorem test_pathset :
    getPathset (after (exec .pathset (statePeer cmdPathset pdc7 pathEntries))) 3 = [0x86000001, 0x85000002, 0x84000003]
    ∧ (getPort (after (exec .pathset (statePeer cmdPathset pdc7 pathEntries))) 6).admitted = true ∧ getPort (after (exec .pathset (statePeer cmdPathset pdc7 pathEntries))) 5 = ⟨false, false⟩
    ∧ slotOf (after (exec .pathset (statePeer cmdPathset pdc7 pathEntries))) = (5, 0, 0, 0, 2) ∧ (pdcAfter .pathset (statePeer cmdPathset pdc7 pathEntries)).ptr = 0
    ∧ pathReady (statePeer cmdPathset pdc7 0) pdc7 = true ∧ pathReady (statePeer cmdPathset pdc7 0) { pdc7 with pset := 2 } = false
    ∧ (getPdc (settlePdc (statePeer cmdPathset { pdc7 with pset := 2 } 0) 26) 26).state = 2 ∧ (getPdc (settlePdc (statePeer cmdPathset { pdc7 with state := 2 } 0) 26) 26).state = 1 := by
  decide +kernel

/-- WINSET or WINREVOKE of window 9, with an entry at 0x50000. -/
def cmdWindow (code : Nat) : Cmd := cmdOf code 0 0 ([9] ++ zeroBytes 7 ++ if code = 13 then toBytes 0x50000 8 else [])

/-- The running command with window 9 in a state. -/
def stateWindow (code : Nat) (w : Window) : State :=
  let s := withBytes (atTeams (cmdWindow code) []) 0x50000 (toBytes (2 ^ 256 - 1) 32)
  { s with net := { s.net with windows := [(9, w)] } }

/-- Window 9 after an event. -/
def windowAfter (i : Instr) (s : State) : Window := getWindow (after (exec i s)) 9

/-- PeerAndWindowResults: WINSET of a FREE window, WINREVOKE in each state (R95, R102). -/
theorem test_windows :
    (fun (w : Window) => (w.state, w.image)) (windowAfter .winset (stateWindow 13 windowEmpty)) = (1, windowRwMask)
    ∧ (windowAfter .winset (stateWindow 13 { windowEmpty with state := 2 })).state = 2
    ∧ slotOf (after (exec .winrevoke (stateWindow 14 windowEmpty))) = (5, 0, 0, 0, 0)
    ∧ (windowAfter .winrevoke (stateWindow 14 { windowEmpty with state := 1 })).state = 2
    ∧ after (exec .winrevoke (stateWindow 14 { windowEmpty with state := 2 })) = stateWindow 14 { windowEmpty with state := 2 }
    ∧ after (exec .windowRevokeComplete { stateWindow 14 { windowEmpty with state := 2, admitted := 1 } with input := .num 9 }) = { stateWindow 14 { windowEmpty with state := 2, admitted := 1 } with input := .num 9 }
    ∧ (getWindow { stateWindow 14 { windowEmpty with state := 2 } with input := .num 9 } 9).admitted = 0 := by
  decide +kernel
/-! ### The transport -/

/-- A remote stream of one tile of 256 words to peer 7, stream 5, contributor 2, as ROD; tagged or not. -/
def descStream (tag : Nat) : Desc :=
  BitVec.ofNat 512 (2 ^ 511 + 2 ^ 480 + 2 * 2 ^ 458 + 2 * 2 ^ 448 + (256 + 2 ^ 16 + 2 ^ 32 + 2 ^ 48) * (2 ^ 320 + 2 ^ 64) + 2 ^ 54 + 2 * 2 ^ 48 + 5 * 2 ^ 24 + tag * 2 ^ 23 + 7)
/-- 256 words of bank 0. -/
def descBytes : Desc := BitVec.ofNat 512 (2 ^ 511 + 2 ^ 480 + 2 * 2 ^ 448 + (256 + 2 ^ 16 + 2 ^ 32 + 2 ^ 48) * (2 ^ 320 + 2 ^ 64))

/-- A copy of the words to the stream, started. -/
def copyOut : CopyOp := { newCopy cellCpy ⟨descBytes, none, none⟩ (some ⟨descStream 0, none, none⟩) 0 0 0 3 with order := 4, seq := 9, started := true, tile := some 0 }

/-- PDC 26 for context 1, peer 7, mode ROD, with a window of 4,096 bytes, on path set 1. -/
def pdcRod : Pdc := { pdcEmpty with state := 1, peer := 7, pset := 1, unaPsn := 7000, nextPsn := 7000, ctx := 1, mode := 1, cwnd := 16, rtous := 5 }

/-- A cell with a copy and a window access, PDC 26, port 4 up, and an event. -/
def stateSend (c : Cell) (p : Pdc) (x : Input) : State :=
  let s := withCell c
  { s with
    net := { s.net with pdcs := [(26, p)], peers := [(7, BitVec.ofNat 512 peerEntry)], pathsets := [(1, [0x05000000, 0x84000009])], ports := [(4, ⟨true, true⟩), (5, ⟨true, true⟩)] }
    virga := [(2, virga0)]
    pkg := { Package.reset with phase := 6, gtime := 20000 }
    input := x }

/-- The copy of the cell. -/
def cellOut : Cell := { cellCpy with copies := [copyOut], bytes := [(0x40, 0xAB)] }
/-- Its chunk sent to destination 0 over a PDC. -/
def chunkOver (p : Pdc) : State := after (exec .packetTransmit (stateSend cellOut p (.triple 0 4 0)))

/-- What a frame carries: port, PDC, entropy, PSN, key, offset, payload bytes, byte 0x40. -/
structure Seen where
  pdc : Nat
  entropy : BitVec 16
  psn : BitVec 32
  key : BitVec 64
  off : BitVec 64
  size : Nat
  byte : Byte
  deriving DecidableEq, Repr

/-- The data frames on the egress of a port. -/
def seenOn (s : State) (port : Nat) : List Seen :=
  (tblGet [] s.net.egress port).filterMap fun f => match f.body with
    | .data p => some ⟨f.pdc, f.entropy, p.hd.psn, p.key, p.off, p.data.length, p.data.getD 0x40 0⟩
    | _ => none

/-- TransmissionResults: a chunk goes out under the next PSN on the usable entry, where a ROD PDC stays (R47, R49, R69, R90). -/
theorem test_send_chunk :
    seenOn (chunkOver pdcRod) 4 = [⟨26, 9, 7000, 5, 0x2000000, 1024, 0xAB⟩]
    ∧ (fun (p : Pdc) => (p.nextPsn, p.ptr, p.timer)) (getPdc (chunkOver pdcRod) 26) = (7001, 1, some 25000)
    ∧ (getCell (chunkOver pdcRod) 0).copies.map (fun o => (o.unacked, o.sent)) = [(1, true)]
    ∧ (getPdc (chunkOver { pdcRod with mode := 1, cwnd := 3 }) 26).nextPsn = 7000 ∧ (getPdc (chunkOver { pdcRod with cwnd := 4 }) 26).nextPsn = 7001
    ∧ streamDests (stateSend cellOut pdcRod .none) (descStream 0) = [(7, 5, 2)] ∧ nextChunk copyOut (descStream 0) 0 = some 0
    ∧ findPdc (stateSend cellOut pdcRod .none) 1 7 1 = some 26 := by
  decide +kernel

/-- Two copies whose chunks wait at the PDC, the second with a deadline, and one of them tried. -/
def chunkOfTwo (order : Nat) : State :=
  after (exec .packetTransmit (stateSend { cellOut with copies := [copyOut, { copyOut with order := 5, seq := 10, deadline := 90000 }] }
    { pdcRod with reached := [⟨0, 4, 0, true⟩, ⟨0, 5, 0, true⟩] } (.triple 0 order 0)))

/-- TransmissionResults: a chunk that R47 stops is held; of held chunks the one with the deadline leaves first (R47, R356). -/
theorem test_send_deadline :
    (getPdc (chunkOver { pdcRod with cwnd := 3 }) 26).reached = [⟨0, 4, 0, true⟩]
    ∧ (getPdc (chunkOfTwo 4) 26).nextPsn = 7000 ∧ (getPdc (chunkOfTwo 5) 26).nextPsn = 7001
    ∧ (getPdc (chunkOfTwo 5) 26).reached = [⟨0, 4, 0, true⟩, ⟨0, 5, 0, true⟩]
    ∧ outranked (stateSend cellOut pdcRod .none) pdcRod 0 4 0 = false
    ∧ deadlineBefore 5 0 = true ∧ deadlineBefore 0 5 = false ∧ deadlineBefore 5 5 = false ∧ deadlineBefore 4 5 = true := by
  decide +kernel

/-- TransmissionResults: a PDC that is not OPEN, a peer that is not valid, a source that faults (R46, R90). -/
theorem test_send_chunk_not :
    chunkOver { pdcRod with state := 2 } = stateSend cellOut { pdcRod with state := 2 } (.triple 0 4 0)
    ∧ (getCell (chunkOver { pdcRod with state := 4 }) 0).copies.map (fun o => o.fault.map TrapInfo.cause) = [some 0x30]
    ∧ (getCell (after (exec .packetTransmit { stateSend cellOut pdcRod (.triple 0 4 0) with net := Net.reset })) 0).copies.map (fun o => o.fault.map TrapInfo.info) = [some 0x80000007]
    ∧ (getCell (after (exec .packetTransmit (stateSend { cellOut with banks := [] } pdcRod (.triple 0 4 0)))) 0).copies.map (fun o => (o.fault.isSome, o.stop, o.sent)) = [(true, true, true)]
    ∧ (chunkRead (stateSend { cellOut with banks := [] } pdcRod .none) 0 copyOut (descStream 0) 0).2.fault.isSome = true
    ∧ chunkTarget (descStream 1) 3 0 5 2 = (.tagged, 5 * 2 ^ 40 + 2 * 2 ^ 36 + 3, 0) ∧ chunkTarget (descStream 0) 3 0 5 2 = (.write, 5, 0x2000003) := by
  decide +kernel

/-- An access to window 3 of peer 7 at 0x40. -/
def accessOut (k : AccKind) : Access := ⟨4, 0, 3, 4, 0x4000, k, .window 7 3 0x40 false, .s 1, false, false, none⟩
/-- The state after it is sent. -/
def accessOver (k : AccKind) (p : Pdc) : State := after (exec .packetTransmit (stateSend { cell0 with accesses := [accessOut k] } p (.pair 0 4)))

/-- TransmissionResults: a window access is sent, waits for its window of bytes, or ends where its peer is not valid (R69, R96). -/
theorem test_send_access :
    seenOn (accessOver (.store 77) pdcRod) 4 = [⟨26, 9, 7000, 0x1000003, 0x40, 4, 0⟩]
    ∧ (windowPacket (accessOut (.load false)) 3 0x40).verb = .read ∧ (windowPacket (accessOut (.store 77)) 3 0x40).data = [77, 0, 0, 0]
    ∧ (getPdc (accessOver (.store 77) { pdcRod with cwnd := 0 }) 26).nextPsn = 7000
    ∧ maySend { cell0 with accesses := [accessOut (.load false)] } (accessOut (.load false)) = true
    ∧ (getCell (after (exec .packetTransmit { stateSend { cell0 with accesses := [accessOut (.store 77)] } pdcRod (.pair 0 4) with net := Net.reset })) 0).accesses.map (fun a => (a.answered.bind AccAnswer.trap).map TrapInfo.cause) = [some 0x30] := by
  decide +kernel

/-- TransmissionResults: the limits at their bounds (R47), and path entries in cyclic order (R49). -/
theorem test_send_limits :
    mayQueue { pdcRod with nextPsn := 8023 } 4096 = true ∧ mayQueue { pdcRod with nextPsn := 8024 } 4096 = false ∧ mayQueue pdcRod 4097 = false
    ∧ mayQueue { pdcRod with retx := [⟨7000, [0]⟩] } 1 = false
    ∧ mayQueue { pdcRod with entry := BitVec.ofNat 512 (2 ^ 322), credit := 1 } 256 = true ∧ mayQueue { pdcRod with entry := BitVec.ofNat 512 (2 ^ 322), credit := 1 } 257 = false
    ∧ takePath (stateSend cell0 pdcRod .none) { pdcRod with mode := 0 } = some (some (4, 9), 0) ∧ takePath (stateSend cell0 pdcRod .none) pdcRod = some (some (4, 9), 1)
    ∧ takePath (stateSend cell0 pdcRod .none) { pdcRod with pset := 2 } = none := by
  decide +kernel

/-- PDC 26 with PSN 7001 outstanding, to be sent again with 7000. -/
def pdcRetx : Pdc := { pdcRod with nextPsn := 7002, retx := [⟨7000, [0, 1]⟩], timer := some 900, sent := [(7001, some ⟨.access 0 4, packet0, 4, some 5, false, 8, some 20000⟩)] }

/-- TransmissionResults: an acknowledged PSN is skipped, another is sent again; a backoff ends (R51, R56, R57, R410). -/
theorem test_resend :
    (pdcAfter .retxSend (stateSend cell0 pdcRetx (.num 26))).retx = [⟨7000, [1]⟩]
    ∧ (pdcAfter .retxSend (stateSend cell0 { pdcRetx with retx := [⟨7000, [1]⟩] } (.num 26))).retx = []
    ∧ (pdcAfter .retxSend (stateSend cell0 { pdcRetx with retx := [⟨7000, [1]⟩] } (.num 26))).timer = some 25000
    ∧ (seenOn (after (exec .retxSend (stateSend cell0 { pdcRetx with retx := [⟨7000, [1]⟩] } (.num 26)))) 4).map (fun x => (x.psn, x.size)) = [(7001, 4)]
    ∧ pdcAfter .retxSend (stateSend cell0 { pdcRetx with state := 2 } (.num 26)) = { pdcRetx with state := 2 }
    ∧ ((outstanding (pdcAfter .parkedBackoffExpiry (stateSend cell0 pdcRetx (.pair 26 7001))) 7001).map fun x => (x.port, x.retryAt)) = some (some 4, none)
    ∧ pdcAfter .parkedBackoffExpiry { stateSend cell0 pdcRetx (.pair 26 7001) with pkg := { Package.reset with phase := 6, gtime := 19999 } } = pdcRetx := by
  decide +kernel

/-- TransmissionResults: a frame leaves the head of its port. -/
theorem test_depart :
    (after (exec .packetTransmit { chunkOver pdcRod with input := .num 4 })).net.egress = []
    ∧ frameGone (stateSend cell0 pdcRod .none) ⟨26, 0, none, 0, false, 0, 4793, 0, .answer [] 0 false, [], []⟩ = stateSend cell0 pdcRod .none
    ∧ rereadPayload (stateSend cell0 pdcRod .none) ⟨.access 0 4, packet0, 4, none, false, 0, none⟩ = (stateSend cell0 pdcRod .none, some [1, 2, 3, 4]) := by
  decide +kernel

/-- The same at another time. -/
def atTime (t : BitVec 64) (s : State) : State := { s with pkg := { s.pkg with gtime := t } }

/-- The records of core 2, by code. -/
def codesOf (s : State) : List (BitVec 8) := (getVirga s 2).queue.map EventRec.code

/-- TransmissionResults: timers at their times and one before (R53, R54, R59). -/
theorem test_pdc_timers :
    codesOf (after (exec .rtoExpiry (atTime 900 (stateSend cell0 pdcRetx (.num 26))))) = [1]
    ∧ (pdcAfter .rtoExpiry (atTime 900 (stateSend cell0 pdcRetx (.num 26)))).timer = none ∧ codesOf (after (exec .rtoExpiry (atTime 899 (stateSend cell0 pdcRetx (.num 26))))) = []
    ∧ (pdcAfter .ackCoalesceTimeout (atTime 1500 (stateSend cell0 { pdcRod with acks := [(5, .ack none)], ackSince := 500 } (.num 26)))).acks = []
    ∧ (pdcAfter .ackCoalesceTimeout (atTime 1499 (stateSend cell0 { pdcRod with acks := [(5, .ack none)], ackSince := 500 } (.num 26)))).acks = [(5, .ack none)]
    ∧ codesOf (after (exec .ccsigTimer (atTime 2500 (stateSend cell0 { pdcRod with ccus := 2, ackCount := 1, ccsigAt := 500 } (.num 26))))) = [4]
    ∧ codesOf (after (exec .ccsigTimer (atTime 2499 (stateSend cell0 { pdcRod with ccus := 2, ackCount := 1, ccsigAt := 500 } (.num 26))))) = [] := by
  decide +kernel

/-- TransmissionResults: an idle PDC closes, and a closing one is CLOSED at its time (R46). -/
theorem test_pdc_close :
    (pdcAfter .pdcIdleTimeout (atTime 1000500 (stateSend cell0 { pdcRod with lastUse := 500, entry := BitVec.ofNat 512 (9 * 2 ^ 304) } (.num 26)))).closeAt = 1018500
    ∧ (pdcAfter .pdcIdleTimeout (atTime 1000499 (stateSend cell0 { pdcRod with lastUse := 500 } (.num 26)))).state = 1
    ∧ (pdcAfter .pdcIdleTimeout (atTime 1000500 (stateSend cell0 pdcRetx (.num 26)))).state = 1
    ∧ (pdcAfter .pdcCloseTimeout (atTime 700 (stateSend cell0 { pdcRod with state := 3, closeAt := 700 } (.num 26)))).state = 0
    ∧ (pdcAfter .pdcCloseTimeout (atTime 699 (stateSend cell0 { pdcRod with state := 3, closeAt := 700 } (.num 26)))).state = 3 := by
  decide +kernel

/-- TransmissionResults: a record about a PDC, and one that overflows (R67, R68). -/
theorem test_pdc_records :
    codesOf (postPdc (stateSend cell0 pdcRod .none) 26 2 7000 1 4 0) = [2]
    ∧ (getPdc (postPdc (stateSend cell0 { pdcRod with ecncnt := 3, ackCount := 4 } .none) 26 4 7000 1 0 0) 26).ackCount = 0
    ∧ (getPdc (postPdc { stateSend cell0 pdcRod .none with virga := [(2, { virga0 with queue := List.replicate 1024 rec5 })] } 26 2 7000 1 4 0) 26).evpend = 4
    ∧ (getVirga (postPdc { stateSend cell0 pdcRod .none with virga := [(2, { virga0 with queue := List.replicate 1024 rec5 })] } 26 2 7000 1 4 0) 2).ovf = true := by
  decide +kernel

/-- Security domain 2, of PDC 26 and peer 7, with an epoch to come at 20,000 ns. -/
def stateEpoch (x : Input) (d : Domain) : State :=
  let s := stateSend cell0 { pdcRod with sdom := 2 } x
  { s with net := { s.net with domains := [(2, d)] } }

/-- TransmissionResults: a key epoch switches at its time, and the old one ends 2 × RTOMAX later (R63). -/
theorem test_key_epochs :
    getDomain (after (exec .keyEpochSwitch (stateEpoch (.num 2) ⟨7, some (8, 20000), [], []⟩))) 2 = ⟨8, none, [(7, 20000)], []⟩
    ∧ codesOf (after (exec .keyEpochSwitch (stateEpoch (.num 2) ⟨7, some (8, 20000), [], []⟩))) = [11]
    ∧ after (exec .keyEpochSwitch (stateEpoch (.num 2) ⟨7, some (8, 20001), [], []⟩)) = stateEpoch (.num 2) ⟨7, some (8, 20001), [], []⟩
    ∧ (getDomain (after (exec .keyEpochGraceEnd (stateEpoch (.pair 2 7) ⟨8, none, [(7, 20000)], []⟩))) 2).ended = [(7, 7)]
    ∧ (getDomain (after (exec .keyEpochGraceEnd (stateEpoch (.pair 2 7) ⟨8, none, [(7, 20001)], []⟩))) 2).ended = []
    ∧ epochAccepted (stateEpoch .none ⟨8, none, [(7, 20000)], []⟩) 7 7 = true ∧ epochAccepted (stateEpoch .none ⟨8, none, [(7, 20000)], [(7, 7)]⟩) 7 7 = false := by
  decide +kernel
/-! ### Arrivals and answers -/

/-- A header from the address of peer 7 at port 4, for context 1. -/
def headerIn (mode : BitVec 4) (psn : BitVec 32) : Header := ⟨4, 4793, 9, false, 1, mode, psn, 0, true, true, false, false, none⟩

/-- A write of the contributor's chunk 0 to stream 26 of generation 3, 1,024 bytes of which the first is 0xAB. -/
def chunkIn (h : Header) (contrib : Nat) : Packet := ⟨h, .write, 0xC01A, BitVec.ofNat 64 (contrib * 2 ^ 24), 0, 0, 0, 0, (0xAB : Byte) :: zeroBytes 1023⟩

/-- RCB 26 for chunks of words, one of a tile of 256. -/
def rcbIn : Rcb := { rcbEmpty with image := BitVec.ofNat 512 (rcbImage 0x1005 256 1 0), desc := desc0 2 0, state := 1, gen := 3, nchk := 2, pend := 2, tpend := 2 }

/-- PDC 26 and RCB 26 of a placed consumer, window 3 on 64 KiB at 0x40000 that any peer may read, write and change. -/
def stateIn (p : Pdc) (b : Rcb) (x : Input) : State :=
  let s := paged 0x4600F (stateSend { cell0 with rings := [(1, ⟨2, 0x8000, 16, 1, 0, 0, []⟩)], banks := [(0, ⟨true, .spad, 16, none⟩)] } p x)
  { s with net := { s.net with
      rcbs := [(26, b)]
      windows := [(3, { windowEmpty with image := BitVec.ofNat 256 (4 * 2 ^ 220 + 2 ^ 200 + 2 ^ 188 + 7 * 2 ^ 183 + 0xFFFF * 2 ^ 128), state := 1 })] } }

/-- PDC 26 as it receives, in a mode, with PSN 7000 expected. -/
def pdcIn (mode : BitVec 4) : Pdc := { pdcRod with mode := mode, rxOpen := true, expected := 7000, entry := BitVec.ofNat 512 peerEntry }

/-- What a packet meets: the PDC's gathered answers. -/
def gathered (i : Instr) (s : State) : List (BitVec 32 × Answer) := (getPdc (after (exec i s)) 26).acks

/-- The answers on the egress of port 4. -/
def answersOn (s : State) : List (List (BitVec 32 × Answer)) :=
  (tblGet [] s.net.egress 4).filterMap fun f => match f.body with
    | .answer l _ _ => some l
    | _ => none

/-- The NACK that a chunk meets. -/
def nackOf (p : Pdc) (b : Rcb) (x : Packet) : List (List (BitVec 32 × Answer)) := answersOn (after (exec .rmaWriteStreamArrival (stateIn p b (.packet x))))

/-- ArrivalResults: what is dropped before any handling (R41, R62, R63). -/
theorem test_dropped :
    (admitHeader (stateIn (pdcIn 0) rcbIn .none) (headerIn 0 7000) false 4).2 = some 7
    ∧ (admitHeader (stateIn (pdcIn 0) rcbIn .none) { headerIn 0 7000 with src := 8 } false 4).2 = none ∧ (admitHeader (stateIn (pdcIn 0) rcbIn .none) { headerIn 0 7000 with intact := false } false 4).2 = none
    ∧ (admitHeader (stateIn (pdcIn 0) rcbIn .none) { headerIn 0 7000 with known := false } false 4).2 = none
    ∧ (admitHeader (stateIn (pdcIn 0) rcbIn .none) { headerIn 0 7000 with epoch := 1 } false 4).2 = none ∧ epochAccepted (stateIn (pdcIn 0) rcbIn .none) 7 1 = false
    ∧ sourcePeer (stateIn (pdcIn 0) rcbIn .none) (headerIn 0 7000) false = some 7 ∧ nackOf (pdcIn 0) rcbIn (chunkIn { headerIn 0 7000 with src := 8 } 0) = [] := by
  decide +kernel

/-- ArrivalResults: order and trimming (R53, R55): a packet again, one too early, a trimmed one. -/
theorem test_order :
    gathered .rmaWriteStreamArrival (stateIn { pdcIn 1 with kept := [(6999, some (.ack (some 5)))] } rcbIn (.packet (chunkIn (headerIn 1 6999) 0))) = [(6999, .ack (some 5))]
    ∧ gathered .rmaWriteStreamArrival (stateIn (pdcIn 1) rcbIn (.packet (chunkIn (headerIn 1 6998) 0))) = [(6998, .ack none)]
    ∧ nackOf (pdcIn 1) rcbIn (chunkIn (headerIn 1 7001) 0) = [[(7001, .nack 2 0 0)]]
    ∧ nackOf (pdcIn 1) rcbIn (chunkIn { headerIn 1 7000 with trimmed := true } 0) = [[(7000, .nack 1 0 0)]]
    ∧ (receiverPdc (stateIn (pdcIn 1) rcbIn .none) (headerIn 1 7000) 7).2 = some 26 := by
  decide +kernel

/-- ArrivalResults: a chunk that fits is placed, claimed and acknowledged (R80, R82). -/
theorem test_chunk_placed :
    gathered .rmaWriteStreamArrival (stateIn (pdcIn 0) { rcbIn with image := BitVec.ofNat 512 (rcbImage 0x1005 256 1 0 + 2 ^ 205) } (.packet (chunkIn (headerIn 0 7000) 0))) = [(7000, .ack none)]
    ∧ (fun (b : Rcb) => (b.pend, b.tpend, tblGet false b.bitmap 0, tblGet 0 b.counters 0)) (rcbAfter .rmaWriteStreamArrival (stateIn (pdcIn 0) { rcbIn with image := BitVec.ofNat 512 (rcbImage 0x1005 256 1 0 + 2 ^ 205) } (.packet (chunkIn (headerIn 0 7000) 0)))) = (1, 1, true, 1)
    ∧ nearBytes (getCell (after (exec .rmaWriteStreamArrival (stateIn (pdcIn 0) rcbIn (.packet (chunkIn (headerIn 0 7000) 0))))) 0) 0 0 1 = [0xAB] := by
  decide +kernel

/-- ArrivalResults: a completed tile fills its ring; the first of two contributors claims a chunk without completing it (R82, R85). -/
theorem test_chunk_completes :
    (rcbAfter .rmaWriteStreamArrival (stateIn (pdcIn 0) rcbIn (.packet (chunkIn (headerIn 0 7000) 0)))).tpend = 1
    ∧ (getRing (getCell (after (exec .rmaWriteStreamArrival (stateIn (pdcIn 0) rcbIn (.packet (chunkIn (headerIn 0 7000) 0))))) 0) 1).wp = 1
    ∧ (fun (b : Rcb) => (b.pend, tblGet false b.bitmap 1)) (rcbAfter .rmaWriteStreamArrival (stateIn (pdcIn 0) { rcbIn with image := BitVec.ofNat 512 (rcbImage 0x1005 256 1 0 + 2 ^ 207 + 2 ^ 214 + 3 * 2 ^ 211) } (.packet (chunkIn (headerIn 0 7000) 1)))) = (2, true) := by
  decide +kernel

/-- ArrivalResults: the NACK of a chunk by the state of its RCB, its fields, its consumer (R72, R80, R81). -/
theorem test_chunk_refused :
    nackOf (pdcIn 0) rcbIn { chunkIn (headerIn 0 7000) 0 with key := 0x2000000 } = [[(7000, .nack 5 0 0)]]
    ∧ nackOf (pdcIn 0) { rcbIn with gen := 4 } (chunkIn (headerIn 0 7000) 0) = [[(7000, .nack 4 0 0)]] ∧ nackOf (pdcIn 0) { rcbIn with state := 0 } (chunkIn (headerIn 0 7000) 0) = [[(7000, .nack 4 0 0)]]
    ∧ nackOf (pdcIn 0) { rcbIn with state := 3 } (chunkIn (headerIn 0 7000) 0) = [[(7000, .nack 5 0 0)]] ∧ nackOf (pdcIn 0) { rcbIn with state := 4 } (chunkIn (headerIn 0 7000) 0) = [[(7000, .nack 3 0 0)]]
    ∧ nackOf (pdcIn 0) rcbIn (chunkIn (headerIn 0 7000) 1) = [[(7000, .nack 5 0 0)]] ∧ nackOf (pdcIn 0) { rcbIn with cell := 1 } (chunkIn (headerIn 0 7000) 0) = [[(7000, .nack 3 0 0)]]
    ∧ nackOf (pdcIn 0) { rcbIn with desc := desc0 2 3 } (chunkIn (headerIn 0 7000) 0) ≠ [] := by
  decide +kernel

/-- A tagged send of chunk 1 of the same stream. -/
def taggedIn : Packet := { chunkIn (headerIn 0 7000) 0 with verb := .tagged, key := 0xC01A0000000000, off := 1024 }

/-- ArrivalResults: a tagged send, and one whose tag has bits that are not its (R70). -/
theorem test_tagged :
    tblGet false (rcbAfter .taggedSendArrival (stateIn (pdcIn 0) rcbIn (.packet taggedIn))).bitmap 1 = true
    ∧ answersOn (after (exec .taggedSendArrival (stateIn (pdcIn 0) rcbIn (.packet { taggedIn with key := 0xC01A0001000000 })))) = [[(7000, .nack 5 0 0)]]
    ∧ (rcbAfter .taggedSendArrival (stateIn (pdcIn 0) { rcbIn with bitmap := [(1, true)] } (.packet taggedIn))).dups = 1
    ∧ codesOf (after (exec .taggedSendArrival (stateIn (pdcIn 0) { rcbIn with bitmap := [(1, true)] } (.packet taggedIn)))) = [7]
    ∧ answersOn (after (exec .taggedSendArrival { stateIn (pdcIn 0) { rcbIn with state := 1 } (.packet taggedIn) with cells := [(0, { cell0 with banks := [(0, ⟨true, .spad, 16, none⟩)], rings := [(1, ⟨2, 0x8000, 16, 0, 0, 1, []⟩)] })] })) = [] := by
  decide +kernel

/-- ArrivalResults: a placement fault, and a chunk that leaves its RCB unfinished (R83). -/
theorem test_placement_fault :
    (placeChunk { stateIn (pdcIn 0) rcbIn .none with cells := [(0, cell0)] } rcbIn 0 0 (some (zeroBytes 1024))).2.isSome = true
    ∧ (rcbAfter .rmaWriteStreamArrival { stateIn (pdcIn 0) rcbIn (.packet (chunkIn (headerIn 0 7000) 0)) with cells := [(0, cell0)] }).state = 3
    ∧ (placeChunk (stateIn (pdcIn 0) rcbIn .none) rcbIn 0 0 (some (zeroBytes 1024))).2 = none
    ∧ finishRcb (stateIn (pdcIn 0) rcbIn .none) 26 = stateIn (pdcIn 0) rcbIn .none
    ∧ (getRcb (completeTile (stateIn (pdcIn 0) { rcbIn with image := BitVec.ofNat 512 (2 ^ 205) } .none) 26 0) 26).tpend = 1 := by
  decide +kernel

/-- ArrivalResults: the last chunk of a tile finds the production queue of its home full (R86). -/
theorem test_production_full :
    (let s := stateIn (pdcIn 0) rcbIn (.packet (chunkIn (headerIn 0 7000) 0))
     answersOn (after (exec .rmaWriteStreamArrival { s with net := { s.net with prod := List.replicate 8192 ⟨26, 1, none⟩ } }))) = [[(7000, .nack 3 0 0)]] := by
  decide +kernel

/-- A window access at an offset of window 3. -/
def windowIn (v : Verb) (off : BitVec 64) (size op : Nat) (data : List Byte) : Packet := ⟨headerIn 1 7000, v, 0x1000003, off, size, op, 5, 40, data⟩

/-- The answer to a window access. -/
def windowAnswer (i : Instr) (p : Packet) : List (BitVec 32 × Answer) × List (List (BitVec 32 × Answer)) :=
  let s := after (exec i (withBytes (stateIn (pdcIn 1) rcbIn (.packet p)) 0x40008 [40]))
  ((getPdc s 26).acks, answersOn s)

/-- ArrivalResults: reads, writes and atomics through a window, and each refusal (R97, R99). -/
theorem test_window_access :
    windowAnswer .remoteReadArrival (windowIn .read 8 8 0 []) = ([(7000, .ack (some 40))], [])
    ∧ windowAnswer .remoteAtomicArrival (windowIn .atomic 8 8 3 []) = ([(7000, .ack (some 40))], [])
    ∧ windowAnswer .remoteAtomicArrival (windowIn .atomic 12 4 1 []) = ([], [[(7000, .nack 5 3 8)]])
    ∧ windowAnswer .remoteReadArrival (windowIn .read 0xFFF9 8 0 []) = ([], [[(7000, .nack 5 3 1)]])
    ∧ windowAnswer .remoteWriteArrival (windowIn .write 0x1000000000 8 0 [1]) = ([], [[(7000, .nack 5 0 0)]])
    ∧ physNat (after (exec .remoteWriteArrival (stateIn (pdcIn 1) rcbIn (.packet (windowIn .write 0xFFFF 1 0 [7]))))) 0x4FFFF 1 = 7
    ∧ physNat (after (exec .remoteAtomicArrival (withBytes (stateIn (pdcIn 1) rcbIn (.packet (windowIn .atomic 8 8 1 []))) 0x40008 [40]))) 0x40008 8 = 45 := by
  decide +kernel

/-- ArrivalResults: a page that is not mapped, and the count of violations (R97). -/
theorem test_window_refused :
    answersOn (after (exec .remoteReadArrival { stateIn (pdcIn 1) rcbIn (.packet (windowIn .read 8 8 0 [])) with ctxs := [(1, { ctxEmpty with live := true })] })) = [[(7000, .nack 5 3 1)]]
    ∧ (getWindow (after (exec .remoteReadArrival (stateIn (pdcIn 1) rcbIn (.packet (windowIn .read 0xFFF9 8 0 []))))) 3).violcnt = 1
    ∧ codesOf (after (exec .remoteReadArrival (stateIn (pdcIn 1) rcbIn (.packet (windowIn .read 0xFFF9 8 0 []))))) = [9]
    ∧ (virtRun (stateIn (pdcIn 1) rcbIn .none) ⟨0, 1, false, 0, .direct, []⟩ .read 0x40008 8).2.toOption.isSome = true := by
  decide +kernel

/-- PDC 26 with PSN 7000 of access 4 outstanding. -/
def pdcOut : Pdc := { pdcIn 1 with nextPsn := 7001, timer := some 900, ccacks := 1, sent := [(7000, some ⟨.access 0 4, windowPacket (accessOut (.store 77)) 3 0x40, 4, some 4, false, 0, none⟩)] }
/-- An acknowledgement of everything before a PSN. -/
def ackIn (cum : BitVec 32) (ecn : Bool) : Ack := ⟨headerIn 1 0, some cum, [], [], ecn, 3, 160⟩
/-- The sender with its access, at an answer. -/
def stateOut (p : Pdc) (x : Input) : State := { stateIn p rcbIn x with cells := [(0, { cell0 with accesses := [{ accessOut (.store 77) with place := .window 7 3 0x40 true }] })] }
/-- PDC 26 after an answer. -/
def pdcOutAfter (i : Instr) (p : Pdc) (x : Input) : Pdc := getPdc (after (exec i (stateOut p x))) 26

/-- AnswerResults: an acknowledgement ends its PSN, one of nothing changes only counts (R47, R54, R59, R61). -/
theorem test_ack :
    (fun (p : Pdc) => (p.unaPsn, p.timer, p.credit, p.sent)) (pdcOutAfter .ackReceived pdcOut (.ack (ackIn 7001 false))) = (7001, none, 3, [])
    ∧ (getCell (after (exec .ackReceived (stateOut pdcOut (.ack (ackIn 7001 false))))) 0).accesses.map (fun a => a.answered.isSome) = [true]
    ∧ codesOf (after (exec .ackReceived (stateOut pdcOut (.ack (ackIn 7001 false))))) = [4]
    ∧ (fun (p : Pdc) => (p.unaPsn, p.timer)) (pdcOutAfter .ackReceived pdcOut (.ack (ackIn 7000 true))) = (7000, some 900)
    ∧ (pdcOutAfter .ackReceived { pdcRod with ccacks := 0 } (.ack (ackIn 7000 true))).ecncnt = 1
    ∧ (answeredPdc (stateOut pdcOut .none) (headerIn 1 0) false).2 = some 26
    ∧ (advanceUna { pdcOut with nextPsn := 7002, sent := [(7001, some ⟨.access 0 4, packet0, 4, none, false, 0, none⟩)] } 1024).unaPsn = 7001 := by
  decide +kernel

/-- AnswerResults: each NACK reason (R55, R57, R415). -/
theorem test_nack :
    (tblGet none (pdcOutAfter .nackReceived pdcOut (.nack (headerIn 1 7000) 3 0 0)).sent 7000).map (fun x => (x.backoff, x.retryAt)) = some (4, some 24000)
    ∧ codesOf (after (exec .nackReceived (stateOut pdcOut (.nack (headerIn 1 7000) 3 0 0)))) = [12]
    ∧ codesOf (after (exec .nackReceived (stateOut pdcOut (.nack (headerIn 1 7000) 1 0 0)))) = [3] ∧ codesOf (after (exec .nackReceived (stateOut pdcOut (.nack (headerIn 1 7000) 4 0 0)))) = [2]
    ∧ ((getVirga (after (exec .nackReceived (stateOut pdcOut (.nack (headerIn 1 7000) 6 0 0)))) 2).queue.map EventRec.aux) = [0xFF]
    ∧ (pdcOutAfter .nackReceived pdcOut (.nack (headerIn 1 7000) 5 3 8)).unaPsn = 7001
    ∧ (getCell (after (exec .nackReceived (stateOut pdcOut (.nack (headerIn 1 7000) 5 3 8)))) 0).accesses.map (fun a => (a.answered.bind AccAnswer.trap).map TrapInfo.info) = [some 0x8000703]
    ∧ after (exec .nackReceived (stateOut pdcOut (.nack (headerIn 1 7001) 3 0 0))) = stateOut pdcOut (.nack (headerIn 1 7001) 3 0 0) := by
  decide +kernel

/-- AnswerResults: a chunk that is refused, a backoff that doubles up to 256 µs (R57, R415). -/
theorem test_nack_chunk :
    (getCell (after (exec .nackReceived { stateOut { pdcOut with sent := [(7000, some ⟨.chunk 0 4 0 0, packet0, 4, some 4, false, 0, none⟩)] } (.nack (headerIn 1 7000) 5 0 0) with cells := [(0, { cellOut with copies := [{ copyOut with unacked := 1 }] })] })) 0).copies.map (fun o => (o.unacked, o.fault.map TrapInfo.info)) = [(0, some 26)]
    ∧ (tblGet none (getPdc (parkPsn (stateOut pdcOut .none) 26 7000 ⟨.access 0 4, packet0, 4, none, false, 200, none⟩) 26).sent 7000).map Sent.backoff = some 256
    ∧ codesOf (parkPsn (stateOut { pdcOut with parking := true } .none) 26 7000 ⟨.access 0 4, packet0, 4, none, false, 200, none⟩) = [] := by
  decide +kernel

/-- AnswerResults: the close exchange, at both ends (R46). -/
theorem test_close :
    (pdcOutAfter .pdcCloseAckReceived { pdcIn 1 with state := 3 } (.closeAck (headerIn 1 0))).state = 0
    ∧ (pdcOutAfter .pdcCloseAckReceived (pdcIn 1) (.closeAck (headerIn 1 0))).state = 1
    ∧ (pdcOutAfter .pdcCloseRequestReceived (pdcIn 1) (.close (headerIn 1 0))).rxOpen = false
    ∧ ((tblGet [] (after (exec .pdcCloseRequestReceived (stateOut (pdcIn 1) (.close (headerIn 1 0))))).net.egress 4).map Frame.body) = [.closeAck]
    ∧ (pdcOutAfter .pdcCloseRequestReceived (pdcIn 1) (.close { headerIn 1 0 with src := 8 })).rxOpen = true
    ∧ (receiverPdc (stateIn { pdcIn 1 with state := 4 } rcbIn .none) (headerIn 1 0) 7).2 = none
    ∧ (getPdc (receiverPdc (stateIn { pdcIn 1 with rxOpen := false } rcbIn .none) { headerIn 1 7005 with est := some 6000 } 7).1 26).expected = 6000
    ∧ findPdc (stateIn (pdcIn 1) rcbIn .none) 1 7 2 = none := by
  decide +kernel

/-- AnswerResults: a receiver gathers 4 acknowledgements, sends a NACK at once, and answers nothing in UUD (R53, R100). -/
theorem test_answer :
    answerPsn (stateIn (pdcIn 3) rcbIn .none) 26 5 false (.ack none) = stateIn (pdcIn 3) rcbIn .none
    ∧ answersOn (answerPsn (stateIn (pdcIn 1) rcbIn .none) 26 5 false (.nack 2 0 0)) = [[(5, .nack 2 0 0)]]
    ∧ (getPdc (answerPsn (stateIn { pdcIn 1 with acks := [(1, .ack none), (2, .ack none)] } rcbIn .none) 26 5 false (.ack none)) 26).acks.length = 3
    ∧ answersOn (answerPsn (stateIn { pdcIn 1 with acks := [(1, .ack none), (2, .ack none), (3, .ack none)] } rcbIn .none) 26 5 false (.ack none)) = [[(1, .ack none), (2, .ack none), (3, .ack none), (5, .ack none)]]
    ∧ tblGet none (keepAnswer 7000 (.ack none) { pdcIn 1 with kept := [(5976, some (.ack none)), (5977, some (.ack none))] }).kept 5976 = none
    ∧ covers (ackIn 7001 false) 7000 ⟨.access 0 4, packet0, 4, none, false, 0, none⟩ = true ∧ covers (ackIn 7000 false) 7000 ⟨.access 0 4, packet0, 4, none, false, 0, none⟩ = false := by
  decide +kernel
/-! ### More forms of the cell's instructions -/

/-- A cycle of core 0, whose slot 0 is about to issue the ADD at 0x100, its cycle of this beat spent or not. -/
def stateMerge (spent : Bool) : State :=
  let s := stateCode { cell0 with pc := 0x100 }
  { modCore s 0 (fun u => { u with cycle := if spent then 1 else 0 }) with agenda := [.merge 0, .command] }

/-- StepRunsDecodedInstruction: a cycle of the merge stage puts the slot's turn on the agenda, once on a beat (R140). -/
theorem test_merge_turn :
    mergeSpent (stateMerge false) 0 = false ∧ (after (step (stateMerge false))).agenda = [.cell 0, .command]
    ∧ (getCore (after (step (stateMerge false))) 0).cycle = 1
    ∧ mergeSpent (stateMerge true) 0 = true ∧ (after (step (stateMerge true))).agenda = [.command]
    ∧ fetchHits (getCell (stateCode { cell0 with pc := 0x100 }) 0) [] [⟨0x100, 0x900430C4, none, .ok (.add 0 3 3 4), true, false⟩] = [] := by
  decide +kernel

/-- FloatScalarResults and VectorMoveMaskAndCompareResults: 16 bits queued hold FCMPQ and VCMPQ (R276). -/
theorem test_full_queue :
    stays (.fcmpq 0 4 5 5) (withCell { cell0 with cq := List.replicate 16 false }) = true
    ∧ stays (.vcmpq 0 2 2 3 2 1) (withCell { cellV with cq := List.replicate 16 true }) = true := by
  decide +kernel

/-- BranchAndLoopResults and QueueBranchResults: targets below address 0 of LOOP, BRQ and BRQN, taken or not (R302, R303). -/
theorem test_far_targets :
    trapAfter (.loop 0 0 0x800000) (withCell { cellVec with lc := [(0, 2)] }) = some (0x12, 0xFFFFFFFFFE000100, 3)
    ∧ (cellAfter (.loop 0 0 0x800000) (withCell { cellVec with lc := [(0, 1)] })).pc = 0x104
    ∧ trapAfter (.brq 0 0x2000000) (withCell { cellVec with cq := [true] }) = some (0x12, 0xFFFFFFFFF8000100, 3)
    ∧ (cellAfter (.brq 0 0x2000000) (withCell { cellVec with cq := [false] })).pc = 0x104
    ∧ trapAfter (.brqn 0 0x2000000) (withCell { cellVec with cq := [false] }) = some (0x12, 0xFFFFFFFFF8000100, 3)
    ∧ (cellAfter (.brqn 0 0x2000000) (withCell { cellVec with cq := [true] })).pc = 0x104
    ∧ trapAfter (.callr 0 63) { withCell { cellVec with s := [(63, 0x200)] } with iss := { state0.iss with nextFault := some ⟨0x12, 0x110, 0, 0, 3, false⟩ } } =
        some (0x12, 0x110, 3) := by
  decide +kernel

/-- Cell 1 waits at barrier 0, cell 0 is about to arrive. -/
def stateLast : State :=
  { withTeam cell0 { cell0 with run := .wait, arrived := true } with
    teams := [(65536, { teamEmpty with run := .placed, seats := [0, 2], barriers := [(0, 2)] })] }

/-- BarrierArrival: the last arrival releases both cells and clears the arrivals (R142). -/
theorem test_barrier_release :
    (getTeam stateLast 65536).barriers = tblSet 0 [] 0 2 ∧ ready (.barw 0 0) stateLast = true
    ∧ tblGet 0 (getTeam (after (exec (.barw 0 0) stateLast)) 65536).barriers 0 = 0
    ∧ (cellAfter (.barw 0 0) stateLast).run = .run ∧ (getCell (after (exec (.barw 0 0) stateLast)) 2).run = .run
    ∧ (getCell (after (exec (.barw 0 0) stateLast)) 2).arrived = false := by
  decide +kernel

/-- YieldAndHaltResults: an event comes first, a fault waits for an earlier operation, and the bit of a halted cell is set (R136, R307). -/
theorem test_halt_order :
    (firstEvent 0 { cellVec with deferred := [⟨⟨0x30, 9, 0, 0, 1, false⟩, none⟩], cmds := [cmd0] }).map (fun u => u.trap.cause) = some 0x30
    ∧ (cellAfter (.halt 0) (withCell { cellVec with deferred := [⟨⟨0x30, 9, 0, 0, 1, false⟩, none⟩], cmds := [cmd0] })).cause = 0x30
    ∧ (cellAfter (.halt 0) (withCell { cellVec with deferred := [⟨⟨0x30, 9, 0, 0, 1, false⟩, none⟩] })).deferred = []
    ∧ earlierLive { cellVec with copies := [copy0], cmds := [{ cmd0 with order := 1 }] } 1 = true
    ∧ stays (.halt 0) (withCell { cellVec with copies := [copy0], cmds := [{ cmd0 with order := 1 }] }) = true
    ∧ bitOf (getTeam (after (exec (.halt 0) (withTeam cell0 cell0))) 65536).halted 0 = true
    ∧ (getTeam (after (exec (.halt 0) (withTeam cell0 cell0))) 65536).run = .placed := by
  decide +kernel

/-- A table of descriptors whose slot 5 core 0 holds. -/
def stateEntry : State := putEntry (mapped (caching [(5, desc0 0 0), (6, desc0 0 1)] (withCell cellDesc))) 1 5 0x2140 (desc0 2 1)

/-- DescriptorInstructionResults: the entry written reads back, and no core holds its slot (R176). -/
theorem test_put_entry :
    (tblGet none (getCore stateEntry 0).dcache (4096 + 5)).isNone = true ∧ (tblGet none (getCore stateEntry 0).dcache (4096 + 6)).isSome = true
    ∧ BitVec.ofNat 512 (physNat stateEntry 0x2140 64) = desc0 2 1 ∧ 0x2140 % 64 = 0 ∧ physLost stateEntry 0x2140 = false
    ∧ physKind stateEntry 0x2140 = .hbm := by
  decide +kernel

/-- VectorElementwiseResults: the special values of R335, of F32 and bf16. -/
theorem test_function_specials :
    exp2Val .f32 false 0x7F800000 = ⟨0x7F800000, fpNone, false⟩ ∧ exp2Val .bf16 false 0xFF80 = ⟨0, fpNone, false⟩
    ∧ log2Val .f32 false 0xFF800000 = ⟨0x7FC00000, fpNV, false⟩ ∧ log2Val .bf16 false 0x8000 = ⟨0xFF80, fpDZ, false⟩
    ∧ rcpVal .f32 false 0x80000000 = ⟨0xFF800000, fpDZ, false⟩ ∧ rcpVal .f32 false 0xFF800000 = ⟨0x80000000, fpNone, false⟩
    ∧ rsqrtVal .f32 false 0xBF800000 = ⟨0x7FC00000, fpNV, false⟩ ∧ rsqrtVal .f32 false 0 = ⟨0x7F800000, fpDZ, false⟩
    ∧ tanhVal .f32 false 0xFF800000 = ⟨0xBF800000, fpNone, false⟩ ∧ tanhVal .f32 true 0x80000001 = ⟨0x80000000, fpNone, false⟩
    ∧ exp2Val .f32 false 0x7FC00001 = ⟨0x7FC00000, fpNV, false⟩ ∧ (sqrtVal .f32 plainCtl (.inf true)).flags = fpNV
    ∧ (sqrtVal .f32 plainCtl (.fin true 0 0)).code = 0x80000000 := by
  decide +kernel

/-- VectorElementwiseResults: the limits of R336: 128, -151, 10 and 2^-13, and the exact powers of two. -/
theorem test_function_limits :
    exp2Val .f32 false 0x43000000 = ⟨0x7F800000, ⟨true, false, true, false, false⟩, false⟩
    ∧ exp2Val .f32 false 0xC3170000 = ⟨0, ⟨true, true, false, false, false⟩, false⟩
    ∧ exp2Val .f32 false 0xC2FC0000 = ⟨0x00800000, fpNone, false⟩ ∧ exp2Val .bf16 false 0x4040 = ⟨0x4100, fpNone, false⟩
    ∧ log2Val .f32 false 0x3E800000 = ⟨0xC0000000, fpNone, false⟩ ∧ rcpVal .f32 false 0xC0000000 = ⟨0xBF000000, fpNone, false⟩
    ∧ rsqrtVal .f32 false 0x41800000 = ⟨0x3E800000, fpNone, false⟩
    ∧ tanhVal .f32 false 0xC1200000 = ⟨0xBF800000, ⟨true, false, false, false, false⟩, false⟩
    ∧ (fun (r : FpRes) => (r.code, r.flags.nx)) (tanhVal .f32 false 0x39000000) = (0x39000000, true) := by
  decide +kernel

/-- VectorElementwiseResults: an operand of each function that is neither exact nor at a limit: 1.5 (R336). -/
theorem test_function_near :
    ffRead .f32 false 0x3FC00000 = .fin false 0xC00000 (-23) ∧ scaleFrac 0xC00000 1 (-23) = (0xC00000, 0x800000)
    ∧ 0xC00000 < 128 * 0x800000 ∧ 0xC00000 < 10 * 0x800000 ∧ 0x800000 ≤ 0xC00000 * 2 ^ 12
    ∧ (List.range 3).all (fun j => 0xC00000 != j * 0x800000) = true ∧ (List.range 25).all (fun i => 0xC00000 != 2 ^ i) = true := by
  decide +kernel

/-- GlobalCheckOrder: a TLB hit, whatever the tables hold, and the rights that its leaf refuses (R194). -/
theorem test_tlb_hit :
    passOf (globalCheck (mapped state0) 0 0x4008 8 3 .write).1 = some ⟨0xE00F, 0x1000, 21⟩
    ∧ (tlbFind (getCore (mapped state0) 0).tlb 1 0x4008).map (fun e => e.leaf) = some 0xE00F
    ∧ walk (mapped state0) (getCtx (mapped state0) 1).root.toNat 0x4008 = none
    ∧ failOf (globalCheck { mapped state0 with cores := [(0, { coreEmpty with tlb := [⟨1, 0, 21, 0xE00D, 0x1000⟩] })] } 0 0x4008 8 3 .write).1
        = some ⟨0x13, 0x4008, 0, 0, 0x301, false⟩ := by
  decide +kernel

/-- A package whose tables map no address, with a PAGE fault of page 4 in the buffer of die 0. -/
def stateFaulted : State :=
  { withCell cell0 with dies := [(0, { dieEmpty with faults := [(1, 4, 0x12)] })] }

/-- GlobalCheckOrder: whether an access joins the fault that stands, or walks, it fails as one of an absent page (R198). -/
theorem test_joins_or_walks :
    failOf (globalCheck stateFaulted 0 0x40008 8 3 .read).1 = some ⟨0x12, 0x40008, 0, 0, 0x300, false⟩
    ∧ (1, 0x40008 / 65536, 0x12#8) ∈ (getDie stateFaulted 0).faults := by
  refine ⟨?_, by decide +kernel⟩
  have hl : (lookup stateFaulted (.core 0) (getCell stateFaulted 0).ctx (0x40008 : BitVec 64).toNat .read (!(getCell stateFaulted 0).super)
      true).res = .error causePage := by
    have ht : tlbFind (tlbOf stateFaulted (.core 0)) (getCell stateFaulted 0).ctx (0x40008 : BitVec 64).toNat = none := by decide +kernel
    have hw : walk stateFaulted (getCtx stateFaulted (getCell stateFaulted 0).ctx).root.toNat (0x40008 : BitVec 64).toNat = none := by
      decide +kernel
    simp only [lookup, ht, hw]
    split <;> rfl
  simp only [globalCheck, checkGlobal, Machine.translate]
  split
  · contradiction
  · split
    · contradiction
    · rw [hl]
      rfl

/-- Cell 0 with bank 0 as its cache, and a line of address 0x4080 in it, whose sectors 0 and 1 are valid. -/
def cellCache : Cell :=
  let c : Cell := { cell0 with banks := [(0, ⟨true, .cache, 16, none⟩)] }
  setLine c 0 129 (some ⟨0, 3, 0, 1, 4, List.replicate 128 7⟩)

/-- The package with that cell, and 9 at 0x4080 and 0x4100 of memory. -/
def stateCache : State := withBytes (withBytes (mapped (withCell cellCache)) 0x4080 [9]) 0x4100 [9]

/-- Line 129 of way 0 of cell 0: its valid and dirty bits and its first byte. -/
def lineOf (s : State) (set : Nat) : Option (Nat × BitVec 8 × BitVec 8 × Byte) :=
  (getLine (getCell s 0) 0 set).map fun l => (l.tag, l.valid, l.dirty, l.data.getD 0 0)

/-- AccessPerformsAndReturns: a hit, a fill into the empty way, and a cell without a CACHE bank (R160, R161). -/
theorem test_cache_loads :
    cacheSet 0x4080 = 129 ∧ (cacheHit cellCache 0x4080).map Prod.fst = some 0
    ∧ (physLoad stateCache 0 0x4080 4 1 2).2 = ([7, 7, 7, 7], false)
    ∧ (physLoad stateCache 0 0x4100 4 1 2).2 = ([9, 0, 0, 0], false) ∧ lineOf (physLoad stateCache 0 0x4100 4 1 2).1 130 = some (0, 1, 0, 9)
    ∧ victimWay cellCache 130 = some 0 ∧ (getLine cellCache 0 130).isNone = true
    ∧ cacheWays cell0 = [] ∧ (physLoad (withBytes (withCell cell0) 0x4080 [9]) 0 0x4080 1 1 2).2 = ([9], false) := by
  decide +kernel

/-- AccessPerformsAndReturns: stores of each write policy (R161, R162). -/
theorem test_cache_stores :
    lineOf (physStore stateCache 0 0x4080 [5] 1 0 2 3) 129 = some (0, 3, 1, 5)
    ∧ physByte (physStore stateCache 0 0x4080 [5] 1 0 2 3) 0x4080 = 9
    ∧ lineOf (physStore stateCache 0 0x4080 [5] 1 1 2 3) 129 = some (0, 2, 0, 7)
    ∧ physByte (physStore stateCache 0 0x4080 [5] 1 1 2 3) 0x4080 = 5
    ∧ lineOf (physStore stateCache 0 0x4080 [5] 1 2 2 3) 129 = some (0, 3, 0, 5)
    ∧ physByte (physStore stateCache 0 0x4080 [5] 1 2 2 3) 0x4080 = 5 := by
  decide +kernel

set_option maxRecDepth 8000 in
/-- AccessPerformsAndReturns: cleaning writes back what is dirty, and invalidating leaves no line (R162, R203). -/
theorem test_cache_clean :
    lineOf (cleanCache (physStore stateCache 0 0x4080 [5] 1 0 2 3) 0 false) 129 = some (0, 3, 0, 5)
    ∧ physByte (cleanCache (physStore stateCache 0 0x4080 [5] 1 0 2 3) 0 false) 0x4080 = 5
    ∧ lineOf (cleanCache stateCache 0 true) 129 = none := by
  decide +kernel

/-- A load of a stopped tile, which had left it before the stop or had not. -/
def stateGone (out : Bool) : State :=
  { pendingOne { access7 (.load false) none with out := out } with cores := [(0, { coreEmpty with stopped := true })] }

/-- AccessPerformsAndReturns: an access that had left the tile performs though the tile has stopped; one that had not waits (R250). -/
theorem test_access_out :
    ((getCell (after (exec .accessResponseReturn (stateGone true))) 0).accesses.head?.bind Access.answered).map AccAnswer.value = some 0xFFFFFFFE
    ∧ after (exec .accessResponseReturn (stateGone false)) = stateGone false := by
  decide +kernel
/-! ### Fences, plane regions and peers -/

/-- A load of class 3 in group 0 that has not performed, at 0x4000. -/
def loadOne : Access := { access7 (.load false) none with group := 0 }

/-- Cell 0 whose FENCE of class 3 in group 1 covers that load. -/
def cellFenced : Cell := { cellMem with accesses := [loadOne], fences := [(1, 8)], groupNo := 2 }

/-- NearAccessResults, AccessPerformsAndReturns and FenceResults: what a fence holds back, near or not, and what it does not (R207). -/
theorem test_fence_holds :
    fenceStalls cellFenced 3 = true ∧ fenceStalls cellFenced 2 = false
    ∧ stays (.ldnN 0 13 10 3 2 0) (withCell cellFenced) = true ∧ sAfter (.ldnN 0 13 10 2 2 0) (withCell cellFenced) 13 = some 0xFFFFFFFE
    ∧ stays (.stn 0 8 10 3 2 0) (withCell cellFenced) = true ∧ stays (.aaddI32 0 2 10 10 3 true) (withCell cellFenced) = true
    ∧ mayPerform { cellFenced with accesses := [loadOne, { loadOne with id := 8, group := 2 }] } { loadOne with id := 8, group := 2 } = false
    ∧ mayPerform cellFenced loadOne = true
    ∧ fenceLine 0 8 false ⟨[], 0, [⟨some 1, some 0, 3, false⟩]⟩ = true ∧ fenceLine 0 8 false ⟨[], 0, [⟨some 1, some 1, 3, false⟩, ⟨some 1, some 0, 2, false⟩]⟩ = false
    ∧ fenceLine 0 8 true ⟨[], 0, [⟨some 1, some 0, 2, true⟩]⟩ = true := by
  decide +kernel

/-- A package whose cell 0 caches, with a line of class 3 and one of class 2 in the write-combining store. -/
def stateLines : State :=
  { stateCache with
    dies := [(0, { dieEmpty with lines := [(16, some ⟨[(4, some 9)], 500, [⟨some 1, some 0, 3, false⟩]⟩), (17, some ⟨[(4, some 8)], 500, [⟨some 1, some 0, 2, false⟩]⟩)] })] }

/-- The pending lines of die 0 and the cache line 129 after an instruction that commits. -/
def fencedLines (i : Instr) : List Nat × Bool :=
  let t := after (exec i stateLines)
  ((getDie t 0).lines.map Prod.fst, (lineOf t 129).isSome)

set_option maxRecDepth 8000 in
/-- FenceResults: each form drains the lines of its classes from PACKAGE on, and .i drops the core cache (R207, R208). -/
theorem test_fence_lines :
    ready (.fence 0 2 false false 8) stateLines = true
    ∧ fencedLines (.fence 0 1 false false 8) = ([16, 17], true) ∧ fencedLines (.fence 0 2 false false 8) = ([17], true)
    ∧ fencedLines (.fence 0 1 false true 8) = ([16, 17], false) ∧ fencedLines (.fence 0 2 true false 4) = ([16], true)
    ∧ (cellAfter (.fence 0 0 false false 8) (withCell { cellFenced with accesses := [{ loadOne with kind := .store 5 }], fences := [] })).fences = [(3, 8)] := by
  decide +kernel

/-- Cell 0 with region 2 under a rule; cell 1 has stored 0x3F803F80 to word 3 in this step. -/
def cellPlane (rule : BitVec 3) : Cell :=
  { cellMem with
    regions := [(2, some ⟨rule, 0⟩)]
    bytes := [(0x5000C, 0x80), (0x5000D, 0x3F), (0x5000E, 0x80), (0x5000F, 0x3F)]
    writer := [(32771, 2)] }

/-- The next word and the writer after a store of 0x40004000 by a cell, with cell 1 of the higher step priority; and a refusal. -/
def planeAfter (rule : BitVec 3) (w i : Nat) : Nat × Nat × Option Nat :=
  let r := planeWord (cellPlane rule) 2 w 0x40004000 i fun x => if x = 1 then 5 else 3
  (bankWord r.1 5 w, tblGet 0 r.1.writer (32768 + w), r.2)

/-- NearAccessResults: the rules of R165 to R167: a first store, PRIO, integer and floating sums, FAULT. -/
theorem test_plane_rules :
    planeAfter 0 4 2 = (0x40004000, 3, none) ∧ planeAfter 0 3 2 = (0x3F803F80, 2, none) ∧ planeAfter 0 3 1 = (0x40004000, 2, none)
    ∧ planeAfter 1 3 2 = (0x7F807F80, 2, none) ∧ planeAfter 3 3 2 = (0x40404040, 2, none)
    ∧ planeAfter 4 3 1 = (0x40004000, 2, none) ∧ planeAfter 4 3 2 = (0x3F803F80, 2, some 1)
    ∧ (planeAfter 2 3 2).1 = (addVal .f32 plainCtl (ffDecode .f32 0x3F803F80) (ffDecode .f32 0x40004000)).code := by
  decide +kernel

/-- NearAccessResults: no store changes a present value, and the flip makes the written word present (R164, R168). -/
theorem test_plane_flip :
    nearBytes (planeWord (cellPlane 0) 2 4 0x40004000 2 fun _ => 0).1 4 16 4 = [0, 0, 0, 0]
    ∧ presentOdd (cellPlane 0) 2 3 = false ∧ presentOdd (flipRegion (cellPlane 0) 2) 2 3 = true ∧ presentOdd (flipRegion (cellPlane 0) 2) 2 4 = false
    ∧ tblGet 0 (flipRegion (cellPlane 0) 2).writer 32771 = 0 ∧ tblWf 0 (cellPlane 0).writer = true
    ∧ nearBytes (flipRegion (cellPlane 0) 2) 4 12 4 = [0x80, 0x3F, 0x80, 0x3F] := by
  decide +kernel

/-- NearAccessResults: STN of 4 and of 8 bytes to a region; under FAULT, COLLIDE names the writer of the word (R164, R167). -/
theorem test_plane_stn :
    passOf (nearCheck (withTeam (cellPlane 4) cell0) 0 0x40000 8 8 .store) = some (0, 4, 0)
    ∧ (fun (c : Cell) => (bankWord c 5 0, bankWord c 5 1, c.deferred)) (cellAfter (.stn 0 8 11 3 2 0) (withTeam (cellPlane 4) cell0)) = (0x55667788, 0, [])
    ∧ (fun (c : Cell) => (bankWord c 5 2, bankWord c 5 3, c.deferred)) (cellAfter (.stn 0 8 11 3 3 1) (withTeam (cellPlane 4) cell0)) =
        (0x55667788, 0x3F803F80, [⟨⟨0x15, 0x40008, 0, 0, 1, false⟩, none⟩])
    ∧ (fun (c : Cell) => (bankWord c 5 2, bankWord c 5 3, c.deferred)) (cellAfter (.stn 0 8 11 3 3 1) (withTeam (cellPlane 1) cell0)) =
        (0x55667788, (0x3F803F80 + 0x11223344) % 2 ^ 32, []) := by
  decide +kernel

/-- The trap of a near instruction whose address, in s6, names a bank of cell 1 on core 1. -/
def peerTrap (i : Instr) (a : BitVec 64) : Option (BitVec 8 × BitVec 64 × BitVec 64) :=
  trapAfter i (withTeam { cellMem with s := [(6, a)], tvec := 0x4001 } cellMem)

/-- NearChecksAndTraps: the peer range: a core without a cell of the team, and the modes of the bank it names (R158). -/
theorem test_peer_range :
    peerTrap (.ldnN 0 1 6 3 2 0) 0x2400000 = some (0x11, 0x2400000, 4) ∧ peerTrap (.stn 0 1 6 3 2 0) 0x3FFFFFC = some (0x11, 0x3FFFFFC, 4)
    ∧ peerTrap (.ldnI 0 1 6 3 2 0) 0x2220000 = some (0x16, 0x2220000, 4) ∧ peerTrap (.stn 0 1 6 3 1 0) 0x2240000 = some (0x16, 0x2240000, 2)
    ∧ peerTrap (.stn 0 1 6 3 2 0) 0x2250000 = some (0x16, 0x2250000, 4) ∧ peerTrap (.ldnN 0 1 6 3 2 0) 0x2200006 = some (0x10, 0x2200006, 4)
    ∧ passOf (nearCheck (withTeam cellMem cellMem) 0 0x2210004 4 4 .store) = some (2, 1, 4) := by
  decide +kernel

/-- NearChecksAndTraps: near atomics: each shape, a region, and both alignments (R13, R348). -/
theorem test_near_atomic_traps :
    peerTrap (.aaddI32 0 1 6 2 3 true) 0x100000000 = some (0x11, 0x100000000, 4) ∧ peerTrap (.acas 0 1 6 2 3 true) 0x200000 = some (0x11, 0x200000, 8)
    ∧ peerTrap (.amaxF32 0 1 6 2 3 true) 0x4000000 = some (0x11, 0x4000000, 4) ∧ peerTrap (.amaxrrI32 0 1 6 2 3 true) 0x40000 = some (0x16, 0x40000, 4)
    ∧ peerTrap (.aaddI64 0 1 6 2 3 true) 0x20000 = some (0x16, 0x20000, 8) ∧ peerTrap (.aaddF32 0 1 6 2 3 true) 6 = some (0x10, 6, 4)
    ∧ peerTrap (.aaddI64 0 1 6 2 3 true) 4 = some (0x10, 4, 8) ∧ (getBank cellMem 0).mode = .spad := by
  decide +kernel

/-- BitFieldExtraction: the second active lane reads a byte past the last bank in SPAD, whose trap has the bytes of its lane (R345). -/
theorem test_vldx_trap :
    trapAfter (.vldx 0 5 6 1 3 1) (withCell { cellMem with s := [(6, 0x1FFFF)], tvec := 0x4001 }) = some (0x16, 0x20000, 1)
    ∧ (failOf (nearCheck (withCell cellMem) 0 0x20000 1 1 .load)).map (fun t => t.cause) = some 0x16
    ∧ passOf (nearCheck (withCell cellMem) 0 0x1FFFF 1 1 .load) = some (0, 1, 0xFFFF) := by
  decide +kernel
/-! ### More of the engines and rings -/

/-- A descriptor of bytes from an address on, its extent, its padding value, circular or not, with tiles of 4. -/
def descBytes4 (base ext pad circ : Nat) : Desc :=
  BitVec.ofNat 512 (2 ^ 511 + 2 ^ 480 + base + (ext + 2 ^ 16 + 2 ^ 32 + 2 ^ 48) * 2 ^ 64 + (4 + 2 ^ 16 + 2 ^ 32 + 2 ^ 48) * 2 ^ 320
    + pad * 2 ^ 384 + circ * 2 ^ 460)

/-- A started copy from a tensor of 3 bytes at 0x40, circular or not, to one of an extent at 0x80. -/
def copyMove (circ ext : Nat) : CopyOp :=
  { newCopy cellCpy ⟨descBytes4 0x40 3 0x5A circ, none, none⟩ (some ⟨descBytes4 0x80 ext 0 0, none, none⟩) 0 0 0 3 with
    order := 4, seq := 9, started := true }

/-- The turn of an element of it, with 1, 2, 3 at 0x40 and 9 from 0x80 on. -/
def stateElem (o : CopyOp) (n : Nat) : State :=
  { teamWith { cellCpy with copies := [o], bytes := [(0x40, 1), (0x41, 2), (0x42, 3), (0x82, 9), (0x83, 9), (0x84, 9)] } .none with
    agenda := [.element 0 4 n] }

/-- Bytes 0x82 to 0x84 after the turn, and what has performed. -/
def moved (o : CopyOp) (n : Nat) : List Byte × List (Tbl Bool) :=
  let c := getCell (after (step (stateElem o n))) 0
  (nearBytes c 0 0x82 3, c.copies.map CopyOp.performed)

/-- CopyEngineEvents: an element inside both tensors, one beyond the source, one that wraps, one beyond the destination (R178, R185). -/
theorem test_element_moves :
    moved (copyMove 0 4) 2 = ([3, 9, 9], [[(2, true)]]) ∧ moved (copyMove 0 4) 3 = ([9, 0x5A, 9], [[(3, true)]])
    ∧ moved (copyMove 1 4) 3 = ([9, 1, 9], [[(3, true)]]) ∧ moved (copyMove 0 3) 3 = ([9, 9, 9], [[(3, true)]])
    ∧ dBits (copyMove 0 4).src.d = 8 ∧ dTileElems (descBytes4 0x80 4 0 0) = 4 := by
  decide +kernel

/-- That copy with every element performed and a flag word of 0x1122 at 8. -/
def copyFlagged : CopyOp :=
  { copyMove 0 4 with performed := [(0, true), (1, true), (2, true), (3, true)], flag := some (8, 0x1122) }

/-- CopyEngineEvents: CPYF writes its flag word once every element has performed (R360). -/
theorem test_copy_flag :
    (fun (c : Cell) => (nearBytes c 0 8 3, c.copies.length, c.recon.copyDone)) (getCell (after (exec .copyComplete { stateElem copyFlagged 0 with input := .pair 0 4 })) 0) = ([0x22, 0x11, 0], 0, 1) := by
  decide +kernel

/-- A remote stream of 2 tiles of 1,024 bytes. -/
def descFar : Desc := BitVec.ofNat 512 (2 ^ 511 + 2 ^ 480 + 2 * 2 ^ 458 + (2048 + 2 ^ 16 + 2 ^ 32 + 2 ^ 48) * 2 ^ 64 + (1024 + 2 ^ 16 + 2 ^ 32 + 2 ^ 48) * 2 ^ 320 + 0xE4 * 2 ^ 56 + 7)

/-- A copy into a stream at a coordinate, its source in a space and a format. -/
def copyFar (src : Desc) (x : BitVec 64) : CopyOp :=
  { newCopy cellCpy ⟨src, none, none⟩ (some ⟨descFar, none, none⟩) 0x200600001005 0 x 3 with order := 4, seq := 9 }

/-- The copies of the cell after that copy starts. -/
def startedFar (o : CopyOp) : List CopyOp := (getCell (after (exec .copyStart (teamWith { cellCpy with copies := [o] } (.num 0)))) 0).copies

/-- The tile and the sent mark of that copy after it starts. -/
def farTile (o : CopyOp) : List (Option Nat × Bool) := (startedFar o).map fun o => (o.tile, o.sent)

/-- The cause and INFO of its fault. -/
def farFault (o : CopyOp) : List (Option (BitVec 8 × BitVec 32)) := (startedFar o).map fun o => o.fault.map fun t => (t.cause, t.info)

/-- The cell with that copy started, its last packet not yet sent. -/
def stateFar : State := teamWith { cellCpy with copies := [{ copyFar (descBytes4 0x40 4 0 0) 0 with started := true }] } (.pair 0 4)

/-- CopyEngineEvents: a remote copy takes its tile, lies beyond the stream, or is misaligned; a source that is remote or of another
format; one whose last packet is not sent does not finish (R90, R359). -/
theorem test_remote_start :
    farTile (copyFar (descBytes4 0x40 4 0 0) 1024) = [(some 1, false)] ∧ farTile (copyFar (descBytes4 0x40 4 0 0) 2048) = [(none, true)]
    ∧ farFault (copyFar (descBytes4 0x40 4 0 0) 1024) = [none] ∧ farFault (copyFar (descBytes4 0x40 4 0 0) 1023) = [some (0x09, 0x2006)]
    ∧ farFault (copyFar descFar 1024) = [some (0x09, 0x1005)]
    ∧ farFault (copyFar (descBytes4 0x40 4 0 0 + BitVec.ofNat 512 (2 * 2 ^ 448)) 1024) = [some (0x0A, 0x1005)]
    ∧ copyRemote (copyFar descFar 0) = true ∧ after (exec .copyComplete stateFar) = stateFar := by
  decide +kernel

/-- A launch of 2 cells in 2 stages, cell 1 in stage 1, with its alias at ring 2, and channel 0 to another package with depth 2. -/
def launchStages : Launch :=
  { launch2 with
    desc := zeroBytes 40 ++ [1, 0, 2, 2, 0, 1] ++ zeroBytes 10 ++ [0x10] ++ zeroBytes 300
    channels := toBytes (2 ^ 96 * 0x1005 + 2 ^ 64 * 0x1006 + 2 ^ 56 + 2 * 2 ^ 41) 16 }

/-- Cell 0 that publishes 16 bytes at 0x40 to ring 1 of cell 1 of the next stage. -/
def stateAlias (r : Ring) : State :=
  { withTeam cellCpy { cell0 with stage := 1, rings := [(1, r)], banks := (List.range 32).map fun b => (b, ⟨true, .spad, 16, none⟩) } with
    ctxs := [(1, { ctxEmpty with live := true, launch := some launchStages })] }

/-- RingResults: RPUB through the downstream alias, a full ring there, and one of another kind (R129, R365). -/
theorem test_rpub_alias :
    isAlias (stateAlias ⟨4, 0x200, 16, 1, 0, 0, []⟩) cellCpy 2 = true
    ∧ (fun (c : Cell) => (nearBytes c 0 0x200 16, getRing c 1)) (getCell (after (exec (.rpub 0 2 11) (stateAlias ⟨4, 0x200, 16, 1, 0, 0, []⟩))) 2)
        = ([0xAB] ++ zeroBytes 14 ++ [0xCD], ⟨4, 0x200, 16, 1, 0, 1, []⟩)
    ∧ (cellAfter (.rpub 0 2 11) (stateAlias ⟨4, 0x200, 16, 1, 0, 0, []⟩)).pubs = []
    ∧ stays (.rpub 0 2 11) (stateAlias ⟨4, 0x200, 16, 1, 0, 2, []⟩) = true
    ∧ trapAfter (.rpub 0 2 11) (stateAlias ⟨1, 0x200, 16, 1, 0, 0, []⟩) = some (0x18, 0, 2)
    ∧ stays (.rpub 0 2 11) (withCell { cellCpy with pubs := [⟨2, zeroBytes 16, false⟩] }) = true := by
  decide +kernel

/-- Cell 0 with channel 0 to another package, its stream in slot 6. -/
def stateRemoteChannel (c : Cell) : State :=
  { caching [(5, desc0 0 0), (6, descFar)] (withTeam { c with s := [(12, 0), (7, 0)] } cell0) with
    ctxs := [(1, { ctxEmpty with live := true, launch := some launchStages })] }

/-- RingResults: CHSEND of a remote channel takes the tile of its count, counts it, and stalls at its depth and at a full queue (R367). -/
theorem test_remote_channel :
    (cellAfter (.chsend 0 12 7 3) (stateRemoteChannel { cellCpy with chSent := [(0, 3)] })).copies.map (fun o => (o.chan, o.tile)) = [(some ⟨0, true, 0, 0⟩, some 1)]
    ∧ (fun (c : Cell) => (tblGet 0 c.chSent 0, tblGet 0 c.chUnacked 0)) (cellAfter (.chsend 0 12 7 3) (stateRemoteChannel { cellCpy with chSent := [(0, 3)], chUnacked := [(0, 1)] })) = (4, 2)
    ∧ stays (.chsend 0 12 7 3) (stateRemoteChannel { cellCpy with chUnacked := [(0, 2)] }) = true
    ∧ stays (.chsend 0 12 7 3) (stateRemoteChannel { cellCpy with copies := List.replicate 64 copy0 }) = true
    ∧ stays (.chsend 0 12 7 3) (withChannels { cellCpy with copies := List.replicate 64 copy0 } cellRecv) = true
    ∧ trapAfter (.chsend 0 12 7 3) { stateRemoteChannel cellCpy with cores := [] } = some (0x12, 0x140, 0)
    ∧ (fun (e : BitVec 128) => (chKind e, chDepth e, chScell e)) (BitVec.ofNat 128 (ofBytes launchStages.channels)) = (2, 2, 0) := by
  decide +kernel

/-- WaitWordAndParameterResults: an aperture page that the TLB holds raises PERM (R354, R432). -/
theorem test_waita_tlb :
    (tlbFind (tlbOf { mapped (withCell cellVec) with cores := [(0, { coreEmpty with tlb := [⟨1, 0, 21, 0xE80F, 0x1000⟩] })] } (.core 0)) 1 0x4000).map (fun e => leafAp e.leaf) = some true
    ∧ trapAfter (.waita 0 1 7 11 3 true 0) { mapped (withCell { cellWait with tvec := 0x4001 }) with cores := [(0, { coreEmpty with tlb := [⟨1, 0, 21, 0xE80F, 0x1000⟩] })] }
        = some (0x13, 0x4000, 0x300) := by
  decide +kernel

/-- BroadcastResults: LATSTAT keeps its bits until the beat after; a sender whose tile is stopped, or whose queue of deferred
traps is full, keeps its colliding entry (R173, R174, R246). -/
theorem test_broadcast_rest :
    latstat (getCell (after (exec .latchComplete (stateCaught (.data (zeroBytes 256) false)))) 0) = latstat (getCell (stateCaught .nothing) 0)
    ∧ (getCell (after (exec .latchComplete (stateCaught .nothing))) 0).latches = [⟨100, 0x100, some .nothing, some false⟩]
    ∧ (getCell (after (exec .broadcastBeat { stateBus [⟨100, [], false, false⟩] with cores := [(0, { coreEmpty with stopped := true })] })) 0).sends.map (fun x => (x.beat, x.clash)) = [(100, true)]
    ∧ (let s := modCell (stateBus [⟨100, [], false, false⟩]) 0 fun c => { c with deferred := List.replicate 16 ⟨⟨0x30, 9, 0, 0, 1, false⟩, none⟩ }
       let c := getCell (after (exec .broadcastBeat s)) 0
       (c.sends.map (fun x => (x.beat, x.clash)), c.deferred.length)) = ([(100, true)], 16) := by
  decide +kernel
/-! ### Tile products -/

/-- An operand of 64 rows of `n` equal codes, all block scales and band scales equal. -/
def uniform (fmt n x scale band : Nat) : Operand :=
  if fmt = 12 then ⟨0, fmt, List.replicate (64 * n) x, List.replicate (64 * n) scale, List.replicate 64 band, [], none⟩
  else ⟨0, fmt, List.replicate (64 * n) x, [], [], [], none⟩

/-- The first element of an operand's codes replaced. -/
def withFirst (o : Operand) (x : Nat) : Operand := { o with elems := x :: o.elems.drop 1 }

/-- Word (0, 0) of a tile that held `old` there, after an MMA. -/
def word00 (a b : Operand) (old : Nat) : Nat := (mmaWords a b fun _ _ => old).getD 0 0

/-- MicroOperationResults: sums of I8 products modulo 2^32, and of bf16 products with an infinity, a NaN and zeros (R237, R238). -/
theorem test_mma_sums :
    word00 (uniform 0 192 0xFF 0 0) (uniform 0 192 2 0 0) 5 = 5 + 2 ^ 32 - 384
    ∧ word00 (uniform 9 96 0x3F80 0 0) (uniform 9 96 0x3F80 0 0) 0x40000000 = 0x42C40000
    ∧ word00 (withFirst (uniform 9 96 0x3F80 0 0) 0xFF80) (uniform 9 96 0x3F80 0 0) 0 = 0xFF800000
    ∧ word00 (withFirst (uniform 9 96 0x7F80 0 0) 0xFF80) (uniform 9 96 0x3F80 0 0) 0 = 0x7FC00000
    ∧ word00 (withFirst (uniform 9 96 0 0 0) 0x7F80) (uniform 9 96 0 0 0) 0 = 0x7FC00000
    ∧ word00 (withFirst (uniform 9 96 0 0 0) 0x7FC0) (uniform 9 96 0x3F80 0 0) 0 = 0x7FC00000
    ∧ word00 (uniform 9 96 0x8000 0 0) (uniform 9 96 0x3F80 0 0) 0x80000000 = 0x80000000
    ∧ word00 (withFirst (uniform 9 96 0x8000 0 0) 0) (uniform 9 96 0x3F80 0 0) 0x80000000 = 0 := by
  decide +kernel

/-- MicroOperationResults: E2M1 with block scales, and an infinite band scale over ones and over a zero (R230, R237). -/
theorem test_mma_blocks :
    word00 (uniform 12 384 2 0x60 0x3F80) (uniform 12 384 2 0x60 0x3F80) 0 = 0x43C00000
    ∧ word00 (uniform 12 384 2 0x60 0xBF80) (uniform 12 384 2 0x60 0x3F80) 0 = 0xC3C00000
    ∧ word00 (uniform 12 384 2 0x60 0x7F80) (uniform 12 384 2 0x60 0x3F80) 0 = 0x7F800000
    ∧ word00 (withFirst (uniform 12 384 2 0x60 0x7F80) 0) (uniform 12 384 2 0x60 0x3F80) 0 = 0x7FC00000
    ∧ word00 (uniform 10 192 0x38 0 0) (uniform 11 192 0x3C 0 0) 0 = 0x43400000
    ∧ mmaFmt 12 = some .e2m1 ∧ pairGood 10 11 = true ∧ mmaFmt 0 = none := by
  decide +kernel

/-- MicroOperationResults: the lengths that the sums ask for. -/
theorem test_mma_lengths :
    (uniform 9 96 0x3F80 0 0).elems.length = 64 * 96 ∧ (uniform 12 384 2 0x60 0x3F80).scales.length = 64 * 384
    ∧ (uniform 12 384 2 0x60 0x3F80).bands.length = 64 ∧ (uniform 9 96 0x3F80 0 0).scales = [] := by
  refine ⟨?_, ?_, ?_, rfl⟩ <;> simp only [uniform, if_true, if_false, List.length_replicate, Nat.reduceEqDiff]

/-- MicroOperationResults: the codes that STACC writes (R386): I32, saturated I8, bf16 times 2, NaN in each format. -/
theorem test_stacc_codes :
    (staccCode 2 0 0x3F800000 0xDEADBEEF 0 []).1 = 0xDEADBEEF ∧ (staccCode 0 0 0x3F800000 0xFFFFFF00 0 []).1 = 0x80
    ∧ (staccCode 0 0 0x3F800000 0x7F 0 []).1 = 0x7F ∧ (staccCode 9 0 0x40000000 0x3F800000 0 []).1 = 0x4000
    ∧ (staccCode 8 0 0x40000000 0xBFC00000 0 []).1 = 0xC0400000 ∧ (staccCode 8 0 0x7FC00000 0 0 []).1 = 0x7FC00000
    ∧ (staccCode 9 0 0x3F800000 0x7FC00000 0 []).1 = 0x7FC0 ∧ (staccCode 10 0 0x3F800000 0x7FC00000 0 []).1 = 0x7F
    ∧ (staccCode 11 0 0x3F800000 0x7FC00000 0 []).1 = 0x7E := by
  decide +kernel

/-- Command 3 with an operand in H[0] and H[1], a destination in H[2], and a held operand. -/
def cmdHeld (a b : Desc) (o : Option Operand) : MatCmd :=
  { cmdTiles with descs := [(0, some ⟨a, none, none⟩), (1, some ⟨b, none, none⟩)], statB := o, mp := [(4, 0x100600001005), (7, 0xF)] }

/-- The fault of a micro-operation of that command: cause, address, INFO. -/
def heldFault (i : Instr) (m : MatCmd) : Option (BitVec 8 × BitVec 64 × BitVec 32) :=
  ((getCell (after (exec i (stateMicro m))) 0).cmds.head?.bind MatCmd.fault).map fun t => (t.cause, t.addr, t.info)

/-- An operand of 96 bf16 elements a row, and one in global memory. -/
def descBf : Desc := BitVec.ofNat 512 (2 ^ 511 + 2 ^ 480 + 9 * 2 ^ 448 + (96 + 64 * 2 ^ 16 + 2 ^ 32 + 2 ^ 48) * 2 ^ 320 + (1 + 2 ^ 16 + 2 ^ 32 + 2 ^ 48) * 2 ^ 64)

/-- MicroOperationResults: an MMA of a tensor in global memory, of a wrong shape, of two formats (R385, R390). -/
theorem test_mma_faults :
    heldFault (.uopMma 0 1 0 0 1 0 false) (cmdHeld (descOp + BitVec.ofNat 512 (2 ^ 458)) descOp none) = some (0x09, 0, 0x1005)
    ∧ heldFault (.uopMma 0 1 0 0 1 0 false) (cmdHeld descOp (descOp + BitVec.ofNat 512 (2 ^ 458)) none) = some (0x09, 0, 0x1006)
    ∧ heldFault (.uopMma 0 1 0 0 1 0 false) (cmdHeld descOut descOp none) = some (0x09, 0, 0x1005)
    ∧ heldFault (.uopMma 0 1 0 0 1 0 false) (cmdHeld descOp descOut none) = some (0x09, 0, 0x1006)
    ∧ heldFault (.uopMma 0 1 0 0 1 0 false) (cmdHeld descOp descBf none) = some (0x0A, 0, 0x1005) := by
  decide +kernel

/-- MicroOperationResults: an MMA without a held operand or with one of another format; a STACC of another shape or format (R385, R386). -/
theorem test_held_faults :
    heldFault (.uopMma 0 0 0 0 1 0 true) (cmdHeld descOp descOp none) = some (0x22, 0, 0x901)
    ∧ heldFault (.uopMma 0 0 0 0 1 0 true) (cmdHeld descOp descOp (some (uniform 9 96 0 0 0))) = some (0x0A, 0, 0x1005)
    ∧ heldFault (.uopStacc 0 0 1 0 false) (cmdHeld descOp descOp none) = some (0x09, 0, 0x1005)
    ∧ heldFault (.uopStacc 0 0 1 0 false) (cmdHeld (descOut + BitVec.ofNat 512 (2 ^ 448)) descOp none) = some (0x0A, 0, 0x1005) := by
  decide +kernel

/-- Cell 0 with its bank 0 poisoned at 0, from where the operand of the command is read. -/
def statePoisoned : State := modCell (stateMicro { cmdHeld descOp descOp none with c := [(1, 0)] }) 0 fun c => poisonNear c 0 0 8

/-- MicroOperationResults: LDB of an operand with a poisoned word faults with its near address (R390). -/
theorem test_ldb_poison :
    ((getCell (after (exec (.uopLdb 0 1) statePoisoned)) 0).cmds.head?.bind MatCmd.fault).map (fun t => (t.cause, t.addr)) = some (0x31, 0) := by
  decide +kernel

/-- MicroOperationResults: STACC of a poisoned word outside its tensor is marked, and writes nothing (R260, R386, R390). -/
theorem test_stacc_poison :
    let s := modCell (stateMicro cmdTiles) 0 fun c => { c with poisonAcc := [(accWord 1 0 0, true)] }
    accPoisoned (getCell s 0) 1 0 0 = true
    ∧ ∃ g, staccRun 0 1 agent0 descOut (coordOf 5) cmdTiles s [] false 0 4096 = (s, g, true, none) := by
  refine ⟨by decide +kernel, ?_⟩
  obtain ⟨g, hg⟩ := staccRun_outside 0 1 agent0 descOut (coordOf 5) cmdTiles
    (modCell (stateMicro cmdTiles) 0 fun c => { c with poisonAcc := [(accWord 1 0 0, true)] }) [] false 4096 0
    fun i _ => clipped_at_five _ (by decide +kernel) (by decide +kernel) _ (by
      show (5 : Int) ≤ (5 : Int) + (i % 64 : Nat)
      omega)
  refine ⟨g, ?_⟩
  rw [hg]
  have : (List.range' 0 4096).any (fun i => accPoisoned (getCell (modCell (stateMicro cmdTiles) 0 fun c =>
      { c with poisonAcc := [(accWord 1 0 0, true)] }) 0) 1 (i / 64) (i % 64)) = true :=
    List.any_eq_true.2 ⟨0, by simp [List.mem_range'], by decide +kernel⟩
  rw [this]
  rfl
/-! ### Turns of groups, commands and saves -/

/-- GroupBoundaryResults: a stalled group is tried in the cycle that takes its slot; a spent cycle changes nothing (R140, R287). -/
theorem test_stalled_group :
    (mergePlan (stateMerge false) 0).1 = [0]
    ∧ rdS (getCell (after (exec .stalledGroupCommit { stateMerge false with input := .num 0 })) 0) 3 = 0x8000000000000002
    ∧ (getCore (after (exec .stalledGroupCommit { stateMerge false with input := .num 0 })) 0).cycle = 1
    ∧ after (exec .stalledGroupCommit { stateMerge true with input := .num 0 }) = { stateMerge true with input := .num 0 } := by
  decide +kernel

/-- Code at 0x130 of a mapped package: BRQ to 0x138 alone. -/
def stateBrq (c : Cell) : State := withBytes (stateCode { c with pc := 0x130 }) 0x130 (toBytes 0xA0080002 4)

/-- GroupBoundaryResults: a group that stalls its cell enters WAIT; one that waits for a register is not taken (R135, R276, R287). -/
theorem test_group_stalls :
    (mergePlan (stateBrq cell0) 0).1 = [0] ∧ slotReady (stateBrq { cell0 with cq := [true] }) 0 = true
    ∧ (getCell (after (exec .stalledGroupCommit (stateBrq { cell0 with cq := [true] }))) 0).pc = 0x138
    ∧ (fun (c : Cell) => (c.pc, c.run)) (getCell (after (exec .stalledGroupCommit (stateBrq cell0))) 0) = (0x130, .wait)
    ∧ scoreBlocked { cell0 with accesses := [⟨0, 0, 0, 8, 0, .load false, .near 0, .s 3, false, false, none⟩] } (.add 0 3 3 4) = true
    ∧ scoreBlocked cell0 (.add 0 3 3 4) = false := by
  decide +kernel

/-- GroupBoundaryResults: a line of a channel that is lost is discarded (R261), and a deferred trap that a halt does not keep back. -/
theorem test_lost_line :
    (after (exec .wcsLineDrainTimeout { stateLine 2500 with dies := [(0, { dieEmpty with badChannels := 4, lines := [(16, some ⟨[(4, some 9)], 500, []⟩)] })] })).mem = (stateLine 2500).mem
    ∧ (4096 / 2048) % 32 = 2 ∧ haltNext (stateCode { cellVec with pc := 0x100 }) 0 = false
    ∧ physLost (stateLine 2500) 4096 = false := by
  decide +kernel

/-- VirgaStateInstructionResults: GTRATE while the selected port is dark, and GTSTEP with a negative value (R36, R397). -/
theorem test_virga_time :
    (after (exec (.virgaMtv 3 0x010) (let s := stateV 0 virga0; { s with pkg := { s.pkg with ptp := .hold } }))).pkg.gtrate = 0xFFFFFFFF
    ∧ (after (exec (.virgaMtv 3 0x010) (stateV 0 virga0))).pkg.gtrate = 2
    ∧ (after (exec (.virgaMtv 2 0x013) (stateV 0 virga0))).pkg.gtime = 1000 := by
  decide +kernel

/-- PackageEventResults: a reset that completes, and a corrected error of a core's memories under its IO die's first die (R29, R393). -/
theorem test_reset_and_errors :
    [true, false].map (fun b => (fun (p : CxlPort) => (p.up, p.resetting, p.requests, p.capacity)) (cxlAfterReset b 5 { cxlEmpty with resetting := true, requests := [(9, 1)], capacity := 4 })) =
        [(true, false, [], 5), (false, false, [], 4)]
    ∧ tblGet 0 (after (exec .eccCorrected (let s := atEvent (.num 3); { s with gafin := { s.gafin with cntsrc := [(5, 0x7000)] } }))).gafin.cnt 5 = 1
    ∧ tblGet 0 (after (exec .eccCorrected (let s := atEvent (.num 4); { s with gafin := { s.gafin with cntsrc := [(5, 0x7004)] } }))).gafin.cnt 5 = 1 := by
  decide +kernel

/-- A queue that halted at index 4 for a WAITSEM, with CONS 5, at a write of RESUME. -/
def stateHalted (h : Bool) : State :=
  let s := atHost (.triple (0x10004 + 192) 4 0x20000000)
  modQueue s 3 fun q => { q with halted := h, haltCause := 2, haltIndex := 4, cons := 5 }

/-- A ring of 4 records, full, with one buffered, at a write of EVCONS. -/
def stateRing (v : Nat) : State :=
  let s := atHost (.triple 0x318 4 v)
  { s with gafin := { s.gafin with even := true, evlog2 := 2, evprod := 4, evbuf := [zeroBytes 64] } }

/-- HostRegisterResults: RESUME fetches the halted command again; EVCONS lets a buffered record go (R108, R120). -/
theorem test_resume_and_evcons :
    (getQueue (after (exec .qcfgResume (stateHalted true))) 3).cons = 4 ∧ (getQueue (after (exec .qcfgResume (stateHalted false))) 3).cons = 5
    ∧ (after (exec .evconsWrite (stateRing 0))).gafin.evbuf.length = 1 ∧ (after (exec .evconsWrite (stateRing 1))).gafin.evbuf = []
    ∧ (after (exec .evconsWrite (stateRing 1))).gafin.evprod = 5 := by
  decide +kernel

/-- HostPortResults: a queue whose WAITSEM is accepted, or runs, fetches nothing (R110, R118). -/
theorem test_waitsem_holds_fetch :
    after (exec .commandFetch (let s := stateFetch 1 0 0; { s with gafin := { s.gafin with accepted := [cmdWaitsem] } })) =
        (let s := stateFetch 1 0 0; { s with gafin := { s.gafin with accepted := [cmdWaitsem] } })
    ∧ (getQueue (after (exec .commandFetch (let s := stateFetch 1 0 0; { s with gafin := { s.gafin with running := [⟨cmdWaitsem, 0, 0, 0⟩] } }))) 3).cons = 20
    ∧ (getQueue (after (exec .commandFetch (let s := stateFetch 1 0 0; { s with gafin := { s.gafin with running := [⟨{ cmdWaitsem with queue := 4 }, 0, 0, 0⟩] } }))) 3).cons = 21 := by
  decide +kernel

/-- CommandResults: selecting the port that went dark keeps the holdover, another ends it; a second reset of a port waits with the first (R29, R36, R113). -/
theorem test_feature_ports :
    (after (exec .featurePtpPort (let s := atCmd (cmdFeat 2 17); { s with pkg := { s.pkg with ptp := .hold, ptpPort := 17 } }))).pkg.ptp = .hold
    ∧ (after (exec .featurePtpPort (let s := atCmd (cmdFeat 2 18); { s with pkg := { s.pkg with ptp := .hold, ptpPort := 17 } }))).pkg.ptp = .follow
    ∧ (after (exec .featurePtpPort (atCmd (cmdFeat 2 0)))).pkg.ptp = .follow
    ∧ (getCxl (after (exec .featureCxlReset { atCmd (cmdFeat 5 7) with cxl := [(7, { cxlEmpty with resetting := true, resetCmds := [(1, 2)] })] })) 7).resetCmds = [(1, 2), (3, 5)] := by
  decide +kernel
/-- A descriptor with one byte changed. -/
def descAt (off : Nat) (b : Byte) : List Byte := (descOf 2 3).set off b

/-- LaunchAndSchedulerResults: the first offending field of a descriptor, at each bound, or none (R131 to R133). -/
theorem test_launch_bad :
    launchBad (descAt 0 1) (some []) (some []) = some 0 ∧ launchBad (descAt 16 1) (some []) (some []) = some 16
    ∧ launchBad (descOf 2 3) none (some []) = some 24 ∧ launchBad (descOf 2 3) (some []) none = some 32
    ∧ launchBad (descAt 41 2) (some []) (some []) = some 40 ∧ launchBad (descAt 41 1) (some []) (some []) = none
    ∧ launchBad (descAt 42 0) (some []) (some []) = some 42 ∧ launchBad (descAt 43 3) (some []) (some []) = some 43
    ∧ launchBad (descAt 45 1) (some []) (some []) = some 45 ∧ launchBad (descAt 43 2) (some []) (some []) = some 45
    ∧ launchBad (descAt 46 1) (some []) (some []) = some 46 ∧ launchBad (descAt 53 1) (some []) (some []) = some 48
    ∧ launchBad (descAt 56 1) (some []) (some []) = some 56 ∧ launchBad (descAt 64 2) (some []) (some []) = some 64
    ∧ launchBad (descAt 128 3) (some []) (some []) = some 128 ∧ launchBad (descAt 128 15) (some []) (some []) = none
    ∧ launchBad (descAt 136 1) (some []) (some []) = some 136 ∧ launchBad ((descAt 128 15).set 136 4) (some []) (some []) = none
    ∧ launchBad ((descAt 128 15).set 136 5) (some []) (some []) = some 136 ∧ launchBad (descAt 191 64) (some []) (some []) = some 184
    ∧ launchBad (descAt 191 63) (some []) (some []) = none ∧ launchBad (descAt 255 1) (some []) (some []) = some 200 := by
  decide +kernel

/-- LaunchAndSchedulerResults: what a core has left beside a cell of it (R137). -/
theorem test_core_fits :
    (fun (a : Need) => (a.banks, a.nacc, a.planes)) (heldBy Cell.empty) = (0, 0, 0)
    ∧ coreFits (stateTeams 1 teamsTwo .none) 5 ⟨32, 48, 8⟩ = true ∧ coreFits (stateTeams 1 teamsTwo .none) 5 ⟨33, 48, 8⟩ = false
    ∧ coreFits (stateTeams 1 teamsTwo .none) 5 ⟨32, 49, 8⟩ = false ∧ coreFits (stateTeams 1 teamsTwo .none) 5 ⟨32, 48, 9⟩ = false
    ∧ coreFits { stateTeams 1 teamsTwo .none with cores := [(5, { coreEmpty with fenced := true })] } 5 ⟨0, 0, 0⟩ = false := by
  decide +kernel

/-- A cell that waits at RWAIT of its ring 2, a descriptor ring of a kind. -/
def stateRwait (kind : BitVec 3) (wp : BitVec 32) : State :=
  withBytes (stateCode { cell0 with pc := 0x130, run := .wait, cell := 3, rings := [(2, ⟨kind, 0, 16, 1, 0, wp, []⟩)] }) 0x130 (toBytes 0xF0080080 4)

/-- LaunchAndSchedulerResults: the condition of a waiting cell: a word, an empty ring that a control block fills, or none (R148). -/
theorem test_conditions :
    conditionOf stateSwap 0 = some (.word 1 0x40008 0 5)
    ∧ conditionOf { stateSwap with cells := [(0, { cellIdle0 with waitWord := some (8, false, 0, 5) })] } 0 = none
    ∧ conditionOf { stateSwap with cells := [(0, { cellIdle0 with waitWord := none, arrived := true })] } 0 = none
    ∧ conditionOf (stateRwait 2 0) 0 = some (.rcb 98) ∧ conditionOf (stateRwait 2 1) 0 = none ∧ conditionOf (stateRwait 1 0) 0 = none
    ∧ (lookup stateSwap .direct 1 0x40008 .read true false).res.toOption.isSome = true := by
  decide +kernel

/-- LaunchAndSchedulerResults: the head of the queue must fit where the team stands, and only an idle team is eligible (R147). -/
theorem test_eligible :
    headWouldFit stateSwap 65536 0 [0] = true ∧ headWouldFit { stateSwap with teams := [(65536, { teamEmpty with run := .placed, seats := [0] })] } 65536 0 [0] = false
    ∧ swapConditions { stateSwap with cells := [(0, { cellIdle0 with copies := [copy0] })] } 1 0 = none
    ∧ swapConditions { stateSwap with cells := [(0, { cellIdle0 with run := .run })] } 1 0 = none := by
  decide +kernel

/-- Two placed teams on die 0 and one on die 2, of power classes 1 and 1 and 1, the first at its least duty. -/
def teamsDuty : Tbl Team :=
  [(65536, { teamEmpty with run := .placed, seats := [0], dutyNext := 1 }), (65537, { teamEmpty with run := .placed, seats := [2] }),
    (65538, { teamEmpty with run := .placed, seats := [320] })]

/-- LaunchAndSchedulerResults: the teams of a die that a step can change, and a step with none (R145). -/
theorem test_throttled :
    throttled (stateTeams 1 teamsDuty .none) 0 true = [65537] ∧ throttled (stateTeams 1 teamsDuty .none) 0 false = [65536]
    ∧ throttled (stateTeams 1 teamsDuty .none) 1 true = []
    ∧ after (exec .throttleStep (stateTeams 1 teamsDuty (.pair 1 1))) = stateTeams 1 teamsDuty (.pair 1 1)
    ∧ (getTeam (after (exec .throttleStep (stateTeams 1 teamsDuty (.pair 0 1)))) 65537).dutyNext = 15
    ∧ (getTeam (after (exec .throttleStep (stateTeams 1 teamsDuty (.pair 0 1)))) 65536).dutyNext = 1
    ∧ tblWf teamEmpty (stateTeams 1 teamsDuty .none).teams = true ∧ powerClass (stateTeams 1 teamsDuty .none) 65537 = 1 := by
  decide +kernel

/-- A cell with the save of its team, its grace window over, at a time after its stop. -/
def stateLate (t : BitVec 64) : State :=
  let s := atBeat (stateSave { cell0 with stopBeat := 0 } (jobOf [0] none) (.triple 1 0 0))
  { s with pkg := { s.pkg with gtime := t } }

/-- SaveAndRestoreResults: a save is ready up to 2 ms and no later (R255). -/
theorem test_save_bound :
    saveReady (stateLate 2000000) (jobOf [0] none) 0 = true ∧ saveReady (stateLate 2000001) (jobOf [0] none) 0 = false
    ∧ after (exec .saveComplete (stateLate 2000001)) = stateLate 2000001 := by
  decide +kernel

/-- SaveAndRestoreResults: a stale image is refused whether or not its team could be seated, and a bad tag comes before a revision (R151, R257). -/
theorem test_restore_order :
    slotOf (after (exec .imgrestore { stateFenced with ctxs := stateFenced.ctxs.map fun e => (e.1, { e.2 with prot := true }), teams := [(65536, { teamSaved with counter := some 8 })] })) = (5, 0, 1, 1, 0)
    ∧ verdictOf stateImage 1 [] true = 2 := by
  decide +kernel

/-- A context that goes, with a line of it and one of another, a command of it and one of another accepted. -/
def stateLeft (stage : Nat) : State :=
  let s := stateKill stage 0 cell0
  { s with
    dies := [(0, { dieEmpty with lines := [(16, some ⟨[(4, some 9)], 500, [⟨some 1, none, 0, false⟩]⟩), (17, some ⟨[(4, some 9)], 500, [⟨some 2, some 4, 0, false⟩]⟩)] })]
    gafin := { s.gafin with accepted := [cmdHcopy 1 1, cmdOf 3 0 2 []] } }

/-- RemovalResults: the lines that an access of the context owns are drained, what is accepted of it is marked, and the command completes (R188, R262). -/
theorem test_kill_lines :
    ((getDie (after (exec .ctxkillStageDrained (stateLeft 4))) 0).lines.map Prod.fst) = [17]
    ∧ ((after (exec .ctxkillStageDrained (stateLeft 7))).gafin.accepted.map fun c => c.doomed) = [true, false]
    ∧ makesContext 1 (cmdOf 3 0 2 []) = false ∧ makesContext 1 (cmdHcopy 1 1) = false
    ∧ (after (exec .ctxkillStageDrained (stateLeft 7))).gafin.running.length = 0 ∧ ctxSeats (stateLeft 7) 1 = [0] := by
  decide +kernel

/-- ReceiveControlBlockResults: chunks all clipped leave an RCB without a ring OPEN (R74), and pads that still wait come back with an import (R78, R93). -/
theorem test_open_clipped :
    (rcbAfter .rcbsetOpen (stateRcb (cmdRcb1 0 0) (rcbGood + 2 ^ 205 + 2 ^ 288) { rcbEmpty with gen := 2 })).state = 1
    ∧ (rcbAfter .rcbsetOpen (stateRcb (cmdRcb1 0 0) (rcbGood + 2 ^ 205 + 2 ^ 288) { rcbEmpty with gen := 2 })).nclip = 1
    ∧ (rcbOfExport (stateRcb (cmdRcb1 3 0) 0 rcbEmpty) 26 0x50000 (BitVec.ofNat 512 (rcbGood + 2 ^ 206 + 2 ^ 229 + 2 * 2 ^ 128 + 2 ^ 104 + 2 ^ 80)) (desc0 0 0) 0 0).padLater = true
    ∧ (rcbOfExport (stateRcb (cmdRcb1 3 0) 0 rcbEmpty) 26 0x50000 (BitVec.ofNat 512 (rcbGood + 2 ^ 206 + 2 ^ 229 + 2 * 2 ^ 128 + 2 ^ 80)) (desc0 0 0) 0 0).padLater = false
    ∧ dSpace (desc0 0 0) = 0 := by
  decide +kernel

/-- PeerAndWindowResults: a PDC that sends once does not send again when its peer is re-pointed (R53, R94). -/
theorem test_repoint_uud :
    pdcAfter .peersetRepoint (statePeer (cmdPeerset 4 0) { pdc7 with mode := 3 } peerEntry) = { pdc7 with mode := 3, est := true, entry := BitVec.ofNat 512 (9 * 2 ^ 384 + 2 ^ 272) } := by
  decide +kernel
/-! ### More of the transport -/

/-- The copy of a cell after its chunk is tried: packets sent, its fault, where it stops. -/
def chunkSeen (c : Cell) : List (Nat × Option (BitVec 8) × Option Nat) :=
  (getCell (after (exec .packetTransmit (stateSend c pdcRod (.triple 0 4 0)))) 0).copies.map fun o => (o.unacked, o.fault.map TrapInfo.cause, o.limit)

/-- TransmissionResults: a poisoned chunk is not sent, and neither is one beyond a chunk whose source faulted (R90, R260). -/
theorem test_chunk_poison :
    (chunkRead (stateSend (poisonNear cellOut 0 0x40 1) pdcRod .none) 0 copyOut (descStream 0) 0).2.bad = [16, 17]
    ∧ chunkSeen (poisonNear cellOut 0 0x40 1) = [(0, some 0x31, none)] ∧ chunkSeen { cellOut with banks := [] } = [(0, some 0x16, some 0)]
    ∧ chunkSeen cellOut = [(1, none, none)]
    ∧ nextChunk { copyOut with limit := some 0 } (descStream 0) 0 = none ∧ nextChunk { copyOut with limit := some 1 } (descStream 0) 0 = some 0 := by
  decide +kernel

/-- TransmissionResults: a frame carries the address, the UDP port and the epoch of its PDC (R42, R62). -/
theorem test_frame_fields :
    ((tblGet [] (chunkOver { pdcRod with entry := BitVec.ofNat 512 peerEntry }).net.egress 4).map fun f => (f.pdc, f.dst, f.udp, f.epoch, f.vlan)) = [(26, 9, 4793, 0, none)]
    ∧ chunkWaits (stateSend cellOut pdcRod .none) 0 copyOut (descStream 0) 0 = false
    ∧ accessRuns (stateSend cell0 pdcRod .none) 0 (accessOut (.load false)) = true ∧ accessRuns (stateSend { cell0 with held := true } pdcRod .none) 0 (accessOut (.load false)) = false
    ∧ (getDie (after (exec .packetTransmit { stateSend { cell0 with accesses := [accessOut (.store 77)] } pdcRod (.pair 0 4) with net := Net.reset })) 0).faults.length = 1 := by
  decide +kernel

/-- TransmissionResults: RETX of a PDC that sends once sends nothing, and a source that is gone leaves the timer (R53, R54, R56). -/
theorem test_resend_nothing :
    (fun (p : Pdc) => (p.retx, p.timer)) (pdcAfter .retxSend (stateSend cell0 { pdcRetx with mode := 3, retx := [⟨7000, [1]⟩] } (.num 26))) = ([], some 900)
    ∧ seenOn (after (exec .retxSend (stateSend cell0 { pdcRetx with mode := 3, retx := [⟨7000, [1]⟩] } (.num 26)))) 4 = []
    ∧ rereadPayload (stateSend cell0 pdcRod .none) ⟨.chunk 0 4 0 0, packet0, 4, none, false, 0, none⟩ = (stateSend cell0 pdcRod .none, none)
    ∧ (fun (p : Pdc) => (p.retx, p.timer)) (pdcAfter .retxSend (stateSend cell0 { pdcRetx with retx := [⟨7000, [1]⟩], sent := [(7001, some ⟨.chunk 0 4 0 0, packet0, 4, some 5, false, 0, none⟩)] } (.num 26))) = ([], some 900) := by
  decide +kernel

/-- TransmissionResults: a PDC that new packets wait for is not idle (R46, R47). -/
theorem test_idle_held :
    (pdcAfter .pdcIdleTimeout (atTime 1000500 (stateSend cellOut { pdcRod with lastUse := 500, reached := [⟨0, 4, 0, true⟩] } (.num 26)))).state = 1
    ∧ (pdcAfter .pdcIdleTimeout (atTime 1000500 (stateSend cell0 { pdcRod with lastUse := 500, reached := [⟨0, 4, 0, true⟩] } (.num 26)))).state = 3
    ∧ (reachedOp (stateSend cellOut pdcRod .none) ⟨0, 4, 0, true⟩).isSome = true ∧ (reachedOp (stateSend cell0 pdcRod .none) ⟨0, 4, 0, true⟩).isSome = false
    ∧ (pdcAfter .pdcIdleTimeout (atTime 1000500 (stateSend { cell0 with accesses := [accessOut (.store 77)] } { pdcRod with lastUse := 500 } (.num 26)))).state = 1
    ∧ accessQueued pdcRod { cell0 with accesses := [accessOut (.store 77)] } = true ∧ accessQueued pdcRod cell0 = false := by
  decide +kernel

/-- TransmissionResults: an epoch that has switched twice is accepted until its own time is over (R63). -/
theorem test_old_epochs :
    (getDomain (after (exec .keyEpochSwitch (stateEpoch (.num 2) ⟨8, some (9, 20000), [(7, 19000)], [(7, 5)]⟩))) 2) = ⟨9, none, [(8, 20000), (7, 19000)], [(7, 5)]⟩
    ∧ epochAccepted (stateEpoch .none ⟨9, none, [(8, 20000), (7, 20000)], []⟩) 7 7 = true ∧ epochAccepted (stateEpoch .none ⟨9, none, [(8, 20000), (7, 19999)], []⟩) 7 7 = false
    ∧ epochAccepted (stateEpoch .none ⟨9, some (7, 30000), [(7, 19999)], []⟩) 7 7 = true
    ∧ epochAccepted (after (exec .keyEpochGraceEnd (stateEpoch (.pair 2 7) ⟨9, none, [(7, 20000)], []⟩))) 7 7 = false
    ∧ epochAccepted (after (exec .keyEpochGraceEnd (stateEpoch (.pair 2 7) ⟨9, none, [(7, 20001)], []⟩))) 7 7 = true := by
  decide +kernel

/-- ArrivalResults: a tagged packet ends within 16 KiB of its message, a frame carries at most 4,096 bytes (R41, R42). -/
theorem test_arrival_bounds :
    answersOn (after (exec .taggedSendArrival (stateIn (pdcIn 0) rcbIn (.packet { taggedIn with off := 16384 })))) = []
    ∧ (after (exec .taggedSendArrival (stateIn (pdcIn 0) rcbIn (.packet { taggedIn with off := 16384 })))).net.rcbs = (stateIn (pdcIn 0) rcbIn .none).net.rcbs
    ∧ (getPdc (after (exec .taggedSendArrival (stateIn (pdcIn 0) rcbIn (.packet taggedIn)))) 26).feeds = [26]
    ∧ queuedAt (stateIn (pdcIn 0) rcbIn .none) 0 = 0 ∧ rcbCpt rcbIn = 1 ∧ rcbContribs rcbIn = 1
    ∧ (admitHeader (stateIn (pdcIn 0) rcbIn .none) (headerIn 0 7000) false 4096).2 = some 7 := by
  decide +kernel

/-- ArrivalResults: a chunk whose RCB has moved, or whose consumer is away, is parked and counted by its IO die (R58, R123). -/
theorem test_parked_count :
    tblGet 0 (after (exec .rmaWriteStreamArrival (let s := stateIn (pdcIn 0) { rcbIn with state := 4 } (.packet (chunkIn (headerIn 0 7000) 0)); { s with gafin := { s.gafin with cntsrc := [(5, 0xA000)] } }))).gafin.cnt 5 = 1
    ∧ tblGet 0 (after (exec .rmaWriteStreamArrival (let s := stateIn (pdcIn 0) { rcbIn with cell := 1 } (.packet (chunkIn (headerIn 0 7000) 0)); { s with gafin := { s.gafin with cntsrc := [(5, 0xA000)] } }))).gafin.cnt 5 = 1 := by
  decide +kernel

/-- AnswerResults: a refused packet of a ROD PDC ends an episode of waiting, and the fault of a refused access enters the buffer (R53, R57, R199). -/
theorem test_nack_refused :
    (pdcOutAfter .nackReceived { pdcOut with parking := true } (.nack (headerIn 1 7000) 5 3 8)).parking = false
    ∧ ((getDie (after (exec .nackReceived (stateOut pdcOut (.nack (headerIn 1 7000) 5 3 8)))) 0).faults.length) = 1
    ∧ (pdcOutAfter .ackReceived { pdcOut with parking := true } (.ack (ackIn 7001 false))).parking = false := by
  decide +kernel

/-- AnswerResults: an ECN mark is gathered and goes back with the answer (R42, R59). -/
theorem test_ecn :
    (getPdc (answerPsn (stateIn (pdcIn 1) rcbIn .none) 26 5 true (.ack none)) 26).ackEcn = true
    ∧ (getPdc (answerPsn (stateIn { pdcIn 1 with ackEcn := true } rcbIn .none) 26 5 false (.ack none)) 26).ackEcn = true
    ∧ ((tblGet [] (answerPsn (stateIn { pdcIn 1 with acks := [(1, .ack none), (2, .ack none), (3, .ack none)] } rcbIn .none) 26 5 true (.ack none)).net.egress 4).map Frame.body) =
        [.answer [(1, .ack none), (2, .ack none), (3, .ack none), (5, .ack none)] 0 true] := by
  decide +kernel

/-- Every index that a table lists from 0 on has the value it lists. -/
theorem tblGet_listed {α : Type} (d x : α) (n m k : Nat) (h : k < n) :
    tblGet d ((List.range' m n).map fun i => (i, x)) (m + k) = x := by
  induction n generalizing m k with
  | zero => omega
  | succ n ih =>
    simp only [List.range'_succ, List.map_cons, tblGet]
    split
    · rfl
    · have h2 := ih (m + 1) (k - 1) (by omega)
      have : m + 1 + (k - 1) = m + k := by omega
      rwa [this] at h2

/-- A package all of whose PDCs belong to another context. -/
def stateFull : State :=
  { State.reset with net := { Net.reset with pdcs := (List.range' 0 65536).map fun i => (i, { pdcEmpty with state := 1, ctx := 9 }) } }

/-- No entry of a table that lists one value passes a test that the value fails. -/
theorem tblFind_listed {α : Type} (p : Nat → α → Bool) (x : α) (l : List Nat) (h : ∀ i, p i x = false) :
    tblFind p (l.map fun i => (i, x)) = none := by
  induction l with
  | nil => rfl
  | cons a l ih => simp [tblFind, h, ih]

/-- AnswerResults: a package with no free index, and no PDC of the header's context (R44). -/
theorem test_no_free_pdc :
    findPdc stateFull (headerIn 1 0).ctx 7 (headerIn 1 0).mode = none ∧ ∀ k, k < 65536 → (getPdc stateFull k).state ≠ 0 := by
  constructor
  · simp only [findPdc, stateFull]
    rw [tblFind_listed _ _ _ fun i => by decide]
    rfl
  · intro k hk
    have h := tblGet_listed pdcEmpty { pdcEmpty with state := 1, ctx := 9 } 65536 0 k hk
    have : getPdc stateFull k = { pdcEmpty with state := 1, ctx := 9 } := by
      simpa [getPdc, stateFull] using h
    rw [this]
    decide

end Sys2Proof.Tests
end

/-! ### PROOFS. What arrives on the transport (O59)

What writes to memory and page walks leave alone: the transport, and with it every RCB and window. -/

namespace Sys2Proof.Machine

/-! ### Numbers from i on -/

theorem allIndex_iff (p : Nat → Bool) (n i : Nat) : allIndex p i n = true ↔ ∀ j, i ≤ j → j < i + n → p j = true := by
  induction n generalizing i with
  | zero => simp only [allIndex, true_iff]; omega
  | succ n ih =>
    simp only [allIndex, Bool.and_eq_true, ih]
    constructor
    · rintro ⟨h0, h⟩ j hi hj
      rcases Nat.eq_or_lt_of_le hi with rfl | hlt
      · exact h0
      · exact h j hlt (by omega)
    · exact fun h => ⟨h i (by omega) (by omega), fun j hi hj => h j (by omega) (by omega)⟩

theorem bitOf_eq_testBit (x i : Nat) : bitOf x i = x.testBit i := by
  rw [bitOf, Nat.testBit_eq_decide_div_mod_eq]
  rfl

/-! ### What writes to memory leave alone: the transport -/

theorem foldl_net {β : Type} (f : State → β → State) (hf : ∀ s b, (f s b).net = s.net) (l : List β) (s : State) :
    (l.foldl f s).net = s.net := by
  induction l generalizing s with
  | nil => rfl
  | cons b l ih => exact (ih _).trans (hf s b)

theorem foldIndex_net (f : State → Nat → State) (hf : ∀ s i, (f s i).net = s.net) (n i : Nat) (s : State) :
    (foldIndex f s i n).net = s.net := by
  induction n generalizing s i with
  | zero => rfl
  | succ n ih => exact (ih _ _).trans (hf s i)

@[simp] theorem memWrite_net (bs : List Byte) (s : State) (pa : Nat) : (memWrite s pa bs).net = s.net := by
  induction bs generalizing s pa with
  | nil => rfl
  | cons b bs ih => exact ih _ _

@[simp] theorem holdBytes_net (owner : Owner) (bs : List Byte) (s : State) (pa : Nat) :
    (holdBytes s pa owner bs).net = s.net := by
  induction bs generalizing s pa with
  | nil => rfl
  | cons b bs ih => exact ih _ _

@[simp] theorem drainLine_net (s : State) (die line : Nat) : (drainLine s die line).net = s.net := by
  unfold drainLine
  split <;> rfl

@[simp] theorem drainRange_net (s : State) (pa n : Nat) : (drainRange s pa n).net = s.net :=
  foldIndex_net _ (fun s _ => drainLine_net s _ _) _ _ s

@[simp] theorem settleLine_net (s : State) (line : Nat) : (settleLine s line).net = s.net := by
  have drained : ∀ t : State, (if (getDie t (stackOf (line * 256))).lines.length > wcCapacity then
      match oldestLine (getDie t (stackOf (line * 256))) with
      | some k => drainLine t (stackOf (line * 256)) k
      | none => t
    else t).net = t.net := by
    intro t
    split
    · split
      · exact drainLine_net t _ _
      · rfl
    · rfl
  refine (drained _).trans ?_
  split
  · split
    · exact drainLine_net s _ _
    · rfl
  · rfl

@[simp] theorem settleLines_net (s : State) (pa n : Nat) : (settleLines s pa n).net = s.net :=
  foldIndex_net _ settleLine_net _ _ s

@[simp] theorem testWakes_net (s : State) (pa n : Nat) : (testWakes s pa n).net = s.net :=
  foldl_net _ (fun t e => by split <;> rfl) _ s

@[simp] theorem physWrite_net (s : State) (pa : Nat) (bs : List Byte) (merge : Bool) (owner : Owner) :
    (physWrite s pa bs merge owner).net = s.net := by
  unfold physWrite
  split
  · rfl
  · refine (testWakes_net _ _ _).trans ?_
    split
    · split
      · exact (settleLines_net _ _ _).trans (holdBytes_net _ _ _ _)
      · exact (memWrite_net _ _ _).trans (drainRange_net _ _ _)
    · exact memWrite_net _ _ _

@[simp] theorem countAt_net (s : State) (pa : Nat) : (countAt s pa).net = s.net := by
  unfold countAt countCxl
  split
  · split <;> rfl
  · rfl

/-! ### What translations leave alone -/

@[simp] theorem touchLeaf_net (s : State) (addr : Nat) (write : Bool) : (touchLeaf s addr write).net = s.net := by
  simp only [touchLeaf, deviceWrite, apply_ite State.net, physWrite_net, ite_self]

@[simp] theorem setTlb_net (s : State) (u : TlbUnit) (l : List TlbEntry) : (setTlb s u l).net = s.net := by
  cases u <;> rfl

@[simp] theorem tlbFill_net (s : State) (u : TlbUnit) (e : TlbEntry) : (tlbFill s u e).net = s.net := by
  unfold tlbFill
  dsimp only
  split
  · rfl
  · split <;> simp

@[simp] theorem clearFault_net (s : State) (die ctx va : Nat) : (clearFault s die ctx va).net = s.net := by
  unfold clearFault
  dsimp only
  split <;> rfl

@[simp] theorem countMisses_net (s : State) (u : TlbUnit) (ctx va : Nat) : (countMisses s u ctx va).net = s.net := by
  unfold countMisses
  split
  · dsimp only
    split <;> rfl
  · rfl

theorem lookup_eff_net (s t : State) (u : TlbUnit) (ctx va : Nat) (k : Kind) (user window : Bool) :
    ((lookup s u ctx va k user window).eff t).net = t.net := by
  unfold lookup
  split
  · split
    · rfl
    · dsimp only
      split
      · exact touchLeaf_net _ _ _
      · rfl
  · split
    · rfl
    · split
      · rfl
      · split
        · rfl
        · simp

@[simp] theorem translate_eff_net (s t : State) (u : TlbUnit) (ctx va : Nat) (k : Kind) (user window : Bool) :
    ((translate s u ctx va k user window).eff t).net = t.net :=
  (lookup_eff_net _ _ _ _ _ _ _ _).trans (countMisses_net _ _ _ _)

@[simp] theorem virtRun_net (ag : Agent) (k : Kind) (n : Nat) (s : State) (va : Int) :
    (virtRun s ag k va n).1.net = s.net := by
  induction n generalizing s va with
  | zero => rfl
  | succ n ih =>
    unfold virtRun
    split
    · rfl
    · dsimp only
      split
      · exact translate_eff_net _ _ _ _ _ _ _ _
      · have h := ih ((translate s ag.unit ag.ctx va.toNat k ag.user false).eff s) (va + 1)
        rw [translate_eff_net] at h
        split
        all_goals next e => simpa only [e] using h

/-! ### What the elements of a placement leave alone (R79, R83) -/

/-- A write of an engine into near memory. -/
theorem engWrite_near_net (s : State) (ag : Agent) (addr : Int) (bs : List Byte) (poison : Bool) :
    (engWrite s ag 0 addr bs poison).1.net = s.net := by
  unfold engWrite
  rw [if_pos rfl]
  split
  · rfl
  · next l _ =>
    have healed : ∀ t : State, (match l with
        | (j, b, off) :: _ => if poison then t else modCell t j fun c => healNear c b off bs.length
        | [] => t).net = t.net := by
      intro t
      split
      · split <;> rfl
      · rfl
    refine (healed _).trans ((foldl_net _ ?_ l _).trans (foldl_net _ ?_ _ s))
    all_goals exact fun _ _ => rfl

/-- A write of an engine through the page tables. -/
theorem engWrite_virt_net (s : State) (ag : Agent) (space : Nat) (addr : Int) (bs : List Byte) (poison : Bool)
    (h : space ≠ 0) : (engWrite s ag space addr bs poison).1.net = s.net := by
  have run := virtRun_net ag .write bs.length s addr
  unfold engWrite
  rw [if_neg h]
  split
  · next e => simpa only [e] using run
  · next s1 l e =>
    rw [e] at run
    dsimp only at run ⊢
    have poisoned : ∀ t : State, (if poison then l.foldl (fun s p => if physLost s p.1 then s else poisonWords s p.1 1) t
        else t).net = t.net := by
      intro t
      split
      · exact foldl_net _ (fun s p => by split <;> rfl) _ _
      · rfl
    rw [poisoned]
    split
    · split
      · simpa using run
      · rw [foldl_net _ fun s e => physWrite_net _ _ _ _ _, countAt_net, run]
    · exact run

@[simp] theorem engWrite_net (s : State) (ag : Agent) (space : Nat) (addr : Int) (bs : List Byte) (poison : Bool) :
    (engWrite s ag space addr bs poison).1.net = s.net := by
  by_cases h : space = 0
  · rw [h]
    exact engWrite_near_net s ag addr bs poison
  · exact engWrite_virt_net s ag space addr bs poison h

@[simp] theorem writeElem_net (s : State) (ag : Agent) (d : Desc) (x : Coord) (v : Nat) (poison : Bool) :
    (writeElem s ag d x v poison).1.net = s.net := by
  unfold writeElem
  dsimp only
  split
  · rfl
  · split <;> exact engWrite_net _ _ _ _ _ _

@[simp] theorem oldElem_net (s : State) (ag : Agent) (d : Desc) (a : Int) (upper : Bool) :
    (oldElem s ag d a upper).1.net = s.net := by
  have run := virtRun_net ag .write (max 1 (dBits d / 8)) s a
  unfold oldElem
  dsimp only
  split
  · split <;> rfl
  · split
    all_goals next e => simpa only [e] using run

@[simp] theorem placeElem_net (s : State) (ag : Agent) (d : Desc) (x : Coord) (rop : Option Nat) (v : Nat) :
    (placeElem s ag d x rop v).1.net = s.net := by
  unfold placeElem
  split
  · exact writeElem_net _ _ _ _ _ _
  · dsimp only
    split
    · rfl
    · have old := oldElem_net s ag d (elemAddr d (wrapCoord d x)).1 (elemAddr d (wrapCoord d x)).2
      split
      · next e => simpa only [e] using old
      · next e =>
        rw [e] at old
        split
        · exact old
        · exact (writeElem_net _ _ _ _ _ _).trans old

@[simp] theorem placeRun_net (b : Rcb) (key c : Nat) (bs : Option (List Byte)) (n : Nat) (s : State) (e : Nat) :
    (placeRun s b key c bs e n).1.net = s.net := by
  induction n generalizing s e with
  | zero => rfl
  | succ n ih =>
    have placed : ∀ rop v, (match placeElem s (rcbAgent b key) b.desc (rcbCoord b c e) rop v with
        | (s1, .error t) => (s1, some t)
        | (s1, .ok _) => placeRun s1 b key c bs (e + 1) n).1.net = s.net := by
      intro rop v
      have elem := placeElem_net s (rcbAgent b key) b.desc (rcbCoord b c e) rop v
      split
      · next h => simpa only [h] using elem
      · next h =>
        rw [h] at elem
        exact (ih _ _).trans elem
    unfold placeRun
    dsimp only
    split
    · split
      · exact placed _ _
      · exact ih _ _
    · split
      · exact placed _ _
      · exact ih _ _

theorem placeChunk_net (s : State) (b : Rcb) (key c : Nat) (bs : Option (List Byte)) :
    (placeChunk s b key c bs).1.net = s.net := placeRun_net b key c bs _ s 0

end Sys2Proof.Machine

/-! Arrivals: what is dropped, the order of packets, and the row that handles one. -/

namespace Sys2Proof.Machine

/-! ### What every arrival passes (R41, R62, R63) -/

/-- A packet of this transport that came in by a port that is up and fits a frame. -/
structure onWire (s : State) (h : Header) (size : Nat) : Prop where
  up : (getPort s h.port).up = true
  port : h.port < 128
  size : size ≤ 4096
  udp : h.udp = s.pkg.udpPort

/-- The state once the bytes of a frame have been counted. -/
def frameCounted (s : State) (h : Header) (size : Nat) : State := countSource s (0x2000 + h.port) (Config.frameBytes size)

/-- What a received packet brings when it is dropped: one error counted at its IO die, and no peer. -/
def droppedAt (s : State) (port : Nat) : State × Option Nat := (countSource s (0x4000 + port / 64) 1, none)

/-- A packet from the wire is judged by its source, and then by its function, its authentication and its epoch. -/
theorem admitHeader_onWire {s : State} {h : Header} {size : Nat} (w : onWire s h size) :
    admitHeader s h false size =
      match sourcePeer s h false with
      | none => droppedAt (frameCounted s h size) h.port
      | some peer =>
        if h.known && decide (h.mode.toNat < 4) && (h.intact && epochAccepted s peer h.epoch) then
          (frameCounted s h size, some peer)
        else droppedAt (frameCounted s h size) h.port := by
  have short : ¬ 4096 < size := Nat.not_lt.2 w.size
  simp only [admitHeader, frameTooLong, w.up, w.port, w.udp, short, decide_true, decide_false, Bool.not_false,
    Bool.and_self, Bool.not_true, Bool.false_and, Bool.or_self, Bool.and_false, Bool.false_eq_true, if_false, bne_self_eq_false,
    Bool.false_or]
  rfl

theorem admitHeader_bad {s : State} {h : Header} {size : Nat} (w : onWire s h size)
    (bad : ∀ k, sourcePeer s h false = some k →
      h.known = false ∨ h.intact = false ∨ epochAccepted s k h.epoch = false) :
    admitHeader s h false size = droppedAt (frameCounted s h size) h.port := by
  rw [admitHeader_onWire w]
  split
  · rfl
  · next k e =>
    rw [if_neg]
    rcases bad k e with h | h | h <;> simp [h]

theorem admitHeader_good {s : State} {h : Header} {size k : Nat} (w : onWire s h size)
    (peer : sourcePeer s h false = some k) (known : h.known = true) (mode : h.mode.toNat < 4) (intact : h.intact = true)
    (epoch : epochAccepted s k h.epoch = true) : admitHeader s h false size = (frameCounted s h size, some k) := by
  rw [admitHeader_onWire w, peer]
  simp [known, mode, intact, epoch]

theorem tblFind_eq_none {α : Type} (p : Nat → α → Bool) (t : Tbl α) (h : ∀ k e, (k, e) ∈ t → p k e = false) :
    tblFind p t = none := by
  induction t with
  | nil => rfl
  | cons x t ih =>
    obtain ⟨k, v⟩ := x
    rw [tblFind, h k v (by simp), if_neg Bool.false_ne_true]
    exact ih fun k e m => h k e (by simp [m])

theorem sourcePeer_none {s : State} {h : Header}
    (none_ : ∀ k e, (k, e) ∈ s.net.peers → peerMatches e h.src h.ipv4 = false) : sourcePeer s h false = none := by
  simp only [sourcePeer, Bool.false_eq_true, if_false, tblFind_eq_none _ _ none_, Option.map_none]

/-! ### The answer to what is handled (R53, R100, R123) -/

/-- The answer of a handled packet goes back: a refusal is counted, and what a ROD PDC accepts is kept. -/
def answered (loop : Bool) (p : Packet) (mode : BitVec 4) (n : Nat) (u : State) (a : Answer) : State :=
  let u1 := match a with
    | .nack 5 _ _ => countSource u (0x4000 + if loop = true then n % 8 / 4 else p.hd.port / 64) 1
    | _ => u
  answerPsn (if mode = 1 ∧ accepts a = true then modPdc u1 n (keepAnswer p.hd.psn a) else u1) n p.hd.psn p.hd.ecn a

section Receive
variable {s t0 s1 s2 : State} {p : Packet} {loop : Bool} {n peer : Nat} {f : State → Nat → State × Answer}

/-- The packet has been admitted from a peer and has a PDC. -/
def heard (t0 s1 s2 : State) (p : Packet) (loop : Bool) (n peer : Nat) : Prop :=
  admitHeader t0 { p.hd with known := packetKnown p } loop p.data.length = (s1, some peer)
    ∧ receiverPdc s1 p.hd peer = (s2, some n)

/-- How far a packet is from the one that its PDC expects. -/
def ahead (s : State) (n : Nat) (p : Packet) : Int := (p.hd.psn - (getPdc s n).expected).toInt

theorem receiveData_dropped
    (h : admitHeader t0 { p.hd with known := packetKnown p } loop p.data.length = (s1, none)) :
    receiveData t0 loop p f = s1 := by simp only [receiveData, h]

/-- A packet that has a PDC is judged by its order and by what a switch has left of it, and handled when both allow. -/
def judged (loop : Bool) (p : Packet) (f : State → Nat → State × Answer) (s : State) (n : Nat) : State :=
  if (getPdc s n).mode = 1 ∧ ahead s n p < 0 then answerPsn s n p.hd.psn p.hd.ecn (keptAnswer (getPdc s n) p.hd.psn)
  else if p.hd.trimmed = true then answerPsn s n p.hd.psn p.hd.ecn (.nack 1 0 0)
  else if (getPdc s n).mode = 1 ∧ 0 < ahead s n p then answerPsn s n p.hd.psn p.hd.ecn (.nack 2 0 0)
  else answered loop p (getPdc s n).mode n (f s n).1 (f s n).2

theorem receiveData_heard (h : heard t0 s1 s2 p loop n peer) : receiveData t0 loop p f = judged loop p f s2 n := by
  simp only [receiveData, h.1, h.2]
  rfl

theorem judged_again (rod : (getPdc s2 n).mode = 1) (late : ahead s2 n p < 0) :
    judged loop p f s2 n = answerPsn s2 n p.hd.psn p.hd.ecn (keptAnswer (getPdc s2 n) p.hd.psn) := if_pos ⟨rod, late⟩

theorem judged_trimmed (new : (getPdc s2 n).mode ≠ 1 ∨ 0 ≤ ahead s2 n p) (trim : p.hd.trimmed = true) :
    judged loop p f s2 n = answerPsn s2 n p.hd.psn p.hd.ecn (.nack 1 0 0) := by
  have late : ¬ ((getPdc s2 n).mode = 1 ∧ ahead s2 n p < 0) := fun h => new.elim (· h.1) (Int.not_le.2 h.2)
  rw [judged, if_neg late, if_pos trim]

theorem judged_early (rod : (getPdc s2 n).mode = 1) (early : 0 < ahead s2 n p) (whole : p.hd.trimmed = false) :
    judged loop p f s2 n = answerPsn s2 n p.hd.psn p.hd.ecn (.nack 2 0 0) := by
  have late : ¬ ((getPdc s2 n).mode = 1 ∧ ahead s2 n p < 0) := fun h => absurd early (Int.not_lt.2 (Int.le_of_lt h.2))
  rw [judged, if_neg late, if_neg (Bool.eq_false_iff.1 whole), if_pos ⟨rod, early⟩]

theorem ahead_expected (h : p.hd.psn = (getPdc s2 n).expected) : ahead s2 n p = 0 := by
  rw [ahead, h, BitVec.sub_self]
  rfl

theorem judged_handled (whole : p.hd.trimmed = false)
    (order : (getPdc s2 n).mode ≠ 1 ∨ p.hd.psn = (getPdc s2 n).expected) :
    judged loop p f s2 n = answered loop p (getPdc s2 n).mode n (f s2 n).1 (f s2 n).2 := by
  have inOrder : (getPdc s2 n).mode = 1 → ahead s2 n p = 0 := fun rod => ahead_expected (order.resolve_left (· rod))
  have late : ¬ ((getPdc s2 n).mode = 1 ∧ ahead s2 n p < 0) := fun h => absurd h.2 (by rw [inOrder h.1]; decide)
  have early : ¬ ((getPdc s2 n).mode = 1 ∧ 0 < ahead s2 n p) := fun h => absurd h.2 (by rw [inOrder h.1]; decide)
  rw [judged, if_neg late, if_neg (Bool.eq_false_iff.1 whole), if_neg early]

end Receive

/-! ### The rows of what arrives (R70, R80, R97) -/

/-- The rows that take a chunk: an RMA write that is not of kind window, and a packet of a tagged send. -/
def takesChunk (ev : Instr) (p : Packet) : Prop :=
  (ev = .rmaWriteStreamArrival ∧ p.verb = .write ∧ p.key.toNat / 2 ^ 24 ≠ 1) ∨ (ev = .taggedSendArrival ∧ p.verb = .tagged)

/-- The rows that take a window access. -/
def takesAccess (ev : Instr) (p : Packet) : Prop :=
  (ev = .remoteReadArrival ∧ p.verb = .read) ∨ (ev = .remoteAtomicArrival ∧ p.verb = .atomic)
    ∨ (ev = .remoteWriteArrival ∧ p.verb = .write ∧ p.key.toNat / 2 ^ 24 % 2 ^ 40 = 1)

/-- What a row does with a packet that is handled. -/
def handling (ev : Instr) (p : Packet) (port : Nat) (s : State) (n : Nat) : State × Answer :=
  match ev with
  | .rmaWriteStreamArrival => arriveWrite s n p port
  | .taggedSendArrival => arriveTagged s n p port
  | _ => arriveAccess s n p port

theorem kindWindow_iff (p : Packet) : kindWindow p = true ↔ p.key.toNat / 2 ^ 24 = 1 := by
  have hk := p.key.isLt
  simp only [kindWindow, bitsOf, beq_iff_eq]
  omega

theorem exec_arrival {s t0 : State} {ev : Instr} {p : Packet} {loop : Bool} (takes : takesChunk ev p ∨ takesAccess ev p)
    (arrives : arrivalOf s = (t0, .packet p, loop)) :
    exec ev s = .next (receiveData t0 loop p (handling ev p (arrivalPort p.hd loop))) := by
  have notWindow : p.key.toNat / 2 ^ 24 ≠ 1 → kindWindow p = false := fun h =>
    Bool.eq_false_iff.2 fun w => h ((kindWindow_iff p).1 w)
  have isWindow : p.key.toNat / 2 ^ 24 % 2 ^ 40 = 1 → kindWindow p = true := fun h =>
    (kindWindow_iff p).2 (by have := p.key.isLt; omega)
  rcases takes with (⟨rfl, verb, key⟩ | ⟨rfl, verb⟩) | (⟨rfl, verb⟩ | ⟨rfl, verb⟩ | ⟨rfl, verb, key⟩)
  · refine congrArg _ (?_ : evRmaWriteStreamArrival s = _)
    simp only [evRmaWriteStreamArrival, arrives]
    exact if_pos ⟨verb, by rw [notWindow key]; rfl⟩
  · refine congrArg _ (?_ : evTaggedSendArrival s = _)
    simp only [evTaggedSendArrival, arrives]
    exact if_pos verb
  · refine congrArg _ (?_ : evRemoteReadArrival s = _)
    simp only [evRemoteReadArrival, arrives]
    exact if_pos verb
  · refine congrArg _ (?_ : evRemoteAtomicArrival s = _)
    simp only [evRemoteAtomicArrival, arrives]
    exact if_pos verb
  · refine congrArg _ (?_ : evRemoteWriteArrival s = _)
    simp only [evRemoteWriteArrival, arrives]
    exact if_pos ⟨verb, isWindow key⟩

end Sys2Proof.Machine

/-! Chunks: the tests of R80 in their order, and what a chunk that passes them completes. -/

namespace Sys2Proof.Machine

/-! ### Handled packets -/

/-- A packet that arrives, is heard on PDC n, whole and in order. -/
structure handledOn (s t0 s1 s2 : State) (p : Packet) (loop : Bool) (n peer : Nat) : Prop where
  arrives : arrivalOf s = (t0, .packet p, loop)
  heard : heard t0 s1 s2 p loop n peer
  whole : p.hd.trimmed = false
  order : (getPdc s2 n).mode ≠ 1 ∨ p.hd.psn = (getPdc s2 n).expected

theorem exec_handled {s t0 s1 s2 u : State} {ev : Instr} {p : Packet} {loop : Bool} {n peer : Nat} {a : Answer}
    (takes : takesChunk ev p ∨ takesAccess ev p) (h : handledOn s t0 s1 s2 p loop n peer)
    (does : handling ev p (arrivalPort p.hd loop) s2 n = (u, a)) :
    exec ev s = .next (answered loop p (getPdc s2 n).mode n u a) := by
  rw [exec_arrival takes h.arrives, receiveData_heard h.heard, judged_handled h.whole h.order, does]

/-! ### What a packet says of its chunk (R69, R70) -/

/-- The stream ID, contributor and chunk index of a packet, for chunks of a size. -/
def chunkForm (p : Packet) (con ch sid size : Nat) : Prop :=
  (p.verb = .write ∧ p.key.toNat < 2 ^ 24 ∧ p.off.toNat < 2 ^ 28 ∧ sid = p.key.toNat ∧ con = p.off.toNat / 2 ^ 24
    ∧ ch = p.off.toNat % 2 ^ 24)
  ∨ (p.verb = .tagged ∧ p.key.toNat / 2 ^ 24 % 2 ^ 12 = 0 ∧ sid = p.key.toNat / 2 ^ 40
    ∧ con = p.key.toNat / 2 ^ 36 % 16 ∧ ch = p.key.toNat % 2 ^ 24 + p.off.toNat / size)

theorem handling_chunk {ev : Instr} {p : Packet} {con ch sid size : Nat} (takes : takesChunk ev p)
    (form : chunkForm p con ch sid size) (port : Nat) (s : State) (n : Nat) :
    ∃ index : Nat → Nat, index size = ch
      ∧ handling ev p port s n = arriveChunk s n ⟨sid, con, index, p.data, p.hd.psn, port⟩ := by
  rcases takes with ⟨rfl, verb, -⟩ | ⟨rfl, verb⟩
  · obtain ⟨-, key, off, rfl, rfl, rfl⟩ | ⟨other, -⟩ := form
    · refine ⟨fun _ => bitsOf p.off.toNat 23 0, by simp [bitsOf], ?_⟩
      have hcon : bitsOf p.off.toNat 27 24 = p.off.toNat / 2 ^ 24 := by
        simp only [bitsOf]
        omega
      have hform : ¬ (2 ^ 24 ≤ p.key.toNat ∨ 2 ^ 28 ≤ p.off.toNat) := by omega
      simp only [handling, arriveWrite, if_neg hform, hcon]
    · simp [verb] at other
  · obtain ⟨other, -⟩ | ⟨-, zero, rfl, rfl, rfl⟩ := form
    · simp [verb] at other
    · refine ⟨fun size => bitsOf p.key.toNat 23 0 + p.off.toNat / size, by simp [bitsOf], ?_⟩
      have hsid : bitsOf p.key.toNat 63 40 = p.key.toNat / 2 ^ 40 := by
        have := p.key.isLt
        simp only [bitsOf]
        omega
      have hzero : ¬ bitsOf p.key.toNat 35 24 ≠ 0 := not_not.2 zero
      have hcon : bitsOf p.key.toNat 39 36 = p.key.toNat / 2 ^ 36 % 16 := rfl
      simp only [handling, arriveTagged, if_neg hzero, hsid, hcon]

theorem handling_write_refused {ev : Instr} {p : Packet} (takes : takesChunk ev p) (verb : p.verb = .write)
    (bad : 2 ^ 24 ≤ p.key.toNat ∨ 2 ^ 28 ≤ p.off.toNat) (port : Nat) (s : State) (n : Nat) :
    handling ev p port s n = (s, .nack 5 0 0) := by
  rcases takes with ⟨rfl, -, -⟩ | ⟨rfl, tagged⟩
  · exact if_pos bad
  · simp [verb] at tagged

theorem handling_tagged_refused {ev : Instr} {p : Packet} (takes : takesChunk ev p) (verb : p.verb = .tagged)
    (bad : p.key.toNat / 2 ^ 24 % 2 ^ 12 ≠ 0) (port : Nat) (s : State) (n : Nat) :
    handling ev p port s n = (s, .nack 5 0 0) := by
  rcases takes with ⟨rfl, write, -⟩ | ⟨rfl, -⟩
  · simp [verb] at write
  · exact if_pos bad

/-! ### The handling of R80, test by test -/

section Chunk
variable {s : State} {n i : Nat} {x : Chunk}

/-- The chunk names RCB i, which is in use and has the generation of its stream ID. -/
structure namesRcb (s : State) (x : Chunk) (i : Nat) : Prop where
  index : x.sid % 2 ^ 14 = i
  used : (getRcb s i).state ≠ 0
  gen : x.sid / 2 ^ 14 % 2 ^ 10 = (getRcb s i).gen.toNat

/-- The index of a chunk in the RCB that it names. -/
def chunkIndex (b : Rcb) (x : Chunk) : Nat := x.index (chunkBytes (rcbChsz b))

/-- The mode of the PDC, the contributor, the index and the size are those of the RCB. -/
structure fitsRcb (b : Rcb) (mode : Nat) (x : Chunk) : Prop where
  mode : (rcbModes b).testBit mode = true
  contrib : x.contrib < rcbContribs b
  index : chunkIndex b x < b.nchk
  size : x.data.length = chunkBytes (rcbChsz b)

theorem arriveChunk_stale (index : x.sid % 2 ^ 14 = i)
    (stale : (getRcb s i).state = 0 ∨ x.sid / 2 ^ 14 % 2 ^ 10 ≠ (getRcb s i).gen.toNat) :
    arriveChunk s n x = (s, .nack 4 0 0) := by
  subst index
  exact if_pos (stale.imp id fun h => Ne.symm h)

/-- A chunk that names an RCB in use is judged by the state of that RCB. -/
theorem arriveChunk_named (h : namesRcb s x i) : arriveChunk s n x =
    if (getRcb s i).state = 3 then (s, .nack 5 0 0)
    else if (getRcb s i).state = 4 then answerParked s i
    else if !bitOf (rcbModes (getRcb s i)) (getPdc s n).mode.toNat ∨ rcbContribs (getRcb s i) ≤ x.contrib
        ∨ (getRcb s i).nchk ≤ chunkIndex (getRcb s i) x ∨ x.data.length ≠ chunkBytes (rcbChsz (getRcb s i)) then
      (s, .nack 5 0 0)
    else
      match rcbReady s (getRcb s i) with
      | none => answerParked (wakeConsumer s (getRcb s i)) i
      | some key =>
        let s1 := modPdc s n fun p => { p with feeds := if p.feeds.contains i then p.feeds else p.feeds ++ [i] }
        if tblGet false (getRcb s i).bitmap (bitNo (getRcb s i) (chunkIndex (getRcb s i) x) x.contrib) then
          dropDuplicate s1 n i (chunkIndex (getRcb s i) x) x
        else claimChunk (settlePads s1 i) i key (chunkIndex (getRcb s i) x) x := by
  obtain ⟨rfl, used, gen⟩ := h
  exact if_neg fun stale => stale.elim used fun h => h gen.symm

theorem arriveChunk_faulted (h : namesRcb s x i) (state : (getRcb s i).state = 3) :
    arriveChunk s n x = (s, .nack 5 0 0) := by
  rw [arriveChunk_named h, if_pos state]

theorem arriveChunk_exported (h : namesRcb s x i) (state : (getRcb s i).state = 4) :
    arriveChunk s n x = answerParked s i := by
  rw [arriveChunk_named h, if_neg (by simp [state]), if_pos state]

/-- An RCB that is OPEN or DONE is neither FAULTED nor EXPORTED. -/
theorem openState {b : Rcb} (h : b.state = 1 ∨ b.state = 2) : b.state ≠ 3 ∧ b.state ≠ 4 := by
  rcases h with h | h <;> simp [h]

theorem arriveChunk_unfit (h : namesRcb s x i) (state : (getRcb s i).state = 1 ∨ (getRcb s i).state = 2)
    (unfit : ¬ fitsRcb (getRcb s i) (getPdc s n).mode.toNat x) : arriveChunk s n x = (s, .nack 5 0 0) := by
  rw [arriveChunk_named h, if_neg (openState state).1, if_neg (openState state).2, if_pos]
  by_contra fits
  simp only [not_or, bitOf_eq_testBit, Bool.not_eq_true', Bool.not_eq_false, not_le, not_not] at fits
  obtain ⟨mode, contrib, index, size⟩ := fits
  exact unfit ⟨mode, contrib, index, size⟩

/-- A chunk that fits an RCB that is OPEN or DONE waits for its consumer, or is placed unless it has been before. -/
theorem arriveChunk_fits (h : namesRcb s x i) (state : (getRcb s i).state = 1 ∨ (getRcb s i).state = 2)
    (fits : fitsRcb (getRcb s i) (getPdc s n).mode.toNat x) : arriveChunk s n x =
      match rcbReady s (getRcb s i) with
      | none => answerParked (wakeConsumer s (getRcb s i)) i
      | some key =>
        let s1 := modPdc s n fun p => { p with feeds := if p.feeds.contains i then p.feeds else p.feeds ++ [i] }
        if tblGet false (getRcb s i).bitmap (bitNo (getRcb s i) (chunkIndex (getRcb s i) x) x.contrib) then
          dropDuplicate s1 n i (chunkIndex (getRcb s i) x) x
        else claimChunk (settlePads s1 i) i key (chunkIndex (getRcb s i) x) x := by
  obtain ⟨mode, contrib, index, size⟩ := fits
  rw [arriveChunk_named h, if_neg (openState state).1, if_neg (openState state).2, if_neg]
  simp only [not_or, bitOf_eq_testBit, Bool.not_eq_true', Bool.not_eq_false, not_le, not_not]
  exact ⟨mode, contrib, index, size⟩

theorem arriveChunk_waits (h : namesRcb s x i) (state : (getRcb s i).state = 1 ∨ (getRcb s i).state = 2)
    (fits : fitsRcb (getRcb s i) (getPdc s n).mode.toNat x) (away : rcbReady s (getRcb s i) = none) :
    arriveChunk s n x = answerParked (wakeConsumer s (getRcb s i)) i := by
  rw [arriveChunk_fits h state fits, away]

/-- A chunk that every test of R80 lets through, for a consumer at a slot. -/
structure opens (s : State) (n : Nat) (x : Chunk) (i key : Nat) : Prop where
  names : namesRcb s x i
  state : (getRcb s i).state = 1 ∨ (getRcb s i).state = 2
  fits : fitsRcb (getRcb s i) (getPdc s n).mode.toNat x
  ready : rcbReady s (getRcb s i) = some key

/-- The arrival bit of a chunk. -/
def chunkBit (b : Rcb) (x : Chunk) : Nat := bitNo b (chunkIndex b x) x.contrib

/-- The PDC that a chunk of RCB i reaches notes that it feeds it. -/
def fedBy (s : State) (n i : Nat) : State :=
  modPdc s n fun p => { p with feeds := if p.feeds.contains i then p.feeds else p.feeds ++ [i] }

variable {key : Nat}

theorem arriveChunk_again (h : opens s n x i key)
    (bit : tblGet false (getRcb s i).bitmap (chunkBit (getRcb s i) x) = true) :
    arriveChunk s n x = dropDuplicate (fedBy s n i) n i (chunkIndex (getRcb s i) x) x := by
  rw [arriveChunk_fits h.names h.state h.fits, h.ready]
  exact if_pos bit

theorem settlePads_none {s : State} (h : (getRcb s i).padLater = false) : settlePads s i = s := by
  unfold settlePads
  simp only [h]
  split <;> rfl

theorem arriveChunk_claims (h : opens s n x i key) (pads : (getRcb s i).padLater = false)
    (bit : tblGet false (getRcb s i).bitmap (chunkBit (getRcb s i) x) = false) :
    arriveChunk s n x = claimChunk (fedBy s n i) i key (chunkIndex (getRcb s i) x) x := by
  rw [arriveChunk_fits h.names h.state h.fits, h.ready]
  refine (if_neg (Bool.eq_false_iff.1 bit)).trans ?_
  have settled : settlePads (fedBy s n i) i = fedBy s n i := settlePads_none pads
  exact congrArg (fun t => claimChunk t i key _ x) settled

/-! ### A chunk again (R80, R81) -/

@[simp] theorem postPdc_mem (s : State) (n code : Nat) (psn : BitVec 32) (count port : Nat) (aux : BitVec 64) :
    (postPdc s n code psn count port aux).mem = s.mem := by
  simp only [postPdc, pushRecord, apply_ite State.mem, modPdc_mem, modVirga_mem, ite_self]

@[simp] theorem postPdc_cells (s : State) (n code : Nat) (psn : BitVec 32) (count port : Nat) (aux : BitVec 64) :
    (postPdc s n code psn count port aux).cells = s.cells := by
  simp only [postPdc, pushRecord, apply_ite State.cells, modPdc_cells, modVirga_cells, ite_self]

@[simp] theorem getRcb_postPdc (s : State) (n code : Nat) (psn : BitVec 32) (count port : Nat) (aux : BitVec 64) (j : Nat) :
    getRcb (postPdc s n code psn count port aux) j = getRcb s j := by
  unfold postPdc
  dsimp only
  split
  · split <;> rfl
  · rfl

/-- A record about a PDC, other than CCSIG and LOS, goes to the tail of its owner's queue while there is room. -/
theorem queue_postPdc {s : State} {n code : Nat} {psn : BitVec 32} {count port : Nat} {aux : BitVec 64}
    (room : (getVirga s (n % 8)).queue.length < 1024) (code4 : code ≠ 4) :
    (getVirga (postPdc s n code psn count port aux) (n % 8)).queue =
      (getVirga s (n % 8)).queue ++ [pdcRecord s n code psn count port aux] := by
  have room' : queueRoom s (n % 8) = true := decide_eq_true room
  simp only [postPdc, room', if_true, if_neg code4, pushRecord, pdcOwner, getVirga_modVirga]

/-- The RCB after one more copy of a chunk that it has. -/
def oneMoreDup (b : Rcb) : Rcb := { b with dups := if b.dups = 0xFFFFFF then b.dups else b.dups + 1 }

/-- A chunk again is acknowledged and leaves memory and cells alone; the RCB and the PDC's owner learn of it. -/
theorem dropDuplicate_spec (s : State) (n i c : Nat) (x : Chunk) : ∃ u, dropDuplicate s n i c x = (u, .ack none)
    ∧ u.mem = s.mem ∧ u.cells = s.cells ∧ getRcb u i = oneMoreDup (getRcb s i)
    ∧ ((getVirga s (n % 8)).queue.length < 1024 → (getVirga u (n % 8)).queue = (getVirga s (n % 8)).queue ++
      [⟨7, false, false, BitVec.ofNat 7 x.port, BitVec.ofNat 16 n, some (getPdc s n).ctx, s.pkg.gtime, x.psn, 1,
        BitVec.ofNat 64 (x.sid % 2 ^ 24 + c * 2 ^ 24 + x.contrib * 2 ^ 48)⟩]) := by
  refine ⟨_, rfl, postPdc_mem _ _ _ _ _ _ _, postPdc_cells _ _ _ _ _ _ _, ?_, fun room => ?_⟩
  · exact (getRcb_postPdc _ _ _ _ _ _ _ _).trans (getRcb_modRcb s i oneMoreDup)
  · exact queue_postPdc room (by decide)

/-! ### A new chunk (R80, R83, R86) -/

/-- Every other contributor's copy of a chunk has arrived. -/
def othersArrived (b : Rcb) (c con : Nat) : Prop :=
  ∀ j, j < rcbContribs b → j ≠ con → tblGet false b.bitmap (bitNo b c j) = true

theorem othersArrived_iff (b : Rcb) (c con : Nat) :
    allIndex (fun j => j == con || tblGet false b.bitmap (bitNo b c j)) 0 (rcbContribs b) = true ↔ othersArrived b c con := by
  simp only [allIndex_iff, Nat.zero_add, Bool.or_eq_true, beq_iff_eq]
  exact ⟨fun h j hj ne => (h j (Nat.zero_le j) hj).resolve_left ne, fun h j _ hj => or_iff_not_imp_left.2 (h j hj)⟩

/-- The chunk is the last of its tile. -/
def lastOfTile (b : Rcb) (c con : Nat) : Prop :=
  othersArrived b c con ∧ tblGet 0 b.counters (c / rcbCpt b) + 1 = rcbCpt b

/-- The arrival bit of a chunk is set. -/
def claimed (s : State) (i bit : Nat) : State := modRcb s i fun b => { b with bitmap := tblSet false b.bitmap bit true }

theorem claimed_bitNo (s : State) (i c con : Nat) :
    (modRcb s i fun b => { b with bitmap := tblSet false b.bitmap (bitNo b c con) true })
      = claimed s i (bitNo (getRcb s i) c con) := by simp only [claimed, modRcb]

/-- One more chunk of a tile is complete. -/
def oneMoreChunk (s : State) (i t : Nat) : State :=
  modRcb s i fun b => { b with pend := b.pend - 1, counters := tblSet 0 b.counters t (tblGet 0 b.counters t + 1) }

variable {c : Nat}

theorem claimChunk_full (last : lastOfTile (getRcb s i) c x.contrib) (full : 8192 ≤ queuedAt s (rcbHome i)) :
    claimChunk s i key c x = answerParked s i := by
  refine if_pos ?_
  simp only [(othersArrived_iff _ _ _).2 last.1, last.2, full, beq_self_eq_true, decide_true, Bool.and_self]

/-- With room for what it completes, a chunk is placed. -/
theorem claimChunk_room (room : ¬ lastOfTile (getRcb s i) c x.contrib ∨ queuedAt s (rcbHome i) < 8192) :
    claimChunk s i key c x =
      match placeChunk s (getRcb s i) key c (some x.data) with
      | (s1, some t) => (faultPlacement s1 i (c / rcbCpt (getRcb s i)) t, .nack 5 0 0)
      | (s1, none) =>
        let s2 := modRcb s1 i fun b => { b with bitmap := tblSet false b.bitmap (bitNo b c x.contrib) true }
        (if allIndex (fun j => j == x.contrib || tblGet false (getRcb s i).bitmap (bitNo (getRcb s i) c j)) 0
          (rcbContribs (getRcb s i)) then completeChunk s2 i c else s2, .ack none) := by
  unfold claimChunk
  refine if_neg fun full => ?_
  simp only [Bool.and_eq_true, beq_iff_eq, decide_eq_true_eq, othersArrived_iff] at full
  obtain ⟨last, queued⟩ := full
  exact room.elim (· last) (Nat.not_lt.2 queued)

theorem claimChunk_faults {s1 : State} {t : TrapInfo}
    (room : ¬ lastOfTile (getRcb s i) c x.contrib ∨ queuedAt s (rcbHome i) < 8192)
    (placed : placeChunk s (getRcb s i) key c (some x.data) = (s1, some t)) :
    claimChunk s i key c x = (faultPlacement s1 i (c / rcbCpt (getRcb s i)) t, .nack 5 0 0) := by
  simp only [claimChunk_room room, placed]

/-- Placing a chunk leaves every RCB alone. -/
theorem getRcb_placed {s1 : State} {b : Rcb} {bs : Option (List Byte)} {r : Option TrapInfo}
    (placed : placeChunk s b key c bs = (s1, r)) (j : Nat) : getRcb s1 j = getRcb s j := by
  have h := placeChunk_net s b key c bs
  rw [placed] at h
  exact congrArg (fun net => tblGet rcbEmpty net.rcbs j) h

theorem claimChunk_claims {s1 : State}
    (room : ¬ lastOfTile (getRcb s i) c x.contrib ∨ queuedAt s (rcbHome i) < 8192)
    (placed : placeChunk s (getRcb s i) key c (some x.data) = (s1, none))
    (others : ¬ othersArrived (getRcb s i) c x.contrib) :
    claimChunk s i key c x = (claimed s1 i (bitNo (getRcb s i) c x.contrib), .ack none) := by
  simp only [claimChunk_room room, placed, claimed_bitNo, getRcb_placed placed, othersArrived_iff, others, if_false]

theorem claimChunk_completes {s1 : State}
    (room : ¬ lastOfTile (getRcb s i) c x.contrib ∨ queuedAt s (rcbHome i) < 8192)
    (placed : placeChunk s (getRcb s i) key c (some x.data) = (s1, none))
    (others : othersArrived (getRcb s i) c x.contrib) :
    claimChunk s i key c x = (completeChunk (claimed s1 i (bitNo (getRcb s i) c x.contrib)) i c, .ack none) := by
  simp only [claimChunk_room room, placed, claimed_bitNo, getRcb_placed placed, othersArrived_iff, others, if_true]

/-! ### Complete chunks, tiles and RCBs (R80, R85) -/

/-- The tile of a chunk that has just been claimed. -/
theorem rcbCpt_claimed (s : State) (i bit : Nat) : rcbCpt (getRcb (claimed s i bit) i) = rcbCpt (getRcb s i) := by
  rw [claimed, getRcb_modRcb]
  rfl

theorem completeChunk_tile {t : Nat} (tile : t = c / rcbCpt (getRcb s i))
    (full : tblGet 0 (getRcb (oneMoreChunk s i t) i).counters t = rcbCpt (getRcb (oneMoreChunk s i t) i)) :
    completeChunk s i c = finishRcb (completeTile (oneMoreChunk s i t) i t) i := by
  subst tile
  exact congrArg (finishRcb · i) (if_pos full)

theorem completeChunk_partial {t : Nat} (tile : t = c / rcbCpt (getRcb s i))
    (full : tblGet 0 (getRcb (oneMoreChunk s i t) i).counters t ≠ rcbCpt (getRcb (oneMoreChunk s i t) i)) :
    completeChunk s i c = finishRcb (oneMoreChunk s i t) i := by
  subst tile
  exact congrArg (finishRcb · i) (if_neg full)

@[simp] theorem getRcb_postCore (s : State) (core : Nat) (r : EventRec) (j : Nat) :
    getRcb (postCore s core r) j = getRcb s j := by
  unfold postCore
  split <;> rfl

theorem finishRcb_done (state : (getRcb s i).state = 1) (pend : (getRcb s i).pend = 0) :
    (getRcb (finishRcb s i) i).state = 2 := by
  have done : finishRcb s i = _ := if_pos ⟨state, pend⟩
  rw [done, getRcb_postCore, getRcb_modRcb]

theorem finishRcb_pending (pend : (getRcb s i).pend ≠ 0) : finishRcb s i = s := if_neg fun h => pend h.2

theorem getRcb_completeTile_noring (noring : rcbNoring (getRcb s i) = true) (t : Nat) :
    getRcb (completeTile s i t) i = { getRcb s i with tpend := (getRcb s i).tpend - 1 } := by
  rw [completeTile, if_pos noring, getRcb_modRcb]

end Chunk

end Sys2Proof.Machine

/-! Window accesses: the rows of R97 in their order, and what an admitted access does. -/

namespace Sys2Proof.Machine

section Access
variable {s u : State} {n port : Nat} {p : Packet}

theorem handling_access {ev : Instr} (takes : takesAccess ev p) (port : Nat) (s : State) (n : Nat) :
    handling ev p port s n = arriveAccess s n p port := by
  rcases takes with ⟨rfl, -⟩ | ⟨rfl, -⟩ | ⟨rfl, -, -⟩ <;> rfl

/-- The key and offset of a window access have the form of R69. -/
def accessForm (p : Packet) : Prop :=
  p.key.toNat / 2 ^ 24 = 1 ∧ p.key.toNat / 2 ^ 8 % 2 ^ 16 = 0 ∧ p.off.toNat < 2 ^ 36

theorem windowForm_iff (p : Packet) : windowForm p = true ↔ accessForm p := by
  simp only [windowForm, accessForm, Bool.and_eq_true, kindWindow_iff, bitsOf, beq_iff_eq, decide_eq_true_eq, and_assoc]

theorem arriveAccess_unformed (h : ¬ accessForm p) : arriveAccess s n p port = (s, .nack 5 0 0) := by
  refine if_pos ?_
  rw [Bool.not_eq_true', Bool.eq_false_iff, Ne, windowForm_iff]
  exact h

theorem arriveAccess_formed (h : accessForm p) : arriveAccess s n p port =
    match windowCheck s n p with
    | (s1, .error right) => refuseAccess s1 n p right port
    | (s1, .ok l) => performWindow s1 p l := by
  refine if_neg ?_
  rw [(windowForm_iff p).2 h]
  exact Bool.false_ne_true

/-! ### The checks of R97 -/

/-- The rows of R97 up to the right: the window is OPEN, for this peer in this domain, holds the access and grants it. -/
def grants (s : State) (n : Nat) (p : Packet) : Prop :=
  (((getWindow s (accWin p)).state = 1
      ∧ (winPeersel (getWindow s (accWin p)) = 0xFFFF ∨ winPeersel (getWindow s (accWin p)) = (getPdc s n).peer)
      ∧ winSdom (getWindow s (accWin p)) = (getPdc s n).sdom)
    ∧ p.off.toNat + accBytes p ≤ winBytes (getWindow s (accWin p)))
  ∧ winRight (getWindow s (accWin p)) p = true

theorem peerRefused_iff (w : Window) (q : Pdc) :
    (!(winPeersel w == 0xFFFF || winPeersel w == q.peer) || winSdom w != q.sdom) = true
      ↔ ¬ ((winPeersel w = 0xFFFF ∨ winPeersel w = q.peer) ∧ winSdom w = q.sdom) := by
  simp only [Bool.or_eq_true, Bool.not_eq_true', Bool.or_eq_false_iff, beq_eq_false_iff_ne, bne_iff_ne, not_and_or, not_or,
    Ne]

theorem windowCheck_refused (h : ¬ grants s n p) : windowCheck s n p = (s, .error (rightCode p)) := by
  unfold windowCheck
  dsimp only
  by_cases r1 : (getWindow s (accWin p)).state = 1
  swap
  · exact if_pos r1
  rw [if_neg (not_not.2 r1)]
  by_cases r2 : (winPeersel (getWindow s (accWin p)) = 0xFFFF ∨ winPeersel (getWindow s (accWin p)) = (getPdc s n).peer)
      ∧ winSdom (getWindow s (accWin p)) = (getPdc s n).sdom
  swap
  · exact if_pos ((peerRefused_iff _ _).2 r2)
  rw [if_neg fun no => (peerRefused_iff _ _).1 no r2]
  by_cases r3 : p.off.toNat + accBytes p ≤ winBytes (getWindow s (accWin p))
  swap
  · exact if_pos (Nat.not_le.1 r3)
  rw [if_neg (Nat.not_lt.2 r3)]
  exact if_pos (by simpa using fun r4 => h ⟨⟨⟨r1, r2⟩, r3⟩, r4⟩)

/-- An atomic is one of R99, and aligned. -/
def knownAccess (p : Packet) : Prop := p.verb = .atomic → p.op < 4 ∧ p.off.toNat % remoteSize p.op = 0

theorem atomicKnown_iff (p : Packet) : atomicKnown p = true ↔ p.op < 4 ∧ p.off.toNat % remoteSize p.op = 0 := by
  simp only [atomicKnown, Bool.and_eq_true, decide_eq_true_eq, beq_iff_eq]

/-- The page walk of an access. -/
def accessRun (s : State) (p : Packet) : State × Except TrapInfo (List (Nat × BitVec 64)) :=
  virtRun s (winAgent (getWindow s (accWin p))) (accPageKind p)
    ((winBase (getWindow s (accWin p)) + p.off.toNat : Nat) : Int) (accBytes p)

/-- A page that is not mapped, or without the right, refuses an access with its right code. -/
def mapped (p : Packet) : State × Except TrapInfo (List (Nat × BitVec 64)) → State × Except Nat (List (Nat × BitVec 64))
  | (s, .error _) => (s, .error (rightCode p))
  | (s, .ok l) => (s, .ok l)

/-- An access that is granted is checked for its form and then page by page. -/
theorem windowCheck_granted (h : grants s n p) : windowCheck s n p =
    if p.verb == .atomic && !atomicKnown p then (s, .error 8) else mapped p (accessRun s p) := by
  obtain ⟨⟨⟨r1, r2⟩, r3⟩, r4⟩ := h
  unfold windowCheck
  dsimp only
  rw [if_neg (not_not.2 r1), if_neg fun no => (peerRefused_iff _ _).1 no r2, if_neg (Nat.not_lt.2 r3),
    if_neg (by simp [r4])]
  rfl

theorem windowCheck_unknown (h : grants s n p) (unknown : ¬ knownAccess p) : windowCheck s n p = (s, .error 8) := by
  rw [windowCheck_granted h]
  refine if_pos ?_
  simp only [knownAccess, ← atomicKnown_iff, Classical.not_imp, Bool.not_eq_true] at unknown
  simp [unknown.1, unknown.2]

theorem windowCheck_known (h : grants s n p) (known : knownAccess p) :
    windowCheck s n p = mapped p (accessRun s p) := by
  rw [windowCheck_granted h]
  refine if_neg ?_
  simp only [knownAccess, ← atomicKnown_iff] at known
  simp only [Bool.and_eq_true, beq_iff_eq, Bool.not_eq_true', not_and, Bool.not_eq_false]
  exact known

/-! ### What is refused and what is performed -/

theorem arriveAccess_refused (form : accessForm p) (h : ¬ grants s n p) :
    arriveAccess s n p port = refuseAccess s n p (rightCode p) port := by
  rw [arriveAccess_formed form, windowCheck_refused h]

theorem arriveAccess_unknown (form : accessForm p) (h : grants s n p) (unknown : ¬ knownAccess p) :
    arriveAccess s n p port = refuseAccess s n p 8 port := by
  rw [arriveAccess_formed form, windowCheck_unknown h unknown]

theorem arriveAccess_unmapped {t : TrapInfo} (form : accessForm p) (h : grants s n p) (known : knownAccess p)
    (run : accessRun s p = (u, .error t)) : arriveAccess s n p port = refuseAccess u n p (rightCode p) port := by
  simp only [arriveAccess_formed form, windowCheck_known h known, run, mapped]

theorem arriveAccess_performed {l : List (Nat × BitVec 64)} (form : accessForm p) (h : grants s n p) (known : knownAccess p)
    (run : accessRun s p = (u, .ok l)) : arriveAccess s n p port = performWindow u p l := by
  simp only [arriveAccess_formed form, windowCheck_known h known, run, mapped]

/-- The page walk of an access leaves every window alone. -/
theorem getWindow_accessRun {r : Except TrapInfo (List (Nat × BitVec 64))} (run : accessRun s p = (u, r)) (w : Nat) :
    getWindow u w = getWindow s w := by
  have h := virtRun_net (winAgent (getWindow s (accWin p))) (accPageKind p) (accBytes p) s
    ((winBase (getWindow s (accWin p)) + p.off.toNat : Nat) : Int)
  rw [← accessRun, run] at h
  exact congrArg (fun net => tblGet windowEmpty net.windows w) h

theorem performWindow_read {l : List (Nat × BitVec 64)} (verb : p.verb = .read)
    (clean : (l.all fun e => physPoisoned s e.1 1 == false) = true) :
    performWindow s p l = (s, .ack (some (BitVec.ofNat 64 (ofBytes (l.map fun e => physByte s e.1))))) := by
  have none_ : ¬ (l.any fun e => physPoisoned s e.1 1) = true := by
    simp only [List.all_eq_true, beq_iff_eq] at clean
    simp only [List.any_eq_true, not_exists, not_and, Bool.not_eq_true]
    exact clean
  simp only [performWindow, verb, readPlaces, if_neg none_]

theorem performWindow_write {l : List (Nat × BitVec 64)} (verb : p.verb = .write) : performWindow s p l =
    ((engWrite s (winAgent (getWindow s (accWin p))) 1 ((winBase (getWindow s (accWin p)) + p.off.toNat : Nat) : Int)
      p.data false).1, .ack none) := by simp only [performWindow, verb]

/-- The new word of an atomic of R99. -/
def remoteNew (p : Packet) (old : Nat) : Nat :=
  match p.op with
  | 0 => (old + p.arg.toNat) % 2 ^ 32
  | 1 => (old + p.arg.toNat) % 2 ^ 64
  | 3 => if old = p.cmp.toNat then p.arg.toNat else old
  | _ => planeSum 2 old (p.arg.toNat % 2 ^ 32)

theorem amoNew_remoteOp (known : p.op < 4) (old : Nat) : amoNew (remoteOp p.op) old p.arg p.cmp = remoteNew p old := by
  have ops : p.op = 0 ∨ p.op = 1 ∨ p.op = 2 ∨ p.op = 3 := by omega
  rcases ops with op | op | op | op <;> simp [remoteNew, amoNew, remoteOp, amoSize, op]

theorem performWindow_atomic {l : List (Nat × BitVec 64)} {pa : Nat} {a : BitVec 64} (verb : p.verb = .atomic)
    (known : p.op < 4) (clean : physPoisoned s pa (remoteSize p.op) = false) : performWindow s p ((pa, a) :: l) =
    (physWrite s pa (toBytes (remoteNew p (physNat s pa (remoteSize p.op))) (remoteSize p.op)) false noOwner,
      .ack (some (BitVec.ofNat 64 (physNat s pa (remoteSize p.op))))) := by
  simp only [performWindow, verb, remoteAtomic, clean, Bool.false_eq_true, if_false, amoNew_remoteOp known]

/-- The bytes of an atomic of R99. -/
theorem accBytes_atomic (verb : p.verb = .atomic) (known : p.op < 4) : accBytes p = remoteSize p.op := by
  simp only [accBytes, verb, if_pos known]

end Access

end Sys2Proof.Machine

/-! The answers of handled packets, and the obligation. -/

namespace Sys2Proof.Machine

section Answers
variable {s t0 s1 s2 s3 : State} {ev : Instr} {p : Packet} {loop : Bool} {n peer i ch con key : Nat} {x : Chunk}

/-- The row's step performs what leads to a state, and sends an answer. -/
def endsWith (ev : Instr) (s : State) (p : Packet) (loop : Bool) (s2 : State) (n : Nat) (u : State) (a : Answer) : Prop :=
  exec ev s = .next (answered loop p (getPdc s2 n).mode n u a)

/-- The stream ID of a chunk's packet. -/
def packetStream (p : Packet) : Nat := if p.verb = .tagged then p.key.toNat / 2 ^ 40 else p.key.toNat

theorem chunkForm_sid {sid size : Nat} (form : chunkForm p con ch sid size) : sid = packetStream p := by
  rcases form with ⟨verb, -, -, rfl, -, -⟩ | ⟨verb, -, rfl, -, -⟩ <;> simp [packetStream, verb]

/-- The chunk that a handled packet brings for RCB i: its fields, and that what R80 does with it is what the step does. -/
structure brings (ev : Instr) (s : State) (p : Packet) (loop : Bool) (s2 : State) (n i ch con : Nat) (x : Chunk) : Prop where
  sid : x.sid = packetStream p
  contrib : x.contrib = con
  index : chunkIndex (getRcb s2 i) x = ch
  data : x.data = p.data
  psn : x.psn = p.hd.psn
  port : x.port = arrivalPort p.hd loop
  ends : ∀ u a, arriveChunk s2 n x = (u, a) → endsWith ev s p loop s2 n u a

theorem exists_brings {sid : Nat} (takes : takesChunk ev p) (h : handledOn s t0 s1 s2 p loop n peer)
    (form : chunkForm p con ch sid (chunkBytes (rcbChsz (getRcb s2 i)))) :
    ∃ x, brings ev s p loop s2 n i ch con x ∧ x.sid = sid := by
  obtain ⟨index, hindex, does⟩ := handling_chunk takes form (arrivalPort p.hd loop) s2 n
  refine ⟨⟨sid, con, index, p.data, p.hd.psn, arrivalPort p.hd loop⟩, ⟨chunkForm_sid form, rfl, hindex, rfl, rfl, rfl, ?_⟩, rfl⟩
  exact fun u a e => exec_handled (.inl takes) h (does.trans e)

/-- A handled packet whose chunk names RCB i. -/
def bringsNamed (ev : Instr) (s : State) (p : Packet) (loop : Bool) (s2 : State) (n i ch con : Nat) : Prop :=
  ∃ x, brings ev s p loop s2 n i ch con x ∧ namesRcb s2 x i

theorem bringsNamed_of {sid : Nat} (takes : takesChunk ev p) (h : handledOn s t0 s1 s2 p loop n peer)
    (form : chunkForm p con ch sid (chunkBytes (rcbChsz (getRcb s2 i)))) (index : sid % 2 ^ 14 = i)
    (gen : sid / 2 ^ 14 % 2 ^ 10 = (getRcb s2 i).gen.toNat) (used : (getRcb s2 i).state ≠ 0) :
    bringsNamed ev s p loop s2 n i ch con := by
  obtain ⟨x, brought, rfl⟩ := exists_brings takes h form
  exact ⟨x, brought, index, used, gen⟩

theorem chunk_stale {sid : Nat} (takes : takesChunk ev p) (h : handledOn s t0 s1 s2 p loop n peer)
    (form : chunkForm p con ch sid (chunkBytes (rcbChsz (getRcb s2 i)))) (index : sid % 2 ^ 14 = i)
    (stale : (getRcb s2 i).state = 0 ∨ sid / 2 ^ 14 % 2 ^ 10 ≠ (getRcb s2 i).gen.toNat) :
    endsWith ev s p loop s2 n s2 (.nack 4 0 0) := by
  obtain ⟨x, brought, rfl⟩ := exists_brings takes h form
  exact brought.ends _ _ (arriveChunk_stale index stale)

theorem chunk_faulted (h : bringsNamed ev s p loop s2 n i ch con) (state : (getRcb s2 i).state = 3) :
    endsWith ev s p loop s2 n s2 (.nack 5 0 0) := by
  obtain ⟨x, brought, names⟩ := h
  exact brought.ends _ _ (arriveChunk_faulted names state)

/-- Receiver-not-ready for RCB i, counted at its home. -/
def parksWith (ev : Instr) (s : State) (p : Packet) (loop : Bool) (s2 : State) (n i : Nat) (u : State) : Prop :=
  endsWith ev s p loop s2 n (countSource u (0xA000 + i / 8192) 1) (.nack 3 0 0)

theorem chunk_exported (h : bringsNamed ev s p loop s2 n i ch con) (state : (getRcb s2 i).state = 4) :
    parksWith ev s p loop s2 n i s2 := by
  obtain ⟨x, brought, names⟩ := h
  exact brought.ends _ _ (arriveChunk_exported names state)

/-- The mode, the contributor, the index and the size of a packet's chunk are those of an RCB. -/
def packetFits (b : Rcb) (mode : Nat) (p : Packet) (ch con : Nat) : Prop :=
  (rcbModes b).testBit mode = true ∧ con < rcbContribs b ∧ ch < b.nchk ∧ p.data.length = chunkBytes (rcbChsz b)

theorem fitsRcb_iff (h : brings ev s p loop s2 n i ch con x) (mode : Nat) :
    fitsRcb (getRcb s2 i) mode x ↔ packetFits (getRcb s2 i) mode p ch con := by
  rw [packetFits, ← h.contrib, ← h.index, ← h.data]
  exact ⟨fun ⟨mode, contrib, index, size⟩ => ⟨mode, contrib, index, size⟩,
    fun ⟨mode, contrib, index, size⟩ => ⟨mode, contrib, index, size⟩⟩

theorem chunk_unfit (h : bringsNamed ev s p loop s2 n i ch con)
    (state : (getRcb s2 i).state = 1 ∨ (getRcb s2 i).state = 2)
    (unfit : ¬ packetFits (getRcb s2 i) (getPdc s2 n).mode.toNat p ch con) :
    endsWith ev s p loop s2 n s2 (.nack 5 0 0) := by
  obtain ⟨x, brought, names⟩ := h
  exact brought.ends _ _ (arriveChunk_unfit names state fun fits => unfit ((fitsRcb_iff brought _).1 fits))

theorem chunk_waits (h : bringsNamed ev s p loop s2 n i ch con)
    (state : (getRcb s2 i).state = 1 ∨ (getRcb s2 i).state = 2)
    (fits : packetFits (getRcb s2 i) (getPdc s2 n).mode.toNat p ch con) (away : rcbReady s2 (getRcb s2 i) = none) :
    parksWith ev s p loop s2 n i (wakeConsumer s2 (getRcb s2 i)) := by
  obtain ⟨x, brought, names⟩ := h
  exact brought.ends _ _ (arriveChunk_waits names state ((fitsRcb_iff brought _).2 fits) away)

/-- A handled packet whose chunk every test of R80 lets through, for a consumer at a slot. -/
structure bringsOpen (ev : Instr) (s : State) (p : Packet) (loop : Bool) (s2 : State) (n i ch con key : Nat) : Prop where
  named : bringsNamed ev s p loop s2 n i ch con
  state : (getRcb s2 i).state = 1 ∨ (getRcb s2 i).state = 2
  fits : packetFits (getRcb s2 i) (getPdc s2 n).mode.toNat p ch con
  ready : rcbReady s2 (getRcb s2 i) = some key

theorem bringsOpen.exists_opens (h : bringsOpen ev s p loop s2 n i ch con key) :
    ∃ x, brings ev s p loop s2 n i ch con x ∧ opens s2 n x i key := by
  obtain ⟨⟨x, brought, names⟩, state, fits, ready⟩ := h
  exact ⟨x, brought, names, state, (fitsRcb_iff brought _).2 fits, ready⟩

theorem chunk_again (h : bringsOpen ev s p loop s2 n i ch con key)
    (bit : tblGet false (getRcb s2 i).bitmap (bitNo (getRcb s2 i) ch con) = true) :
    ∃ u, endsWith ev s p loop s2 n u (.ack none) ∧ u.mem = s2.mem ∧ u.cells = s2.cells
      ∧ getRcb u i = oneMoreDup (getRcb s2 i)
      ∧ ((getVirga s2 (n % 8)).queue.length < 1024 → (getVirga u (n % 8)).queue = (getVirga s2 (n % 8)).queue ++
        [⟨7, false, false, BitVec.ofNat 7 (arrivalPort p.hd loop), BitVec.ofNat 16 n, some (getPdc s2 n).ctx, s2.pkg.gtime,
          p.hd.psn, 1, BitVec.ofNat 64 (packetStream p % 2 ^ 24 + ch * 2 ^ 24 + con * 2 ^ 48)⟩]) := by
  obtain ⟨x, brought, op⟩ := h.exists_opens
  obtain ⟨u, drops, mem, cells, rcb, queue⟩ := dropDuplicate_spec (fedBy s2 n i) n i ch x
  have again := arriveChunk_again op (by rw [chunkBit, brought.index, brought.contrib, bit])
  have ctx : (getPdc (fedBy s2 n i) n).ctx = (getPdc s2 n).ctx := by rw [fedBy, getPdc_modPdc]
  rw [brought.index, drops] at again
  rw [brought.sid, brought.contrib, brought.psn, brought.port, ctx] at queue
  exact ⟨u, brought.ends _ _ again, mem, cells, rcb, queue⟩

/-- A new chunk is claimed and placed, with the PDC noted at its RCB. -/
theorem bringsOpen.claims (h : bringsOpen ev s p loop s2 n i ch con key) (pads : (getRcb s2 i).padLater = false)
    (bit : tblGet false (getRcb s2 i).bitmap (bitNo (getRcb s2 i) ch con) = false) :
    ∃ x : Chunk, x.contrib = con ∧ x.data = p.data
      ∧ ∀ u a, claimChunk (fedBy s2 n i) i key ch x = (u, a) → endsWith ev s p loop s2 n u a := by
  obtain ⟨x, brought, op⟩ := h.exists_opens
  have claims := arriveChunk_claims op pads (by rw [chunkBit, brought.index, brought.contrib, bit])
  rw [brought.index] at claims
  exact ⟨x, brought.contrib, brought.data, fun u a e => brought.ends u a (claims.trans e)⟩

section New
variable (h : bringsOpen ev s p loop s2 n i ch con key) (pads : (getRcb s2 i).padLater = false)
  (bit : tblGet false (getRcb s2 i).bitmap (bitNo (getRcb s2 i) ch con) = false)
include h pads bit

theorem chunk_full (last : lastOfTile (getRcb s2 i) ch con) (full : 8192 ≤ queuedAt s2 (i / 8192)) :
    parksWith ev s p loop s2 n i (fedBy s2 n i) := by
  obtain ⟨x, rfl, -, ends⟩ := h.claims pads bit
  exact ends _ _ (claimChunk_full last full)

variable (room : ¬ lastOfTile (getRcb s2 i) ch con ∨ queuedAt s2 (i / 8192) < 8192)
include room

theorem chunk_faults {t : TrapInfo} (placed : placeChunk (fedBy s2 n i) (getRcb s2 i) key ch (some p.data) = (s3, some t)) :
    endsWith ev s p loop s2 n (faultPlacement s3 i (ch / rcbCpt (getRcb s2 i)) t) (.nack 5 0 0) := by
  obtain ⟨x, rfl, data, ends⟩ := h.claims pads bit
  exact ends _ _ (claimChunk_faults room (data ▸ placed))

variable (placed : placeChunk (fedBy s2 n i) (getRcb s2 i) key ch (some p.data) = (s3, none))
include placed

theorem chunk_claims (others : ¬ othersArrived (getRcb s2 i) ch con) :
    endsWith ev s p loop s2 n (claimed s3 i (bitNo (getRcb s2 i) ch con)) (.ack none) := by
  obtain ⟨x, rfl, data, ends⟩ := h.claims pads bit
  exact ends _ _ (claimChunk_claims room (data ▸ placed) others)

theorem chunk_completes (others : othersArrived (getRcb s2 i) ch con) :
    endsWith ev s p loop s2 n (completeChunk (claimed s3 i (bitNo (getRcb s2 i) ch con)) i ch) (.ack none) := by
  obtain ⟨x, rfl, data, ends⟩ := h.claims pads bit
  exact ends _ _ (claimChunk_completes room (data ▸ placed) others)

theorem chunk_completes_tile {t : Nat} (others : othersArrived (getRcb s2 i) ch con) (tile : t = ch / rcbCpt (getRcb s3 i))
    (full : let u := oneMoreChunk (claimed s3 i (bitNo (getRcb s2 i) ch con)) i t
      tblGet 0 (getRcb u i).counters t = rcbCpt (getRcb u i)) :
    endsWith ev s p loop s2 n
      (finishRcb (completeTile (oneMoreChunk (claimed s3 i (bitNo (getRcb s2 i) ch con)) i t) i t) i) (.ack none) := by
  rw [← completeChunk_tile (by rw [rcbCpt_claimed, tile]) full]
  exact chunk_completes h pads bit room placed others

theorem chunk_completes_partial {t : Nat} (others : othersArrived (getRcb s2 i) ch con)
    (tile : t = ch / rcbCpt (getRcb s3 i))
    (more : let u := oneMoreChunk (claimed s3 i (bitNo (getRcb s2 i) ch con)) i t
      tblGet 0 (getRcb u i).counters t ≠ rcbCpt (getRcb u i)) :
    endsWith ev s p loop s2 n
      (finishRcb (oneMoreChunk (claimed s3 i (bitNo (getRcb s2 i) ch con)) i t) i) (.ack none) := by
  rw [← completeChunk_partial (by rw [rcbCpt_claimed, tile]) more]
  exact chunk_completes h pads bit room placed others

end New

/-! ### Window accesses -/

/-- A handled window access whose key and offset have their form. -/
structure asks (ev : Instr) (s t0 s1 s2 : State) (p : Packet) (loop : Bool) (n peer : Nat) : Prop where
  takes : takesAccess ev p
  handled : handledOn s t0 s1 s2 p loop n peer
  form : accessForm p

theorem exec_access {u : State} {a : Answer} (takes : takesAccess ev p) (h : handledOn s t0 s1 s2 p loop n peer)
    (does : arriveAccess s2 n p (arrivalPort p.hd loop) = (u, a)) : endsWith ev s p loop s2 n u a :=
  exec_handled (.inr takes) h ((handling_access takes _ s2 n).trans does)

/-- An access is refused in a state: its window's count, the record to the owner of the PDC, and the NACK. -/
def refusesWith (ev : Instr) (s : State) (p : Packet) (loop : Bool) (s2 : State) (n : Nat) (u : State) (right : Nat) : Prop :=
  endsWith ev s p loop s2 n (refuseAccess u n p right (arrivalPort p.hd loop)).1 (.nack 5 (accWin p) right)

theorem access_unformed (takes : takesAccess ev p) (h : handledOn s t0 s1 s2 p loop n peer) (bad : ¬ accessForm p) :
    endsWith ev s p loop s2 n s2 (.nack 5 0 0) := exec_access takes h (arriveAccess_unformed bad)

theorem access_refused (h : asks ev s t0 s1 s2 p loop n peer) (bad : ¬ grants s2 n p) :
    refusesWith ev s p loop s2 n s2 (rightCode p) := exec_access h.takes h.handled (arriveAccess_refused h.form bad)

theorem access_unknown (h : asks ev s t0 s1 s2 p loop n peer) (ok : grants s2 n p) (unknown : ¬ knownAccess p) :
    refusesWith ev s p loop s2 n s2 8 := exec_access h.takes h.handled (arriveAccess_unknown h.form ok unknown)

theorem access_unmapped {t : TrapInfo} (h : asks ev s t0 s1 s2 p loop n peer) (ok : grants s2 n p) (known : knownAccess p)
    (run : accessRun s2 p = (s3, .error t)) : refusesWith ev s p loop s2 n s3 (rightCode p) :=
  exec_access h.takes h.handled (arriveAccess_unmapped h.form ok known run)

section Performed
variable {l : List (Nat × BitVec 64)} (h : asks ev s t0 s1 s2 p loop n peer) (ok : grants s2 n p) (known : knownAccess p)
  (run : accessRun s2 p = (s3, .ok l))
include h ok known run

theorem access_performed {u : State} {a : Answer} (does : performWindow s3 p l = (u, a)) : endsWith ev s p loop s2 n u a :=
  exec_access h.takes h.handled ((arriveAccess_performed h.form ok known run).trans does)

theorem access_read (verb : p.verb = .read) (clean : (l.all fun e => physPoisoned s3 e.1 1 == false) = true) :
    endsWith ev s p loop s2 n s3 (.ack (some (BitVec.ofNat 64 (ofBytes (l.map fun e => physByte s3 e.1))))) :=
  access_performed h ok known run (performWindow_read verb clean)

theorem access_write (verb : p.verb = .write) : endsWith ev s p loop s2 n
    (engWrite s3 (winAgent (getWindow s2 (accWin p))) 1 ((winBase (getWindow s2 (accWin p)) + p.off.toNat : Nat) : Int)
      p.data false).1 (.ack none) := by
  rw [← getWindow_accessRun run]
  exact access_performed h ok known run (performWindow_write verb)

theorem access_atomic {pa : Nat} {a : BitVec 64} {rest : List (Nat × BitVec 64)} (verb : p.verb = .atomic)
    (places : l = (pa, a) :: rest) (clean : physPoisoned s3 pa (accBytes p) = false) : endsWith ev s p loop s2 n
    (physWrite s3 pa (toBytes (remoteNew p (physNat s3 pa (accBytes p))) (accBytes p)) false noOwner)
      (.ack (some (BitVec.ofNat 64 (physNat s3 pa (accBytes p))))) := by
  have op := (known verb).1
  rw [accBytes_atomic verb op] at clean ⊢
  exact access_performed h ok known run (places ▸ performWindow_atomic verb op clean)

end Performed

end Answers

/-- Settles O59: what is dropped, the order of packets, the tests of a chunk and of a window access, clause by clause. -/
theorem arrivalResults : Obligations.ArrivalResults := by
  intro s t0 s1 s2 s3 ev p loop n peer i ch con key l t K O stream window q psn hd arrives heard_ handled port ends
  have handledOn_of : handled → handledOn s t0 s1 s2 p loop n peer := fun ⟨⟨arrives, admitted, pdc⟩, whole, order⟩ =>
    ⟨arrives, ⟨admitted, pdc⟩, whole, order⟩
  have judged_of : stream ∨ window → heard_ →
      exec ev s = .next (judged loop p (handling ev p (arrivalPort p.hd loop)) s2 n) := fun takes ⟨arrives, h⟩ => by
    rw [exec_arrival takes arrives, receiveData_heard h]
  refine ⟨?_, ?_, ?_, ?_, ?_, ?_, ?_, ?_, ?_⟩
  · exact fun takes arrives none_ => by rw [exec_arrival takes arrives, receiveData_dropped none_]
  · intro counted dropped up port_ size udp
    have wire : onWire t0 hd p.data.length := ⟨up, port_, size, udp⟩
    refine ⟨fun none_ => ?_, fun intact => ?_, fun known => ?_, fun verb long => ?_, fun k peer_ stale => ?_,
      fun k peer_ epoch intact known mode => ?_⟩
    · exact admitHeader_bad wire fun k e => absurd ((sourcePeer_none none_).symm.trans e) nofun
    · exact admitHeader_bad wire fun _ _ => .inr (.inl intact)
    · exact admitHeader_bad wire fun _ _ => .inl (by simp [hd, known])
    · exact admitHeader_bad wire fun _ _ => .inl (by simp [hd, verb, long])
    · exact admitHeader_bad wire fun k' e => .inr (.inr (Option.some.inj (peer_.symm.trans e) ▸ stale))
    · exact admitHeader_good wire peer_ known mode intact epoch
  · exact fun takes h rod late => by rw [judged_of takes h, judged_again rod late]; rfl
  · exact fun takes h trim new => by rw [judged_of takes h, judged_trimmed new trim]
  · exact fun takes h whole rod early => by rw [judged_of takes h, judged_early rod early whole]
  · intro form b size mine fits open_ tile bit others last room fed claim parked
    have named : mine → bringsNamed ev s p loop s2 n i ch con := fun ⟨takes, h, _, form, index, gen, used⟩ =>
      bringsNamed_of takes (handledOn_of h) form index gen used
    have opened : open_ → bringsOpen ev s p loop s2 n i ch con key := fun ⟨m, state, fits, ready⟩ =>
      ⟨named m, state, fits, ready⟩
    refine ⟨fun takes h verb bad => ?_, fun takes h verb bad => ?_, fun takes h sid form index stale => ?_,
      fun m state => ?_, fun m state => ?_, fun m state unfit => ?_, fun m state fits away => ?_,
      fun o again => ?_, fun o pads new full => ?_, fun o pads new room placed => ?_, fun o pads new room placed => ?_⟩
    · exact exec_handled (.inl takes) (handledOn_of h) (handling_write_refused takes verb bad _ _ _)
    · exact exec_handled (.inl takes) (handledOn_of h) (handling_tagged_refused takes verb bad _ _ _)
    · exact chunk_stale takes (handledOn_of h) form index stale
    · exact chunk_faulted (named m) state
    · exact chunk_exported (named m) state
    · exact chunk_unfit (named m) state unfit
    · exact chunk_waits (named m) state fits away
    · exact chunk_again (opened o) again
    · obtain ⟨last, full⟩ := not_or.1 full
      exact chunk_full (opened o) pads new (not_not.1 last) (Nat.not_lt.1 full)
    · exact chunk_faults (opened o) pads new room placed
    · exact ⟨fun others => chunk_claims (opened o) pads new room placed others, fun others =>
        ⟨chunk_completes_partial (opened o) pads new room placed others rfl,
          chunk_completes_tile (opened o) pads new room placed others rfl⟩⟩
  · exact fun j state => ⟨finishRcb_done state, finishRcb_pending⟩
  · exact getRcb_completeTile_noring
  · intro w field formed own kind granted wide bytes known r1 r2 r3 r4 base run refuses
    have asks_of : formed → asks ev s t0 s1 s2 p loop n peer := fun ⟨takes, h, form⟩ => ⟨takes, handledOn_of h, form⟩
    refine ⟨fun takes h bad => ?_, fun f refused => ?_, fun f ok unknown => ?_, fun f ok known err => ?_,
      fun f ok known ran => ⟨fun verb clean => ?_, fun verb => ?_, fun pa a rest verb places clean => ?_⟩⟩
    · refine access_unformed takes (handledOn_of h) fun ⟨window, zero, short⟩ => ?_
      exact bad.elim (· window) fun bad => bad.elim (· zero) (Nat.not_le.2 short)
    · exact access_refused (asks_of f) refused
    · exact access_unknown (asks_of f) ok unknown
    · exact access_unmapped (asks_of f) ok known err
    · exact access_read (asks_of f) ok known ran verb clean
    · exact access_write (asks_of f) ok known ran verb
    · exact access_atomic (asks_of f) ok known ran verb places clean

end Sys2Proof.Machine

/-! ### PROOFS. Integer forms (O7)

What each integer operation computes on words, then what each of its instructions writes. -/

namespace Sys2Proof.Machine

/-! ### A form with a source register, or with two -/

theorem writesScalar_rr {i : Instr} {s : State} {d a : BitVec 6} {f : BitVec 64 → BitVec 64} {v : BitVec 64}
    (he : exec i s = .next (issueOne i (opRR d a f) s)) (hv : f (sv s a) = v) : writesScalar i s d v :=
  writesScalar_of he rfl hv

theorem writesScalar_rrr {i : Instr} {s : State} {d a b : BitVec 6} {f : BitVec 64 → BitVec 64 → BitVec 64} {v : BitVec 64}
    (he : exec i s = .next (issueOne i (opRRR d a b f) s)) (hv : f (sv s a) (sv s b) = v) : writesScalar i s d v :=
  writesScalar_of he rfl hv

/-! ### Sums, products and shifts as numbers (R11, R292 to R294) -/

theorem word_sub (x y : BitVec 64) : x - y = BitVec.ofInt 64 (x.toNat - y.toNat) := by
  rw [Int.sub_eq_add_neg, BitVec.ofInt_add, BitVec.ofInt_neg, BitVec.sub_eq_add_neg]
  simp

theorem word_mul (x y : BitVec 64) : x * y = BitVec.ofNat 64 (x.toNat * y.toNat) := by
  rw [BitVec.ofNat_mul]
  simp

theorem word_shiftLeft (x : BitVec 64) (n : Nat) : x <<< n = BitVec.ofNat 64 (x.toNat * 2 ^ n) := by
  apply BitVec.eq_of_toNat_eq
  rw [BitVec.toNat_shiftLeft, Nat.shiftLeft_eq, BitVec.toNat_ofNat]

theorem word_shiftRight (x : BitVec 64) (n : Nat) : x >>> n = BitVec.ofNat 64 (x.toNat / 2 ^ n) := by
  rw [← Nat.shiftRight_eq_div_pow, ← BitVec.toNat_ushiftRight, BitVec.ofNat_toNat, BitVec.setWidth_eq]

theorem word_sshiftRight (x : BitVec 64) (n : Nat) : x.sshiftRight n = BitVec.ofInt 64 (x.toInt / 2 ^ n) := by
  rw [BitVec.sshiftRight, Int.shiftRight_eq_div_pow]
  rfl

theorem word_add_signExtend {w : Nat} (x : BitVec 64) (imm : BitVec w) :
    x + imm.signExtend 64 = BitVec.ofInt 64 (x.toNat + imm.toInt) := by
  rw [BitVec.ofInt_add]
  simp [BitVec.signExtend]

theorem word_shiftIn (x : BitVec 64) (imm : BitVec 16) :
    x <<< 16 + imm.setWidth 64 = BitVec.ofNat 64 (x.toNat * 65536 + imm.toNat) := by
  rw [word_shiftLeft, BitVec.ofNat_add, BitVec.ofNat_toNat, show 2 ^ 16 = 65536 from rfl]

/-! ### Products, quotients and remainders (R224, R292) -/

theorem mulHigh_unsigned (x y : BitVec 64) : mulHigh false x y = BitVec.ofNat 64 (x.toNat * y.toNat / 2 ^ 64) := by
  rw [← BitVec.ofInt_natCast]
  simp [mulHigh, wordInt]

theorem wordInt_eq_zero (signed : Bool) (y : BitVec 64) : wordInt signed y = 0 ↔ y = 0 := by
  cases signed
  · simp [wordInt, ← BitVec.toNat_inj]
  · simp [wordInt, ← BitVec.toInt_inj]

theorem divWord_signed (x y : BitVec 64) : divWord true x y = BitVec.ofInt 64
    (if y = 0 then if 0 ≤ x.toInt then 2 ^ 63 - 1 else -2 ^ 63 else x.toInt.tdiv y.toInt) := by
  simp only [divWord, divInt, wordInt_eq_zero]
  split
  · simp only [← Int.not_lt, ite_not]
    rfl
  · rfl

theorem divWord_unsigned (x y : BitVec 64) :
    divWord false x y = if y = 0 then BitVec.allOnes 64 else BitVec.ofNat 64 (x.toNat / y.toNat) := by
  simp only [divWord, divInt, wordInt_eq_zero]
  split
  · rfl
  · rw [← BitVec.ofInt_natCast, Int.ofNat_tdiv]
    rfl

theorem remWord_signed (x y : BitVec 64) :
    remWord true x y = if y = 0 then x else BitVec.ofInt 64 (x.toInt.tmod y.toInt) := by
  simp only [remWord, remInt, wordInt_eq_zero]
  split
  · exact BitVec.ofInt_toInt
  · rfl

theorem remWord_unsigned (x y : BitVec 64) :
    remWord false x y = if y = 0 then x else BitVec.ofNat 64 (x.toNat % y.toNat) := by
  simp only [remWord, remInt, wordInt_eq_zero]
  split
  · simp [wordInt]
  · rw [← BitVec.ofInt_natCast, Int.ofNat_tmod]
    rfl

/-! ### The smaller, the greater, and saturation (R223, R292) -/

theorem wordInt_injective {signed : Bool} {x y : BitVec 64} (h : wordInt signed x = wordInt signed y) : x = y := by
  cases signed
  · exact BitVec.eq_of_toNat_eq (Int.ofNat_inj.1 h)
  · exact BitVec.eq_of_toInt_eq h

/-- Words are picked by their values; between equal values the pick does not matter. -/
theorem pickWord_eq (signed greater : Bool) (x y : BitVec 64) :
    pickWord signed greater x y = if decide (wordInt signed x ≤ wordInt signed y) = greater then y else x := by
  have by_lt : pickWord signed greater x y = if decide (wordInt signed x < wordInt signed y) = greater then y else x := by
    cases signed <;> simp [pickWord, wordInt, BitVec.slt_eq_decide, BitVec.ult_eq_decide]
  by_cases he : x = y
  · rw [by_lt, he, ite_self, ite_self]
  · have : wordInt signed x ≠ wordInt signed y := fun h => he (wordInt_injective h)
    simp only [by_lt, Int.lt_iff_le_and_ne, this, ne_eq, not_false_eq_true, and_true]

theorem pickWord_smaller (signed : Bool) (x y : BitVec 64) :
    pickWord signed false x y = if wordInt signed x ≤ wordInt signed y then x else y := by
  rw [pickWord_eq, ← ite_not]
  simp

theorem pickWord_greater (signed : Bool) (x y : BitVec 64) :
    pickWord signed true x y = if wordInt signed x ≤ wordInt signed y then y else x := by
  simp only [pickWord_eq, decide_eq_true_eq]

theorem wordInt_unsigned_le (x y : BitVec 64) : wordInt false x ≤ wordInt false y ↔ x.toNat ≤ y.toNat := Int.ofNat_le

theorem satInt_eq_max_min {signed : Bool} {w : Nat} (v : Int) (h : intMin signed w ≤ intMax signed w) :
    satInt signed w v = max (intMin signed w) (min (intMax signed w) v) := by
  unfold satInt
  omega

theorem satWord_eq (signed : Bool) (v : Int) :
    satWord signed v = BitVec.ofInt 64 (max (intMin signed 64) (min (intMax signed 64) v)) :=
  congrArg _ (satInt_eq_max_min v (by cases signed <;> decide))

/-- Settles O7: the function of each instruction is the arithmetic that its rule writes. -/
theorem integerFormResults : Obligations.IntegerFormResults := by
  constructor
  · intro s g d a b x y sat
    exact ⟨writesScalar_rrr rfl (BitVec.add_def x y),
      writesScalar_rrr rfl (word_sub x y),
      writesScalar_rrr rfl (word_mul x y),
      writesScalar_rrr rfl rfl,
      writesScalar_rrr rfl (mulHigh_unsigned x y),
      writesScalar_rrr rfl (divWord_signed x y),
      writesScalar_rrr rfl (divWord_unsigned x y),
      writesScalar_rrr rfl (remWord_signed x y),
      writesScalar_rrr rfl (remWord_unsigned x y),
      writesScalar_rrr rfl rfl,
      writesScalar_rrr rfl rfl,
      writesScalar_rrr rfl rfl,
      writesScalar_rrr rfl (word_shiftLeft x _),
      writesScalar_rrr rfl (word_sshiftRight x _),
      writesScalar_rrr rfl (word_shiftRight x _),
      writesScalar_rrr rfl (pickWord_smaller true x y),
      writesScalar_rrr rfl (by simp only [pickWord_smaller, wordInt_unsigned_le, x, y]),
      writesScalar_rrr rfl (pickWord_greater true x y),
      writesScalar_rrr rfl (by simp only [pickWord_greater, wordInt_unsigned_le, x, y]),
      writesScalar_rrr rfl (satWord_eq true _),
      writesScalar_rrr rfl (satWord_eq false _),
      writesScalar_rrr rfl (satWord_eq true _),
      writesScalar_rrr rfl (satWord_eq false _)⟩
  · intro s g d a n imm long half x
    exact ⟨writesScalar_rr rfl (word_add_signExtend x imm),
      writesScalar_rr rfl rfl,
      writesScalar_rr rfl rfl,
      writesScalar_rr rfl rfl,
      writesScalar_rr rfl (word_shiftLeft x _),
      writesScalar_rr rfl (word_sshiftRight x _),
      writesScalar_rr rfl (word_shiftRight x _),
      writesScalar_of rfl rfl rfl,
      writesScalar_rr rfl (word_shiftIn _ half)⟩

end Sys2Proof.Machine

/-! ### PROOFS. Compares, the condition queue and predicate logic (O9) -/

namespace Sys2Proof.Machine

/-! ### What a compare and its pair come to (R275, R296) -/

/-- The condition of a code on two words, in plain order relations. -/
def condHolds (cond : Nat) (x y : BitVec 64) : Bool :=
  match cond with
  | 0 => decide (x = y)
  | 1 => decide (x ≠ y)
  | 2 => decide (x.toInt < y.toInt)
  | 3 => decide (y.toInt ≤ x.toInt)
  | 4 => decide (x.toNat < y.toNat)
  | _ => decide (y.toNat ≤ x.toNat)

theorem icmp_eq_condHolds {cond : Nat} (h : cond ≤ 5) (x y : BitVec 64) : icmp cond x y = condHolds cond x y := by
  match cond, h with
  | 0, _ => rfl
  | 1, _ => exact (decide_not (p := x = y)).symm
  | 2, _ => exact BitVec.slt_eq_decide
  | 3, _ => simp only [icmp, condHolds, BitVec.slt_eq_decide, ← decide_not, Int.not_lt]
  | 4, _ => exact BitVec.ult_eq_decide
  | 5, _ => simp only [icmp, condHolds, BitVec.ult_eq_decide, ← decide_not, Nat.not_lt]

theorem wrPair_eq (c : Cell) (pair : BitVec 3) (v : Bool) :
    wrPair c pair v =
      if pair = 0 then wrP c 1 (!v) else wrP (wrP c (2 * pair.toNat) v) (2 * pair.toNat + 1) (!v) := by
  split
  · next h => rw [h]; rfl
  · rfl

/-! ### A group of one push (R276) -/

theorem cqOver_push (c : Cell) (n k : Nat) (b : Bool) : cqOver c [(n, opPush k b)] = decide (16 ≤ c.cq.length) := by
  have : (16 < c.cq.length + 1) = (16 ≤ c.cq.length) := by rw [Nat.lt_succ_iff]
  simp [cqOver, tagCount, outTag, opPush, this]

theorem settleGroup_push (s : State) (n k : Nat) (b : Bool) :
    settleGroup s [(n, opPush k b)] = if 16 ≤ (self s).cq.length then s else commitGroup s [(n, opPush k b)] := by
  have settled : settleGroup s [(n, opPush k b)] =
      if cqOver (self s) [(n, opPush k b)] then s else commitGroup s [(n, opPush k b)] := rfl
  simp only [settled, cqOver_push, decide_eq_true_eq]

theorem commitGroup_push (s : State) (n : Nat) (b : Bool) :
    commitGroup s [(n, opPush s.iss.key b)] = commitCell s (pushCq b) := by
  simp [commitGroup, opPush, groupEffs, runPhase, commitCell, commitEff]

theorem changesCell_push {i : Instr} {s : State} {op : Op} {b : Bool} (he : exec i s = .next (issueOne i op s))
    (ho : op s [] = opPush s.iss.key b) (room : (self s).cq.length < 16) : changesCell i s (pushCq b) := by
  intro h
  rw [he, issueOne_ready op h, ho, settleGroup_push, if_neg (Nat.not_le.2 room), commitGroup_push]

theorem exec_push_full {i : Instr} {s : State} {op : Op} {b : Bool} (he : exec i s = .next (issueOne i op s))
    (ho : op s [] = opPush s.iss.key b) (full : 16 ≤ (self s).cq.length) (h : ready i s = true) :
    exec i s = .next s := by
  rw [he, issueOne_ready op h, ho, settleGroup_push, if_pos full]

/-- Settles O9: the pair and the queue take `icmp` of the operands, which is the condition of the code; a push is the one
operation whose commit depends on the room in the queue. -/
theorem compareAndPredicateResults : Obligations.CompareAndPredicateResults := by
  intro s g cond pair a b imm p q r holds writes code
  have holds_eq : ∀ x y, icmp cond.toNat x y = holds x y := icmp_eq_condHolds code
  refine ⟨?_, ?_, ?_, ?_, ?_, ?_, ?_, ?_, ?_⟩
  · rw [← holds_eq]
    exact changesCell_of rfl rfl (wrPair_eq _ pair _)
  · rw [← holds_eq]
    exact changesCell_of rfl rfl (wrPair_eq _ pair _)
  · intro room
    rw [← holds_eq]
    exact changesCell_push rfl rfl room
  · exact exec_push_full rfl rfl
  · exact changesCell_of rfl rfl rfl
  · exact changesCell_of rfl rfl rfl
  · exact changesCell_of rfl rfl rfl
  · exact changesCell_of rfl rfl rfl
  · exact changesCell_one rfl rfl (by decide) (by decide) rfl

end Sys2Proof.Machine

/-! ### PROOFS. Branches, calls and loops (O11) -/

namespace Sys2Proof.Machine

/-! ### The checks of a target (R283, R302, R303) -/

theorem opJump_inside {target : BitVec 64} (h : target.toNat < 2 ^ 52) (k : Nat) (tag : Tag)
    (effs : List (Nat × (State → State))) : opJump k tag target effs = ⟨id, .done tag (effs ++ [jumpEff k target])⟩ :=
  if_neg (Nat.not_le.2 h)

theorem opJump_outside {target : BitVec 64} (h : 2 ^ 52 ≤ target.toNat) (k : Nat) (tag : Tag)
    (effs : List (Nat × (State → State))) : opJump k tag target effs = opTrap (targetTrap target) := if_pos h

theorem opRegTarget_unaligned {target : BitVec 64} (h : target.toNat % 4 ≠ 0) (go : OpOut) :
    opRegTarget target go = opTrap (cellTrap causeAlign target 4) := if_pos h

theorem opRegTarget_outside {target : BitVec 64} (ha : target.toNat % 4 = 0) (h : 2 ^ 52 ≤ target.toNat) (go : OpOut) :
    opRegTarget target go = opTrap (targetTrap target) := (if_neg (not_not.2 ha)).trans (if_pos h)

theorem opRegTarget_inside {target : BitVec 64} (ha : target.toNat % 4 = 0) (h : target.toNat < 2 ^ 52) (go : OpOut) :
    opRegTarget target go = go := (if_neg (not_not.2 ha)).trans (if_neg (Nat.not_le.2 h))

theorem opCallTo_fetched {s : State} (h : s.iss.nextFault = none) (target : BitVec 64) :
    opCallTo s target = opJump s.iss.key .plain target [linkEff s.iss.key s.iss.next] := by
  simp only [opCallTo, h]

theorem opCallTo_fault {s : State} {t : TrapInfo} (h : s.iss.nextFault = some t) (target : BitVec 64) :
    opCallTo s target = opTrap t := by
  simp only [opCallTo, h]

/-! ### Loops and queue branches (R302, R304) -/

/-- The next value of a loop counter (R304). -/
def countedDown (v : BitVec 64) : BitVec 64 := if 1 < v.toNat then v - 1 else 0

theorem countedDown_again {v : BitVec 64} (h : 1 < v.toNat) : countedDown v = BitVec.ofNat 64 (v.toNat - 1) := by
  rw [countedDown, if_pos h]
  apply BitVec.eq_of_toNat_eq
  have one_le : 1 ≤ v := BitVec.le_def.2 (Nat.le_of_lt h)
  rw [BitVec.toNat_sub_of_le one_le, BitVec.toNat_ofNat, Nat.mod_eq_of_lt (by omega)]
  rfl

theorem countedDown_last {v : BitVec 64} (h : v.toNat ≤ 1) : countedDown v = 0 := if_neg (Nat.not_lt.2 h)

theorem opLoop_again {s : State} {n : BitVec 2} (h : 1 < (rdLc (self s) n).toNat) (off : BitVec 24) :
    opLoop n off s [] = opJump s.iss.key .plain (wordTarget s.iss.addr off.toInt)
      [(1, fun st => modCell st s.iss.key fun c => wrLc c n (countedDown (rdLc (self s) n)))] := if_pos h

theorem opLoop_last {s : State} {n : BitVec 2} (h : (rdLc (self s) n).toNat ≤ 1) (off : BitVec 24) :
    opLoop n off s [] =
      ⟨id, .done .plain [(1, fun st => modCell st s.iss.key fun c => wrLc c n (countedDown (rdLc (self s) n)))]⟩ :=
  if_neg (Nat.not_lt.2 h)

/-- A queue branch that is taken looks at its target. -/
theorem opQueueBranch_outside {s : State} {want : Bool} {r : List Bool} {off : BitVec 26} (h : (self s).cq = want :: r)
    (out : 2 ^ 52 ≤ (wordTarget s.iss.addr off.toInt).toNat) :
    opQueueBranch off want s [] = opTrap (targetTrap (wordTarget s.iss.addr off.toInt)) := by
  simp only [opQueueBranch, h, if_true, opJump_outside out]

/-! ### What a taken branch does -/

/-- Going on at a target. -/
def jumpTo (target : BitVec 64) (c : Cell) : Cell := { c with pc := target, branched := true }

theorem changesCell_jump {i : Instr} {s : State} {op : Op} {target : BitVec 64} (inside : target.toNat < 2 ^ 52)
    (he : exec i s = .next (issueOne i op s)) (ho : op s [] = opJump s.iss.key .plain target []) :
    changesCell i s (jumpTo target) :=
  changesCell_one he (ho.trans (opJump_inside inside _ _ _)) (by decide) (by decide) rfl

/-- A write of the cell and a branch. -/
theorem changesCell_write_jump {i : Instr} {s : State} {op : Op} {target : BitVec 64} {f : Cell → Cell}
    (inside : target.toNat < 2 ^ 52) (he : exec i s = .next (issueOne i op s))
    (ho : op s [] = opJump s.iss.key .plain target [(1, fun st => modCell st s.iss.key f)]) :
    changesCell i s fun c => jumpTo target (f c) :=
  changesCell_two he (ho.trans (opJump_inside inside _ _ _)) (by decide) (.inr (.inl ⟨rfl, rfl⟩)) rfl

/-- Settles O11: a target that passes the checks is gone to, and one that does not is trapped on. -/
theorem branchAndLoopResults : Obligations.BranchAndLoopResults := by
  constructor
  · intro s g off a n loff jump near nearLoop x v
    refine ⟨fun inside => ?_, fun inside fetched => ?_, fun inside aligned => ?_, fun inside aligned fetched => ?_,
      fun again inside => ?_, fun last => ?_, ?_⟩
    · exact changesCell_jump inside rfl rfl
    · exact changesCell_write_jump inside rfl (opCallTo_fetched fetched near)
    · exact changesCell_jump inside rfl (opRegTarget_inside aligned inside _)
    · exact changesCell_write_jump inside rfl
        ((opRegTarget_inside aligned inside _).trans (opCallTo_fetched fetched x))
    · rw [← countedDown_again again]
      exact changesCell_write_jump inside rfl (opLoop_again again loff)
    · rw [← countedDown_last last]
      exact changesCell_one rfl (opLoop_last last loff) (by decide) (by decide) rfl
    · exact changesCell_of rfl rfl rfl
  · intro s g off a n loff near nearLoop x
    refine ⟨fun out => ?_, fun out fetched => ?_, fun low => ?_, fun low => ?_, fun aligned out => ?_,
      fun aligned out => ?_, fun again out => ?_, fun r head out => ?_, fun r head out => ?_, fun t fault => ?_,
      fun t fault aligned inside => ?_⟩
    · exact raisesTrap_of rfl (opJump_outside out _ _ _)
    · exact raisesTrap_of rfl ((opCallTo_fetched fetched near).trans (opJump_outside out _ _ _))
    · exact raisesTrap_of rfl (opRegTarget_unaligned low _)
    · exact raisesTrap_of rfl (opRegTarget_unaligned low _)
    · exact raisesTrap_of rfl (opRegTarget_outside aligned out _)
    · exact raisesTrap_of rfl (opRegTarget_outside aligned out _)
    · exact raisesTrap_of rfl ((opLoop_again again loff).trans (opJump_outside out _ _ _))
    · exact raisesTrap_of rfl (opQueueBranch_outside head out)
    · exact raisesTrap_of rfl (opQueueBranch_outside head out)
    · exact raisesTrap_of rfl (opCallTo_fault fault near)
    · exact raisesTrap_of rfl ((opRegTarget_inside aligned inside _).trans (opCallTo_fault fault x))

end Sys2Proof.Machine

/-! ### PROOFS. Arithmetic and system registers of a Virga core (O44)

The core that runs and its general registers, then what an instruction that completes writes. -/

namespace Sys2Proof.Machine

/-! ### The core that runs (R392) -/

@[simp] theorem vself_vmod (s : State) (f : Virga → Virga) : vself (vmod s f) = f (vself s) := getVirga_modVirga s _ f

theorem vmod_vmod (s : State) (f g : Virga → Virga) : vmod (vmod s f) g = vmod s fun v => g (f v) := by
  simp only [vmod, modVirga, getVirga, tblGet_set_self, tblSet_set]

/-- What a change of the core makes of the core as it stands is all that matters of it. -/
theorem vmod_congr {s : State} {f g : Virga → Virga} (h : f (vself s) = g (vself s)) : vmod s f = vmod s g :=
  congrArg (fun v => { s with virga := tblSet virgaEmpty s.virga s.iss.virga v }) h

/-! ### General registers (R395) -/

theorem vput_keeps (v : Virga) (d : BitVec 5) (x : BitVec 64) : { vput v d x with g := v.g } = v := by
  unfold vput
  split <;> rfl

@[simp] theorem vput_pc (v : Virga) (d : BitVec 5) (x : BitVec 64) : (vput v d x).pc = v.pc := by
  unfold vput
  split <;> rfl

@[simp] theorem vreg_zero (v : Virga) : vreg v 0 = 0 := rfl

theorem vreg_vput (v : Virga) (d q : BitVec 5) (x : BitVec 64) :
    vreg (vput v d x) q = if q = 0 then 0 else if q = d then x else vreg v q := by
  by_cases hq : q = 0
  · rw [if_pos hq, hq, vreg_zero]
  · rw [if_neg hq]
    by_cases hd : d = 0
    · rw [vput, if_pos hd, if_neg (hd ▸ hq)]
    · simp only [vput, vreg, if_neg hd, if_neg hq, tblGet_set, BitVec.toNat_inj]

/-! ### An instruction that completes -/

/-- The instruction completes: the core is changed, and the next word follows. -/
def completes (i : Instr) (s : State) (f : Virga → Virga) : Prop :=
  exec i s = .next (vmod s fun u => { f u with pc := (vself s).pc + 4, run := .run })

/-- A completion that reads pc from the core that it has changed. -/
theorem completes_of {i : Instr} {s t : State} {f : Virga → Virga} (he : exec i s = .next t)
    (ht : t = vmod s fun v => vnext (f v)) (pc : (f (vself s)).pc = (vself s).pc) : completes i s f := by
  rw [completes, he, ht]
  refine congrArg _ (vmod_congr ?_)
  rw [vnext, pc]

/-- A result goes to gd. -/
theorem completes_write {i : Instr} {s : State} {d : BitVec 5} {x w : BitVec 64} (he : exec i s = .next (vwrite s d x))
    (hx : x = w) : completes i s fun u => vput u d w :=
  completes_of he (hx ▸ rfl) (vput_pc _ d w)

/-! ### Results as numbers (R401) -/

theorem word_sshiftRight_fdiv (x : BitVec 64) (n : Nat) :
    x.sshiftRight n = BitVec.ofInt 64 (Int.fdiv x.toInt (2 ^ n)) := by
  rw [word_sshiftRight, Int.fdiv_eq_ediv_of_nonneg _ (by positivity)]

theorem virgaSltValue_eq (x y : BitVec 64) : virgaSltValue x y = if x.toInt < y.toInt then 1 else 0 := by
  simp only [virgaSltValue, BitVec.slt_eq_decide, decide_eq_true_eq]

theorem virgaSltuValue_eq (x y : BitVec 64) : virgaSltuValue x y = if x.toNat < y.toNat then 1 else 0 := by
  simp only [virgaSltuValue, BitVec.ult_eq_decide, decide_eq_true_eq]

theorem virgaSltValue_signExtend (x : BitVec 64) (i : BitVec 16) :
    virgaSltValue x (i.signExtend 64) = if x.toInt < i.toInt then 1 else 0 := by
  rw [virgaSltValue_eq, BitVec.toInt_signExtend_of_le (by decide)]

theorem shiftAmount_immediate (h : BitVec 6) : (h.setWidth 64).toNat % 64 = h.toNat := by
  rw [BitVec.toNat_setWidth_of_le (by decide)]
  exact Nat.mod_eq_of_lt h.isLt

theorem lisValue_eq (x : BitVec 64) (i : BitVec 16) :
    x * 65536 + i.setWidth 64 = BitVec.ofNat 64 (x.toNat * 65536 + i.toNat) := by
  rw [word_mul, BitVec.ofNat_add, BitVec.ofNat_toNat]
  rfl

/-- A shift immediate above 63 has a reserved bit set (R399). -/
theorem decodeVirga_wideShift {w : BitVec 32} (op : w.extractLsb' 26 6 ∈ [0x10#6, 0x11, 0x12])
    (wide : w.extractLsb' 6 10 ≠ 0) : decodeVirga w = .error .reservedField := by
  have reserved : ¬ ((virgaFieldsOf w).t = 0 ∧ (virgaFieldsOf w).f.extractLsb' 6 5 = 0) := by
    rintro ⟨high, low⟩
    have joined : w.extractLsb' 6 10 = w.extractLsb' 11 5 ++ (w.extractLsb' 0 11).extractLsb' 6 5 := by
      rw [BitVec.extractLsb'_extractLsb'_of_le (by decide)]
      exact (BitVec.extractLsb'_append_extractLsb'_eq_extractLsb' (start₁ := 6) (len₁ := 5) (len₂ := 5) rfl).symm
    exact wide (joined.trans (congrArg₂ (· ++ ·) high low))
  have raw : decodeVirgaRaw (virgaFieldsOf w) = .error .reservedField := by
    have op' : (virgaFieldsOf w).op ∈ [0x10#6, 0x11, 0x12] := op
    simp only [List.mem_cons, List.not_mem_nil, or_false] at op'
    rcases op' with h | h | h
    all_goals
      rw [decodeVirgaRaw, h]
      exact if_neg reserved
  rw [decodeVirga, raw]

/-! ### System registers (R396, R397) -/

theorem completes_mfv {s : State} {d : BitVec 5} {n : BitVec 12} {x w : BitVec 64}
    (register : vsys s s.iss.virga n = some x) (hx : x = w) : completes (.virgaMfv d n) s fun u => vput u d w :=
  completes_write (show execVirgaMfv d n s = _ by rw [execVirgaMfv, register]) hx

theorem exec_virgaMtv {s : State} {n : BitVec 12} {x : BitVec 64} (r : BitVec 5)
    (register : vsys s s.iss.virga n = some x) :
    exec (.virgaMtv r n) s = .next (vdone (vsysWrite s n (vreg (vself s) r))) :=
  show execVirgaMtv r n s = _ by rw [execVirgaMtv, register]

/-- A register with writable fields of the core's own. -/
theorem completes_mtv {s : State} {r : BitVec 5} {n : BitVec 12} {x : BitVec 64} {f : Virga → Virga}
    (register : vsys s s.iss.virga n = some x) (writes : vsysWrite s n (vreg (vself s) r) = vmod s f)
    (pc : (f (vself s)).pc = (vself s).pc) : completes (.virgaMtv r n) s f :=
  completes_of (exec_virgaMtv r register) (by rw [writes, vdone, vmod_vmod]) pc

/-- A register without writable fields. -/
theorem completes_mtv_readOnly {s : State} {r : BitVec 5} {n : BitVec 12} {x : BitVec 64}
    (register : vsys s s.iss.virga n = some x) (writes : vsysWrite s n (vreg (vself s) r) = s) :
    completes (.virgaMtv r n) s id :=
  completes_of (exec_virgaMtv r register) (by rw [writes]; rfl) rfl

/-- The numbers of the system registers. -/
def vsysNumbers : List (BitVec 12) :=
  [0x000#12, 0x001, 0x002, 0x003, 0x004, 0x005, 0x006, 0x007, 0x008, 0x00C, 0x00D, 0x010, 0x011, 0x012, 0x013]

theorem vsys_none {n : BitVec 12} (s : State) (k : Nat) (h : n ∉ vsysNumbers) : vsys s k n = none := by
  have listed : n.toNat ∈ vsysNumbers.map BitVec.toNat → n ∈ vsysNumbers := fun hm => by
    obtain ⟨m, mem, e⟩ := List.mem_map.1 hm
    exact BitVec.eq_of_toNat_eq e ▸ mem
  unfold vsys
  dsimp only
  split
  case h_16 => rfl
  all_goals
    next e => exact absurd (listed (by rw [e]; decide)) h

/-- A number that is no register raises ILLOP. -/
theorem exec_noRegister {s : State} {n : BitVec 12} (d r : BitVec 5) (h : n ∉ vsysNumbers) :
    exec (.virgaMfv d n) s = .next (vfault s vIllop 0) ∧ exec (.virgaMtv r n) s = .next (vfault s vIllop 0) :=
  have absent : vsys s s.iss.virga n = none := vsys_none s _ h
  ⟨show execVirgaMfv d n s = _ by rw [execVirgaMfv, absent], show execVirgaMtv r n s = _ by rw [execVirgaMtv, absent]⟩

/-! ### The registers of time (R36, R397) -/

theorem clampRate_eq (x : BitVec 32) : clampRate x = BitVec.ofInt 32 (max (-2147483) (min 2147483 x.toInt)) := by
  unfold clampRate
  split
  · rw [max_eq_left (by omega)]
  · split
    · rw [min_eq_left (by omega)]
      rfl
    · rw [min_eq_right (by omega), max_eq_right (by omega), BitVec.ofInt_toInt]

theorem vself_writeGtrate (s : State) (x : BitVec 64) : vself (writeGtrate s x) = vself s := by
  unfold writeGtrate
  split <;> rfl

theorem vself_writeGtstep (s : State) (x : BitVec 64) : vself (writeGtstep s x) = vself s := by
  unfold writeGtstep
  split <;> rfl

/-- A write of a register of the package on core 0 completes and leaves the package as the write has left it. -/
theorem exec_mtv_package {s t : State} {n : BitVec 12} {r : BitVec 5} {x : BitVec 64}
    (register : vsys s s.iss.virga n = some x) (writes : vsysWrite s n (vreg (vself s) r) = t) (same : vself t = vself s) :
    ∃ u, exec (.virgaMtv r n) s = .next u ∧ (vself u).pc = (vself s).pc + 4 ∧ u.pkg = t.pkg :=
  ⟨_, exec_virgaMtv r register, by rw [writes, vdone, vself_vmod, same]; rfl, by rw [writes]; rfl⟩

/-- Settles O44: the value of each form is the arithmetic that R401 writes, and each system register reads and takes what R396
and R397 say. -/
theorem virgaComputeResults : Obligations.VirgaComputeResults := by
  intro s d r t i h n v x y gives sets own
  have writes : ∀ {ins : Instr} {z w : BitVec 64}, exec ins s = .next (vwrite s d z) → z = w → gives ins w :=
    completes_write
  have reads : ∀ {num : BitVec 12} {z w : BitVec 64}, vsys s own num = some z → z = w → gives (.virgaMfv d num) w :=
    completes_mfv
  refine ⟨fun u w q => ⟨vreg_vput u d q w, vput_keeps u d w⟩,
    writes rfl rfl,
    writes rfl (word_sub x y),
    writes rfl (word_mul x y),
    writes rfl rfl,
    writes rfl rfl,
    writes rfl rfl,
    writes rfl (word_shiftLeft x _),
    writes rfl (word_shiftRight x _),
    writes rfl (word_sshiftRight_fdiv x _),
    writes rfl (virgaSltValue_eq x y),
    writes rfl (virgaSltuValue_eq x y),
    writes rfl (word_add_signExtend x i),
    writes rfl (virgaSltValue_signExtend x i),
    writes rfl (congrArg (x &&& ·) (BitVec.ofNat_toNat 64 i).symm),
    writes rfl (congrArg (x ||| ·) (BitVec.ofNat_toNat 64 i).symm),
    writes rfl (congrArg (x ^^^ ·) (BitVec.ofNat_toNat 64 i).symm),
    writes rfl ((word_shiftLeft x _).trans (by rw [shiftAmount_immediate])),
    writes rfl ((word_shiftRight x _).trans (by rw [shiftAmount_immediate])),
    writes rfl ((word_sshiftRight_fdiv x _).trans (by rw [shiftAmount_immediate])),
    writes rfl (lisValue_eq _ i),
    completes_of (f := id) rfl rfl rfl,
    fun w => decodeVirga_wideShift,
    rfl,
    reads rfl rfl, reads rfl rfl, reads rfl rfl, reads rfl rfl, reads rfl rfl, reads rfl rfl, reads rfl rfl, reads rfl rfl,
    reads rfl rfl,
    reads rfl (BitVec.setWidth_eq_extractLsb' (by decide)),
    reads rfl rfl,
    reads rfl (BitVec.ofNat_toNat 64 _).symm,
    reads rfl rfl,
    reads rfl (by rw [BitVec.ofNat_toNat]),
    completes_mtv rfl rfl rfl, completes_mtv rfl rfl rfl, completes_mtv rfl rfl rfl, completes_mtv rfl rfl rfl,
    ?_, ?_, ?_, ?_, ?_⟩
  · intro num readOnly
    simp only [List.mem_cons, List.not_mem_nil, or_false] at readOnly
    rcases readOnly with rfl | rfl | rfl | rfl | rfl | rfl | rfl | rfl | rfl
    all_goals exact completes_mtv_readOnly rfl rfl
  · exact fun other => ⟨completes_mtv_readOnly rfl (if_neg other), completes_mtv_readOnly rfl (if_neg other)⟩
  · intro zero
    obtain ⟨u, he, pc, pkg⟩ := exec_mtv_package (r := r) (n := 0x010) rfl (if_pos zero) (vself_writeGtrate s x)
    refine ⟨u, he, pc, fun follows => ?_, fun dark => ?_⟩
    · rw [pkg, writeGtrate, if_neg follows, clampRate_eq]
    · rw [pkg, writeGtrate, if_pos dark]
  · intro zero
    obtain ⟨u, he, pc, pkg⟩ := exec_mtv_package (r := r) (n := 0x013) rfl (if_pos zero) (vself_writeGtstep s x)
    refine ⟨u, he, pc, fun ignored => ?_, fun first positive => ?_⟩
    · rw [pkg, writeGtstep, if_pos ignored]
    · rw [pkg, writeGtstep, if_neg (not_or.2 ⟨Bool.eq_false_iff.1 first, Int.not_le.2 positive⟩)]
  · exact exec_noRegister d r

end Sys2Proof.Machine

/-! ### PROOFS. Loads, stores, branches and faults of a Virga core (O45)

What DMEM holds after a store, where a branch goes, and that a posted event leaves the core that runs alone. -/

namespace Sys2Proof.Machine

/-! ### Bytes of DMEM (R393, R402) -/

/-- Another key of a table reads as before, whatever the default of the entry written. -/
theorem tblGet_set_other {α : Type} [DecidableEq α] {d d' : α} {i j : Nat} (t : Tbl α) (x : α) (h : j ≠ i) :
    tblGet d (tblSet d' t i x) j = tblGet d t j := by
  unfold tblSet
  split
  · rw [tblGet_erase, if_neg h]
  · rw [tblGet_insert d _ i j x (tblMisses_erase t i), if_neg h, tblGet_erase, if_neg h]

theorem setDmem_keeps (n : Nat) (bs : List Byte) (v : Virga) (off : Nat) :
    { setDmem v n off bs with dmem := v.dmem } = v := by
  induction bs generalizing v off with
  | nil => rfl
  | cons b bs ih =>
    exact congrArg (fun u : Virga => { u with dmem := v.dmem })
      (ih { v with dmem := tblSet (dmemImage v n off) v.dmem off b } (off + 1))

theorem setDmem_pc (v : Virga) (n off : Nat) (bs : List Byte) : (setDmem v n off bs).pc = v.pc :=
  (congrArg Virga.pc (setDmem_keeps n bs v off) :)

theorem dmemByte_set (v : Virga) (n off j : Nat) (b : Byte) :
    dmemByte { v with dmem := tblSet (dmemImage v n off) v.dmem off b } n j = if j = off then b else dmemByte v n j := by
  split
  · next h => exact h ▸ tblGet_set_self _ _ _ _
  · next h => exact tblGet_set_other _ _ h

/-- The bytes that a store writes read back, and every other byte reads as before. -/
theorem dmemByte_setDmem (n : Nat) (bs : List Byte) (v : Virga) (off j : Nat) :
    dmemByte (setDmem v n off bs) n j =
      if off ≤ j ∧ j < off + bs.length then bs.getD (j - off) 0 else dmemByte v n j := by
  induction bs generalizing v off with
  | nil => rw [if_neg fun h => Nat.not_lt.2 h.1 h.2, setDmem]
  | cons b bs ih =>
    rw [setDmem, ih, dmemByte_set, List.length_cons]
    by_cases first : j = off
    · rw [if_neg (by omega), if_pos first, if_pos (by omega), first, Nat.sub_self, List.getD_cons_zero]
    · rw [if_neg first]
      by_cases later : off + 1 ≤ j ∧ j < off + 1 + bs.length
      · rw [if_pos later, if_pos (by omega), show j - off = j - (off + 1) + 1 by omega, List.getD_cons_succ]
      · rw [if_neg later, if_neg (by omega)]

@[simp] theorem length_toBytes (x n : Nat) : (toBytes x n).length = n := by
  induction n generalizing x with
  | zero => rfl
  | succ n ih => rw [toBytes, List.length_cons, ih]

theorem getD_toBytes (n x k : Nat) (h : k < n) : (toBytes x n).getD k 0 = BitVec.ofNat 8 (x / 256 ^ k) := by
  induction n generalizing x k with
  | zero => omega
  | succ n ih =>
    cases k with
    | zero => rw [toBytes, List.getD_cons_zero, Nat.pow_zero, Nat.div_one]
    | succ k => rw [toBytes, List.getD_cons_succ, ih _ _ (by omega), Nat.div_div_eq_div_mul, Nat.pow_succ']

theorem getD_toBytes_word (x : BitVec 64) {n k : Nat} (h : k < n) :
    (toBytes x.toNat n).getD k 0 = x.extractLsb' (8 * k) 8 := by
  rw [getD_toBytes n _ k h, BitVec.extractLsb', Nat.shiftRight_eq_div_pow, Nat.pow_mul]

/-- A store of a word's low bytes completes, writes each of them, and changes nothing else. -/
theorem store_effect (v : Virga) (n a size : Nat) (x : BitVec 64) :
    let u := vnext (setDmem v n a (toBytes x.toNat size))
    { u with dmem := v.dmem, pc := v.pc, run := v.run } = v ∧ u.pc = v.pc + 4 ∧ u.run = .run
      ∧ (∀ k, k < size → dmemByte u n (a + k) = x.extractLsb' (8 * k) 8)
      ∧ ∀ b, b < a ∨ a + size ≤ b → dmemByte u n b = dmemByte v n b := by
  have reads : ∀ j, dmemByte (vnext (setDmem v n a (toBytes x.toNat size))) n j = if a ≤ j ∧ j < a + size then
      (toBytes x.toNat size).getD (j - a) 0 else dmemByte v n j := fun j => by
    have written := dmemByte_setDmem n (toBytes x.toNat size) v a j
    rwa [length_toBytes] at written
  refine ⟨?_, congrArg (· + 4) (setDmem_pc v n a _), rfl, fun k inside => ?_, fun b outside => ?_⟩
  · exact congrArg (fun u : Virga => { u with pc := v.pc, run := v.run }) (setDmem_keeps n _ v a)
  · rw [reads, if_pos (by omega), Nat.add_sub_cancel_left, getD_toBytes_word x inside]
  · rw [reads, if_neg (by omega)]

theorem ofBytes_dmemBytes_add (v : Virga) (n k j off : Nat) :
    ofBytes (dmemBytes v n off (j + k)) =
      ofBytes (dmemBytes v n off j) + 256 ^ j * ofBytes (dmemBytes v n (off + j) k) := by
  induction j generalizing off with
  | zero => simp [dmemBytes, ofBytes]
  | succ j ih =>
    rw [Nat.succ_add, dmemBytes, ofBytes, ih, dmemBytes, ofBytes, Nat.pow_succ', show off + 1 + j = off + (j + 1) by omega]
    ring

theorem ofBytes_dmemBytes_four (v : Virga) (n off : Nat) :
    ofBytes (dmemBytes v n off 4) = (dmemByte v n off).toNat + 256 * (dmemByte v n (off + 1)).toNat
      + 65536 * (dmemByte v n (off + 2)).toNat + 16777216 * (dmemByte v n (off + 3)).toNat := by
  simp only [dmemBytes, ofBytes, Nat.add_assoc, Nat.reduceAdd]
  omega

/-! ### The address of a load or a store (R402) -/

section Address
variable {s : State} {r : BitVec 5} {i : BitVec 16} {size a : Nat} {f : Nat → State}
  (address : (vreg (vself s) r + i.signExtend 64).toNat = a)
include address

theorem vaddr_unaligned (h : a % size ≠ 0) : vaddr s r i size f = vfault s vAlign (BitVec.ofNat 64 a) := by
  rw [vaddr, address, if_pos h, ← address, BitVec.ofNat_toNat, BitVec.setWidth_eq]

theorem vaddr_outside (aligned : a % size = 0) (h : dmemTop < a + size) :
    vaddr s r i size f = vfault s vBound (BitVec.ofNat 64 a) := by
  rw [vaddr, address, if_neg (not_not.2 aligned), if_pos h, ← address, BitVec.ofNat_toNat, BitVec.setWidth_eq]

theorem vaddr_inside (aligned : a % size = 0) (h : a + size ≤ dmemTop) : vaddr s r i size f = f a := by
  rw [vaddr, address, if_neg (not_not.2 aligned), if_neg (Nat.not_lt.2 h)]

end Address

/-! ### Targets (R398, R403) -/

theorem vjump_inside {s : State} {target : BitVec 64} (f : Virga → Virga) (h : target.toNat < imemTop) :
    vjump s target f = vmod s fun v => { f v with pc := target.toNat, run := .run } := if_neg (Nat.not_le.2 h)

theorem vjump_outside {s : State} {target : BitVec 64} (f : Virga → Virga) (h : imemTop ≤ target.toNat) :
    vjump s target f = vfault s vBound target := if_pos h

theorem vjump_inside_int {s : State} {z : Int} (f : Virga → Virga) (h : 0 ≤ z ∧ z < 0x20000) :
    vjump s (BitVec.ofInt 64 z) f = vmod s fun v => { f v with pc := z.toNat, run := .run } := by
  have same : (BitVec.ofInt 64 z).toNat = z.toNat := by
    rw [BitVec.toNat_ofInt]
    omega
  rw [vjump_inside f (by rw [same, imemTop]; omega), same]

/-- A target beyond either end of IMEM that 64 bits tell from one inside. -/
theorem vjump_outside_int {s : State} {z : Int} (f : Virga → Virga) (small : z < 2 ^ 63)
    (h : 0 ≤ z ∧ 0x20000 ≤ z ∨ -(2 ^ 63) ≤ z ∧ z < 0) :
    vjump s (BitVec.ofInt 64 z) f = vfault s vBound (BitVec.ofInt 64 z) := by
  refine vjump_outside f ?_
  rw [BitVec.toNat_ofInt, imemTop]
  omega

/-- An offset of at most 26 bits from an address in IMEM stays far below 2^63. -/
theorem target_small {w : Nat} {pc : Nat} (o : BitVec w) (hw : w ≤ 26) (low : pc < 0x20000) :
    (pc : Int) + 4 * o.toInt < 2 ^ 63 := by
  have bound : 2 * o.toInt < 2 ^ w := BitVec.two_mul_toInt_lt
  have wide : (2 : Int) ^ w ≤ 2 ^ 26 := pow_le_pow_right₀ (by decide) hw
  omega

/-! ### What a posted event leaves alone: the core that runs -/

theorem foldl_keeps {α β : Type} (g : State → α) (f : State → β → State) (hf : ∀ s b, g (f s b) = g s) (l : List β)
    (s : State) : g (l.foldl f s) = g s := by
  induction l generalizing s with
  | nil => rfl
  | cons b l ih => exact (ih _).trans (hf s b)

theorem foldIndex_keeps {α : Type} (g : State → α) (f : State → Nat → State) (hf : ∀ s i, g (f s i) = g s) (n i : Nat)
    (s : State) : g (foldIndex f s i n) = g s := by
  induction n generalizing s i with
  | zero => rfl
  | succ n ih => exact (ih _ _).trans (hf s i)

@[simp] theorem vself_memWrite (bs : List Byte) (s : State) (pa : Nat) : vself (memWrite s pa bs) = vself s := by
  induction bs generalizing s pa with
  | nil => rfl
  | cons b bs ih => exact ih _ _

@[simp] theorem vself_drainLine (s : State) (die line : Nat) : vself (drainLine s die line) = vself s := by
  unfold drainLine
  split <;> rfl

@[simp] theorem vself_drainRange (s : State) (pa n : Nat) : vself (drainRange s pa n) = vself s :=
  foldIndex_keeps vself _ (fun s _ => vself_drainLine s _ _) _ _ s

@[simp] theorem vself_testWakes (s : State) (pa n : Nat) : vself (testWakes s pa n) = vself s :=
  foldl_keeps vself _ (fun t e => by split <;> rfl) _ s

@[simp] theorem vself_deviceWrite (s : State) (pa : Nat) (bs : List Byte) : vself (deviceWrite s pa bs) = vself s := by
  have healed : vself (healWords s pa bs.length) = vself s := rfl
  unfold deviceWrite physWrite
  split
  · rfl
  · dsimp only
    rw [vself_testWakes]
    split <;> simp [healed]

@[simp] theorem vself_writeRecord (s : State) (bs : List Byte) : vself (writeRecord s bs) = vself s := by
  unfold writeRecord signalMsix
  dsimp only
  split <;> exact vself_deviceWrite s _ _

@[simp] theorem vself_postHost (s : State) (e : HostEvent) : vself (postHost s e) = vself s := by
  unfold postHost
  dsimp only
  split
  · rfl
  · split
    · exact vself_writeRecord s _
    · split <;> rfl

/-! ### Taking a fault (R404, R405) -/

theorem vfault_stops {s : State} (cause : BitVec 8) (val : BitVec 64)
    (h : (vself s).vtvec.getLsbD 0 = false ∨ (vself s).vcause.getLsbD 8 = true) :
    vfault s cause val = vstop s s.iss.virga cause :=
  if_pos (by simpa using h)

theorem vfault_vectors {s : State} (cause : BitVec 8) (val : BitVec 64) (valid : (vself s).vtvec.getLsbD 0 = true)
    (idle : (vself s).vcause.getLsbD 8 = false) : vfault s cause val = vmod s fun v => vvectored v cause val := by
  have takes : (!(vself s).vtvec.getLsbD 0 || (vself s).vcause.getLsbD 8) = false := by rw [valid, idle]; rfl
  rw [vfault, takes]
  exact if_neg Bool.false_ne_true

/-- VCAUSE of a fault: BUSY and the cause. -/
theorem busyCause_eq (cause : BitVec 8) : 0x100#64 ||| cause.setWidth 64 = BitVec.ofNat 64 (0x100 + cause.toNat) := by
  have disjoint : 2 ^ 8 * 1 + cause.toNat = 2 ^ 8 * 1 ||| cause.toNat := Nat.two_pow_add_eq_or_of_lt cause.isLt 1
  rw [show 0x100 + cause.toNat = 0x100 ||| cause.toNat from disjoint, BitVec.ofNat_or, BitVec.ofNat_toNat]

/-- Bits 16 to 2 of VTVEC, in place. -/
theorem vectorAddress_eq (x : BitVec 64) : (x &&& 0x1FFFC#64).toNat = x.toNat / 4 % 0x8000 * 4 := by
  have mask : (0x1FFFC : Nat) = (2 ^ 15 - 1) * 2 ^ 2 := by decide
  rw [BitVec.toNat_and, show (0x1FFFC#64).toNat = 0x1FFFC from rfl, mask,
    show x.toNat / 4 % 0x8000 * 4 = x.toNat / 2 ^ 2 % 2 ^ 15 * 2 ^ 2 from rfl]
  refine Nat.eq_of_testBit_eq fun j => ?_
  rw [Nat.testBit_and, Nat.testBit_mul_two_pow, Nat.testBit_mul_two_pow, Nat.testBit_two_pow_sub_one,
    Nat.testBit_mod_two_pow, Nat.testBit_div_two_pow]
  by_cases h : 2 ≤ j
  · rw [Nat.sub_add_cancel h, Bool.and_comm, Bool.and_assoc]
  · simp [h]

/-- Settles O45: an access by what its address passes, a branch by its condition and its target, a fault by VTVEC and BUSY. -/
theorem virgaMemoryBranchAndFaultResults : Obligations.VirgaMemoryBranchAndFaultResults := by
  intro s d r t i o cause val n v x y a byte word high goes loads stores faults near far inside outside branch
  have address : (vreg (vself s) r + i.signExtend 64).toNat = a := BitVec.toNat_add _ _
  have loaded : ∀ {ins : Instr} {z w : Nat}, exec ins s = .next (vwrite s d (BitVec.ofNat 64 z)) → z = w → loads ins w :=
    fun he hz => completes_write he (congrArg _ hz)
  have stored : ∀ {ins : Instr} {size : Nat}, exec ins s =
      .next (vmod s fun u => vnext (setDmem u n a (toBytes (vreg u d).toNat size))) → stores ins size :=
    fun he => ⟨_, he.trans (congrArg _ (vmod_congr rfl)), store_effect v n a _ _⟩
  have branches : ∀ {ins : Instr} {take : Bool} {met : Prop}, exec ins s = .next (vbranch s take i) →
      (take = true ↔ met) → branch ins met := by
    intro ins take met he taken
    refine ⟨fun no => ?_, fun yes inside => ?_, fun yes outside low => ?_⟩
    · rw [Bool.eq_false_iff.2 (mt taken.1 no)] at he
      exact he
    · rw [taken.2 yes] at he
      exact he.trans (congrArg _ (vjump_inside_int id inside))
    · rw [taken.2 yes] at he
      exact he.trans (congrArg _ (vjump_outside_int id (target_small i (by decide) low) outside))
  have word_eq : ofBytes (dmemBytes v n a 4) = word := ofBytes_dmemBytes_four v n a
  have wide_eq : ofBytes (dmemBytes v n a 8) = word + 2 ^ 32 * high := by
    rw [ofBytes_dmemBytes_add v n 4 4, word_eq, ofBytes_dmemBytes_four]
    rfl
  refine ⟨fun aligned fits => ?_, fun aligned fits => ?_, fun low => ?_, fun low => ?_, fun aligned out => ?_,
    fun aligned out => ?_, ?_, ?_, ?_, ?_, ?_, ?_, fun inside => ?_, fun outside low => ?_, fun aligned inside => ?_,
    fun aligned out => ?_, fun low => ?_, fun inside => ?_, fun out => ?_, rfl, fun valid idle low => ?_, fun h => ?_⟩
  · exact ⟨loaded (congrArg _ (vaddr_inside address aligned fits)) wide_eq,
      stored (congrArg _ (vaddr_inside address aligned fits))⟩
  · exact ⟨loaded (congrArg _ (vaddr_inside address aligned fits)) word_eq,
      stored (congrArg _ (vaddr_inside address aligned fits))⟩
  · exact ⟨congrArg _ (vaddr_unaligned address low), congrArg _ (vaddr_unaligned address low)⟩
  · exact ⟨congrArg _ (vaddr_unaligned address low), congrArg _ (vaddr_unaligned address low)⟩
  · exact ⟨congrArg _ (vaddr_outside address aligned out), congrArg _ (vaddr_outside address aligned out)⟩
  · exact ⟨congrArg _ (vaddr_outside address aligned out), congrArg _ (vaddr_outside address aligned out)⟩
  · exact branches rfl beq_iff_eq
  · exact branches rfl bne_iff_ne
  · exact branches rfl (by rw [virgaBltTaken, BitVec.slt_eq_decide, decide_eq_true_eq])
  · exact branches rfl (by rw [virgaBgeTaken, BitVec.slt_eq_decide, ← decide_not, decide_eq_true_eq, Int.not_lt])
  · exact branches rfl (by rw [virgaBltuTaken, BitVec.ult_eq_decide, decide_eq_true_eq])
  · exact branches rfl (by rw [virgaBgeuTaken, BitVec.ult_eq_decide, ← decide_not, decide_eq_true_eq, Nat.not_lt])
  · exact ⟨congrArg _ (vjump_inside_int id inside), congrArg _ ((vjump_inside_int _ inside).trans (vmod_congr rfl))⟩
  · have small := target_small o (by decide) low
    exact ⟨congrArg _ (vjump_outside_int id small outside), congrArg _ (vjump_outside_int _ small outside)⟩
  · exact congrArg _ ((if_neg (not_not.2 aligned)).trans (vjump_inside id inside))
  · exact congrArg _ ((if_neg (not_not.2 aligned)).trans (vjump_outside id out))
  · exact congrArg _ (if_pos low)
  · exact congrArg _ (vjump_inside _ inside)
  · exact congrArg _ (vjump_outside _ out)
  · rw [vfault_vectors cause val valid idle]
    refine vmod_congr ?_
    rw [vvectored, Nat.mod_eq_of_lt low, busyCause_eq, vectorAddress_eq]
  · rw [vfault_stops cause val h]
    exact ⟨(vself_postHost _ _).trans (vself_vmod s _), rfl⟩

end Sys2Proof.Machine
